-- ==== Sys2Proof/Word.lean ====
section
/-! DEFINITION. The machine's word types. -/

namespace Sys2Proof

/-- A 64-bit register or memory word (R11, R216). -/
abbrev Word := BitVec 64

/-- One byte of memory (R11). -/
abbrev Byte := BitVec 8

/-- One vector register, and one row of an accumulator tile: 8192 bits (R238, R275). -/
abbrev VReg := BitVec 8192

/-- One mask register: a bit per element, 1024 bits (R238, R203). -/
abbrev MReg := BitVec 1024

end Sys2Proof
end

