-- ==== Sys2Proof/Config.lean ====
section
/-! DEFINITION. What the manual leaves open, as constants without a body: nothing in Lean can
prove a value of one, so a statement holds for every value. Each is applied to the operands it
depends on, or to `State.fresh`, a plain counter that the step reads and advances (log entry 3). -/

namespace Sys2Proof.Config

/-- Cycles that pass while one instruction issues (timing, R123, R134 to R136): what CYCLE gains. -/
opaque cycleTick : Nat → Word

/-- Cycles a RETRY lasts, for the counter RETRYC (R318, R408). -/
opaque retryCycles : Nat → Word

/-- Cycles the Lantern waited on poison, for the counter PWAIT (R142, R408). -/
opaque lanternWait : Nat → Word

/-- Cycles in which a hart lent lanes to its sibling, or used lanes it was lent, while one of its vector
instructions issued, for LENT and BORROW (R139, R408). -/
opaque lentLanes : Nat → Word

/-- Invalidation replays one SHOOT causes at a hart, for REPLAY (R101, R408). -/
opaque replays : Nat → Word

/-- What a Lantern read returns: it may be stale (R140). -/
opaque lanternRead : Nat → Word

/-- What a Lamplighter reads from a register that it has not (R56, R216). -/
opaque lampRegister : Nat → Word

/-- A fresh challenge nonce of Sconce (R52). -/
opaque nonce : Nat → BitVec 512

/-- Whether an ML-DSA-65 signature verifies under a public key over a message (R396). The
signature scheme is not defined in the manual. -/
opaque signatureValid : List Byte → List Byte → List Byte → Bool

/-- The SHAKE256 digest of a message (R396), 64 bytes. The hash is not defined in the manual. -/
opaque shake256 : List Byte → List Byte

/-- The owner public keys that are written on entry into Provisioned (R396). -/
opaque ownerKeys : Nat → List (List Byte)

/-- The Isdekor debug key (R397). -/
opaque isdekorDebugKey : List Byte

/-- An ML-DSA-65 signature by the device identity key (R398), 3309 bytes. -/
opaque deviceSignature : List Byte → List Byte

/-- The device serial number, 16 bytes of the attestation report (R398). -/
opaque serialNumber : Nat → Byte

/-- Whether an element above the point where a vector load stopped holds the value it read (R229), or
an element above the point where a `.u` store stopped has performed (R271). -/
opaque ranAhead : Nat → Nat → Bool

/-- What EVAL holds at a trap for which the manual states no value. -/
opaque openEval : Nat → Word

/-- Bytes that a poisoned read over a failed link returns (R97). -/
opaque lostByte : Nat → Nat → Byte

/-- An order in which a copy engine moves rows (R303). -/
opaque rowOrder : Nat → List Nat

/-- An order in which the elements of a VAMO or of a `.u` store perform where some reach one address
(R333, R271). -/
opaque elementOrder : Nat → List Nat

/-- The bytes that a master reads at offsets of BAR0 whose contents the manual does not give. -/
opaque identityWord : Nat → Word

/-- Whether a translation that a core pair or an engine has held since its last use is still held for a
page (R99): sizes and replacement are not architectural. -/
opaque keeps : Nat → Nat → Bool

/-- A firmware image (R394): the 256-byte header's fields, the header bytes under the signature, and
the payload. -/
structure Firmware where
  magic : Word
  svn : Nat
  length : Nat
  hash : List Byte
  signature : List Byte
  header : List Byte
  payload : List Byte
  deriving DecidableEq, Repr, Inhabited

/-- The four images of the device (R394): its own, the Lamplighter's, the Beacon controller's and the
HBM base die's. -/
opaque firmware : Nat → Firmware

/-- The Isdekor firmware key, and its SHAKE256 hash as fused in Sconce (R394). -/
opaque firmwareKey : List Byte
opaque fusedKeyHash : List Byte

/-- The fused rollback counter (R394). -/
opaque rollbackCounter : Nat

/-- What a link comes up as (R45): whether at 64 GT/s, which of the widths that its lanes allow, and where its
two HDM decoders lie. -/
opaque linkFast : Nat → Bool
opaque linkWidth : Nat → Nat
opaque hdmBase : Nat → Nat → Word

/-- Which of the features of the table of R45 the device's DVSEC capabilities advertise, of those it supports. -/
opaque advertised : Nat → Bool

/-- The CXL IDE keys that Sconce sets as a link trains (R45). -/
opaque ideKey : Nat → List Byte

end Sys2Proof.Config
end

