-- ==== Sys2Proof/Syntax.lean ====
section
/-! DEFINITION. The instructions of the opcode map (R119) and the events of the device, one
constructor of `Instr` for each row of spec/opcode_table.json. Operand fields are read once, by
the decoder; a shape holds exactly the operands its entry gives a meaning to. -/

namespace Sys2Proof

/-- TYPE codes of R114, in code order. -/
inductive Ty where
  | i64 | i32 | i16 | i8 | n64 | n32 | n16 | n8
  | f64 | f32 | f16 | bf16 | e4m3 | e5m2 | i4 | n4
  deriving DecidableEq, Repr

/-- Rounding codes of R115: five modes and DYN, which takes the mode from FCSR. -/
inductive Rm where
  | rne | rtz | rup | rdn | rmm | dyn
  deriving DecidableEq, Repr

/-- Scopes of R115 and R309. -/
inductive Scope where
  | core | gang | device | system
  deriving DecidableEq, Repr

/-- Atomic operations of R116. -/
inductive Aop where
  | add | and | or | xor | min | max | swap | cas
  deriving DecidableEq, Repr

/-- Atomic types of R116. -/
inductive AType where
  | i32 | i64 | n32 | n64 | f32
  deriving DecidableEq, Repr

/-- Fence kinds of R315 and R329. -/
inductive FenceKind where
  | ss | sv | vs | vv | all
  deriving DecidableEq, Repr

/-- Conditions of PCMP and VCMP (R202, R254): the FN of the two. -/
inductive Cond where
  | eq | ne | lt | ge | un
  deriving DecidableEq, Repr

/-- Slice steering H[44:43] (R112, R27). -/
inductive Steer where
  | auto | lantern | trailing
  deriving DecidableEq, Repr

/-- The fields every encoded instruction carries: the guard G (R110), the reuse distance RD, the
steering and the yield hint (R112). -/
structure Ctl where
  neg : Bool := false
  pred : BitVec 3 := 0
  rd : BitVec 3 := 0
  steer : Steer := .auto
  yld : Bool := false
  deriving DecidableEq, Repr

abbrev SIdx := BitVec 6
abbrev VIdx := BitVec 6
abbrev MIdx := BitVec 4
abbrev PIdx := BitVec 3
abbrev QIdx := BitVec 4
abbrev EIdx := BitVec 2
abbrev ZIdx := BitVec 5
abbrev BarIdx := BitVec 6

/-- A scalar register or the immediate (R107, R109). -/
inductive SSrc where
  | reg (s : SIdx)
  | imm (v : BitVec 32)
  deriving DecidableEq, Repr

/-- The three forms of operand B of the element-wise instructions (R241). -/
inductive VSrc where
  | vec (v : VIdx)
  | reg (s : SIdx)
  | imm (v : BitVec 32)
  deriving DecidableEq, Repr

/-- The mask field M (R111): no mask, or mask `m` with zeroing or merging. -/
inductive Mask where
  | none
  | on (zeroing : Bool) (m : MIdx)
  deriving DecidableEq, Repr

/-- What SYSRD and SYSWR name (R211): a register number, or an offset of the privileged window. -/
inductive SysTarget where
  | reg (n : BitVec 12)
  | window (offset : BitVec 20)
  deriving DecidableEq, Repr

/-! Shapes: the operands of one or more instructions. -/

structure ScalarBin where (ty : Ty) (sat : Bool) (d a : SIdx) (b : SSrc)
  deriving DecidableEq, Repr
structure ScalarUn where (ty : Ty) (d a : SIdx)
  deriving DecidableEq, Repr
/-- EXT (R193): `len1` is LEN − 1. -/
structure ExtForm where (ty : Ty) (d a : SIdx) (lo len1 : BitVec 6)
  deriving DecidableEq, Repr
structure MoviForm where (ty : Ty) (d : SIdx) (imm : BitVec 32)
  deriving DecidableEq, Repr
structure MovhiForm where (d a : SIdx) (imm : BitVec 32)
  deriving DecidableEq, Repr
structure AddpcForm where (d : SIdx) (imm : BitVec 32)
  deriving DecidableEq, Repr
structure LoadForm where (ty : Ty) (scope : Scope) (d a : SIdx) (off : BitVec 32)
  deriving DecidableEq, Repr
structure StoreForm where (ty : Ty) (scope : Scope) (a b : SIdx) (off : BitVec 32)
  deriving DecidableEq, Repr
structure FloatBin where (ty : Ty) (rm : Rm) (d a : SIdx) (b : SSrc)
  deriving DecidableEq, Repr
structure FloatUn where (ty : Ty) (rm : Rm) (d a : SIdx)
  deriving DecidableEq, Repr
structure ConvertForm where (ty : Ty) (rm : Rm) (src : Ty) (d a : SIdx)
  deriving DecidableEq, Repr
structure BrForm where (off : BitVec 32)
  deriving DecidableEq, Repr
structure BriForm where (a : SIdx) (off : BitVec 32)
  deriving DecidableEq, Repr
structure CallForm where (d : SIdx) (off : BitVec 32)
  deriving DecidableEq, Repr
structure CalliForm where (d a : SIdx) (off : BitVec 32)
  deriving DecidableEq, Repr
/-- LSETUP (R206): `loop1` is the FN, 0 for lc0 and 1 for lc1. -/
structure LsetupForm where (loop1 : Bool) (a : SIdx) (off : BitVec 32)
  deriving DecidableEq, Repr
structure SysrdForm where (d : SIdx) (target : SysTarget)
  deriving DecidableEq, Repr
structure SyswrForm where (a : SIdx) (target : SysTarget)
  deriving DecidableEq, Repr
structure YieldForm where (cycles : BitVec 10)
  deriving DecidableEq, Repr
structure TrapForm where (code : BitVec 16)
  deriving DecidableEq, Repr
structure PcmpForm where (cond : Cond) (ty : Ty) (d : PIdx) (a : SIdx) (b : SSrc)
  deriving DecidableEq, Repr
structure PredBin where (d a b : PIdx)
  deriving DecidableEq, Repr
structure PredUn where (d a : PIdx)
  deriving DecidableEq, Repr
structure MaskBin where (d a b : MIdx)
  deriving DecidableEq, Repr
structure MaskUn where (d a : MIdx)
  deriving DecidableEq, Repr
structure MaskRead where (d : SIdx) (a : MIdx)
  deriving DecidableEq, Repr
structure SetForm where (d : SIdx) (b : SSrc)
  deriving DecidableEq, Repr
structure VecBin where (ty : Ty) (sat : Bool) (d a : VIdx) (b : VSrc) (mask : Mask)
  deriving DecidableEq, Repr
structure VecNarrow where (ty : Ty) (sat : Bool) (rm : Rm) (d a : VIdx) (b : VSrc) (mask : Mask)
  deriving DecidableEq, Repr
structure VecFloatBin where (ty : Ty) (rm : Rm) (d a : VIdx) (b : VSrc) (mask : Mask)
  deriving DecidableEq, Repr
structure VecFloatUn where (ty : Ty) (rm : Rm) (d a : VIdx) (mask : Mask)
  deriving DecidableEq, Repr
structure VecConvert where (ty : Ty) (rm : Rm) (src : Ty) (d a : VIdx) (mask : Mask)
  deriving DecidableEq, Repr
structure VecUn where (ty : Ty) (d a : VIdx) (mask : Mask)
  deriving DecidableEq, Repr
structure VcmpForm where (cond : Cond) (ty : Ty) (d : MIdx) (a : VIdx) (b : VSrc) (mask : Mask)
  deriving DecidableEq, Repr
/-- VMERGE (R255): the mask is always enabled and merging. -/
structure VmergeForm where (ty : Ty) (d a b : VIdx) (m : MIdx)
  deriving DecidableEq, Repr
structure VsplatForm where (ty : Ty) (d : VIdx) (b : SSrc) (mask : Mask)
  deriving DecidableEq, Repr
structure VextForm where (ty : Ty) (d : SIdx) (a : VIdx) (b : SSrc)
  deriving DecidableEq, Repr
structure VinsForm where (ty : Ty) (d : VIdx) (a : SIdx) (b : SSrc)
  deriving DecidableEq, Repr
structure VmrankForm where (ty : Ty) (d : VIdx) (a : MIdx) (mask : Mask)
  deriving DecidableEq, Repr
structure VidForm where (ty : Ty) (d : VIdx) (mask : Mask)
  deriving DecidableEq, Repr
structure VshufForm where (ty : Ty) (d a b : VIdx) (mask : Mask)
  deriving DecidableEq, Repr
structure VslideForm where (ty : Ty) (d a : VIdx) (b : SSrc) (mask : Mask)
  deriving DecidableEq, Repr
/-- VCOMPRESS (R259): the selector mask, merging. -/
structure VcompressForm where (ty : Ty) (d a : VIdx) (m : MIdx)
  deriving DecidableEq, Repr
structure VexpandForm where (ty : Ty) (d a : VIdx) (zeroing : Bool) (m : MIdx)
  deriving DecidableEq, Repr
structure VecReduce where (ty : Ty) (d : SIdx) (a : VIdx) (b : SSrc) (mask : Mask)
  deriving DecidableEq, Repr
structure VecFloatReduce where (ty : Ty) (rm : Rm) (d : SIdx) (a : VIdx) (b : SSrc) (mask : Mask)
  deriving DecidableEq, Repr
/-- VDEFER (R262): `n1` is n − 1. -/
structure VdeferForm where (ty : Ty) (d : SIdx) (a : VIdx) (b : SIdx) (n1 : BitVec 2) (path : BitVec 4) (mask : Mask)
  deriving DecidableEq, Repr
structure VdrainForm where (ty : Ty) (d a : VIdx) (n1 : BitVec 2) (path : BitVec 4)
  deriving DecidableEq, Repr
/-- VDCOUNT (R264): `path` is 0 to 15, or 16 for all paths. -/
structure VdcountForm where (d : SIdx) (path : BitVec 5)
  deriving DecidableEq, Repr
structure QsetForm where (ty : Ty) (q : QIdx) (a b : SIdx)
  deriving DecidableEq, Repr
/-- QSET.seg (R266): `b` 0 means packed; `f` is 2 to 8. -/
structure QsetSegForm where (ty : Ty) (q : QIdx) (a b : SIdx) (f : BitVec 4)
  deriving DecidableEq, Repr
structure QsetIndForm where (ty : Ty) (q : QIdx) (a : SIdx) (b : QIdx)
  deriving DecidableEq, Repr
structure VloadForm where (ty : Ty) (d : VIdx) (q : QIdx) (mask : Mask)
  deriving DecidableEq, Repr
structure VstoreForm where (ty : Ty) (u : Bool) (q : QIdx) (b : VIdx) (mask : Mask)
  deriving DecidableEq, Repr
structure MopaForm where (ty : Ty) (rm : Rm) (sat half : Bool) (d : ZIdx) (a b : VIdx) (mask : Mask)
  deriving DecidableEq, Repr
structure MstageForm where (q : QIdx) (b : SSrc)
  deriving DecidableEq, Repr
structure MstreamForm where (rm : Rm) (d : ZIdx) (a : VIdx) (b : SIdx) (c : BitVec 2) (mask : Mask)
  deriving DecidableEq, Repr
structure ZreadForm where (ty : Ty) (d : VIdx) (z : ZIdx) (b : SSrc) (mask : Mask)
  deriving DecidableEq, Repr
structure ZwriteForm where (ty : Ty) (z : ZIdx) (a : VIdx) (b : SSrc) (mask : Mask)
  deriving DecidableEq, Repr
structure ZzeroForm where (z : ZIdx)
  deriving DecidableEq, Repr
structure ZmemForm where (ty : Ty) (z : ZIdx) (q : QIdx)
  deriving DecidableEq, Repr
structure EqintForm where (d : VIdx) (a b : EIdx)
  deriving DecidableEq, Repr
structure EqmrgForm where (d : VIdx) (a b : EIdx) (n : MIdx)
  deriving DecidableEq, Repr
structure EqnzForm where (ty : Ty) (d a : VIdx) (b : SSrc) (mask : Mask)
  deriving DecidableEq, Repr
structure EqnzCursorForm where (ty : Ty) (d : VIdx) (a : EIdx)
  deriving DecidableEq, Repr
structure EqspltForm where (e : EIdx) (a : SIdx) (b : SSrc)
  deriving DecidableEq, Repr
structure CursorMemForm where (e : EIdx) (a : SIdx) (off : BitVec 32)
  deriving DecidableEq, Repr
structure TresizeForm where (d : SIdx) (b : SSrc)
  deriving DecidableEq, Repr
structure TgiveForm where (a : SIdx) (b : SSrc)
  deriving DecidableEq, Repr
structure TcopyForm where (d a : QIdx) (len : BitVec 17) (bar : BarIdx) (ben : Bool)
  deriving DecidableEq, Repr
structure TcastForm where (d a b : SIdx) (m : MIdx) (lines : BitVec 14) (bar : BarIdx) (ben : Bool)
  deriving DecidableEq, Repr
structure AmoForm where (aop : Aop) (aty : AType) (scope : Scope) (d a b : SIdx) (off : BitVec 32)
  deriving DecidableEq, Repr
structure VamoForm where (aop : Aop) (aty : AType) (scope : Scope) (d : VIdx) (q : QIdx) (b : VSrc) (mask : Mask)
  deriving DecidableEq, Repr
structure VlockForm where (scope : Scope) (d : MIdx) (a : VIdx) (mask : Mask)
  deriving DecidableEq, Repr
structure VunlockForm where (scope : Scope) (d : SIdx) (a : VIdx) (mask : Mask)
  deriving DecidableEq, Repr
structure FenceForm where (kind : FenceKind) (scope : Scope)
  deriving DecidableEq, Repr
structure BarinitForm where (n : BarIdx) (a b : SIdx)
  deriving DecidableEq, Repr
structure BararvForm where (d : SIdx) (n : BarIdx)
  deriving DecidableEq, Repr
structure BarForm where (n : BarIdx) (a : SIdx)
  deriving DecidableEq, Repr
structure LsyncForm where (a : SIdx)
  deriving DecidableEq, Repr
structure TlaunchForm where (d a : SIdx) (b : SSrc)
  deriving DecidableEq, Repr
structure TwaitForm where (d a : SIdx)
  deriving DecidableEq, Repr
structure EvpopForm where (d a : SIdx) (n : BitVec 4)
  deriving DecidableEq, Repr
structure RfenceForm where (d : SIdx)
  deriving DecidableEq, Repr
structure WmapForm where (d a : SIdx) (b : SSrc)
  deriving DecidableEq, Repr
structure WunmapForm where (d : SIdx) (b : SSrc)
  deriving DecidableEq, Repr

/-! What the events of the device carry. -/

/-- Masters 0 to 2 of R49: the board management link and the hosts on links 0 and 1. -/
inductive Master where
  | management | host0 | host1
  deriving DecidableEq, Repr

/-- Who writes a register of a privileged window (R54): a master through BAR0, or the
partition's runtime or another privileged hart through SYSWR. -/
inductive Writer where
  | master (m : Master)
  | runtime
  deriving DecidableEq, Repr

/-- A part of the Beacon fabric that the owner reports failed or repaired (R372): a device, or
the link between two neighbouring devices. -/
inductive FabricPart where
  | device (dev : BitVec 16)
  | link (a b : BitVec 16)
  deriving DecidableEq, Repr

/-- What a reflected packet carries (R356, R357): the bytes of a store, with a mark on each
poisoned byte, or a reduction. -/
inductive Payload where
  | store (bytes : List Byte) (poison : List Nat)
  | reduce (aop : Aop) (aty : AType) (value : Word)
  deriving DecidableEq, Repr

/-- What BEACON_PACKET_APPLY applies (R359, R363): a packet of this device's own egress that
loops back, or one that another device sent here. -/
inductive Arrival where
  | loopback (id : Nat)
  | foreign (source : BitVec 16) (rwin : BitVec 12) (offset : Nat) (payload : Payload)
  deriving DecidableEq, Repr

/-- Where an uncorrectable error strikes (R391 to R393). `hostPoison` and `hostError` lie in host memory: the
host answers the device there with poison, or the next access with an error (R97). -/
inductive ErrorSite where
  | scalar (slot : Nat) (s : SIdx)
  | vector (slot : Nat) (v : VIdx) (word : Nat)
  | mask (slot : Nat) (m : MIdx) (word : Nat)
  | stream (slot : Nat) (q : QIdx) (word : Nat)
  | cursor (slot : Nat) (e : EIdx) (word : Nat)
  | tile (slot : Nat) (z : ZIdx) (row word : Nat)
  | plane (slot : Nat) (shadow : Bool) (row word : Nat)
  | defer (slot entry word : Nat)
  | scratch (slot offset : Nat)
  /-- a word of a line that a cache way of a pair's tile buffer holds, by its PA -/
  | cacheWay (pair addr : Nat)
  | l2 (addr : Nat)
  | hbm (addr : Nat)
  | mearil (pair : Nat)
  | beacon (stack : Nat)
  | hostPoison (addr : Nat)
  | hostError (addr : Nat)
  deriving DecidableEq, Repr

/-- Where a corrected error or a link retransmission is counted (R393). -/
inductive CorrectedSite where
  | die (d : Nat)
  | stack (k : Nat)
  | retransmission (d : Nat)
  deriving DecidableEq, Repr

/-- Counts of accesses by page PA[51:16] (R227). -/
abbrev PageCounts := List (Nat × Nat)

/-- The instructions and events: one constructor for each row of spec/opcode_table.json. The events that only the outside world brings stand last. -/
inductive Instr where
  | add (c : Ctl) (o : ScalarBin)
  | sub (c : Ctl) (o : ScalarBin)
  | and_ (c : Ctl) (o : ScalarBin)
  | or_ (c : Ctl) (o : ScalarBin)
  | xor_ (c : Ctl) (o : ScalarBin)
  | andn (c : Ctl) (o : ScalarBin)
  | sll (c : Ctl) (o : ScalarBin)
  | srl (c : Ctl) (o : ScalarBin)
  | sra (c : Ctl) (o : ScalarBin)
  | min_ (c : Ctl) (o : ScalarBin)
  | max_ (c : Ctl) (o : ScalarBin)
  | slt (c : Ctl) (o : ScalarBin)
  | mov (c : Ctl) (o : ScalarUn)
  | mul (c : Ctl) (o : ScalarBin)
  | mulh (c : Ctl) (o : ScalarBin)
  | div (c : Ctl) (o : ScalarBin)
  | rem (c : Ctl) (o : ScalarBin)
  | clz (c : Ctl) (o : ScalarUn)
  | ctz (c : Ctl) (o : ScalarUn)
  | popc (c : Ctl) (o : ScalarUn)
  | brev (c : Ctl) (o : ScalarUn)
  | bswap (c : Ctl) (o : ScalarUn)
  | ext_ (c : Ctl) (o : ExtForm)
  | movi (c : Ctl) (o : MoviForm)
  | movhi (c : Ctl) (o : MovhiForm)
  | addpc (c : Ctl) (o : AddpcForm)
  | ld (c : Ctl) (o : LoadForm)
  | lda (c : Ctl) (o : LoadForm)
  | st (c : Ctl) (o : StoreForm)
  | stl (c : Ctl) (o : StoreForm)
  | fadd (c : Ctl) (o : FloatBin)
  | fsub (c : Ctl) (o : FloatBin)
  | fmul (c : Ctl) (o : FloatBin)
  | fdiv (c : Ctl) (o : FloatBin)
  | fsqrt (c : Ctl) (o : FloatUn)
  | fmin (c : Ctl) (o : FloatBin)
  | fmax (c : Ctl) (o : FloatBin)
  | fcopys (c : Ctl) (o : FloatBin)
  | fcopyn (c : Ctl) (o : FloatBin)
  | fxsign (c : Ctl) (o : FloatBin)
  | fma (c : Ctl) (o : FloatBin)
  | fms (c : Ctl) (o : FloatBin)
  | fnma (c : Ctl) (o : FloatBin)
  | fnms (c : Ctl) (o : FloatBin)
  | fcvt (c : Ctl) (o : ConvertForm)
  | fcvti (c : Ctl) (o : ConvertForm)
  | icvtf (c : Ctl) (o : ConvertForm)
  | fclass (c : Ctl) (o : ScalarUn)
  | br (c : Ctl) (o : BrForm)
  | bri (c : Ctl) (o : BriForm)
  | call (c : Ctl) (o : CallForm)
  | calli (c : Ctl) (o : CalliForm)
  | lsetup (c : Ctl) (o : LsetupForm)
  | sysrd (c : Ctl) (o : SysrdForm)
  | syswr (c : Ctl) (o : SyswrForm)
  | eret (c : Ctl)
  | nop (c : Ctl)
  | yield (c : Ctl) (o : YieldForm)
  | yieldExpiry (slot : Nat)
  | halt (c : Ctl)
  | haltSlotRelease (slot : Nat)
  | trap (c : Ctl) (o : TrapForm)
  | pcmp (c : Ctl) (o : PcmpForm)
  | pand (c : Ctl) (o : PredBin)
  | por (c : Ctl) (o : PredBin)
  | pxor (c : Ctl) (o : PredBin)
  | pandn (c : Ctl) (o : PredBin)
  | pnot (c : Ctl) (o : PredUn)
  | pmov (c : Ctl) (o : PredUn)
  | mand (c : Ctl) (o : MaskBin)
  | mor (c : Ctl) (o : MaskBin)
  | mxor (c : Ctl) (o : MaskBin)
  | mandn (c : Ctl) (o : MaskBin)
  | mnot (c : Ctl) (o : MaskUn)
  | mmov (c : Ctl) (o : MaskUn)
  | mpopc (c : Ctl) (o : MaskRead)
  | mfirst (c : Ctl) (o : MaskRead)
  | vsetl (c : Ctl) (o : SetForm)
  | vsett (c : Ctl) (o : SetForm)
  | vadd (c : Ctl) (o : VecBin)
  | vsub (c : Ctl) (o : VecBin)
  | vrsub (c : Ctl) (o : VecBin)
  | vmin (c : Ctl) (o : VecBin)
  | vmax (c : Ctl) (o : VecBin)
  | vabsd (c : Ctl) (o : VecBin)
  | vavg (c : Ctl) (o : VecBin)
  | vmul (c : Ctl) (o : VecBin)
  | vmulh (c : Ctl) (o : VecBin)
  | vmacc (c : Ctl) (o : VecBin)
  | vdiv (c : Ctl) (o : VecBin)
  | vrem (c : Ctl) (o : VecBin)
  | vand (c : Ctl) (o : VecBin)
  | vor (c : Ctl) (o : VecBin)
  | vxor (c : Ctl) (o : VecBin)
  | vsll (c : Ctl) (o : VecBin)
  | vsrl (c : Ctl) (o : VecBin)
  | vsra (c : Ctl) (o : VecBin)
  | vwadd (c : Ctl) (o : VecBin)
  | vwmul (c : Ctl) (o : VecBin)
  | vwmacc (c : Ctl) (o : VecBin)
  | vnshr (c : Ctl) (o : VecNarrow)
  | vfadd (c : Ctl) (o : VecFloatBin)
  | vfsub (c : Ctl) (o : VecFloatBin)
  | vfmul (c : Ctl) (o : VecFloatBin)
  | vfdiv (c : Ctl) (o : VecFloatBin)
  | vfsqrt (c : Ctl) (o : VecFloatUn)
  | vfmin (c : Ctl) (o : VecFloatBin)
  | vfmax (c : Ctl) (o : VecFloatBin)
  | vfcopys (c : Ctl) (o : VecFloatBin)
  | vfcopyn (c : Ctl) (o : VecFloatBin)
  | vfxsign (c : Ctl) (o : VecFloatBin)
  | vfma (c : Ctl) (o : VecFloatBin)
  | vfms (c : Ctl) (o : VecFloatBin)
  | vfnma (c : Ctl) (o : VecFloatBin)
  | vfnms (c : Ctl) (o : VecFloatBin)
  | vfwadd (c : Ctl) (o : VecFloatBin)
  | vfwmul (c : Ctl) (o : VecFloatBin)
  | vfwma (c : Ctl) (o : VecFloatBin)
  | vfcvt (c : Ctl) (o : VecConvert)
  | vfcvti (c : Ctl) (o : VecConvert)
  | vicvtf (c : Ctl) (o : VecConvert)
  | vfclass (c : Ctl) (o : VecUn)
  | vcmp (c : Ctl) (o : VcmpForm)
  | vmerge (c : Ctl) (o : VmergeForm)
  | vmov (c : Ctl) (o : VecUn)
  | vsplat (c : Ctl) (o : VsplatForm)
  | vext (c : Ctl) (o : VextForm)
  | vins (c : Ctl) (o : VinsForm)
  | vmrank (c : Ctl) (o : VmrankForm)
  | vid (c : Ctl) (o : VidForm)
  | vshuf (c : Ctl) (o : VshufForm)
  | vslideup (c : Ctl) (o : VslideForm)
  | vslidedn (c : Ctl) (o : VslideForm)
  | vcompress (c : Ctl) (o : VcompressForm)
  | vexpand (c : Ctl) (o : VexpandForm)
  | vredsum (c : Ctl) (o : VecReduce)
  | vredmin (c : Ctl) (o : VecReduce)
  | vredmax (c : Ctl) (o : VecReduce)
  | vredand (c : Ctl) (o : VecReduce)
  | vredor (c : Ctl) (o : VecReduce)
  | vredxor (c : Ctl) (o : VecReduce)
  | vfredo (c : Ctl) (o : VecFloatReduce)
  | vfredt (c : Ctl) (o : VecFloatReduce)
  | vfredmin (c : Ctl) (o : VecFloatReduce)
  | vfredmax (c : Ctl) (o : VecFloatReduce)
  | vdefer (c : Ctl) (o : VdeferForm)
  | vdrain (c : Ctl) (o : VdrainForm)
  | vdcount (c : Ctl) (o : VdcountForm)
  | qsetUnit (c : Ctl) (o : QsetForm)
  | qsetStride (c : Ctl) (o : QsetForm)
  | qsetSeg (c : Ctl) (o : QsetSegForm)
  | qsetInd (c : Ctl) (o : QsetIndForm)
  | vld (c : Ctl) (o : VloadForm)
  | vldseg (c : Ctl) (o : VloadForm)
  | vst (c : Ctl) (o : VstoreForm)
  | vstseg (c : Ctl) (o : VstoreForm)
  | vstc (c : Ctl) (o : VstoreForm)
  | loadDataArrival (slot group : Nat)
  | mopa (c : Ctl) (o : MopaForm)
  | mops (c : Ctl) (o : MopaForm)
  | mstage (c : Ctl) (o : MstageForm)
  | mswap (c : Ctl)
  | mstream (c : Ctl) (o : MstreamForm)
  | zread (c : Ctl) (o : ZreadForm)
  | zwrite (c : Ctl) (o : ZwriteForm)
  | zzero (c : Ctl) (o : ZzeroForm)
  | zsave (c : Ctl) (o : ZmemForm)
  | zload (c : Ctl) (o : ZmemForm)
  | eqint (c : Ctl) (o : EqintForm)
  | eqmrg (c : Ctl) (o : EqmrgForm)
  | eqnz (c : Ctl) (o : EqnzForm)
  | eqnzCursorForm (c : Ctl) (o : EqnzCursorForm)
  | eqsplt (c : Ctl) (o : EqspltForm)
  | eqsave (c : Ctl) (o : CursorMemForm)
  | eqload (c : Ctl) (o : CursorMemForm)
  | tresize (c : Ctl) (o : TresizeForm)
  | tgive (c : Ctl) (o : TgiveForm)
  | tcopy (c : Ctl) (o : TcopyForm)
  | tcast (c : Ctl) (o : TcastForm)
  | transferComplete (id : Nat)
  | mergeWindowClose (line : Nat)
  | tcastLineDelivery (id : Nat)
  | amo (c : Ctl) (o : AmoForm)
  | vamo (c : Ctl) (o : VamoForm)
  | vlock (c : Ctl) (o : VlockForm)
  | vunlock (c : Ctl) (o : VunlockForm)
  | fence (c : Ctl) (o : FenceForm)
  | barinit (c : Ctl) (o : BarinitForm)
  | bararv (c : Ctl) (o : BararvForm)
  | barexp (c : Ctl) (o : BarForm)
  | barwait (c : Ctl) (o : BarForm)
  | barwaitReturn (slot : Nat)
  | lsync (c : Ctl) (o : LsyncForm)
  | tlaunch (c : Ctl) (o : TlaunchForm)
  | tlaunchCopy (slot : Nat)
  | twait (c : Ctl) (o : TwaitForm)
  | evpop (c : Ctl) (o : EvpopForm)
  | rfence (c : Ctl) (o : RfenceForm)
  | wmap (c : Ctl) (o : WmapForm)
  | wunmap (c : Ctl) (o : WunmapForm)
  | fetchPacket (slot : Nat)
  | lanternIssue (slot : Nat)
  | lanternForkCopyDone (slot : Nat)
  | lanternPublish (slot : Nat)
  | prefetchFill (slot line : Nat) (wasted : Bool)
  | pinTimeout (pair line : Nat)
  | combiningWriteback (word : Nat)
  | beaconPacketApply (pkt : Arrival)
  | reflectTimeout (id : Nat)
  | doorbell (w : Writer) (p n : Nat) (tail : BitVec 32)
  | takeRecord (p n : Nat)
  | residencyWalk (p n : Nat)
  | lfstat (w : Writer) (p : Nat) (value : Word)
  | dispatchRound (p : Nat) (rank pick : Nat)
  | gangResume (p : Nat)
  | gangSave (gang : Nat)
  | taskRetire (p queue seq : Nat)
  | taskEnd (p queue seq : Nat)
  | claim (m : Master)
  | respond (m : Master)
  | partitionEnable (m : Master) (p : Nat)
  | partitionDisable (m : Master) (p : Nat)
  | partitionDisableComplete (p : Nat)
  | runtimeStart (w : Writer) (p : Nat) (value : Word)
  | runtimeStop (w : Writer) (p : Nat)
  | shoot (w : Writer) (p : Nat)
  | shootComplete (p : Nat)
  | drain (w : Writer) (p : Nat)
  | drainBegin (p : Nat)
  | drainComplete (p : Nat)
  | confirm (w : Writer) (p : Nat)
  | confirmComplete (p : Nat)
  | ssettle (w : Writer) (p : Nat) (value : Word)
  | settleComplete (p : Nat)
  | hostHdmWrite (m : Master) (addr : Nat) (bytes : List Byte)
  | hostHdmRead (m : Master) (addr len : Nat)
  | uncorrectableError (e : ErrorSite)
  | registerWrite (w : Writer) (offset : Nat) (value : Word)
  | linkDown (link : Bool)
  | debugMemoryWrite (m : Master) (addr : Nat) (bytes : List Byte)
  | attestationReportReady (m : Master)
  | reflectionAcknowledgement (id : Nat) (applied : Bool) (cause : BitVec 3)
  | summer (m : Master)
  | spring (m : Master)
  | autumn (m : Master)
  | winter (m : Master)
  | dbgreq (m : Master) (level : BitVec 2)
  | debugGangHalt (m : Master) (gang : Nat)
  | debugGangResume (m : Master) (gang : Nat)
  | attreq (m : Master)
  | securityStateEntry (sec : BitVec 2)
  | ownerKeyReplace (m : Master) (index : BitVec 2) (key : List Byte)
  | correctedError (e : CorrectedSite)
  | linkFailureReport (w : Writer) (part : FabricPart) (failed : Bool)
  | replWindowEnd (gone : List Nat) (keptRd keptWr : PageCounts)
  | linkTraining (link : Bool) (canTrain : Bool)
  | evqstat (w : Writer) (p n : Nat) (value : Word)
  | errstat (w : Writer) (p : Nat) (value : Word)
  | rflstat (w : Writer) (p : Nat) (value : Word)
  | handover (m : Master) (target : BitVec 2)
  | release (m : Master)
  | queueDisable (w : Writer) (p n : Nat)
  | queueEnable (w : Writer) (p n : Nat)
  | formatRegionDisable (w : Writer) (p n : Nat)
  | formatRegionEnable (w : Writer) (p n : Nat)
  | replctl (w : Writer) (p : Nat) (value : Word)
  | bcncfg (m : Master) (value : Word)
  | preempt (w : Writer) (p queue seq : Nat)
  | resume (w : Writer) (p queue seq : Nat)
  | revoke (w : Writer) (p queue seq : Nat)
  | respondTimeout
  | ownerLinkDown
  | autumnEntry
  | deviceReset
  | powerTransitionComplete
  | hostCoherenceAccept
  deriving DecidableEq, Repr

end Sys2Proof
end

