-- ==== Sys2Proof/Machine/Forms.lean ====
section
/-! DEFINITION. The types of R114, and which operands each form of an instruction accepts: the
conditions of R118 that a shape of Syntax.lean does not rule out by itself. -/

namespace Sys2Proof

/-- TYPE codes (R114). -/
def Ty.code : Ty → BitVec 4
  | .i64 => 0x0 | .i32 => 0x1 | .i16 => 0x2 | .i8 => 0x3
  | .n64 => 0x4 | .n32 => 0x5 | .n16 => 0x6 | .n8 => 0x7
  | .f64 => 0x8 | .f32 => 0x9 | .f16 => 0xA | .bf16 => 0xB
  | .e4m3 => 0xC | .e5m2 => 0xD | .i4 => 0xE | .n4 => 0xF

/-- The type of a code. -/
def Ty.ofCode (c : BitVec 4) : Ty :=
  match c.toNat with
  | 0 => .i64 | 1 => .i32 | 2 => .i16 | 3 => .i8
  | 4 => .n64 | 5 => .n32 | 6 => .n16 | 7 => .n8
  | 8 => .f64 | 9 => .f32 | 10 => .f16 | 11 => .bf16
  | 12 => .e4m3 | 13 => .e5m2 | 14 => .i4 | _ => .n4

/-- Width of an element in bits (R114). -/
def Ty.width : Ty → Nat
  | .i64 | .n64 | .f64 => 64
  | .i32 | .n32 | .f32 => 32
  | .i16 | .n16 | .f16 | .bf16 => 16
  | .i8 | .n8 | .e4m3 | .e5m2 => 8
  | .i4 | .n4 => 4

/-- The i-types (R114). -/
def Ty.isSigned : Ty → Bool
  | .i64 | .i32 | .i16 | .i8 | .i4 => true
  | _ => false

/-- The floating types (R114). -/
def Ty.isFloat : Ty → Bool
  | .f64 | .f32 | .f16 | .bf16 | .e4m3 | .e5m2 => true
  | _ => false

/-- Types i64 to n8, codes 0x0 to 0x7 (R196, R247). -/
def Ty.isInt8to64 (t : Ty) : Bool :=
  match t with
  | .i64 | .i32 | .i16 | .i8 | .n64 | .n32 | .n16 | .n8 => true
  | _ => false

/-- i4 and n4, two to a byte (R159). -/
def Ty.isNibble : Ty → Bool
  | .i4 | .n4 => true
  | _ => false

/-- i64, i32, n64 and n32, the types of the scalar integer instructions (R192). -/
def Ty.isScalarInt : Ty → Bool
  | .i64 | .i32 | .n64 | .n32 => true
  | _ => false

/-- f64 and f32 (R199). -/
def Ty.isScalarFloat : Ty → Bool
  | .f64 | .f32 => true
  | _ => false

/-- f64, f32, f16 and bf16 (R250). -/
def Ty.isVecFloat : Ty → Bool
  | .f64 | .f32 | .f16 | .bf16 => true
  | _ => false

/-- The width an element takes in a vector register and in memory: i4 and n4 count as bytes
(R238, R240, R266). -/
def Ty.slotWidth (t : Ty) : Nat := if t.isNibble then 8 else t.width

/-- Bytes of an element in memory (R266). -/
def Ty.bytes (t : Ty) : Nat := t.slotWidth / 8

/-- The type of twice the width and the same kind (R248, R249, R251). -/
def Ty.wide : Ty → Ty
  | .i32 => .i64 | .i16 => .i32 | .i8 => .i16 | .i4 => .i8
  | .n32 => .n64 | .n16 => .n32 | .n8 => .n16 | .n4 => .n8
  | .f32 => .f64 | .f16 => .f32 | .bf16 => .f32
  | t => t

/-- The immediate rule of R109 for an operand of type `t`: narrow integers must be extended
copies, narrow floats must leave the rest of IMM zero. -/
def immFits (t : Ty) (v : BitVec 32) : Bool :=
  match t with
  | .i16 => v == (v.setWidth 16).signExtend 32
  | .i8 => v == (v.setWidth 8).signExtend 32
  | .i4 => v == (v.setWidth 4).signExtend 32
  | .n16 | .f16 | .bf16 => v == (v.setWidth 16).setWidth 32
  | .n8 | .e4m3 | .e5m2 => v == (v.setWidth 8).setWidth 32
  | .n4 => v == (v.setWidth 4).setWidth 32
  | _ => true

/-- `immFits` for operand B of a scalar or whole instruction. -/
def SSrc.fits (t : Ty) : SSrc → Bool
  | .reg _ => true
  | .imm v => immFits t v

/-- `immFits` for operand B of an element-wise instruction. -/
def VSrc.fits (t : Ty) : VSrc → Bool
  | .vec _ => true
  | .reg _ => true
  | .imm v => immFits t v

/-- The vector register operand B names is not `d` (R243). -/
def VSrc.notReg (d : VIdx) : VSrc → Bool
  | .vec v => v != d
  | .reg _ => true
  | .imm _ => true

/-- M[52] is 0 (merging, or no mask), where the entry demands it. -/
def Mask.merging : Mask → Bool
  | .none => true
  | .on z _ => !z

/-- The mask names an even register, where the pair mN and mN+1 is read (R111). -/
def Mask.evenPair : Mask → Bool
  | .none => true
  | .on _ m => !m.getLsbD 0

/-- Scalar integer forms (R192): `satOk` marks ADD, SUB and MUL. -/
def ScalarBin.ok (o : ScalarBin) (satOk : Bool) : Bool := o.ty.isScalarInt && (satOk || !o.sat)

/-- MOV and the bit-field group (R192, R193). -/
def ScalarUn.okInt (o : ScalarUn) : Bool := o.ty.isScalarInt

/-- FCLASS (R201). -/
def ScalarUn.okClass (o : ScalarUn) : Bool := o.ty.isFloat

/-- EXT (R193): i64 or n64, and LO + LEN at most 64. -/
def ExtForm.ok (o : ExtForm) : Bool :=
  (o.ty == .i64 || o.ty == .n64) && decide (o.lo.toNat + o.len1.toNat + 1 ≤ 64)

/-- MOVI (R194). -/
def MoviForm.ok (o : MoviForm) : Bool := o.ty == .i64 || o.ty == .n64

/-- LD and LDA (R196): SCOPE is 0 on LD. -/
def LoadForm.ok (o : LoadForm) (wide : Bool) : Bool := o.ty.isInt8to64 && (wide || o.scope == .core)

/-- ST and STL (R196). -/
def StoreForm.ok (o : StoreForm) (wide : Bool) : Bool := o.ty.isInt8to64 && (wide || o.scope == .core)

/-- Scalar floating forms (R199): `rounds` is false for the sign copies, whose RM must be 0. -/
def FloatBin.ok (o : FloatBin) (rounds : Bool) : Bool := o.ty.isScalarFloat && (rounds || o.rm == .rne)

/-- FSQRT (R199). -/
def FloatUn.ok (o : FloatUn) : Bool := o.ty.isScalarFloat

/-- FCVT (R200). -/
def ConvertForm.okFloat (o : ConvertForm) : Bool := o.ty.isFloat && o.src.isFloat

/-- FCVTI (R200). -/
def ConvertForm.okToInt (o : ConvertForm) : Bool := o.ty.isScalarInt && o.src.isVecFloat

/-- ICVTF (R200). -/
def ConvertForm.okFromInt (o : ConvertForm) : Bool := o.ty.isFloat && o.src.isInt8to64

/-- LSETUP (R206): the offset, a signed byte offset, is at least 12 and a multiple of 4. -/
def LsetupForm.ok (o : LsetupForm) : Bool := decide (12 ≤ o.off.toInt) && o.off.toNat % 4 == 0

/-- SYSRD and SYSWR (R211): a window offset is a multiple of 8. -/
def SysTarget.ok : SysTarget → Bool
  | .reg _ => true
  | .window off => off.toNat % 8 == 0

/-- PCMP (R202): `.un` with a floating type only. -/
def PcmpForm.ok (o : PcmpForm) : Bool :=
  (o.ty.isScalarInt || o.ty.isScalarFloat) && (o.cond != .un || o.ty.isFloat)

/-- Element-wise integer forms (R247). -/
def VecBin.ok (o : VecBin) (satOk : Bool) : Bool :=
  o.ty.isInt8to64 && (satOk || !o.sat) && o.b.fits o.ty

/-- Widening integer forms (R248, R243). -/
def VecBin.okWide (o : VecBin) (satOk : Bool) : Bool :=
  o.ty.isInt8to64 && o.ty.width != 64 && (satOk || !o.sat) && o.b.fits o.ty && o.a != o.d && o.b.notReg o.d

/-- VNSHR (R249, R243): the shift count is an operand of the wide type. -/
def VecNarrow.ok (o : VecNarrow) : Bool :=
  (o.ty.isNibble || (o.ty.isInt8to64 && o.ty.width != 64)) && (o.rm == .rne || o.rm == .rdn) &&
    o.b.fits o.ty.wide && o.a != o.d && o.b.notReg o.d

/-- Element-wise floating forms (R250). -/
def VecFloatBin.ok (o : VecFloatBin) (rounds : Bool) : Bool :=
  o.ty.isVecFloat && (rounds || o.rm == .rne) && o.b.fits o.ty

/-- Widening floating forms (R251, R243). -/
def VecFloatBin.okWide (o : VecFloatBin) : Bool :=
  (o.ty == .f32 || o.ty == .f16 || o.ty == .bf16) && o.b.fits o.ty && o.a != o.d && o.b.notReg o.d

/-- VFSQRT (R250). -/
def VecFloatUn.ok (o : VecFloatUn) : Bool := o.ty.isVecFloat

/-- A converting form names one register twice only at equal widths (R243). -/
def VecConvert.apart (o : VecConvert) : Bool := o.ty.width == o.src.width || o.a != o.d

/-- VFCVT (R252). -/
def VecConvert.okFloat (o : VecConvert) : Bool := o.ty.isFloat && o.src.isFloat && o.apart

/-- VFCVTI (R252). -/
def VecConvert.okToInt (o : VecConvert) : Bool := o.ty.isInt8to64 && o.src.isFloat && o.apart

/-- VICVTF (R252). -/
def VecConvert.okFromInt (o : VecConvert) : Bool := o.ty.isFloat && o.src.isInt8to64 && o.apart

/-- VFCLASS (R253). -/
def VecUn.okClass (o : VecUn) : Bool := o.ty.isVecFloat

/-- VCMP (R254). -/
def VcmpForm.ok (o : VcmpForm) : Bool :=
  (o.ty.isInt8to64 || o.ty.isVecFloat) && (o.cond != .un || o.ty.isFloat) && o.b.fits o.ty

/-- VSPLAT (R255). -/
def VsplatForm.ok (o : VsplatForm) : Bool := o.b.fits o.ty

/-- VEXT (R256): any type but i4 and n4. -/
def VextForm.ok (o : VextForm) : Bool := !o.ty.isNibble

/-- VINS (R256). -/
def VinsForm.ok (o : VinsForm) : Bool := !o.ty.isNibble

/-- VMRANK (R257). -/
def VmrankForm.ok (o : VmrankForm) : Bool := o.ty.isInt8to64

/-- VID (R257). -/
def VidForm.ok (o : VidForm) : Bool := o.ty.isInt8to64

/-- Integer reductions (R260). -/
def VecReduce.ok (o : VecReduce) : Bool := o.ty.isInt8to64 && o.b.fits o.ty

/-- Floating reductions (R261). -/
def VecFloatReduce.ok (o : VecFloatReduce) : Bool := o.ty.isVecFloat && o.b.fits o.ty

/-- VDEFER (R262). -/
def VdeferForm.ok (o : VdeferForm) : Bool :=
  !o.ty.isNibble && o.mask.merging && decide (o.a.toNat + o.n1.toNat ≤ 63)

/-- VDRAIN (R263): the index register lies outside the value registers. -/
def VdrainForm.ok (o : VdrainForm) : Bool :=
  !o.ty.isNibble && decide (o.a.toNat + o.n1.toNat ≤ 63) &&
    !(decide (o.a.toNat ≤ o.d.toNat) && decide (o.d.toNat ≤ o.a.toNat + o.n1.toNat))

/-- VDCOUNT (R264). -/
def VdcountForm.ok (o : VdcountForm) : Bool := decide (o.path.toNat ≤ 16)

/-- QSET.seg (R266). -/
def QsetSegForm.ok (o : QsetSegForm) : Bool := decide (2 ≤ o.f.toNat) && decide (o.f.toNat ≤ 8)

/-- QSET.ind (R266): the index stream is another stream. -/
def QsetIndForm.ok (o : QsetIndForm) : Bool := o.b != o.q

/-- VSETT (R246): IMM[31:7] of an immediate form is zero. -/
def SetForm.okVtype (o : SetForm) : Bool :=
  match o.b with
  | .reg _ => true
  | .imm v => decide (v.toNat < 128)

/-- VLDSEG (R238): no i4 and no n4. -/
def VloadForm.okSegment (o : VloadForm) : Bool := !o.ty.isNibble

/-- VSTSEG (R238): no i4 and no n4. -/
def VstoreForm.okSegment (o : VstoreForm) : Bool := o.mask.merging && !o.ty.isNibble

/-- VST, VSTSEG and VSTC (R268): merging masks; `.u` not on VSTC. -/
def VstoreForm.ok (o : VstoreForm) (uOk : Bool) : Bool := o.mask.merging && (uOk || !o.u)

/-- MOPA and MOPS (R281). -/
def MopaForm.ok (o : MopaForm) : Bool :=
  (match o.ty with
    | .bf16 | .f16 | .e4m3 | .e5m2 | .f32 => !o.sat && !o.half
    | .f64 => !o.sat
    | .i8 | .n8 | .i4 | .n4 => o.rm == .rne && !o.half
    | _ => false) && o.mask.merging && o.mask.evenPair

/-- MSTREAM (R286). -/
def MstreamForm.ok (o : MstreamForm) : Bool := o.mask.merging

/-- The six types of the row moves (R287). -/
def Ty.isCellView : Ty → Bool
  | .i32 | .n32 | .f32 | .i64 | .n64 | .f64 => true
  | _ => false

/-- An immediate row is at most 255 (R287). -/
def SSrc.rowFits : SSrc → Bool
  | .reg _ => true
  | .imm v => decide (v.toNat ≤ 255)

/-- ZREAD (R287). -/
def ZreadForm.ok (o : ZreadForm) : Bool := o.ty.isCellView && o.b.rowFits

/-- ZWRITE (R287). -/
def ZwriteForm.ok (o : ZwriteForm) : Bool := o.ty.isCellView && o.b.rowFits

/-- ZSAVE and ZLOAD (R289). -/
def ZmemForm.ok (o : ZmemForm) : Bool := o.ty == .i32 || o.ty == .n32 || o.ty == .f32

/-- EQINT (R295). -/
def EqintForm.ok (o : EqintForm) : Bool := decide (o.d.toNat ≤ 62)

/-- EQMRG (R296): an even mask number from 2 to 14. -/
def EqmrgForm.ok (o : EqmrgForm) : Bool :=
  decide (o.d.toNat ≤ 61) && !o.n.getLsbD 0 && decide (2 ≤ o.n.toNat)

/-- EQNZ, vector form (R297). -/
def EqnzForm.ok (o : EqnzForm) : Bool := o.ty.isCellView && o.mask.merging

/-- EQNZ, cursor form (R297). -/
def EqnzCursorForm.ok (o : EqnzCursorForm) : Bool := !o.ty.isNibble

/-- TCOPY (R303). -/
def TcopyForm.ok (o : TcopyForm) : Bool := decide (1 ≤ o.len.toNat) && decide (o.len.toNat ≤ 65536)

/-- TCAST (R304). -/
def TcastForm.ok (o : TcastForm) : Bool := decide (1 ≤ o.lines.toNat) && decide (o.lines.toNat ≤ 15360)

/-- f32 only with add (R116). -/
def aopFits (aop : Aop) (aty : AType) : Bool := aty != .f32 || aop == .add

/-- The element type an ATYPE stands for (R116, R332). -/
def AType.ty : AType → Ty
  | .i32 => .i32 | .i64 => .i64 | .n32 => .n32 | .n64 => .n64 | .f32 => .f32

/-- AMO (R329, R116). -/
def AmoForm.ok (o : AmoForm) : Bool := aopFits o.aop o.aty

/-- VAMO (R329, R116). -/
def VamoForm.ok (o : VamoForm) : Bool := aopFits o.aop o.aty && o.b.fits o.aty.ty

/-- VLOCK (R329). -/
def VlockForm.ok (o : VlockForm) : Bool := o.mask.merging

/-- VUNLOCK (R329). -/
def VunlockForm.ok (o : VunlockForm) : Bool := o.mask.merging

/-- The guard value (!p0) is malformed (R110). -/
def Ctl.ok (c : Ctl) : Bool := !(c.neg && c.pred == 0)

end Sys2Proof
end

