-- ==== Sys2Proof/Machine/State.lean ====
section
/-! DEFINITION. The machine's state, as plain data, and the state after reset. Each field names the
rule of spec/ that gives it; a field marked MODEL is the model's own and names its log entry. -/

namespace Sys2Proof.Machine

/-- A table by number: entries in strictly rising key order (Tables.lean has its operations). -/
abbrev Tbl (α : Type) := List (Nat × α)

/-- A register file of 2^n registers. -/
abbrev RegFile (n : Nat) (α : Type) := Vector α (2 ^ n)

/-! ## A hart -/

/-- A stream register q0 to q15 (R265). -/
structure Stream where
  base : Word := 0
  stride : Word := 0
  pos : Word := 0
  ctl : Word := 0
  deriving DecidableEq, Repr

/-- A cursor e0 to e3 (R291). -/
structure Cursor where
  cbase : Word := 0
  cpos : Word := 0
  cend : Word := 0
  cctl : Word := 0
  deriving DecidableEq, Repr

/-- The hardware loop registers (R206, R216). -/
structure LoopRegs where
  lc0 : Word := 0
  lc1 : Word := 0
  lb0 : Word := 0
  lb1 : Word := 0
  le0 : Word := 0
  le1 : Word := 0
  deriving DecidableEq, Repr

/-- The registers that the Lantern's copy shares with the hart (R140). -/
structure Regs where
  pc : Word
  vstart : BitVec 11
  vl : BitVec 12
  vtype : BitVec 7
  s : RegFile 6 Word
  v : RegFile 6 VReg
  m : RegFile 4 MReg
  p : RegFile 3 Bool
  q : RegFile 4 Stream
  e : RegFile 2 Cursor
  loops : LoopRegs
  deriving DecidableEq, Repr

/-- The registers of trap entry (R216, R384); `suspended` holds R207 and R208 off from trap entry
until ERET (R209). -/
structure TrapRegs where
  tvec : Word := 0
  epc : Word := 0
  evstart : Word := 0
  ecause : Word := 0
  eval : Word := 0
  estat : Word := 0
  /-- VTYPE as trap entry saved it (R239) -/
  evtype : BitVec 7 := 0x09
  suspended : Bool := false
  deriving DecidableEq, Repr

/-- Who a hart is (R17, R216): set when it takes its slot. -/
structure HartIds where
  part : Nat := 0
  gang : Nat := 0
  hartid : Nat := 0
  gridIdx : Nat := 0
  gsize : Nat := 0
  zshare : Nat := 0
  /-- scratch ways held (R83) -/
  ways : Nat := 0
  deriving DecidableEq, Repr

/-- A stationary plane (R279): row t holds 64 BF16 weights; a row not listed is zero. -/
structure Plane where
  rows : Tbl (BitVec 1024) := []
  kp : BitVec 10 := 0
  deriving DecidableEq, Repr

/-- A scratch granule (R220): owner E or H, and the transfers in flight over it. -/
structure Granule where
  engine : Bool := false
  count : Nat := 0
  deriving DecidableEq, Repr

/-- A slot of the deferral queue (R155). -/
structure DeferSlot where
  index : Word
  path : BitVec 4
  v0 : Word
  v1 : Word
  v2 : Word
  v3 : Word
  deriving DecidableEq, Repr

/-- A 64-bit word of a hart's registers, tiles or planes that may hold poison (R392). -/
inductive RegLoc where
  | s (i : Nat)
  | v (i word : Nat)
  | m (i word : Nat)
  | q (i word : Nat)
  | e (i word : Nat)
  | z (tile row word : Nat)
  | plane (shadow : Bool) (row word : Nat)
  | defer (slot word : Nat)
  /-- a predicate, which shares a word of the image with the others -/
  | p (i : Nat)
  /-- a word of the header, of the control block, USED or owner bits, by its offset in the image that
  gave it (R388, R390; log entry 53) -/
  | control (offset : Nat)
  deriving DecidableEq, Repr

/-- A register of the Lantern's copy that may carry a poison bit (R140). -/
inductive LanternReg where
  | s (i : SIdx)
  | v (i : VIdx)
  | m (i : MIdx)
  | p (i : PIdx)
  | q (i : QIdx)
  | e (i : EIdx)
  | vl
  | vtype
  | vstart
  | pc
  | loop (i : Nat)
  deriving DecidableEq, Repr

/-- A page translation that a stream register holds ahead of its walk (R99): the register, the page
VA[54:16], its leaf and the PA of the page. -/
structure StreamPage where
  q : QIdx
  page : Nat
  pte : Word
  pa : Nat
  deriving DecidableEq, Repr

/-- The kinds of Wick entry (R146). A coordinate batch stands as one entry with the lanes it holds, the
lines of memory that it was read from, which `State.watch` lists under its number, and those of the
hart's scratch, which `Hart.watch` lists so. -/
inductive WickKind where
  | branch (taken : Bool) (target : Word)
  | loopEnd (again : Bool)
  | translation (t : StreamPage)
  | gather (addrs : List Nat)
  | coords (batch : Nat) (before after : List Cursor) (lanes : Nat) (lines offs : List Nat)
  deriving DecidableEq, Repr

structure WickEntry where
  seq : Nat
  kind : WickKind
  deriving DecidableEq, Repr

/-- The Lantern's forked copy (R140) with its poison, what it waits for (R142), its count of
instructions since the fork (R146) and of the strips it began (R148). Beside a poisoned register
stands the count that the trailing core has reached when the instruction that wrote it has retired.
`wait` numbers the free value of the cycles of its wait, and `bound` says that the copy has taken the
value that the trailing core publishes. `slipped` marks a copy that waits at a VSETL for its lead to fall
(R144, R148). `pending` are the entries of its last instruction that wait
for room in its share (R144, R145). `pages` are the translations that its stream registers hold
(R99), and `skipped` the counts of the vector integer instructions that it has left as poison
(R141). -/
structure LanternCopy where
  regs : Regs
  poison : List (LanternReg × Nat) := []
  waiting : Option LanternReg := none
  wait : Nat := 0
  bound : Bool := false
  seq : Nat := 0
  strips : Nat := 0
  slipped : Bool := false
  pending : List WickEntry := []
  pages : List StreamPage := []
  skipped : List Nat := []
  deriving DecidableEq, Repr

/-- A vector integer result that a register carries (R141): the tag of the instruction that made it, its
count since the fork where the fork came before it, and whether the copy held it as poison at a later
fork. -/
structure Feed where
  tag : Nat
  at_ : Option Nat := none
  held : Bool := false
  deriving DecidableEq, Repr

/-- A prefetched line that the trailing core has not read (R230, R151): the REPL page it lies in, by
PA[51:16] of the page's first byte (R227), the count of the instruction whose gather list it serves, whether
it has filled a cache way, and whether it counts as wasted. -/
structure Prefetch where
  line : Nat
  repl : Option Nat := none
  list : Option Nat := none
  filled : Bool := false
  counted : Bool := false
  deriving DecidableEq, Repr

/-- The Lantern side of a hart slot: its copy, the Wick share (R145), the copy of 40 cycles in
progress (R150), the trailing core's counts since the fork (R146, R148), whether it stands at an
instruction of R144, its prefetches (R230), and where the results of vector integer instructions have
gone (R141). -/
structure LanternSide where
  copy : Option LanternCopy := none
  forking : Bool := false
  wick : List WickEntry := []
  seq : Nat := 0
  strips : Nat := 0
  stopped : Bool := false
  prefetches : List Prefetch := []
  /-- the entries of the instruction in progress have been popped; true where they mismatched (R149,
  R150) -/
  popped : Option Bool := none
  /-- the hart waits for the entries of its next instruction (R147) -/
  awaits : Bool := false
  /-- the instruction in progress has been counted as resolved alone (R156, R408) -/
  alone : Bool := false
  /-- page translations that the hart's stream registers hold (R99) -/
  pages : List StreamPage := []
  /-- the vector integer results that a register carries (R141) -/
  feeds : List (LanternReg × List Feed) := []
  deriving DecidableEq, Repr

/-- A fetched packet of 32 bytes (R120): its virtual address, its bytes and the places of the poisoned
ones. -/
structure Packet where
  va : Nat
  bytes : List Byte
  poison : List Nat := []
  deriving DecidableEq, Repr

/-- Vector load data on its way to a register (R229): `mask` marks the bits that have no valid bit
yet, `data` what they will hold. The register reads with the data laid over it. -/
structure Arriving where
  reg : VIdx
  mask : VReg
  data : VReg
  deriving DecidableEq, Repr

/-- Where a hart stands between issues. -/
inductive RunState where
  /-- issues -/
  | running
  /-- after a YIELD, until its cycles pass (R213) -/
  | yielding
  /-- at a HALT, until its waits are over (R214) -/
  | halting
  /-- in BARWAIT on barrier `n`, which held phase `phase` (R343) -/
  | barWait (n : BarIdx) (phase : Bool)
  /-- the barrier flipped; BARWAIT returns next (R343, R344) -/
  | barReady
  /-- in TLAUNCH, before the copy (R347): destination, device queue, address of the record -/
  | launching (d : SIdx) (j : Nat) (va : Word)
  /-- in WMAP or WUNMAP, until these packets are applied or discarded (R354) -/
  | mapping (d : SIdx) (packets : List Nat)
  /-- its gang is stopping (R386) or its task ending (R403) -/
  | stopped
  deriving DecidableEq, Repr

/-- What an operation that orders earlier accesses waits for: engine transfers, the hart's stores to host
memory of a number below `host` (`State.hostStamp`), its stores under a pin of its sibling stamped
below `own`, and the sibling's such stores that it read first at a stamp below `seen` (R314, R317).
`host` and `own` are of the scalar pipe's stores, `hostV` and `ownV` of the vector queue's (R315). `sys`
says that the host accepts what those transfers store too, and `whole` marks a release of kind all (R319). -/
structure Pending where
  transfers : List Nat := []
  host : Nat := 0
  hostV : Nat := 0
  own : Nat := 0
  ownV : Nat := 0
  seen : Nat := 0
  sys : Bool := false
  whole : Bool := false
  deriving DecidableEq, Repr

/-- What a hart waits for at its (PC, VSTART). -/
inductive Held where
  /-- a pin of a core pair on the lines of a range, which ends before the access translates again
  (R318, R328) -/
  | pin (pair pa n : Nat)
  /-- the hart's own pair's pins on the lines of a range, before an element of an ordered store that
  others follow (R314) -/
  | order (pair pa n : Nat)
  /-- a page VA[54:16] of a held range whose translation failed (R89); `write` where its leaf was
  read-only; `shot` once a SHOOT has been issued for it -/
  | page (page : Nat) (write shot : Bool)
  deriving DecidableEq, Repr

/-- A hart slot's hart, or a Lamplighter's runtime (R6, R17, R56). -/
structure Hart where
  ids : HartIds := {}
  regs : Regs
  fcsr : BitVec 8 := 0
  /-- true in the privileged view (R54) -/
  priv : Bool := false
  trap : TrapRegs := {}
  lslip : BitVec 8 := 16
  zdirty : BitVec 32 := 0
  cycle : Word := 0
  instret : Word := 0
  rdisc : BitVec 32 := 0
  /-- performance counters 0x100 to 0x10B (R408) -/
  perf : RegFile 4 Word
  /-- row r of tile k at key 256k + r; a row not listed is zero (R275) -/
  tiles : Tbl VReg := []
  live : Plane := {}
  shadow : Plane := {}
  /-- deferral queue, oldest first (R155) -/
  defer : List DeferSlot := []
  /-- scratch bytes by window offset; a byte not listed is zero (R219) -/
  scratch : Tbl Byte := []
  /-- poisoned scratch words by word offset (R392) -/
  scratchPoison : List Nat := []
  /-- granules that are not (H, 0), by number (R220) -/
  granules : Tbl Granule := []
  /-- 128-byte lines of the scratch that coordinate batches were read from and that nothing has written
  since: number of the batch, and line by window offset (R149) -/
  watch : List (Nat × Nat) := []
  /-- poisoned register words (R392) -/
  poison : List RegLoc := []
  arriving : List Arriving := []
  packets : List Packet := []
  run : RunState := .running
  held : Option Held := none
  /-- what later scalar accesses wait for after a FENCE ss, and what later entries of the vector queue
  wait for after a FENCE sv or vv (R315, R337) -/
  fenceS : Pending := {}
  fenceV : Pending := {}
  lantern : LanternSide := {}
  deriving DecidableEq, Repr

/-! ## Core pairs and dies -/

/-- A line pinned by a CORE-scope release (R318): the agent that pinned it, the line number
PA[51:7] where its bytes are kept, and whether a RETRY or a waiting release has started its bound
(R319). `ending` are the operations at whose taking effect the pin ends, by what they wait for
(R319). -/
structure Pin where
  slot : Nat
  line : Nat
  retried : Bool := false
  ending : List Pending := []
  deriving DecidableEq, Repr

/-- A store to a line that its core pair pins, at VC and not at VA (R310, R318): its hart, whether the
vector queue made it (R315), its partition,
its PA and length, the page VA[54:16] it was made through, its stamp, the stamp at which the sibling
first read it (R317), and whether a SHOOT withdrew that page's translation (R376). The bytes that TLAUNCH
copies to a ring, which has no virtual address, name the page 2^39. -/
structure Delayed where
  slot : Nat
  vec : Bool
  part : Nat
  pa : Nat
  n : Nat
  page : Nat
  stamp : Nat
  seen : Option Nat := none
  withdrawn : Bool := false
  deriving DecidableEq, Repr

/-- An entry of the slice table (R141): hart slot by side, PC[21:2], and the executions in a row in
which the result fed no address. -/
structure SliceEntry where
  side : Nat
  tag : Nat
  idle : Nat := 0
  deriving DecidableEq, Repr

/-- A HOME 01 page that a core pair has met since its translation was installed (R222): its partition, the
page VA[54:16] it is met through, PA[51:16] of its bytes, and whether it is in the pinned area; one that is
not is served as HOME 00. -/
structure AreaPage where
  part : Nat
  va : Nat
  page : Nat
  pinned : Bool
  deriving DecidableEq, Repr

/-- ZSPLIT and TBCFG of a core pair (R82, R217), its pinned lines, the stores that wait under them, its
slice table (R141), and its HOME 01 pages (R222). -/
structure Pair where
  zsplit : BitVec 6 := 0
  sw0 : BitVec 4 := 0
  sw1 : BitVec 4 := 0
  pins : List Pin := []
  /-- oldest first -/
  delayed : List Delayed := []
  /-- MODEL: count of those stores and of their first reads (log entry 57) -/
  stamp : Nat := 0
  /-- at most 1024 entries, oldest first -/
  slices : List SliceEntry := []
  area : List AreaPage := []
  deriving DecidableEq, Repr

/-- The components of a barrier (R323). -/
structure Barrier where
  phase : Bool := false
  broken : Bool := false
  expa : BitVec 8 := 0
  arr : BitVec 8 := 0
  baseb : BitVec 40 := 0
  expb : BitVec 40 := 0
  cred : BitVec 40 := 0
  deriving DecidableEq, Repr

/-- Who holds a barrier number (R339, R427); gangs by GANGID. -/
inductive BarOwner where
  | free
  | owned (gang : Nat)
  | reserved (gang : Nat)
  | forwarding (gang : Nat)
  deriving DecidableEq, Repr

structure BarrierCell where
  bar : Barrier := {}
  owner : BarOwner := .free
  /-- a restored image gave poisoned words for it (R390, R392) -/
  poisoned : Bool := false
  deriving DecidableEq, Repr

/-! ## Tasks and gangs -/

/-- Why a gang stops (R386, STOP of R388). -/
inductive StopKind where
  | preempted | parked | debug
  deriving DecidableEq, Repr

inductive GangState where
  | running
  /-- stopping: its harts issue no more (R386 steps 1 and 2) -/
  | stopping (k : StopKind)
  /-- its harts' images are written (R386 steps 3 and 4) -/
  | saved (k : StopKind)
  deriving DecidableEq, Repr

/-- A gang from its dispatch to its retirement (R19, R386). -/
structure Gang where
  /-- GANGID -/
  id : Nat
  part : Nat
  queue : Nat
  seq : Nat
  gridIdx : Nat
  die : Nat
  size : Nat
  /-- (HARTID, slot) of each hart that has not halted; the slot is the last one while saved -/
  harts : List (Nat × Nat)
  state : GangState := .running
  /-- image number of HARTID h at position h (R69, R387) -/
  images : List Nat
  /-- the handle of R72 that a parked gang awaits -/
  await : Option Word := none
  /-- halted by debug and not yet released (R399, R400) -/
  held : Bool := false
  /-- barrier numbers owned at the stop, with their state (R325) -/
  bars : Tbl Barrier := []
  /-- credits held while the gang is away (R325): barrier number and bytes -/
  credits : List (Nat × Nat) := []
  /-- VTYPE as trap entry saved it and the hold on the loop actions, by HARTID, of the harts of a saved gang,
  which R388 gives no place in an image (R16; log entry 48) -/
  traps : List (Nat × BitVec 7 × Bool) := []
  deriving DecidableEq, Repr

/-- The states of R77, with the two sequences that take several steps (R401, R403). -/
inductive TaskState where
  | queued | resident | dispatched | running | parked
  | preempted (before : Nat)
  | retiring | retired
  /-- ending; `held` while it still holds leases -/
  | ending (held : Bool)
  | ended
  deriving DecidableEq, Repr

/-- Why a task ended, as its event record reports it (R402, R406). -/
structure EndCause where
  code : BitVec 8
  tcode : BitVec 8 := 0
  gridIdx : BitVec 32 := 0
  hartid : BitVec 7 := 0
  eval : Word := 0
  deriving DecidableEq, Repr

/-- A child's handle and, once it is Retired or Ended, its wait status word (R72). -/
structure Child where
  queue : Nat
  seq : Nat
  status : Option Word := none
  deriving DecidableEq, Repr

/-- Undispatched gang indices `first` to `stop` − 1 of the die of a rank (R78, R79). -/
structure GangRun where
  rank : Nat
  first : Nat
  stop : Nat
  deriving DecidableEq, Repr

/-- A record that TLAUNCH copied and the front end has not taken: its queue, its number, and the
queues and numbers of the tasks above it (R66). -/
structure Launch where
  queue : Nat
  seq : Nat
  ancestors : List (Nat × Nat)
  deriving DecidableEq, Repr

/-- A taken task (R36, R65, R77). -/
structure Task where
  part : Nat
  queue : Nat
  seq : Nat
  /-- the 256 bytes read when the record was taken (R38) -/
  record : List Byte
  state : TaskState := .queued
  cause : Option EndCause := none
  /-- undispatched gang indices (R78) -/
  blocks : List GangRun := []
  /-- gangs dispatched and not yet retired -/
  live : Nat := 0
  /-- some gang has executed an instruction (R77) -/
  ran : Bool := false
  /-- where the residency walk stands: lease entry and page of it (R86, R87) -/
  walk : Nat × Nat := (0, 0)
  children : List Child := []
  /-- queue and number of the task that launched it, of that task's launcher, and so on (R66) -/
  ancestors : List (Nat × Nat) := []
  /-- SIGADDR passed the check of R41 when the record was taken (R403, R404) -/
  sigOk : Bool := true
  /-- a signal was asked for and was not made (R404, R406) -/
  sigFail : Bool := false
  /-- the pin that its signal met: core pair and range (R328) -/
  pinned : Option (Nat × Nat × Nat) := none
  deriving DecidableEq, Repr

/-! ## Partitions -/

/-- A work queue (R61); LOG2N resets to 4. -/
structure Queue where
  loc : Bool := false
  base : BitVec 44 := 0
  log2n : BitVec 5 := 4
  en : Bool := false
  tail : BitVec 32 := 0
  head : BitVec 32 := 0
  qstate : BitVec 2 := 0
  qerr : BitVec 4 := 0
  /-- after an error, the count at which the taking of records ends (R63, R64) -/
  upTo : Option (BitVec 32) := none
  deriving DecidableEq, Repr

/-- An event record (R406). -/
structure EvRecord where
  w0 : Word
  w1 : Word
  w2 : Word
  w3 : Word
  deriving DecidableEq, Repr

/-- An event queue (R405). -/
structure EvQueue where
  records : List EvRecord := []
  drop : BitVec 16 := 0
  ien : Bool := false
  deriving DecidableEq, Repr

/-- The command that INVCMD runs (R100); `shootDrain` is a SHOOT that runs DRAIN and CONFIRM at once
(R101). -/
inductive InvOp where
  | shoot | shootDrain | drain | confirm
  deriving DecidableEq, Repr

/-- INVCMD (R100): STATUS, RESULT, the command in progress and its range. -/
structure InvCmd where
  status : BitVec 2 := 0
  result : BitVec 2 := 0
  op : Option InvOp := none
  range : Word := 0
  deriving DecidableEq, Repr

/-- The one-word registers of a privileged window, at their reset values. -/
structure WindowRegs where
  /-- FECTL, R68 -/
  fectl : Word := 0x10
  /-- RESULT of TCMD, R76 -/
  tcmd : BitVec 2 := 0
  /-- LFSTAT and LFVA, R88 -/
  lfstat : Word := 0
  lfva : Word := 0
  /-- ERRSTAT and ERRLOC, R393 -/
  errstat : Word := 0
  errloc : Word := 0
  /-- PTROOT, R98 -/
  ptroot : Word := 0
  /-- INVRANGE, R100 -/
  invrange : Word := 0
  inv : InvCmd := {}
  /-- BUSY of SSETTLE, R376 -/
  settling : Bool := false
  /-- REPLCTL, R227 -/
  replctl : Word := 0x6101
  /-- TVECDEF, R385 -/
  tvecdef : Word := 0
  /-- RFLSTAT, R369 -/
  rflstat : Word := 0
  /-- RTENTRY, R56 -/
  rtentry : Word := 0
  deriving DecidableEq, Repr

/-- A partition: PCFGp (R57) and its privileged window (R61 to R405). -/
structure Partition where
  dieSet : BitVec 16 := 0
  stackSet : BitVec 12 := 0
  perr : BitVec 3 := 0
  en : Bool := false
  ctxbase : BitVec 36 := 0
  ctxn : BitVec 32 := 0
  /-- a disable is in progress (R60) -/
  disabling : Bool := false
  regs : WindowRegs := {}
  /-- queues that are not at reset, by number (R61) -/
  queues : Tbl Queue := []
  /-- PASS of each queue, 0 where not listed (R67) -/
  pass : Tbl Nat := []
  /-- LAST of each level, at key LEVEL + 1; 79 where not listed (R67) -/
  last : Tbl Nat := []
  /-- SRANGE0 to SRANGE7, 0 where not listed (R90) -/
  srange : Tbl Word := []
  /-- FMTnA and FMTnB, 0 where not listed (R172) -/
  fmtA : Tbl Word := []
  fmtB : Tbl Word := []
  /-- event queues that are not empty at reset (R405) -/
  evq : Tbl EvQueue := []
  /-- interrupts raised to the runtime and not yet taken, oldest first (R56) -/
  ints : List (BitVec 8) := []
  launched : List Launch := []
  /-- images in use: image number to GANGID (R69, R387) -/
  images : Tbl Nat := []
  /-- gangs that are ready to resume, in the order they became ready (R67) -/
  ready : List Nat := []
  deriving DecidableEq, Repr

/-! ## Engines and fabric in flight -/

/-- A stretch of a row's memory side (R303): its virtual and physical addresses, its length, the leaf it
was translated by, and whether its bytes have entered the egress of a transmit window (R426). -/
structure Segment where
  va : Nat
  pa : Nat
  len : Nat
  pte : Word
  sent : Bool := false
  deriving DecidableEq, Repr

/-- A row of a TCOPY: its scratch side by window offset and its memory side (R303). -/
structure CopyRow where
  scratch : Nat
  segs : List Segment
  deriving DecidableEq, Repr

/-- A destination of a TCAST (R304): the slot and the granules that accepted. -/
structure CastDest where
  slot : Nat
  granules : List Nat
  deriving DecidableEq, Repr

/-- What a transfer moves. -/
inductive Work where
  | copy (toMemory : Bool) (rows : List CopyRow) (granules : List Nat)
  /-- source address, line count and window offset of the destination; `left` counts the line
  deliveries still to come -/
  | cast (src lines dest : Nat) (dests : List CastDest) (left : Nat)
  deriving DecidableEq, Repr

/-- An engine transfer in flight (R303 to R305): the slot that started it, its gang, what it moves,
and the barrier it credits on the gang's die with the bytes it credits. `withdrawn` marks one with
an entry that a SHOOT withdrew (R376), `stale` one that translates again after a CONFIRM (R102). -/
structure Transfer where
  id : Nat
  slot : Nat
  gang : Nat
  work : Work
  bar : Option BarIdx
  bytes : Nat
  withdrawn : Bool := false
  stale : Bool := false
  deriving DecidableEq, Repr

/-- A request for a line: the transfer, the line's place in it, and the one destination of an
unmerged read (R304). -/
structure CastRequest where
  transfer : Nat
  index : Nat
  only : Option Nat := none
  deriving DecidableEq, Repr

/-- A merge window at a home slice (R233): the line's PA and the requests that joined. `closed`
marks a window that no request joins: it has closed and waits out a pin (R322), or it is an unmerged
read (R304). `bound` is what a read that waited bound at the end of the pin: bytes and the places of
poisoned ones (R322). -/
structure MergeWindow where
  line : Nat
  closed : Bool := false
  bound : Option (List Byte × List Nat) := none
  requests : List CastRequest
  deriving DecidableEq, Repr

/-- One line of a multicast on its way to one destination (R232, R304). -/
structure Delivery where
  id : Nat
  transfer : Nat
  slot : Nat
  /-- window offset the line is written at -/
  offset : Nat
  bytes : List Byte
  poison : List Nat
  deriving DecidableEq, Repr

/-- How a reflected store stands at its destination (R359, R362, R374). -/
inductive Fate where
  | inFlight
  | applied
  | discarded (cause : BitVec 3)
  deriving DecidableEq, Repr

/-- A store to host memory that the host's coherence has not accepted (R310): who made it, and where. A hart is
named by its gang and HARTID, which it keeps on another slot, and a runtime by its slot; `transfer` is the engine
transfer that made it and `vec` says that the vector queue did (R315). -/
structure HostStore where
  slot : Nat
  stamp : Nat
  hartid : Nat
  transfer : Option Nat
  vec : Bool
  part : Nat
  gang : Nat
  queue : Nat
  seq : Nat
  pa : Nat
  n : Nat
  deriving DecidableEq, Repr

/-- A translation that a core pair, its engines or the front end made and that no invalidation has
withdrawn (R99, R101): the pair, 640 for a front end, the partition, the page VA[54:16], its leaf and
the PA of the page. -/
structure Translation where
  pair : Nat
  part : Nat
  page : Nat
  pte : Word
  pa : Nat
  deriving DecidableEq, Repr

/-- A REPL page that a quadrant tracks, by PA[51:16] of its first byte, with the reads and writes of this
counting window that came from other dies (R227). -/
structure ReplPage where
  page : Nat
  rd : Nat := 0
  wr : Nat := 0
  deriving DecidableEq, Repr

/-- A reflected store or reduction on one path (R356 to R359), in egress order. -/
structure Reflected where
  id : Nat
  slot : Nat
  part : Nat
  /-- entry of the transmit window -/
  win : Nat
  dev : BitVec 16
  rwin : BitVec 12
  offset : Nat
  /-- PCLS of the entry: detours are permitted (R372) -/
  pcls : Bool
  payload : Payload
  fate : Fate := .inFlight
  deriving DecidableEq, Repr

/-- An HDM decoder of a host link (R45, R48): where the host places it, and how many ways it interleaves. -/
structure HdmDecoder where
  base : Word
  ways : Nat := 1
  deriving DecidableEq, Repr

/-- A trained host link (R45): its rate in GT/s, its width in lanes, and its HDM decoders. -/
structure HostLink where
  rate : Nat
  width : Nat
  decoders : List HdmDecoder
  deriving DecidableEq, Repr

/-- What a host read of device memory returned (R48, R392). -/
structure HostReply where
  master : Master
  addr : Nat
  bytes : List Byte
  poisoned : Bool
  deriving DecidableEq, Repr

/-! ## The device -/

/-- The ownership mailbox (R50, R51); per-master values by master number. -/
structure Mailbox where
  state : BitVec 3 := 0
  owner : BitVec 2 := 0
  cand : BitVec 2 := 0
  epoch : BitVec 32 := 0
  last : Tbl (BitVec 2) := []
  nonce : BitVec 512 := 0
  /-- CRED of master m at key 4096m + offset; 0 where not listed -/
  cred : Tbl Byte := []
  nownwr : BitVec 32 := 0
  deriving DecidableEq, Repr

/-- What Sconce logs. -/
inductive LogEntry where
  | linkFailed (link : Bool)
  | credentialInvalid (cand : BitVec 2)
  | respondTimeout (cand : BitVec 2)
  | handoverReleased (cand : BitVec 2)
  | ownerLinkDown
  | runtimeStopped (die : Nat) (code : BitVec 8)
  | hdmWriteIgnored (pa : Nat)
  | hostLinkError (pa : Nat)
  | poisonRead (pa : Nat)
  | firmwareFailed
  | uncorrectable (src loc : Nat)
  | corrected (link : Bool) (unit : Nat)
  deriving DecidableEq, Repr

/-- The clearing of all partitions, HBM and keys (R399), and what takes effect after it. -/
inductive Clearing where
  | halt
  | provision
  deriving DecidableEq, Repr

/-- SECSTATE (R395), the power states (R409), keys and attestation (R396, R398). -/
structure Sconce where
  sec : BitVec 2 := 0
  dbg : BitVec 2 := 0
  pwr : BitVec 2 := 0
  fw : BitVec 2 := 0
  pwrReq : BitVec 2 := 0
  pwrRefused : Bool := false
  /-- a power transition under way, to this state -/
  pwrTo : Option (BitVec 2) := none
  clearing : Option Clearing := none
  keys : Tbl (List Byte) := []
  /-- CXL IDE keys of the trained links (R45, R399) -/
  ideKeys : Tbl (List Byte) := []
  /-- ATTNONCE of master m at key 64m + byte -/
  attNonce : Tbl Byte := []
  /-- masters whose report is being built (ATTSTAT 1) -/
  attBusy : List Nat := []
  reports : Tbl (List Byte) := []
  log : List LogEntry := []
  deriving DecidableEq, Repr

/-- A poisoned word that an instruction of an agent has overwritten in part (R392): whether it is of the
agent's scratch, the word, and the mask of the bytes overwritten. -/
structure Overwrite where
  slot : Nat
  scratch : Bool
  word : Nat
  mask : Nat
  deriving DecidableEq, Repr

/-- Whose turn it is (MODEL, log entry 1): an agent's next instruction, with the elements, rows or
positions it may perform before it stops (R380), or an event of the device. -/
inductive Turn where
  | agent (slot : Nat) (budget : Option Nat)
  | event (i : Instr)
  deriving DecidableEq, Repr

structure State where
  /-- bytes of HBM (R96) and host memory (R97) by PA with bit 51 clear; a byte not listed is 0
  (R411; log entry 5) -/
  mem : List Host.Cell := []
  /-- poisoned 64-bit words of memory, by PA of the word (R392) -/
  memPoison : List Nat := []
  /-- harts by slot: 2 × core pair + side (R6), and Lamplighter runtimes at 1280 + die (R56) -/
  harts : Tbl Hart := []
  /-- core pairs that are not at reset, by number -/
  pairs : Tbl Pair := []
  /-- barrier n of die d at key 64d + n, where not at reset (R323) -/
  barriers : Tbl BarrierCell := []
  partitions : Tbl Partition := []
  tasks : List Task := []
  gangs : List Gang := []
  /-- valid entries of the window mapping table, each the 64-byte image (R353) -/
  windows : Tbl (BitVec 512) := []
  transfers : List Transfer := []
  merges : List MergeWindow := []
  deliveries : List Delivery := []
  /-- egress order, oldest first (R359) -/
  egress : List Reflected := []
  /-- words held by the combining windows of the stacks, most recently used first (R367) -/
  combining : List Nat := []
  /-- stores to host memory the host's coherence has not accepted, oldest first (R310) -/
  hostStores : List HostStore := []
  /-- MODEL: count of the stores to host memory that have been made, which numbers them (log entry 57) -/
  hostStamp : Nat := 0
  /-- lines of host memory whose next access the host answers with an error (R97) -/
  hostErrors : List Nat := []
  /-- translations made and not withdrawn (R99) -/
  tlb : List Translation := []
  /-- lines that coordinate batches in Wick queues were read from and that nothing has written since:
  number of the batch, and line (R149) -/
  watch : List (Nat × Nat) := []
  /-- REPL pages in replicated mode, by PA[51:16] of their first byte (R226) -/
  replicated : List Nat := []
  /-- tracked REPL pages, at most 4096 for each quadrant (R227) -/
  tracked : List ReplPage := []
  /-- the route of each path that has carried a store: device, receive window, and the devices of the
  route by identifier (R371, R372) -/
  routes : List (BitVec 16 × BitVec 12 × List (BitVec 16)) := []
  mailbox : Mailbox := {}
  sconce : Sconce := {}
  /-- BCNCFG (R370) -/
  bcncfg : Word := 0
  /-- failed parts of the fabric, as the owner reported them (R372) -/
  failed : List FabricPart := []
  /-- core pairs whose Mearil link has failed (R393) -/
  mearilFailed : List Nat := []
  /-- the board straps choose two ×8 links rather than one ×16 link (R44; log entry 47) -/
  twoLinks : Bool := true
  /-- trained host links: link 0 and link 1 (R44, R97) -/
  linkUp : BitVec 2 := 0
  /-- what each link last came up as, by link (R45; log entry 75) -/
  hostLinks : Tbl HostLink := []
  hostReply : Option HostReply := none
  /-- GANGIDs are handed out from this count (MODEL, log entry 9); 0 names no gang -/
  nextGang : Nat := 1
  /-- identifiers of transfers, deliveries and reflected stores (MODEL, log entry 9) -/
  nextId : Nat := 0
  /-- MODEL: what acts next, oldest first (log entry 1) -/
  agenda : List Turn := []
  /-- MODEL: count of the events that the device brought about by itself (log entry 1) -/
  tick : Nat := 0
  /-- MODEL: the agent whose instruction is being executed (log entry 2) -/
  turn : Option Nat := none
  /-- MODEL: elements, rows or positions that instruction may perform before it stops (log entry 3) -/
  budget : Option Nat := none
  /-- MODEL: poisoned words that the stores of instructions in progress have overwritten in part (R392;
  log entry 58) -/
  overwritten : List Overwrite := []
  /-- MODEL: count of free values drawn (log entry 3) -/
  fresh : Nat := 0
  deriving DecidableEq, Repr

/-- Why the machine stops with a fault. -/
inductive Fault where
  /-- A host, debug or loader access names an address outside all memory (R96), for which the
  manual gives no effect. Raised by HOST_HDM_WRITE, HOST_HDM_READ and DEBUG_MEMORY_WRITE. Safe:
  the machine stops. -/
  | outsideAllMemory (addr : Nat)
  deriving DecidableEq, Repr

/-- Why the machine refuses. -/
inductive Refusal where
  /-- An instruction whose meaning is not written. Raised by the arms of exec only. Safe. -/
  | notModelled (mnemonic : String)
  /-- An encoded instruction is executed where no agent issues it: `turn` names no hart. Raised by
  the shared issue operation; step never does it. Safe: the machine stops. -/
  | noAgent
  deriving DecidableEq, Repr

/-- The registers of a hart before its first instruction (R17): every register 0, m0 all ones, p0
true; VTYPE 0x9 (R239). -/
def Regs.initial : Regs where
  pc := 0
  vstart := 0
  vl := 0
  vtype := 0x09
  s := Vector.replicate 64 0
  v := Vector.replicate 64 0
  m := (Vector.replicate 16 0).set 0 (BitVec.allOnes 1024)
  p := (Vector.replicate 8 false).set 0 true
  q := Vector.replicate 16 {}
  e := Vector.replicate 4 {}
  loops := {}

/-- A hart with the register values of R17, of no gang yet. -/
def Hart.initial : Hart where
  regs := Regs.initial
  perf := Vector.replicate 16 0

/-- The machine right after reset (R411): Unowned, in Summer, DBG None, the firmware being verified
(R395), no partition, no hart, every HBM byte zero, the window table invalid. -/
def State.reset : State := {}

end Sys2Proof.Machine
end

