-- ==== Sys2Proof/Machine/Tables.lean ====
section
/-! DEFINITION. Operations on tables by number, on the memory's list of cells and on register
files. A table keeps its keys strictly rising. -/

namespace Sys2Proof.Machine

/-- The entry at a key, if listed. -/
def tblGet {α : Type} : Tbl α → Nat → Option α
  | [], _ => none
  | (k', a) :: r, k => if k' = k then some a else tblGet r k

/-- The entry at a key, or a default. -/
def tblGetD {α : Type} (t : Tbl α) (k : Nat) (d : α) : α := (tblGet t k).getD d

/-- Writes an entry, keeping the order. -/
def tblSet {α : Type} : Tbl α → Nat → α → Tbl α
  | [], k, a => [(k, a)]
  | (k', b) :: r, k, a =>
    if k < k' then (k, a) :: (k', b) :: r
    else if k = k' then (k, a) :: r
    else (k', b) :: tblSet r k a

/-- Removes an entry. -/
def tblDel {α : Type} (t : Tbl α) (k : Nat) : Tbl α := t.filter fun p => p.1 != k

/-- Writes an entry, or removes it when it equals the default, so that equal contents are equal
tables. -/
def tblPut {α : Type} [DecidableEq α] (t : Tbl α) (k : Nat) (a d : α) : Tbl α :=
  if a = d then tblDel t k else tblSet t k a

/-- Keys strictly rising. -/
def tblSorted {α : Type} : Tbl α → Bool
  | [] => true
  | [_] => true
  | (k, _) :: (k', b) :: r => decide (k < k') && tblSorted ((k', b) :: r)

/-- The canonical form of a table with a default: keys strictly rising, no entry the default. -/
def tblCanonical {α : Type} [DecidableEq α] (t : Tbl α) (d : α) : Bool :=
  tblSorted t && t.all fun p => p.2 != d

/-- The canonical form of the memory's cells. -/
def Memory.wf (m : List Host.Cell) : Bool := tblCanonical m 0

/-- A byte of memory: one not listed reads 0. -/
def Memory.read (m : List Host.Cell) (a : Nat) : Byte := tblGetD m a 0

/-- Writes a byte of memory. -/
def Memory.write (m : List Host.Cell) (a : Nat) (b : Byte) : List Host.Cell := tblPut m a b 0

/-- Writes bytes from an address upward. -/
def Memory.writeBytes : List Host.Cell → Nat → List Byte → List Host.Cell
  | m, _, [] => m
  | m, a, b :: bs => Memory.writeBytes (Memory.write m a b) (a + 1) bs

/-- Inserts a number into a sorted list without repeats. -/
def insertNat : List Nat → Nat → List Nat
  | [], k => [k]
  | k' :: r, k => if k < k' then k :: k' :: r else if k = k' then k' :: r else k' :: insertNat r k

/-- A register of a file. -/
def rget {n : Nat} {α : Type} (f : RegFile n α) (i : BitVec n) : α := f[i.toNat]'(i.isLt)

/-- Writes a register of a file. -/
def rset {n : Nat} {α : Type} (f : RegFile n α) (i : BitVec n) (a : α) : RegFile n α := f.set i.toNat a i.isLt

/-- Reading a list at a position with a default. -/
def listGetD {α : Type} (l : List α) (i : Nat) (d : α) : α := (l[i]?).getD d

/-- Little-endian value of bytes (R11). -/
def leNat : List Byte → Nat
  | [] => 0
  | b :: bs => b.toNat + 256 * leNat bs

/-- The `n` little-endian bytes of a value (R11). -/
def leBytes : Nat → Nat → List Byte
  | 0, _ => []
  | n + 1, v => BitVec.ofNat 8 v :: leBytes n (v / 256)

/-- The bits [lo + w − 1 : lo] of a word, as a number. -/
def bits (x : Word) (lo w : Nat) : Nat := (x.toNat >>> lo) % 2 ^ w

/-- A word with bits [lo + w − 1 : lo] replaced. -/
def withBits (x : Word) (lo w : Nat) (v : Nat) : Word :=
  BitVec.ofNat 64 (x.toNat - (((x.toNat >>> lo) % 2 ^ w) <<< lo) + ((v % 2 ^ w) <<< lo))

/-- Sign extension of a 32-bit immediate (R109). -/
def sext32 (v : BitVec 32) : Word := v.signExtend 64

end Sys2Proof.Machine
end

