-- ==== Sys2Proof/Machine/Elements.lean ====
section
/-! DEFINITION. Integer formats and the integer operations that the scalar and the vector
instructions share (R159, R160, R192, R193, R247). A value of width w is held in the low w bits of a
64-bit word whose other bits are zero. -/

namespace Sys2Proof

open Machine

/-- The low `w` bits of a word. -/
def low (w : Nat) (x : Word) : Word := (x.setWidth w).setWidth 64

/-- A w-bit value read as an integer by the type's signedness (R159). -/
def Ty.int (t : Ty) (x : Word) : Int :=
  if t.isSigned then (x.setWidth t.width).toInt else ((x.setWidth t.width).toNat : Int)

/-- An integer reduced modulo 2^w (R160). -/
def wrap (w : Nat) (x : Int) : Word := (BitVec.ofInt w x).setWidth 64

/-- Least and greatest value of an integer type (R159). -/
def Ty.minInt (t : Ty) : Int := if t.isSigned then -(2 ^ (t.width - 1) : Int) else 0
def Ty.maxInt (t : Ty) : Int := if t.isSigned then 2 ^ (t.width - 1) - 1 else 2 ^ t.width - 1

/-- The nearest value of the type's range (R160). -/
def Ty.clamp (t : Ty) (x : Int) : Int := if x < t.minInt then t.minInt else if t.maxInt < x then t.maxInt else x

/-- An exact integer narrowed to the type: saturated, or modulo 2^w (R160, R192, R247). -/
def Ty.narrow (t : Ty) (sat : Bool) (x : Int) : Word := wrap t.width (if sat then t.clamp x else x)

/-- A w-bit value extended to 64 bits as its type says (R190). -/
def Ty.place (t : Ty) (x : Word) : Word :=
  if t.isSigned then (x.setWidth t.width).signExtend 64 else low t.width x

/-- Quotient rounded toward zero, with R160 for a zero divisor and for the overflow. -/
def Ty.quot (t : Ty) (a b : Word) : Word :=
  if low t.width b = 0 then wrap t.width (-1) else wrap t.width (Int.tdiv (t.int a) (t.int b))

/-- Remainder a − b × quotient, with R160. -/
def Ty.rest (t : Ty) (a b : Word) : Word :=
  if low t.width b = 0 then low t.width a else wrap t.width (Int.tmod (t.int a) (t.int b))

/-- The high w bits of the product of 2w bits (R192). -/
def Ty.mulHigh (t : Ty) (a b : Word) : Word := wrap t.width (Int.fdiv (t.int a * t.int b) (2 ^ t.width))

/-- Lesser and greater, by the type's signedness (R192). -/
def Ty.lesser (t : Ty) (a b : Word) : Word := low t.width (if t.int b < t.int a then b else a)
def Ty.greater (t : Ty) (a b : Word) : Word := low t.width (if t.int a < t.int b then b else a)

/-- Shifts by b mod w (R192, R247); the right shift of `shiftRightA` copies bit w − 1 whatever the
type. -/
def Ty.shiftLeft (t : Ty) (a b : Word) : Word := low t.width (a <<< ((low t.width b).toNat % t.width))
def Ty.shiftRight (t : Ty) (a b : Word) : Word := low t.width a >>> ((low t.width b).toNat % t.width)
def Ty.shiftRightA (t : Ty) (a b : Word) : Word :=
  ((a.setWidth t.width).sshiftRight ((low t.width b).toNat % t.width)).setWidth 64

/-- Bits of a w-bit value from the top while `x` has none set (R193). -/
def leadingZeros : Nat → Word → Nat
  | 0, _ => 0
  | w + 1, x => if x.getLsbD w then 0 else 1 + leadingZeros w x

/-- Trailing zero bits of the bits from `i` up, `n` of them (R193). -/
def trailingZeros : Nat → Nat → Word → Nat
  | 0, _, _ => 0
  | n + 1, i, x => if x.getLsbD i then 0 else 1 + trailingZeros n (i + 1) x

/-- Set bits among the low `n` (R193). -/
def popCount : Nat → Word → Nat
  | 0, _ => 0
  | n + 1, x => (if x.getLsbD n then 1 else 0) + popCount n x

/-- Bit i moved to bit w − 1 − i, for the low `n` bits of a w-bit value (R193). -/
def bitReverse (w : Nat) : Nat → Word → Word
  | 0, _ => 0
  | n + 1, x => bitReverse w n x ||| (if x.getLsbD n then BitVec.ofNat 64 (2 ^ (w - 1 - n)) else 0)

/-- Byte j moved to byte n − 1 − j, for the low `n` bytes (R193). -/
def byteSwap (n : Nat) (x : Word) : Word := BitVec.ofNat 64 (leNat (leBytes n x.toNat).reverse)

/-! ## Elements of a vector register (R238) -/

/-- Element i of width w. -/
def elemGet (r : VReg) (w i : Nat) : Word := (r.extractLsb' (i * w) w).setWidth 64

/-- Writes element i of width w; positions past the register are not written. -/
def elemSet (r : VReg) (w i : Nat) (x : Word) : VReg :=
  let ones : VReg := BitVec.ofNat 8192 (2 ^ w - 1) <<< (i * w)
  (r &&& ~~~ones) ||| (((low w x).setWidth 8192) <<< (i * w))

/-- Bit i of a mask. -/
def maskBit (m : MReg) (i : Nat) : Bool := m.getLsbD i

/-- Writes bit i of a mask. -/
def maskSet (m : MReg) (i : Nat) (b : Bool) : MReg :=
  let one : MReg := 1#1024 <<< i
  if b then m ||| one else m &&& ~~~one

/-- Set bits of a mask among bits 0 to n − 1 (R204). -/
def maskCount : Nat → MReg → Nat
  | 0, _ => 0
  | n + 1, m => maskCount n m + if m.getLsbD n then 1 else 0

/-- The lowest set bit among the `n` bits from `i` (R204). -/
def maskFirst : Nat → Nat → MReg → Option Nat
  | 0, _, _ => none
  | n + 1, i, m => if m.getLsbD i then some i else maskFirst n (i + 1) m

/-- VLMAX of an element type (R239). -/
def Ty.vlmax (t : Ty) : Nat := 8192 / t.slotWidth

end Sys2Proof
end

