-- ==== Sys2Proof/Machine/Float.lean ====
section
/-! DEFINITION. Floating formats and arithmetic (R157 to R166): every operation is exact on dyadic
numbers and rounded once. -/

namespace Sys2Proof

/-- What a format does with its greatest exponent (R157). -/
inductive Special where
  /-- infinities and NaNs -/
  | ieee
  /-- only S.1111.111 is a NaN -/
  | e4m3
  /-- ordinary values only: the MX element formats -/
  | none
  deriving DecidableEq, Repr

/-- A floating format (R157): exponent bits, fraction bits and bias. -/
structure Fmt where
  ebits : Nat
  fbits : Nat
  bias : Nat
  special : Special
  deriving DecidableEq, Repr

def Fmt.f64 : Fmt := ⟨11, 52, 1023, .ieee⟩
def Fmt.f32 : Fmt := ⟨8, 23, 127, .ieee⟩
def Fmt.f16 : Fmt := ⟨5, 10, 15, .ieee⟩
def Fmt.bf16 : Fmt := ⟨8, 7, 127, .ieee⟩
def Fmt.e4m3 : Fmt := ⟨4, 3, 7, .e4m3⟩
def Fmt.e5m2 : Fmt := ⟨5, 2, 15, .ieee⟩
def Fmt.e3m2 : Fmt := ⟨3, 2, 3, .none⟩
def Fmt.e2m3 : Fmt := ⟨2, 3, 1, .none⟩
def Fmt.e2m1 : Fmt := ⟨2, 1, 1, .none⟩

/-- The format of a floating type (R114); other types do not reach it. -/
def Ty.fmt : Ty → Fmt
  | .f64 => .f64 | .f16 => .f16 | .bf16 => .bf16 | .e4m3 => .e4m3 | .e5m2 => .e5m2
  | _ => .f32

def Fmt.width (f : Fmt) : Nat := 1 + f.ebits + f.fbits

/-- A floating value: a NaN, an infinity, a zero or ± m × 2^e with m > 0. -/
inductive FVal where
  | nan (signalling : Bool)
  | inf (neg : Bool)
  | zero (neg : Bool)
  | fin (neg : Bool) (m : Nat) (e : Int)
  deriving DecidableEq, Repr

/-- The five flags, at their places in FCSR (R167). -/
abbrev FFlags := BitVec 8

def FFlags.nx : FFlags := 0x08
def FFlags.uf : FFlags := 0x10
def FFlags.of : FFlags := 0x20
def FFlags.dz : FFlags := 0x40
def FFlags.nv : FFlags := 0x80

/-- The rounding modes of R163. -/
inductive Round where
  | rne | rtz | rup | rdn | rmm
  deriving DecidableEq, Repr

/-- How FZ treats subnormals (R166). -/
structure Flush where
  input : Bool := false
  output : Bool := false
  deriving DecidableEq, Repr

/-- FZ of VTYPE[5:4] (R166). -/
def Flush.ofFz (fz : BitVec 2) : Flush := { input := fz.getLsbD 1, output := fz.getLsbD 0 }

def Fmt.sign (f : Fmt) (x : Word) : Bool := x.getLsbD (f.ebits + f.fbits)
def Fmt.expo (f : Fmt) (x : Word) : Nat := (x.toNat >>> f.fbits) % 2 ^ f.ebits
def Fmt.frac (f : Fmt) (x : Word) : Nat := x.toNat % 2 ^ f.fbits

/-- The value of a bit pattern (R157, R158). -/
def Fmt.value (f : Fmt) (x : Word) : FVal :=
  let s := f.sign x
  let e := f.expo x
  let m := f.frac x
  let top := 2 ^ f.ebits - 1
  if e = top ∧ f.special = .ieee then
    if m = 0 then .inf s else .nan (m < 2 ^ (f.fbits - 1))
  else if e = top ∧ f.special = .e4m3 ∧ m = 2 ^ f.fbits - 1 then .nan false
  else if e = 0 then
    if m = 0 then .zero s else .fin s m (1 - (f.bias : Int) - f.fbits)
  else .fin s (2 ^ f.fbits + m) ((e : Int) - f.bias - f.fbits)

/-- A pattern is subnormal: exponent 0 and fraction not 0 (R157). -/
def Fmt.isSubnormal (f : Fmt) (x : Word) : Bool := f.expo x == 0 && f.frac x != 0

/-- A source value after input flushing (R166). -/
def Fmt.read (f : Fmt) (fl : Flush) (x : Word) : FVal :=
  if fl.input && f.isSubnormal x then .zero (f.sign x) else f.value x

/-- A source's bits after input flushing (R166). -/
def Fmt.flushBits (f : Fmt) (fl : Flush) (x : Word) : Word :=
  if fl.input && f.isSubnormal x then (if f.sign x then BitVec.ofNat 64 (2 ^ (f.width - 1)) else 0)
  else low f.width x

/-- The bits of a sign, an exponent field and a fraction field. -/
def Fmt.make (f : Fmt) (neg : Bool) (e m : Nat) : Word :=
  BitVec.ofNat 64 ((if neg then 2 ^ (f.ebits + f.fbits) else 0) + e * 2 ^ f.fbits + m)

/-- The canonical NaN (R158). -/
def Fmt.canonicalNan (f : Fmt) : Word :=
  match f.special with
  | .e4m3 => f.make false (2 ^ f.ebits - 1) (2 ^ f.fbits - 1)
  | _ => f.make false (2 ^ f.ebits - 1) (2 ^ (f.fbits - 1))

def Fmt.zeroBits (f : Fmt) (neg : Bool) : Word := f.make neg 0 0

/-- An infinite result; E4M3 has none and takes its NaN with NV (R164). -/
def Fmt.infBits (f : Fmt) (neg : Bool) : Word × FFlags :=
  match f.special with
  | .e4m3 => (f.canonicalNan, FFlags.nv)
  | _ => (f.make neg (2 ^ f.ebits - 1) 0, 0)

/-- The largest finite value (R157). -/
def Fmt.maxBits (f : Fmt) (neg : Bool) : Word :=
  match f.special with
  | .ieee => f.make neg (2 ^ f.ebits - 2) (2 ^ f.fbits - 1)
  | .e4m3 => f.make neg (2 ^ f.ebits - 1) (2 ^ f.fbits - 2)
  | .none => f.make neg (2 ^ f.ebits - 1) (2 ^ f.fbits - 1)

/-- Whether a discarded part rounds the magnitude up (R163): `rem` out of `2 * half`, with `sticky`
for a further non-zero part below it; `odd` is the last kept bit. -/
def Round.up (r : Round) (neg odd : Bool) (rem half : Nat) (sticky : Bool) : Bool :=
  match r with
  | .rne => decide (half < rem) || (rem == half && (sticky || odd))
  | .rmm => decide (half ≤ rem)
  | .rtz => false
  | .rup => !neg && (rem != 0 || sticky)
  | .rdn => neg && (rem != 0 || sticky)

/-- Overflow by rounding mode (R163). -/
def Fmt.overflow (f : Fmt) (r : Round) (neg : Bool) : Word × FFlags :=
  let toInf : Bool := match r with
    | .rne | .rmm => true
    | .rtz => false
    | .rup => !neg
    | .rdn => neg
  (if toInf then f.make neg (2 ^ f.ebits - 1) 0 else f.maxBits neg, FFlags.of ||| FFlags.nx)

/-- E4M3 beyond 448 (R164): `above` says how the exact magnitude compares with 464. -/
def e4m3Beyond (r : Round) (neg : Bool) (above : Ordering) : Word × FFlags :=
  let stays : Bool := match r with
    | .rne => above != .gt
    | .rmm => above == .lt
    | .rtz => true
    | .rup => neg
    | .rdn => !neg
  if stays then (Fmt.e4m3.maxBits neg, FFlags.nx) else (Fmt.e4m3.canonicalNan, FFlags.of ||| FFlags.nx)

/-- Compares (m + sticky) × 2^e with an integer `k`. -/
def cmpNat (m : Nat) (e : Int) (sticky : Bool) (k : Nat) : Ordering :=
  let a := m * 2 ^ e.toNat
  let b := k * 2 ^ (-e).toNat
  if a < b then .lt else if b < a then .gt else if sticky then .gt else .eq

/-- Rounds the exact magnitude m × 2^e (m > 0), plus a part below its last bit when `sticky`, to a
format (R161, R163, R164), flushing a tiny result when the format's user asks for it (R166). -/
def Fmt.round (f : Fmt) (r : Round) (flushOut : Bool) (neg : Bool) (m : Nat) (e : Int) (sticky : Bool) : Word × FFlags :=
  let emin : Int := 1 - (f.bias : Int)
  let top : Int := e + Nat.log2 m
  let tiny : Bool := decide (top < emin)
  if tiny && flushOut then (f.zeroBits neg, FFlags.uf ||| FFlags.nx)
  else if f.special = .e4m3 ∧ cmpNat m e sticky 448 = .gt then e4m3Beyond r neg (cmpNat m e sticky 464)
  else
    let q : Int := max (top - f.fbits) (emin - f.fbits)
    let s : Nat := (q - e).toNat
    let kept : Nat := if e ≤ q then m / 2 ^ s else m * 2 ^ (e - q).toNat
    let rem : Nat := if e ≤ q then m % 2 ^ s else 0
    let half : Nat := if s = 0 then 1 else 2 ^ (s - 1)
    let up : Bool := r.up neg (kept % 2 == 1) rem half sticky
    let kept' : Nat := if up then kept + 1 else kept
    let inexact : Bool := rem != 0 || sticky
    let carry : Bool := kept' == 2 ^ (f.fbits + 1)
    let mant : Nat := if carry then 2 ^ f.fbits else kept'
    let qe : Int := if carry then q + 1 else q
    let normal : Bool := decide (2 ^ f.fbits ≤ mant)
    let field : Nat := if normal then (qe + f.fbits + f.bias).toNat else 0
    let topField : Nat := 2 ^ f.ebits - (if f.special = .ieee then 2 else 1)
    if topField < field then f.overflow r neg
    else
      (f.make neg field (if normal then mant - 2 ^ f.fbits else mant),
        (if inexact then FFlags.nx else 0) ||| (if tiny && inexact then FFlags.uf else 0))

/-- The result of a value: rounded when finite. -/
def Fmt.result (f : Fmt) (r : Round) (flushOut : Bool) (v : FVal) : Word × FFlags :=
  match v with
  | .nan _ => (f.canonicalNan, 0)
  | .inf n => f.infBits n
  | .zero n => (f.zeroBits n, 0)
  | .fin n m e => f.round r flushOut n m e false

def FVal.isNan : FVal → Bool
  | .nan _ => true
  | _ => false

def FVal.isSignalling : FVal → Bool
  | .nan s => s
  | _ => false

def FVal.isZero : FVal → Bool
  | .zero _ => true
  | _ => false

def FVal.neg : FVal → Bool
  | .nan _ => false
  | .inf n => n
  | .zero n => n
  | .fin n _ _ => n

/-- Sign change of a value that is no NaN. -/
def FVal.negate : FVal → FVal
  | .nan s => .nan s
  | .inf n => .inf (!n)
  | .zero n => .zero (!n)
  | .fin n m e => .fin (!n) m e

/-- NV for the signalling NaNs among sources (R161). -/
def nvOf (b : Bool) : FFlags := if b then FFlags.nv else 0

/-- The dyadic number n × 2^e with sign, or a zero of the sign that a cancelled sum takes. -/
def dyadic (r : Round) (n : Int) (e : Int) : FVal :=
  if n = 0 then .zero (r == .rdn) else .fin (decide (n < 0)) n.natAbs e

/-- Signed integer at exponent `e0 ≤ e` of ± m × 2^e. -/
def scaled (neg : Bool) (m : Nat) (e e0 : Int) : Int :=
  let x : Int := (m : Int) * 2 ^ (e - e0).toNat
  if neg then -x else x

/-- The exact sum of two values, and NV for ∞ − ∞ (R161). The sign of an exact zero follows
IEEE 754-2019 under the mode (R199). -/
def FVal.add (r : Round) (a b : FVal) : FVal × FFlags :=
  match a, b with
  | .nan _, _ => (.nan false, 0)
  | _, .nan _ => (.nan false, 0)
  | .inf x, .inf y => if x = y then (.inf x, 0) else (.nan false, FFlags.nv)
  | .inf x, _ => (.inf x, 0)
  | _, .inf y => (.inf y, 0)
  | .zero x, .zero y => (.zero (if x = y then x else r == .rdn), 0)
  | .zero _, .fin n m e => (.fin n m e, 0)
  | .fin n m e, .zero _ => (.fin n m e, 0)
  | .fin n m e, .fin n' m' e' =>
    let e0 := min e e'
    (dyadic r (scaled n m e e0 + scaled n' m' e' e0) e0, 0)

/-- The exact product of two values, and NV for 0 × ∞ (R161). -/
def FVal.mul (a b : FVal) : FVal × FFlags :=
  let s : Bool := a.neg != b.neg
  match a, b with
  | .nan _, _ => (.nan false, 0)
  | _, .nan _ => (.nan false, 0)
  | .inf _, .zero _ => (.nan false, FFlags.nv)
  | .zero _, .inf _ => (.nan false, FFlags.nv)
  | .inf _, _ => (.inf s, 0)
  | _, .inf _ => (.inf s, 0)
  | .zero _, _ => (.zero s, 0)
  | _, .zero _ => (.zero s, 0)
  | .fin _ m e, .fin _ m' e' => (.fin s (m * m') (e + e'), 0)

/-- a + b, rounded (R161). -/
def Fmt.add (f : Fmt) (r : Round) (fo : Bool) (a b : FVal) : Word × FFlags :=
  let (v, fl) := FVal.add r a b
  let (x, fl') := f.result r fo v
  (x, fl ||| fl' ||| nvOf (a.isSignalling || b.isSignalling))

/-- a − b, rounded. -/
def Fmt.sub (f : Fmt) (r : Round) (fo : Bool) (a b : FVal) : Word × FFlags := f.add r fo a b.negate

/-- a × b, rounded. -/
def Fmt.mul (f : Fmt) (r : Round) (fo : Bool) (a b : FVal) : Word × FFlags :=
  let (v, fl) := FVal.mul a b
  let (x, fl') := f.result r fo v
  (x, fl ||| fl' ||| nvOf (a.isSignalling || b.isSignalling))

/-- ±(a × b) ± c with one rounding (R199). 0 × ∞ raises NV even when c is a quiet NaN. -/
def Fmt.fma (f : Fmt) (r : Round) (fo : Bool) (negProduct negC : Bool) (a b c : FVal) : Word × FFlags :=
  let (p, fl) := FVal.mul a b
  let p := if negProduct then p.negate else p
  let c' := if negC then c.negate else c
  let (v, fl') := FVal.add r p c'
  let (x, fl'') := f.result r fo v
  (x, fl ||| fl' ||| fl'' ||| nvOf (a.isSignalling || b.isSignalling || c.isSignalling))

/-- a ÷ b, rounded (R161): NV for 0 ÷ 0 and ∞ ÷ ∞, DZ for a finite value by zero. -/
def Fmt.div (f : Fmt) (r : Round) (fo : Bool) (a b : FVal) : Word × FFlags :=
  let s : Bool := a.neg != b.neg
  let nv := nvOf (a.isSignalling || b.isSignalling)
  match a, b with
  | .nan _, _ => (f.canonicalNan, nv)
  | _, .nan _ => (f.canonicalNan, nv)
  | .inf _, .inf _ => (f.canonicalNan, FFlags.nv)
  | .zero _, .zero _ => (f.canonicalNan, FFlags.nv)
  | .inf _, _ => f.infBits s
  | _, .inf _ => (f.zeroBits s, 0)
  | .zero _, _ => (f.zeroBits s, 0)
  | .fin _ _ _, .zero _ => ((f.infBits s).1, (f.infBits s).2 ||| FFlags.dz)
  | .fin _ m e, .fin _ m' e' =>
    let k : Nat := f.fbits + 3 + Nat.log2 m'
    f.round r fo s (m * 2 ^ k / m') (e - e' - k) (m * 2 ^ k % m' != 0)

/-- The greatest r + s with (r + s)² ≤ x, s below 2^i: the integer square root, bit by bit. -/
def isqrtFrom (x : Nat) : Nat → Nat → Nat
  | 0, r => r
  | i + 1, r => isqrtFrom x i (if (r + 2 ^ i) * (r + 2 ^ i) ≤ x then r + 2 ^ i else r)

/-- √a, rounded (R161): NV below −0. -/
def Fmt.sqrt (f : Fmt) (r : Round) (fo : Bool) (a : FVal) : Word × FFlags :=
  match a with
  | .nan s => (f.canonicalNan, nvOf s)
  | .zero n => (f.zeroBits n, 0)
  | .inf n => if n then (f.canonicalNan, FFlags.nv) else f.infBits false
  | .fin n m e =>
    if n then (f.canonicalNan, FFlags.nv)
    else
      let k : Nat := 2 * (f.fbits + 4) + (if (e % 2 : Int) = 0 then 0 else 1)
      let x : Nat := m * 2 ^ k
      let root : Nat := isqrtFrom x (Nat.log2 x / 2 + 1) 0
      f.round r fo false root ((e - k) / 2) (root * root != x)

/-- a < b of two values that are no NaN; −0 equals +0. -/
def FVal.lt (a b : FVal) : Bool :=
  match a, b with
  | .nan _, _ => false
  | _, .nan _ => false
  | .inf x, .inf y => x && !y
  | .inf x, _ => x
  | _, .inf y => !y
  | .zero _, .zero _ => false
  | .zero _, .fin n _ _ => !n
  | .fin n _ _, .zero _ => n
  | .fin n m e, .fin n' m' e' => let e0 := min e e'; decide (scaled n m e e0 < scaled n' m' e' e0)

/-- a = b of two values that are no NaN; −0 equals +0. -/
def FVal.eq (a b : FVal) : Bool := !a.isNan && !b.isNan && !a.lt b && !b.lt a

/-- a comes before b for the minimum: −0 counts as less than +0 (R162). -/
def FVal.before (a b : FVal) : Bool := a.lt b || (a.isZero && b.isZero && a.neg && !b.neg)

/-- minimumNumber and maximumNumber (R162) on bit patterns after input flushing. -/
def Fmt.minMax (f : Fmt) (isMax : Bool) (x y : Word) : Word × FFlags :=
  let a := f.value x
  let b := f.value y
  let nv := nvOf (a.isSignalling || b.isSignalling)
  if a.isNan && b.isNan then (f.canonicalNan, nv)
  else if a.isNan then (low f.width y, nv)
  else if b.isNan then (low f.width x, nv)
  else
    let takeA : Bool := if isMax then b.before a else a.before b
    let tie : Bool := !(a.before b) && !(b.before a)
    (low f.width (if takeA || tie then x else y), nv)

/-- Conversion between formats (R161, R163, R164). -/
def Fmt.convert (dst : Fmt) (r : Round) (fo : Bool) (a : FVal) : Word × FFlags :=
  let (x, fl) := dst.result r fo a
  (x, fl ||| nvOf a.isSignalling)

/-- The integer nearest to ± m × 2^e by a mode, and whether it is inexact (R165). -/
def roundToInt (r : Round) (neg : Bool) (m : Nat) (e : Int) : Int × Bool :=
  let s : Nat := (-e).toNat
  let kept : Nat := if 0 ≤ e then m * 2 ^ e.toNat else m / 2 ^ s
  let rem : Nat := if 0 ≤ e then 0 else m % 2 ^ s
  let half : Nat := if s = 0 then 1 else 2 ^ (s - 1)
  let k : Nat := if r.up neg (kept % 2 == 1) rem half false then kept + 1 else kept
  (if neg then -(k : Int) else (k : Int), rem != 0)

/-- Floating point to an integer type (R165). -/
def FVal.toInt (t : Ty) (r : Round) (a : FVal) : Word × FFlags :=
  match a with
  | .nan _ => (0, FFlags.nv)
  | .inf n => (wrap t.width (if n then t.minInt else t.maxInt), FFlags.nv)
  | .zero _ => (0, 0)
  | .fin n m e =>
    let (k, inexact) := roundToInt r n m e
    if k < t.minInt ∨ t.maxInt < k then (wrap t.width (t.clamp k), FFlags.nv)
    else (wrap t.width k, if inexact then FFlags.nx else 0)

/-- An integer to floating point (R165). -/
def Fmt.ofInt (f : Fmt) (r : Round) (fo : Bool) (x : Int) : Word × FFlags :=
  if x = 0 then (f.zeroBits false, 0) else f.round r fo (decide (x < 0)) x.natAbs 0 false

/-- The class of a value, one bit of ten (R201). -/
def Fmt.classBits (f : Fmt) (fl : Flush) (x : Word) : Word :=
  let sub := f.isSubnormal x && !fl.input
  BitVec.ofNat 64 (2 ^ (match f.read fl x with
    | .inf n => if n then 0 else 7
    | .fin n _ _ => if n then (if sub then 2 else 1) else (if sub then 5 else 6)
    | .zero n => if n then 3 else 4
    | .nan s => if s then 8 else 9))

/-- The comparisons of R202 and R254: the result and NV. -/
def FVal.compare (c : Cond) (a b : FVal) : Bool × FFlags :=
  let nan := a.isNan || b.isNan
  let sig := a.isSignalling || b.isSignalling
  match c with
  | .eq => (a.eq b, nvOf sig)
  | .ne => (!a.eq b, nvOf sig)
  | .lt => (!nan && a.lt b, nvOf nan)
  | .ge => (!nan && !a.lt b, nvOf nan)
  | .un => (nan, nvOf sig)

/-- Sign copies (R199): magnitude of a with a sign made from both. -/
def Fmt.signCopy (f : Fmt) (s : Bool) (x : Word) : Word :=
  let top : Word := BitVec.ofNat 64 (2 ^ (f.width - 1))
  let mag : Word := low f.width x &&& ~~~top
  if s then mag ||| top else mag

/-- The immediate of a floating type (R109): FP32 widened to FP64 exactly, a NaN keeping its sign,
its quiet bit and its fraction; narrower formats take their low bits. -/
def Ty.floatImm (t : Ty) (v : BitVec 32) : Word :=
  match t with
  | .f64 =>
    let x : Word := v.setWidth 64
    match Fmt.f32.value x with
    | .nan _ => Fmt.f64.make (Fmt.f32.sign x) 2047 (Fmt.f32.frac x * 2 ^ 29)
    | a => (Fmt.f64.result .rne false a).1
  | _ => low t.width (v.setWidth 64)

/-- The value of an immediate operand of a type (R109). -/
def Ty.imm (t : Ty) (v : BitVec 32) : Word :=
  if t.isFloat then t.floatImm v
  else if t.width = 64 then (if t.isSigned then v.signExtend 64 else v.setWidth 64)
  else low t.width (v.setWidth 64)

/-! ## Sums of many products (R182 to R185) -/

/-- A sum in the making: infinities seen, a NaN, the exact finite part and whether every term so
far was a zero of one sign. -/
structure Acc where
  nan : Bool := false
  posInf : Bool := false
  negInf : Bool := false
  n : Int := 0
  e : Int := 0
  /-- the sign of the zeros while only zeros of one sign were added -/
  zeroSign : Option Bool := none
  mixed : Bool := false
  flags : FFlags := 0
  deriving DecidableEq, Repr

/-- Adds an exact term. -/
def Acc.add (s : Acc) (v : FVal) : Acc :=
  match v with
  | .nan _ => { s with nan := true }
  | .inf n => if n then { s with negInf := true } else { s with posInf := true }
  | .zero n => match s.zeroSign with
    | some z => if z = n then s else { s with mixed := true }
    | none => { s with zeroSign := some n }
  | .fin n m e =>
    let e0 := min s.e e
    { s with n := scaled (decide (s.n < 0)) s.n.natAbs s.e e0 + scaled n m e e0, e := e0, mixed := true }

/-- Adds the product of two elements, with the flags of R161. -/
def Acc.addProduct (s : Acc) (a b : FVal) : Acc :=
  let (p, fl) := FVal.mul a b
  let s := s.add p
  { s with flags := s.flags ||| fl ||| nvOf (a.isSignalling || b.isSignalling) }

/-- The exact sum, with NV for ∞ − ∞. A sum that is an exact zero takes the sign IEEE 754-2019 gives:
that of its terms when they are zeros of one sign, otherwise by the mode (DEDUCED, log entry 10). A sum
that holds a NaN raises no NV for infinities of both signs beside it (DESIGN CHOICE, log entry 10: R184
is silent). -/
def Acc.total (s : Acc) (r : Round) : FVal × FFlags :=
  if s.nan then (.nan false, s.flags)
  else if s.posInf && s.negInf then (.nan false, s.flags ||| FFlags.nv)
  else if s.posInf then (.inf false, s.flags)
  else if s.negInf then (.inf true, s.flags)
  else if s.mixed then (dyadic r s.n s.e, s.flags)
  else (.zero (s.zeroSign.getD false), s.flags)

/-! ## Format regions (R170 to R178) -/

/-- An MX element under its block's scale, decoded to BF16 (R177). -/
def decodeMx (f : Fmt) (c : Nat) (x : Word) : Word :=
  if c = 0 then 0
  else if c = 0xFF then 0x7FC0
  else match f.value x with
    | .nan _ => 0x7FC0
    | .inf _ => 0x7FC0
    | .zero n => Fmt.bf16.zeroBits n
    | .fin n m e => (Fmt.bf16.round .rne false n m (e + c - 127) false).1

/-- A BPN element from its first `planes` planes (R171): `bit p` is plane p's bit. -/
def decodeBpn (bit : Nat → Bool) : Nat → Nat
  | 0 => 0
  | p + 1 => decodeBpn bit p + if bit p then 2 ^ (7 - p) else 0

end Sys2Proof
end

