-- ==== Sys2Proof/Machine/Topology.lean ====
section
/-! DEFINITION. The package and its address map (R3 to R6, R96, R97, R219, R224, R225, R231, R235). -/

namespace Sys2Proof.Machine

/-- Core pair of a slot, its side, and its die (R4, R6). -/
def pairOf (slot : Nat) : Nat := slot / 2
def sideOf (slot : Nat) : Nat := slot % 2
def dieOfPair (pair : Nat) : Nat := pair / 40
def dieOf (slot : Nat) : Nat := if slot < 1280 then dieOfPair (pairOf slot) else slot - 1280
def siblingOf (slot : Nat) : Nat := if slot % 2 = 0 then slot + 1 else slot - 1

/-- Lamplighters hold the agent numbers from 1280 up, one for each die (R5, R56). -/
def isLamp (slot : Nat) : Bool := decide (1280 ≤ slot)
def lampOf (die : Nat) : Nat := 1280 + die

/-- Row and column of a core die (R3). -/
def dieRow (d : Nat) : Nat := d / 4
def dieCol (d : Nat) : Nat := d % 4

/-- The die that attaches a stack (R5). -/
def dieOfStack (k : Nat) : Nat := listGetD [0, 1, 2, 3, 4, 7, 8, 11, 12, 13, 14, 15] k 0

/-- Global mesh coordinates of a stop of a die (R4). -/
def stopX (die stop : Nat) : Nat := dieCol die * 5 + stop % 5
def stopY (die stop : Nat) : Nat := dieRow die * 4 + stop / 5

/-- Stop of a core pair and number of a core pair and of a slice (R4). -/
def stopOfPair (pair : Nat) : Nat := pair % 40 / 2
def pairNumber (die stop side : Nat) : Nat := die * 40 + stop * 2 + side
def sliceNumber (die stop : Nat) : Nat := die * 20 + stop

/-- Uncontended one-way time between two stops (R231). -/
def meshTime (die stop die' stop' : Nat) : Nat :=
  let dx := Int.natAbs ((stopX die stop : Int) - stopX die' stop')
  let dy := Int.natAbs ((stopY die stop : Int) - stopY die' stop')
  if dx = 0 ∧ dy = 0 then 0 else 1 + (dx + 7) / 8 + (dy + 7) / 8

/-- The quadrant of a stack and the core dies of a quadrant (R224). -/
def quadrantOfStack (k : Nat) : Nat := listGetD [0, 0, 1, 1, 0, 1, 2, 3, 2, 2, 3, 3] k 0
def diesOfQuadrant (q : Nat) : List Nat :=
  listGetD [[0, 1, 4, 5], [2, 3, 6, 7], [8, 9, 12, 13], [10, 11, 14, 15]] q []

/-! ## Physical addresses (R96, R97) -/

/-- Host memory: PA[51:50] = 01 (R97). -/
def isHostPa (pa : Nat) : Bool := pa / 2 ^ 50 % 4 == 1

/-- The link of a host PA (R97): true for link 1. -/
def hostLink (pa : Nat) : Bool := pa / 2 ^ 49 % 2 == 1

/-- The raw alias bit (R96, R174). -/
def isRawAlias (pa : Nat) : Bool := pa / 2 ^ 51 % 2 == 1

/-- The stack of a device PA (R96). -/
def stackOf (pa : Nat) : Nat := pa / 2 ^ 36 % 16

/-- Device memory (R96): PA[50:40] zero and PA[39:36] at most 11. -/
def isDevicePa (pa : Nat) : Bool := pa < 2 ^ 52 && pa % 2 ^ 51 / 2 ^ 40 == 0 && decide (stackOf pa < 12)

/-- Where the byte of a PA is kept: the raw alias names the same byte (R96). -/
def storageOf (pa : Nat) : Nat := if isRawAlias pa then pa % 2 ^ 51 else pa

/-- A stack belongs to a partition (R57). -/
def ownsStack (p : Partition) (k : Nat) : Bool := k < 12 && p.stackSet.getLsbD k
def ownsDie (p : Partition) (d : Nat) : Bool := d < 16 && p.dieSet.getLsbD d

/-- A PA lies in the partition's stacks (R95). -/
def inStacks (p : Partition) (pa : Nat) : Bool := isDevicePa pa && ownsStack p (stackOf pa)

/-- The fold of a line number (R225). -/
def homeFold (pa : Nat) : Nat :=
  let l := pa % 2 ^ 52 / 128
  Nat.xor (Nat.xor (l % 65536) (l / 65536 % 65536)) (l / 2 ^ 32 % 8192)

/-- The home slice of a physical line (R225; R97 for host memory). -/
def homeSlice (pa : Nat) : Nat :=
  let f := homeFold pa
  let q := if isHostPa pa then f / 80 % 4 else quadrantOfStack (stackOf pa)
  let idx := f % 80
  sliceNumber (listGetD (diesOfQuadrant q) (idx / 20) 0) (idx % 20)

/-- The pseudo-channel of a line (R235). -/
def pseudoChannel (pa : Nat) : Nat :=
  let l := pa / 128
  Nat.xor (Nat.xor (l % 64) (l / 64 % 64)) (l / 4096 % 64)

/-! ## The scratch window (R219) -/

def scratchBase : Nat := 0x7FFC0000000000
def wayBytes : Nat := 131072
def granuleBytes : Nat := 4096

/-- A virtual address lies in the window. -/
def inScratchWindow (va : Nat) : Bool := decide (scratchBase ≤ va) && decide (va < 2 ^ 55)

/-- The way that a window offset reaches, by side (R219). -/
def scratchWay (side off : Nat) : Nat := if side = 0 then off / wayBytes else 15 - off / wayBytes

/-! ## Dies of a partition -/

/-- The dies of a partition in ascending order: their ranks (R36). -/
def diesOf (p : Partition) : List Nat := (List.range 16).filter fun d => ownsDie p d

/-- The front end's die (R59). -/
def frontDie (p : Partition) : Nat := listGetD (diesOf p) 0 0

/-! ## The fabric and its routes (R370 to R372) -/

/-- A place in the fabric: A, B, X and Y of a device identifier. -/
structure Coord where
  a : Nat
  b : Nat
  x : Nat
  y : Nat
  deriving DecidableEq, Repr

def Coord.of (d : BitVec 16) : Coord := { a := d.toNat % 4, b := d.toNat / 4 % 2, x := d.toNat / 8 % 64, y := d.toNat / 512 % 64 }
def Coord.id (c : Coord) : BitVec 16 := BitVec.ofNat 16 (c.a + 4 * c.b + 8 * c.x + 512 * c.y)

def bcnDevid (w : Word) : BitVec 16 := w.extractLsb' 0 16
def bcnNa (w : Word) : Nat := bits w 16 2
def bcnNb (w : Word) : Nat := bits w 18 1
def bcnNx (w : Word) : Nat := bits w 19 6
def bcnNy (w : Word) : Nat := bits w 25 6
def bcnEn (w : Word) : Bool := w.getLsbD 31

/-- Positions passed on the way from `i` to `j` on a ring of `n` (R371): the shorter way, + on a tie. -/
def ringWalk (n i j : Nat) : List Nat :=
  let up := (j + n - i % n) % n
  if 2 * up ≤ n then (List.range up).map fun k => (i + k + 1) % n
  else (List.range (n - up)).map fun k => (i + n - (k + 1) % n) % n

/-- Positions passed on a mesh. -/
def meshWalk (i j : Nat) : List Nat :=
  if i ≤ j then (List.range (j - i)).map fun k => i + k + 1 else (List.range (i - j)).map fun k => i - (k + 1)

/-- The devices of the route from one place to another in order, without the first (R371): along X,
Y, B and A. -/
def routeFrom (cfg : Word) (p q : Coord) : List Coord :=
  ((ringWalk (bcnNx cfg + 1) p.x q.x).map fun x => { p with x := x }) ++
  ((ringWalk (bcnNy cfg + 1) p.y q.y).map fun y => { p with x := q.x, y := y }) ++
  ((meshWalk p.b q.b).map fun b => { p with x := q.x, y := q.y, b := b }) ++
  ((meshWalk p.a q.a).map fun a => { q with a := a })

/-- The planes beside a place (R372): one step in A, or in B when NA is 0. -/
def besides (cfg : Word) (p : Coord) : List Coord :=
  if bcnNa cfg ≠ 0 then
    (if p.a < bcnNa cfg then [{ p with a := p.a + 1 }] else []) ++ (if 0 < p.a then [{ p with a := p.a - 1 }] else [])
  else if bcnNb cfg ≠ 0 then [{ p with b := 1 - p.b }] else []

/-- Detours (R372): a step aside, the same X and Y route there, a step back, and the rest. -/
def detours (cfg : Word) (p q : Coord) : List (List Coord) :=
  (besides cfg p).map fun r =>
    let far := { r with x := q.x, y := q.y }
    let back := { p with x := q.x, y := q.y }
    r :: (routeFrom cfg r far ++ back :: routeFrom cfg back q)

/-- A route meets a failed device or link. -/
def routeFails (failed : List FabricPart) : Coord → List Coord → Bool
  | _, [] => false
  | p, q :: r =>
    failed.any (fun f => match f with
      | .device d => d == q.id
      | .link a b => (a == p.id && b == q.id) || (a == q.id && b == p.id)) || routeFails failed q r

end Sys2Proof.Machine
end

