-- ==== Sys2Proof/Machine/Hart.lean ====
section
/-! DEFINITION. Reading and writing a hart's registers: the one place where s0, p0 and m0 are fixed
(R108) and where vector data on its way is laid over a register (R229). -/

namespace Sys2Proof.Machine

/-! ## The tables of the state -/

def State.hart? (s : State) (slot : Nat) : Option Hart := tblGet s.harts slot
def State.setHart (s : State) (slot : Nat) (h : Hart) : State := { s with harts := tblSet s.harts slot h }
def State.dropHart (s : State) (slot : Nat) : State := { s with harts := tblDel s.harts slot }
def State.modHart (s : State) (slot : Nat) (f : Hart → Hart) : State :=
  match s.hart? slot with
  | some h => s.setHart slot (f h)
  | none => s
def State.pair (s : State) (n : Nat) : Pair := tblGetD s.pairs n {}
def State.setPair (s : State) (n : Nat) (p : Pair) : State := { s with pairs := tblPut s.pairs n p {} }
def State.part (s : State) (p : Nat) : Partition := tblGetD s.partitions p {}
def State.setPart (s : State) (p : Nat) (x : Partition) : State := { s with partitions := tblPut s.partitions p x {} }
def State.modPart (s : State) (p : Nat) (f : Partition → Partition) : State := s.setPart p (f (s.part p))
def State.barrier (s : State) (k : Nat) : BarrierCell := tblGetD s.barriers k {}
def State.setBarrier (s : State) (k : Nat) (b : BarrierCell) : State := { s with barriers := tblPut s.barriers k b {} }
def State.gang? (s : State) (id : Nat) : Option Gang := s.gangs.find? fun g => g.id == id
def State.modGang (s : State) (id : Nat) (f : Gang → Gang) : State :=
  { s with gangs := s.gangs.map fun g => if g.id == id then f g else g }
def State.dropGang (s : State) (id : Nat) : State := { s with gangs := s.gangs.filter fun g => g.id != id }

/-- The task of a queue and record number; of several with one number, the youngest. -/
def State.task? (s : State) (p q n : Nat) : Option Task :=
  s.tasks.reverse.find? fun t => t.part == p && t.queue == q && t.seq == n

/-- Changes the youngest task of a list that a test names. -/
def modLast (f : Task → Task) (is : Task → Bool) : List Task → List Task
  | [] => []
  | t :: r => if is t && !(r.any is) then f t :: r else t :: modLast f is r

def State.modTask (s : State) (p q n : Nat) (f : Task → Task) : State :=
  { s with tasks := modLast f (fun t => t.part == p && t.queue == q && t.seq == n) s.tasks }

/-- The next free value's index (log entry 3). -/
def State.draw (s : State) : Nat × State := (s.fresh, { s with fresh := s.fresh + 1 })

/-- A new identifier (log entry 9). -/
def State.newId (s : State) : Nat × State := (s.nextId, { s with nextId := s.nextId + 1 })

/-! ## Registers -/

/-- s0 reads as zero (R17, R108). -/
def Regs.getS (r : Regs) (i : SIdx) : Word := if i = 0 then 0 else rget r.s i
def Regs.setS (r : Regs) (i : SIdx) (x : Word) : Regs := if i = 0 then r else { r with s := rset r.s i x }
/-- p0 is true (R17, R108). -/
def Regs.getP (r : Regs) (i : PIdx) : Bool := if i = 0 then true else rget r.p i
def Regs.setP (r : Regs) (i : PIdx) (b : Bool) : Regs := if i = 0 then r else { r with p := rset r.p i b }
/-- m0 is all ones (R17, R108). -/
def Regs.getM (r : Regs) (i : MIdx) : MReg := if i = 0 then BitVec.allOnes 1024 else rget r.m i
def Regs.setM (r : Regs) (i : MIdx) (x : MReg) : Regs := if i = 0 then r else { r with m := rset r.m i x }

/-- The poison of whole registers that a write of all their bits clears (R392). -/
def clearPoison (h : Hart) (is : RegLoc → Bool) : Hart :=
  match h.poison with
  | [] => h
  | l => { h with poison := l.filter fun x => !(is x) }

def RegLoc.ofS (i : SIdx) : RegLoc → Bool
  | .s j => j == i.toNat
  | _ => false
def RegLoc.ofM (i : MIdx) : RegLoc → Bool
  | .m j _ => j == i.toNat
  | _ => false
def RegLoc.ofQ (i : QIdx) : RegLoc → Bool
  | .q j _ => j == i.toNat
  | _ => false
def RegLoc.ofE (i : EIdx) : RegLoc → Bool
  | .e j _ => j == i.toNat
  | _ => false
def RegLoc.ofP (i : PIdx) : RegLoc → Bool
  | .p j => j == i.toNat
  | _ => false
/-- A word of the control state that stands at one of some offsets of an image (R388). -/
def RegLoc.controlIn (l : List Nat) : RegLoc → Bool
  | .control o => l.contains o
  | _ => false

/-- Control state at one of some offsets of an image came poisoned (R390, R392). -/
def Hart.marked (h : Hart) (l : List Nat) : Bool :=
  match h.poison with
  | [] => false
  | p => p.any (RegLoc.controlIn l)

/-- Where an image holds a system register (R211, R388). -/
def controlOffset (n : Nat) : List Nat :=
  match n with
  | 0x000 => [0x120]
  | 0x001 => [0x110]
  | 0x002 => [0x118]
  | 0x003 => [0x108]
  | 0x004 => [0x128]
  | 0x007 => [0x130]
  | 0x00D => [0x198]
  | 0x00E => [0x1A0]
  | _ =>
    if 0x010 ≤ n ∧ n ≤ 0x015 then [0x138 + 8 * (n - 0x010)]
    else if 0x020 ≤ n ∧ n ≤ 0x025 then [0x168 + 8 * (n - 0x020)]
    else []

def Hart.getS (h : Hart) (i : SIdx) : Word := h.regs.getS i
def Hart.setS (h : Hart) (i : SIdx) (x : Word) : Hart :=
  clearPoison { h with regs := h.regs.setS i x } (RegLoc.ofS i)
def Hart.getP (h : Hart) (i : PIdx) : Bool := h.regs.getP i
def Hart.setP (h : Hart) (i : PIdx) (b : Bool) : Hart :=
  clearPoison { h with regs := h.regs.setP i b } (RegLoc.ofP i)
def Hart.getM (h : Hart) (i : MIdx) : MReg := h.regs.getM i
def Hart.setM (h : Hart) (i : MIdx) (x : MReg) : Hart :=
  clearPoison { h with regs := h.regs.setM i x } (RegLoc.ofM i)
def Hart.getQ (h : Hart) (i : QIdx) : Stream := rget h.regs.q i
def Hart.setQ (h : Hart) (i : QIdx) (q : Stream) : Hart :=
  clearPoison { h with regs := { h.regs with q := rset h.regs.q i q } } (RegLoc.ofQ i)
def Hart.getE (h : Hart) (i : EIdx) : Cursor := rget h.regs.e i
def Hart.setE (h : Hart) (i : EIdx) (e : Cursor) : Hart :=
  clearPoison { h with regs := { h.regs with e := rset h.regs.e i e } } (RegLoc.ofE i)

/-- Load data on its way, laid over a register's stored bits (R229). -/
def overlay (l : List Arriving) (i : VIdx) (x : VReg) : VReg :=
  l.foldl (fun y a => if a.reg = i then (y &&& ~~~a.mask) ||| (a.data &&& a.mask) else y) x

def Hart.getV (h : Hart) (i : VIdx) : VReg := overlay h.arriving i (rget h.regs.v i)
/-- A write waits for the data on its way to the register (R132), which is then all there. -/
def Hart.setV (h : Hart) (i : VIdx) (x : VReg) : Hart :=
  { h with regs := { h.regs with v := rset h.regs.v i x }
           arriving := match h.arriving with
             | [] => []
             | l => l.filter fun a => a.reg != i }

def Hart.vl (h : Hart) : Nat := h.regs.vl.toNat
def Hart.vstart (h : Hart) : Nat := h.regs.vstart.toNat
def Hart.setVstart (h : Hart) (n : Nat) : Hart :=
  clearPoison { h with regs := { h.regs with vstart := BitVec.ofNat 11 n } } (RegLoc.controlIn [0x108])
def Hart.setVl (h : Hart) (n : Nat) : Hart :=
  clearPoison { h with regs := { h.regs with vl := BitVec.ofNat 12 n } } (RegLoc.controlIn [0x110])
def Hart.pc (h : Hart) : Word := h.regs.pc
def Hart.setPc (h : Hart) (pc : Word) : Hart := { h with regs := { h.regs with pc := pc } }

/-- ETYPE, FZ and SZ of VTYPE (R239), by the code's bits. -/
def Hart.etypeCode (h : Hart) : BitVec 4 := h.regs.vtype.extractLsb' 0 4
def Hart.fz (h : Hart) : BitVec 2 := h.regs.vtype.extractLsb' 4 2
def Hart.sz (h : Hart) : Bool := h.regs.vtype.getLsbD 6

/-- Width of VTYPE.ETYPE (R239): by the code of R114. -/
def etypeWidth (c : BitVec 4) : Nat :=
  match c.toNat with
  | 0 | 4 | 8 => 64
  | 1 | 5 | 9 => 32
  | 2 | 6 | 10 | 11 => 16
  | _ => 8

/-- VLMAX of an ETYPE (R239). -/
def vlmaxOf (c : BitVec 4) : Nat := 8192 / etypeWidth c

/-! ## Fields of QCTL (R265) -/

def Stream.kind (q : Stream) : Nat := bits q.ctl 0 3
/-- NF: fields − 1 of a segment stream. -/
def Stream.nf (q : Stream) : Nat := bits q.ctl 7 3
def Stream.idx (q : Stream) : QIdx := q.ctl.extractLsb' 10 4

/-! ## Tiles (R275, R276) -/

def Hart.row (h : Hart) (k r : Nat) : VReg := tblGetD h.tiles (k * 256 + r) 0
def Hart.setRow (h : Hart) (k r : Nat) (x : VReg) : Hart := { h with tiles := tblPut h.tiles (k * 256 + r) x 0 }
/-- Every row of a tile zeroed. -/
def Hart.zeroTile (h : Hart) (k : Nat) : Hart :=
  { h with tiles := h.tiles.filter fun p => p.1 / 256 != k }
def Hart.markDirty (h : Hart) (k : Nat) : Hart := { h with zdirty := h.zdirty ||| (1#32 <<< k) }
def Hart.markClean (h : Hart) (k : Nat) : Hart := { h with zdirty := h.zdirty &&& ~~~(1#32 <<< k) }

/-! ## The ways of a tile buffer (R217, R222) -/

/-- Ways of a core pair that are neither side's scratch. -/
def Pair.cacheWays (p : Pair) : Nat := 16 - p.sw0.toNat - p.sw1.toNat

/-- A pair with fewer than three cache ways holds no pinned page: its lines are written back, and the pages are
served as HOME 00 (R222). -/
def Pair.fitArea (p : Pair) : Pair :=
  if p.cacheWays < 3 then { p with area := p.area.map fun x => { x with pinned := false } } else p

/-- Scratch ways of one side of a pair (R217). -/
def Pair.ways (p : Pair) (side : Nat) : Nat := if side = 0 then p.sw0.toNat else p.sw1.toNat
def Pair.setWays (p : Pair) (side n : Nat) : Pair :=
  (if side = 0 then { p with sw0 := BitVec.ofNat 4 n } else { p with sw1 := BitVec.ofNat 4 n }).fitArea

/-! ## Performance counters (R408) -/

def Hart.bump (h : Hart) (n : Nat) (by_ : Word) : Hart :=
  { h with perf := rset h.perf (BitVec.ofNat 4 n) (rget h.perf (BitVec.ofNat 4 n) + by_) }

/-! ## Scratch (R219, R220) -/

def Hart.granule (h : Hart) (g : Nat) : Granule := tblGetD h.granules g {}
def Hart.setGranule (h : Hart) (g : Nat) (x : Granule) : Hart := { h with granules := tblPut h.granules g x {} }
def Hart.scratchByte (h : Hart) (o : Nat) : Byte := tblGetD h.scratch o 0
def Hart.setScratchByte (h : Hart) (o : Nat) (b : Byte) : Hart := { h with scratch := tblPut h.scratch o b 0 }

/-- Poison of words after bytes `o` to `o + n − 1` are written: a word overwritten whole is clean
(R392). -/
def clearWords (l : List Nat) (o n : Nat) : List Nat :=
  match l with
  | [] => []
  | l => l.filter fun w => !(decide (o ≤ w) && decide (w + 8 ≤ o + n))

def writeScratchFrom (h : Hart) (o : Nat) : List Byte → Hart
  | [] => h
  | b :: bs => writeScratchFrom (h.setScratchByte o b) (o + 1) bs

/-- The reads of coordinate batches that a write leaves as they were (R149): number of the batch, and
line. -/
def unwritten (l : List (Nat × Nat)) (a n : Nat) : List (Nat × Nat) :=
  match l with
  | [] => []
  | l => l.filter fun w => !(decide (a / 128 ≤ w.2) && decide (w.2 ≤ (a + n - 1) / 128))

def Hart.writeScratch (h : Hart) (o : Nat) (bs : List Byte) : Hart :=
  let h := writeScratchFrom h o bs
  { h with scratchPoison := clearWords h.scratchPoison o bs.length, watch := unwritten h.watch o bs.length }

def Hart.readScratch (h : Hart) (o n : Nat) : List Byte := (List.range n).map fun k => h.scratchByte (o + k)

/-! ## Poisoned words that one instruction overwrites in several writes (R392; log entry 58) -/

/-- The bytes of the word at `w` that lie in `[a, a + n)`, as a mask. -/
def coveredMask (w a n : Nat) : Nat :=
  ((List.range 8).filter fun k => decide (a ≤ w + k) && decide (w + k < a + n)).foldl (fun m k => m + 2 ^ k) 0

/-- What an instruction has overwritten of the poisoned words of one place once bytes `a` to `a + n − 1` are
too. -/
def addCovered (l : List Overwrite) (slot : Nat) (scratch : Bool) (poisoned : List Nat) (a n : Nat) : List Overwrite :=
  poisoned.foldl (fun l w =>
    let is := fun (e : Overwrite) => e.slot == slot && e.scratch == scratch && e.word == w
    let m := coveredMask w a n
    if m = 0 then l
    else if l.any is then l.map fun e => if is e then { e with mask := Nat.lor e.mask m } else e
    else l ++ [{ slot := slot, scratch := scratch, word := w, mask := m }]) l

/-- Words of a place that an instruction has overwritten whole. -/
def coveredWords (l : List Overwrite) (slot : Nat) (scratch : Bool) : List Nat :=
  (l.filter fun e => e.slot == slot && e.scratch == scratch && e.mask == 255).map fun e => e.word

/-- Poisoned words of memory after a store of an agent's instruction in progress has written some bytes. -/
def coverMemory (s : State) (slot a n : Nat) : State :=
  match s.memPoison with
  | [] => s
  | l =>
    let o := addCovered s.overwritten slot false l a n
    { s with
      memPoison := l.filter fun w => !(coveredWords o slot false).contains w
      overwritten := o.filter fun e => e.mask != 255 }

/-- A write of an agent's instruction or transfer in progress, `key`, to bytes of a hart's scratch. -/
def storeScratchAs (s : State) (key slot o : Nat) (bs : List Byte) : State :=
  let t := s.modHart slot fun h => h.writeScratch o bs
  match (t.hart? slot).map Hart.scratchPoison with
  | none => t
  | some [] => t
  | some l =>
    let c := addCovered t.overwritten key true l o bs.length
    { t.modHart slot fun h => { h with scratchPoison := l.filter fun w => !(coveredWords c key true).contains w } with
      overwritten := c.filter fun e => e.mask != 255 }

/-- A store of the instruction in progress writes bytes of its hart's scratch. -/
def storeScratch (s : State) (slot o : Nat) (bs : List Byte) : State := storeScratchAs s slot slot o bs

/-- What an agent's instruction, or a transfer, has overwritten in part counts no more. -/
def settleStores (s : State) (key : Nat) : State :=
  match s.overwritten with
  | [] => s
  | l => { s with overwritten := l.filter fun e => e.slot != key }

/-- A word of `[o, o + n)` in the list of poisoned words. -/
def poisonedIn (l : List Nat) (o n : Nat) : Option Nat :=
  (l.find? fun w => decide (w < o + n) && decide (o < w + 8)).map fun w => max w o

/-- Scratch bytes written poisoned: the words they touch become poisoned (R303, R392). -/
def Hart.poisonScratch (h : Hart) (o : Nat) : Hart := { h with scratchPoison := insertNat h.scratchPoison (o / 8 * 8) }

end Sys2Proof.Machine
end

