-- ==== Sys2Proof/Machine/Flags.lean ====
section
/-! DEFINITION. FCSR: the rounding mode and the sticky flags (R167 to R169), and the floating
environment of scalar and vector instructions (R166, R199, R250). -/

namespace Sys2Proof.Machine

/-- Flags ORed into FCSR[7:3], never cleared (R167, R168). -/
def Hart.raise (h : Hart) (f : FFlags) : Hart := { h with fcsr := h.fcsr ||| (f &&& 0xF8#8) }

/-- The dynamic rounding mode FRM (R167). -/
def frmRound (fcsr : BitVec 8) : Round :=
  match (fcsr.extractLsb' 0 3).toNat with
  | 1 => .rtz
  | 2 => .rup
  | 3 => .rdn
  | 4 => .rmm
  | _ => .rne

/-- The mode an RM selects (R115, R169). -/
def Hart.round (h : Hart) : Rm → Round
  | .rne => .rne
  | .rtz => .rtz
  | .rup => .rup
  | .rdn => .rdn
  | .rmm => .rmm
  | .dyn => frmRound h.fcsr

/-- Subnormal treatment of the vector and matrix instructions (R166). -/
def Hart.flush (h : Hart) : Flush := Flush.ofFz h.fz

/-- Scalar floating instructions keep full subnormals (R166). -/
def Flush.off : Flush := {}

end Sys2Proof.Machine
end

