-- ==== Sys2Proof/Machine/Memory.lean ====
section
/-! DEFINITION. Memory as an agent's access meets it at its physical address: format regions
(R172 to R181), poison (R392), host links (R97), error records (R393) and the interrupts of a
runtime (R56). -/

namespace Sys2Proof.Machine

/-! ## Interrupts and errors of a partition -/

/-- Raises an interrupt to a partition's runtime; it waits for the runtime's boundary (R56). -/
def raiseInterrupt (s : State) (p : Nat) (code : BitVec 8) : State :=
  s.modPart p fun x => { x with ints := x.ints ++ [code] }

def satAdd (w : Nat) (a b : Nat) : Nat := min (a + b) (2 ^ w - 1)

/-- Records an uncorrectable error in ERRSTAT and ERRLOC (R393): UECNT counts, the first error sets UEV,
SRC and LOC, and the error interrupt is raised; a CXL link error raises it only while UEV is clear
(R97). -/
def recordError (s : State) (p : Nat) (src loc : Nat) : State :=
  let r := (s.part p).regs
  let e := withBits r.errstat 48 16 (satAdd 16 (bits r.errstat 48 16) 1)
  if bits r.errstat 0 1 = 1 then
    let s := s.modPart p fun x => { x with regs := { x.regs with errstat := e } }
    if src = 6 then s else raiseInterrupt s p 0x82
  else
    let e := withBits (withBits e 0 1 1) 1 3 src
    raiseInterrupt (s.modPart p fun x => { x with regs := { x.regs with errstat := e, errloc := BitVec.ofNat 64 (loc % 2 ^ 52) } }) p 0x82

def logSconce (s : State) (e : LogEntry) : State := { s with sconce := { s.sconce with log := s.sconce.log ++ [e] } }

/-- A read or write of host memory over a failed or untrained link, or one that the host answered with
an error or with poison (R97); an error answers one access. -/
def hostLinkError (s : State) (p : Nat) (pa : Nat) : State :=
  let t := logSconce (recordError s p 6 pa) (.hostLinkError pa)
  { t with hostErrors := t.hostErrors.filter fun l => l != pa / 128 }

def linkTrained (s : State) (link : Bool) : Bool := s.linkUp.getLsbD (if link then 1 else 0)

/-- The host answers the next access to a line of a range with an error. -/
def hostErrorAt (s : State) (pa n : Nat) : Bool :=
  s.hostErrors.any fun l => decide (pa / 128 ≤ l) && decide (l ≤ (pa + n - 1) / 128)

/-! ## Format regions -/

/-- An enabled format region (R172): base, length, form and planes. -/
structure Region where
  base : Nat
  len : Nat
  form : Nat
  planes : Nat
  deriving DecidableEq, Repr

def regionOf (p : Partition) (n : Nat) : Region :=
  let a := tblGetD p.fmtA n 0
  let b := tblGetD p.fmtB n 0
  { base := bits a 16 36 * 65536, len := (bits b 0 24 + 1) * 65536, form := bits b 24 4, planes := bits b 28 4 }

def regionEnabled (p : Partition) (n : Nat) : Bool := (tblGetD p.fmtA n 0).getLsbD 0

/-- The enabled regions of a partition and of the device. -/
def regionsOf (p : Partition) : List Region := ((List.range 16).filter fun n => regionEnabled p n).map (regionOf p)
def State.regions (s : State) : List Region := s.partitions.flatMap fun e => regionsOf e.2

/-- The region in whose decoded view a PA lies (R174). -/
def decodedRegion (s : State) (pa : Nat) : Option Region :=
  s.regions.find? fun r => decide (r.base ≤ pa) && decide (pa < r.base + r.len)

def touchesDecoded (s : State) (pa n : Nat) : Bool :=
  s.regions.any fun r => decide (pa < r.base + r.len) && decide (r.base < pa + n)

/-- Element format and width of an MX form (R172). -/
def mxFmt : Nat → Fmt
  | 0 => .e4m3
  | 1 => .e3m2
  | 2 => .e2m3
  | _ => .e2m1

/-- Bits `lo` to `lo + w − 1` counted from byte address `base` (R174). -/
def rawBits (s : State) (base lo w : Nat) : Nat :=
  leNat ((List.range 3).map fun k => Memory.read s.mem (base + lo / 8 + k)) / 2 ^ (lo % 8) % 2 ^ w

/-- Raw byte addresses that decoded element `i` depends on (R175, R181). -/
def rawBytesOf (s : State) (r : Region) (i : Nat) : List Nat :=
  if r.form = 4 then (List.range r.planes).map fun p => r.base + p * (r.len / 8) + i / 8
  else
    let eb := (mxFmt r.form).width
    let sc := r.base + r.len / 2 * eb / 8 + i / 32
    let c := (Memory.read s.mem sc).toNat
    if c = 0 ∨ c = 255 then [sc] else [sc, r.base + i * eb / 8, r.base + (i * eb + eb - 1) / 8]

/-- Decoded element `i` of a region (R177, R178). -/
def decodedElement (s : State) (r : Region) (i : Nat) : Nat :=
  if r.form = 4 then
    decodeBpn (fun p => (Memory.read s.mem (r.base + p * (r.len / 8) + i / 8)).getLsbD (i % 8)) r.planes
  else
    let f := mxFmt r.form
    let c := (Memory.read s.mem (r.base + r.len / 2 * f.width / 8 + i / 32)).toNat
    (decodeMx f c (BitVec.ofNat 64 (rawBits s r.base (i * f.width) f.width))).toNat

/-! ## Bytes at a physical address -/

/-- One byte as read at a PA: the decoded view of an enabled region is decoded (R175). -/
def physRead (s : State) (pa : Nat) : Byte :=
  if isRawAlias pa then Memory.read s.mem (storageOf pa)
  else match decodedRegion s pa with
    | some r =>
      let o := pa - r.base
      if r.form = 4 then BitVec.ofNat 8 (decodedElement s r o)
      else BitVec.ofNat 8 (decodedElement s r (o / 2) / 2 ^ (8 * (o % 2)))
    | none => Memory.read s.mem pa

/-- The byte is poisoned, or decoded from a poisoned raw byte it needs (R181, R392). -/
def physPoisoned (s : State) (pa : Nat) : Bool :=
  let bad := fun a => s.memPoison.contains (a / 8 * 8)
  match s.memPoison with
  | [] => false
  | _ =>
    if isRawAlias pa then bad (storageOf pa)
    else match decodedRegion s pa with
      | some r => (rawBytesOf s r (if r.form = 4 then pa - r.base else (pa - r.base) / 2)).any bad
      | none => bad pa

def physReadBytes (s : State) (pa n : Nat) : List Byte := (List.range n).map fun k => physRead s (pa + k)

/-- The first poisoned byte of a range. -/
def firstPoison (s : State) (pa n : Nat) : Option Nat :=
  match s.memPoison with
  | [] => none
  | _ => ((List.range n).find? fun k => physPoisoned s (pa + k)).map fun k => pa + k

/-- The first poisoned byte of what an agent reads: all of it where the Mearil link of its core pair
has failed (R393). -/
def readPoison (s : State) (slot pa n : Nat) : Option Nat :=
  if decide (slot < 1280) && s.mearilFailed.contains (slot / 2) then some pa else firstPoison s pa n

/-- Bytes written at a PA; a poisoned word overwritten whole is clean (R392). -/
def physWrite (s : State) (pa : Nat) (bs : List Byte) : State :=
  let a := storageOf pa
  { s with
    mem := Memory.writeBytes s.mem a bs
    memPoison := clearWords s.memPoison a bs.length
    watch := unwritten s.watch a bs.length }

/-- Marks the word of a byte poisoned. -/
def poisonByte (s : State) (pa : Nat) : State := { s with memPoison := insertNat s.memPoison (storageOf pa / 8 * 8) }

/-- Bytes written with poison marks on some of them, by position. -/
def physWritePoison (s : State) (pa : Nat) (bs : List Byte) (poison : List Nat) : State :=
  poison.foldl (fun s k => poisonByte s (pa + k)) (physWrite s pa bs)

/-- A device read of host memory fails (R97): its link is not trained, or the host answers with an
error or with poison. -/
def hostReadFails (s : State) (pa n : Nat) : Bool :=
  isHostPa pa && (!linkTrained s (hostLink pa) || hostErrorAt s pa n || (firstPoison s pa n).isSome)

/-- A device write of host memory is discarded (R97). -/
def hostWriteFails (s : State) (pa n : Nat) : Bool := isHostPa pa && (!linkTrained s (hostLink pa) || hostErrorAt s pa n)

/-- Bytes of one line read for an engine of a partition, with the places of poisoned ones (R392, R97);
`slot` is the hart whose engine reads, 1280 or more at a home slice. -/
def engineReadLine (s : State) (slot part pa n : Nat) : State × List Byte × List Nat :=
  let bad := (List.range n).filter fun k => (readPoison s slot (pa + k) 1).isSome
  if hostReadFails s pa n then
    let t := hostLinkError s part pa
    if linkTrained s (hostLink pa) && !hostErrorAt s pa n then (t, physReadBytes s pa n, bad)
    else
      let (k, t) := t.draw
      (t, (List.range n).map (Config.lostByte k), List.range n)
  else (s, physReadBytes s pa n, bad)

/-! ## Combining windows (R367) and counting windows (R227) -/

/-- A word of an ATOM page takes the newest entry of its stack's combining window; the least recently
used one leaves when there are more than 64. -/
def touchCombining (s : State) (pa : Nat) : State :=
  let w := storageOf pa / 8 * 8
  let l := w :: s.combining.filter fun x => x != w
  let mine := l.filter fun x => stackOf x == stackOf w
  { s with combining := match mine[64]? with
      | some old => l.filter fun x => x != old
      | none => l }

/-- An access of `n` bytes of an ATOM page goes through the window, word by word. -/
def touchWords (s : State) (pa n : Nat) : State :=
  (List.range ((pa + n - 1) / 8 - pa / 8 + 1)).foldl (fun s k => touchCombining s (pa / 8 * 8 + 8 * k)) s

/-- The die of the home slice of a PA (R225). -/
def homeDie (pa : Nat) : Nat := homeSlice pa / 20

/-- The page of a leaf, of whatever size, by PA[51:16] of its first byte (R94, R226). -/
def leafPage (pte : Word) : Nat := bits pte 16 36

/-- An access from a die to a line of the REPL page `g` whose home slice lies on another die counts in the
page's window; a page that is not tracked yet is, while its quadrant tracks fewer than 4096 (R227). What
the caches of that die keep from the slice is taken off at the window's end (log entry 36). -/
def countRepl (s : State) (die g pa : Nat) (write : Bool) : State :=
  if homeDie pa = die then s
  else
    let more := fun (x : ReplPage) => if write then { x with wr := x.wr + 1 } else { x with rd := x.rd + 1 }
    if s.tracked.any fun x => x.page == g then
      { s with tracked := s.tracked.map fun x => if x.page = g then more x else x }
    else if ((s.tracked.filter fun x => quadrantOfStack (stackOf (x.page * 65536)) == quadrantOfStack (stackOf (g * 65536))).length) < 4096 then
      { s with tracked := s.tracked ++ [more { page := g }] }
    else s

/-! ## Pins (R318, R319) -/

/-- The line of a PA (R225). -/
def lineOf (pa : Nat) : Nat := pa / 128

/-- The line where the byte of a PA is kept, by either alias (R96, R318). -/
def pinLineOf (pa : Nat) : Nat := storageOf pa / 128

/-- An access to a decoded view (R174): for the ordering rules its addresses are not those of the raw bytes
that it is built from (R180). -/
def isDecoded (s : State) (pa n : Nat) : Bool := !isRawAlias pa && touchesDecoded s pa n

/-- The lines that hold what is read at a PA: those of the raw bytes for a decoded one (R175). -/
def placesOf (s : State) (pa : Nat) : List Nat :=
  match (if isRawAlias pa then none else decodedRegion s pa) with
  | some r => (rawBytesOf s r (if r.form = 4 then pa - r.base else (pa - r.base) / 2)).map fun b => b / 128
  | none => [pinLineOf pa]

/-- The core pair that an agent belongs to; other agents have none. -/
def pairOfAgent (slot : Nat) : Option Nat := if isLamp slot then none else some (pairOf slot)

/-- A pin is on a line that an access to a range reaches. -/
def pinCovers (s : State) (q : Pin) (pa n : Nat) : Bool :=
  if isDecoded s pa n then (List.range n).any fun k => (placesOf s (pa + k)).contains q.line
  else decide (pinLineOf pa ≤ q.line) && decide (q.line ≤ (storageOf pa + n - 1) / 128)

/-- Core pairs that hold a pin on a line that an access reaches, other than the agent's own. A decoder reads
raw bytes at their home slice (R180), outside every core pair. -/
def pinnedElsewhere (s : State) (own : Option Nat) (pa n : Nat) : Option Nat :=
  (s.pairs.find? fun e => (some e.1 != own || isDecoded s pa n) && e.2.pins.any fun q => pinCovers s q pa n).map fun e => e.1

/-- A pair still pins a line that an access reaches. -/
def stillPinned (s : State) (pair pa n : Nat) : Bool := (s.pair pair).pins.any fun q => pinCovers s q pa n

/-- A RETRY on the pinned lines of a range starts their bound (R319). -/
def noteRetry (s : State) (pair pa n : Nat) : State :=
  let p := s.pair pair
  s.setPair pair { p with pins := p.pins.map fun q => (if pinCovers s q pa n then { q with retried := true } else q) }

/-! ## Stores under a pin (R310, R314, R317) -/

/-- The line of a store that waits under a pin. -/
def Delayed.line (d : Delayed) : Nat := pinLineOf d.pa

/-- A store of a hart to a line that its core pair pins is at VC and not at VA (R318); `vec` says that the
vector queue makes it. -/
def delayStore (s : State) (slot : Nat) (vec : Bool) (part page pa n : Nat) : State :=
  match pairOfAgent slot with
  | none => s
  | some k =>
    let p := s.pair k
    if p.pins.any fun q => pinCovers s q pa n then
      s.setPair k { p with stamp := p.stamp + 1, delayed := p.delayed ++
        [{ slot := slot, vec := vec, part := part, pa := storageOf pa, n := n, page := page, stamp := p.stamp }] }
    else s

/-- A load of a hart reads, for the first time, a byte of such a store of its sibling. -/
def Delayed.readBy (d : Delayed) (slot pa n : Nat) : Bool :=
  d.slot != slot && d.seen.isNone && decide (pa < d.pa + d.n) && decide (d.pa < pa + n)

/-- A load marks the stores under a pin that it reads (R317). -/
def markPinRead (s : State) (slot pa n : Nat) : State :=
  match pairOfAgent slot with
  | none => s
  | some k =>
    let p := s.pair k
    if !isDecoded s pa n && p.delayed.any fun d => d.readBy slot (storageOf pa) n then
      s.setPair k { p with stamp := p.stamp + 1, delayed := p.delayed.map fun d =>
        (if d.readBy slot (storageOf pa) n then { d with seen := some p.stamp } else d) }
    else s

/-- The pins of a hart's sibling on the line of a store. -/
def Pair.siblingPins (p : Pair) (slot : Nat) (d : Delayed) : List Pin := p.pins.filter fun q => q.slot != slot && q.line == d.line

/-- The queues of a hart whose earlier accesses an operation orders (R315, R316). -/
structure Queues where
  scalar : Bool
  vector : Bool
  deriving DecidableEq, Repr

/-- An access of the vector queue, or of the scalar pipe, is one of them. -/
def Queues.has (q : Queues) (vec : Bool) : Bool := if vec then q.vector else q.scalar

/-- The scalar pipe, the vector queue, and both. -/
def Queues.ofScalar : Queues := { scalar := true, vector := false }
def Queues.ofVector : Queues := { scalar := false, vector := true }
def Queues.both : Queues := { scalar := true, vector := true }

/-- A store under a pin of the sibling that a fence of a hart waits for (R314): the hart's own, of the queues that
the fence orders. -/
def heldStore (k : Queues) (p : Pair) (slot : Nat) (d : Delayed) : Bool :=
  d.slot == slot && k.has d.vec && !(p.siblingPins slot d).isEmpty

/-- One that a release of the hart waits for: its own of the queues that the release orders, or one that it read
(R314, R317). -/
def heldAccess (k : Queues) (p : Pair) (slot : Nat) (d : Delayed) : Bool :=
  (if d.slot = slot then k.has d.vec else d.seen.isSome) && !(p.siblingPins slot d).isEmpty

/-- Some store under a pin of the hart's pair passes a test. -/
def anyDelayed (f : Pair → Nat → Delayed → Bool) (s : State) (slot : Nat) : Bool :=
  match pairOfAgent slot with
  | none => false
  | some k => (s.pair k).delayed.any (f (s.pair k) slot)

/-- The hart has stored from some queues to a line that its sibling holds pinned, or read such a store of its
sibling (R314, R317). -/
def touchedUnderPin (k : Queues) (s : State) (slot : Nat) : Bool := anyDelayed (heldAccess k) s slot

/-- The bound of the sibling's pins that hold back some stores starts, as a release or a fence of the hart
waits for them (R317, R319; log entry 38). -/
def boundPins (f : Pair → Nat → Delayed → Bool) (s : State) (slot : Nat) : State :=
  match pairOfAgent slot with
  | none => s
  | some k =>
    let p := s.pair k
    match p.delayed.filter (f p slot) with
    | [] => s
    | l => s.setPair k { p with pins := p.pins.map fun q => (if q.slot != slot && l.any fun d => d.line == q.line then { q with retried := true } else q) }

/-- The pins of the sibling that hold back what a hart read, or stored from some queues, start their bound. -/
def boundSiblingPins (k : Queues) (s : State) (slot : Nat) : State := boundPins (heldAccess k) s slot

/-- Those that hold back what it stored from some queues. -/
def boundStorePins (k : Queues) (s : State) (slot : Nat) : State := boundPins (heldStore k) s slot

/-! ## Translations that are held (R99) -/

/-- The translation of a page that a pair holds, if it still holds it. -/
def heldTranslation (s : State) (pair part page : Nat) : Option Translation :=
  match s.tlb with
  | [] => none
  | l => if Config.keeps s.fresh page then l.find? fun t => t.pair == pair && t.part == part && t.page == page else none

/-- A translation that an access used is held from then on, the latest first. -/
def remember (s : State) (t : Translation) : State := if s.tlb.contains t then s else { s with tlb := t :: s.tlb }

end Sys2Proof.Machine
end

