-- ==== Sys2Proof/Machine/Translate.lean ====
section
/-! DEFINITION. Task records, leases and standing ranges (R36 to R39, R90, R91), the page walk (R93
to R98), and how an access of a hart is placed: refused, waiting, in its scratch, or at a physical
address (R197, R219, R92, R89). -/

namespace Sys2Proof.Machine

/-- The trap causes of R382, with the interrupts of R56. -/
inductive Trap where
  | illegal | zeroWord | onesWord | priv | align | page | poison | scratch | owner | fmtWrite
  | vwidth | zrange | stream | bufEnd | cursor | unsorted | barOver | barBusy | window | trap
  | interrupt (code : BitVec 8)
  deriving DecidableEq, Repr

/-- ECAUSE.CODE of a cause (R382). -/
def Trap.code : Trap → BitVec 8
  | .illegal => 0x01 | .zeroWord => 0x02 | .onesWord => 0x03 | .priv => 0x04 | .align => 0x05
  | .page => 0x06 | .poison => 0x07 | .scratch => 0x08 | .owner => 0x09 | .fmtWrite => 0x0A
  | .vwidth => 0x0B | .zrange => 0x0C | .stream => 0x0D | .bufEnd => 0x0E | .cursor => 0x0F
  | .unsorted => 0x10 | .barOver => 0x11 | .barBusy => 0x12 | .window => 0x13 | .trap => 0x14
  | .interrupt c => c

/-- Why an instruction, an element or a row does not perform. -/
inductive Denied where
  /-- a trap of R382 with its EVAL -/
  | trap (t : Trap) (eval : Word)
  /-- the task ends with cause LEASE (R91); EVAL as R406 gives -/
  | lease (eval : Word)
  /-- it waits and is tried again: R89, R102, R220, R317 -/
  | wait
  /-- it waits on a failing page of a held range, which the front end records (R89): the page
  VA[54:16] and the cause of LFSTAT -/
  | held (page cause : Nat)
  /-- it waits out a pin of a core pair on the lines of a range (R318) -/
  | retry (pair pa n : Nat)
  /-- an element of an ordered store waits before it performs, since its own core pair pins a line of the
  range and later elements follow it (R314; log entry 57) -/
  | ordered (pair pa n : Nat)
  /-- a read over a failed host link: poison, and an error record (R97) -/
  | linkPoison (va pa : Nat)
  deriving DecidableEq, Repr

/-! ## Task records (R36, R37, R39) -/

def recWord (r : List Byte) (off : Nat) : Word := BitVec.ofNat 64 (leNat ((r.drop off).take 8))
def recNat (r : List Byte) (off n : Nat) : Nat := leNat ((r.drop off).take n)
def recCtl (r : List Byte) : Word := recWord r 0x00
def recEntry (r : List Byte) : Word := recWord r 0x08
def recGrid (r : List Byte) : Nat := recNat r 0x10 4
def recGang (r : List Byte) : Nat := recNat r 0x14 1
def recEvq (r : List Byte) : Nat := recNat r 0x15 1
def recArgs (r : List Byte) : Word := recWord r 0x18
def recPvec (r : List Byte) (i : Nat) : Nat := recNat r (0x20 + i) 1
def recSigAddr (r : List Byte) : Word := recWord r 0x30
def recSigVal (r : List Byte) : Word := recWord r 0x38
def recTag (r : List Byte) : Word := recWord r 0x40
def recLease (r : List Byte) (i : Nat) : Word := recWord r (0x80 + 8 * i)
def recVer (r : List Byte) : Nat := bits (recCtl r) 0 8
def recB (r : List Byte) : Bool := bits (recCtl r) 8 1 == 1
def recPrio (r : List Byte) : Nat := bits (recCtl r) 9 2
def recLcount (r : List Byte) : Nat := bits (recCtl r) 11 5
def recSways (r : List Byte) : Nat := bits (recCtl r) 16 5
def recZtiles (r : List Byte) : Nat := bits (recCtl r) 21 6
def recNest (r : List Byte) : Nat := bits (recCtl r) 32 4

/-! ## Ranges, by 64 KiB page -/

/-- First page, VA[54:16], and number of pages of a lease entry (R39), and of SRANGEn and INVRANGE, which have its
layout (R90, R100). One of these with G = 1 whose BASE[12:0] is not zero starts at BASE as it is written (DESIGN
CHOICE, log entry 63: R39 and R41 give the requirement an outcome in a record alone). -/
def rangeFirst (e : Word) : Nat := bits e 0 39
def rangePages (e : Word) : Nat := (bits e 39 22 + 1) * (if e.getLsbD 61 then 8192 else 1)
def rangeHas (e : Word) (page : Nat) : Bool := decide (rangeFirst e ≤ page) && decide (page < rangeFirst e + rangePages e)
def rangeWritable (e : Word) : Bool := e.getLsbD 62

/-- Two ranges share a page. -/
def rangesMeet (a b : Word) : Bool :=
  decide (rangeFirst a < rangeFirst b + rangePages b) && decide (rangeFirst b < rangeFirst a + rangePages a)

/-- The lease entries below LCOUNT. -/
def leasesOf (r : List Byte) : List Word := (List.range (min (recLcount r) 16)).map (recLease r)

/-- The enabled standing ranges of a partition (R90). -/
def standingOf (p : Partition) : List Word := ((List.range 8).map fun i => tblGetD p.srange i 0).filter fun e => e.getLsbD 63

/-- A range grants nothing inside the scratch window (R219). -/
def grants (e : Word) (page : Nat) (write : Bool) : Bool := rangeHas e page && (!write || rangeWritable e)

/-- The lease check of R91 for one page. -/
def pageGranted (p : Partition) (r : List Byte) (page : Nat) (write : Bool) : Bool :=
  decide (page < 2 ^ 39) && !inScratchWindow (page * 65536) &&
    ((leasesOf r).any (fun e => grants e page write) || (standingOf p).any (fun e => grants e page write))

/-- A task's state holds its leases from Resident until it is Retired or Ended (R77);
a task that ends while Queued holds none. -/
def TaskState.holdsLeases : TaskState → Bool
  | .queued => false
  | .retired => false
  | .ending held => held
  | .ended => false
  | _ => true

/-! ## The page walk -/

/-- What a walk finds (R93 to R95): a leaf and the physical address of the 64 KiB that was asked for,
no valid leaf, a malformed entry, or an entry on a line that a core pair holds pinned, which the walk
waits out as a DEVICE-scope load does (R318, R326). -/
inductive Walk where
  | leaf (pte : Word) (pa : Nat)
  | noLeaf
  | malformed
  | pinned (pair pa : Nat)
  deriving DecidableEq, Repr

def pteHome (e : Word) : Nat := bits e 4 2
def pteAtom (e : Word) : Bool := e.getLsbD 6
def pteRepl (e : Word) : Bool := e.getLsbD 7
def pteWtype (e : Word) : Nat := bits e 8 2
def ptePa (e : Word) : Nat := bits e 16 36 * 65536
def pteAux (e : Word) : Nat := bits e 52 12
def pteWritable (e : Word) : Bool := e.getLsbD 2

/-- A pointer entry is well formed (R95): reserved and leaf-only fields zero, the table in the
partition's stacks. -/
def pointerOk (p : Partition) (e : Word) : Bool :=
  bits e 2 14 == 0 && bits e 52 12 == 0 && inStacks p (ptePa e)

/-- A leaf names host memory as R97 permits. -/
def hostLeafOk (e : Word) : Bool :=
  isHostPa (ptePa e) && decide (ptePa e < 2 ^ 51) && pteHome e == 3 && !pteAtom e && !pteRepl e && pteWtype e == 0

/-- The whole page of a leaf of a level lies in the partition's stacks (R95): 4 TiB, 512 MiB or 64 KiB. -/
def pageInStacks (p : Partition) (level pa : Nat) : Bool :=
  (List.range (if level = 1 then 64 else 1)).all fun k => inStacks p (pa + k * 2 ^ 36)

/-- A leaf at a level is well formed (R95). -/
def leafOk (p : Partition) (level : Nat) (e : Word) : Bool :=
  let home := pteHome e
  let wt := pteWtype e
  let ppn := bits e 16 36
  let aux := pteAux e
  !e.getLsbD 3 && bits e 10 6 == 0 &&
  (level != 2 || ppn % 2 ^ 13 == 0) && (level != 1 || ppn % 2 ^ 26 == 0) &&
  wt != 3 &&
  (!(home == 1 || home == 2) || level == 3) &&
  (home != 1 || (wt == 0 && ownsDie p (dieOfPair (aux % 1024)) && decide (aux < 1024))) &&
  (!pteAtom e || (home == 3 && !pteRepl e)) &&
  (aux == 0 || wt == 1 || wt == 2 || home == 1) &&
  (pageInStacks p level (ptePa e) || hostLeafOk e)

/-- PA of an entry of a table. -/
def pteAddr (table index : Nat) : Nat := table + 8 * index

/-- One entry of a table at a PA; a poisoned entry counts as malformed (R392). -/
def readPte (s : State) (table index : Nat) : Option Word :=
  let a := pteAddr table index
  match firstPoison s a 8 with
  | some _ => none
  | none => some (BitVec.ofNat 64 (leNat (physReadBytes s a 8)))

/-- The walk from a level's table for a page VA[54:16] (R93); `n` is 3 less the levels done. It reads
through the L2 slices, as an agent outside every core pair. -/
def walkFrom (s : State) (p : Partition) (page : Nat) : Nat → Nat → Walk
  | 0, _ => .malformed
  | n + 1, table =>
    let level := 3 - n
    let index := page / 2 ^ (13 * n) % 8192
    match pinnedElsewhere s none (pteAddr table index) 8 with
    | some k => .pinned k (pteAddr table index)
    | none =>
      match readPte s table index with
      | none => .malformed
      | some e =>
        if !e.getLsbD 0 then .noLeaf
        else if e.getLsbD 1 then
          if leafOk p level e then .leaf e (ptePa e + page % 2 ^ (13 * n) * 65536) else .malformed
        else if n = 0 || !pointerOk p e then .malformed
        else walkFrom s p page n (ptePa e)

/-- The walk of a page of a partition (R93, R98): none in the scratch window (R219). -/
def walk (s : State) (pn : Nat) (page : Nat) : Walk :=
  let p := s.part pn
  let root := p.regs.ptroot
  if !root.getLsbD 0 || decide (2 ^ 39 ≤ page) || inScratchWindow (page * 65536) then .noLeaf
  else if !inStacks p (bits root 16 36 * 65536) then .malformed
  else walkFrom s p page 3 (bits root 16 36 * 65536)

/-- The range of an invalidation covers a page (R100). -/
def invCovers (range : Word) (page : Nat) : Bool := range.getLsbD 63 || rangeHas range page

/-- A translation of the page is draining (R102): from the start of a DRAIN until its CONFIRM. -/
def draining (p : Partition) (page : Nat) : Bool :=
  let i := p.regs.inv
  (((i.op == some .drain || i.op == some .shootDrain) && i.status == 1) || i.status == 3 || (i.op == some .confirm && i.status == 1)) &&
    invCovers i.range page

/-- Cause of LFSTAT for a failing page (R88): none when the page serves the access, or a pinned entry is
waited out. -/
def walkFailure (w : Walk) (write : Bool) : Option Nat :=
  match w with
  | .noLeaf => some 1
  | .malformed => some 2
  | .pinned _ _ => none
  | .leaf e _ => if write && !pteWritable e then some 3 else none

/-- Where an access goes. -/
inductive Place where
  /-- the hart's scratch, at a window offset -/
  | scratch (off : Nat)
  /-- a physical address, through a leaf -/
  | mem (pa : Nat) (pte : Word)
  deriving DecidableEq, Repr

/-- The record of the hart's task. -/
def hartTask (s : State) (h : Hart) : Option Task :=
  match s.gang? h.ids.gang with
  | some g => s.task? g.part g.queue g.seq
  | none => none

/-- What translates a page for an agent: the translation its core pair holds, or a walk (R93, R99). -/
def translation (s : State) (slot part page : Nat) : Walk :=
  match (if isLamp slot then none else heldTranslation s (pairOf slot) part page) with
  | some t => .leaf t.pte t.pa
  | none => walk s part page

/-- The pair number under which a front end holds translations. -/
def frontPair : Nat := 640

/-- An agent holds the translation by which an access at `va` reached `pa` (R99). -/
def rememberAt (s : State) (slot part va pa : Nat) (pte : Word) : State :=
  if isLamp slot then s
  else remember s { pair := pairOf slot, part := part, page := va / 65536, pte := pte, pa := pa / 65536 * 65536 }

/-- The translation of one page for a hart after the lease check (R92, R89, R102). `va` is the first
address of the access in the page. A page of a held lease range waits; a page that lies only in
standing ranges traps PAGE, and so does a store that only a standing range permits to a page that a
read-only lease holds. -/
def translatePage (s : State) (slot : Nat) (h : Hart) (r : List Byte) (va : Nat) (write : Bool) : Except Denied (Nat × Word) :=
  let p := s.part h.ids.part
  let page := va / 65536
  if draining p page then .error .wait
  else
    let w := translation s slot h.ids.part page
    match walkFailure w write with
    | none => match w with
      | .leaf e pa => .ok (pa, e)
      | .pinned k a => .error (.retry k a 8)
      | _ => .error .wait
    | some c =>
      let inLease := (leasesOf r).any fun e => rangeHas e page && (c != 3 || rangeWritable e)
      if !isLamp slot && inLease then .error (.held page c) else .error (.trap .page (BitVec.ofNat 64 va))

/-- Pages of `n` bytes from an address. -/
def pagesOf (va n : Nat) : List Nat := (List.range ((va + n - 1) / 65536 - va / 65536 + 1)).map fun k => va / 65536 + k

/-- The lease check of an access of a trailing hart (R91): the lowest address that fails. -/
def leaseFailure (p : Partition) (r : List Byte) (va n : Nat) (write : Bool) : Option Nat :=
  ((pagesOf va n).find? fun g => !pageGranted p r g write).map fun g => max va (g * 65536)

/-- An owner bit of granules `g` to `k` stands in a poisoned word that a restored image gave (R390, R392). -/
def Hart.ownersPoisoned (h : Hart) (g k : Nat) : Bool :=
  match h.poison with
  | [] => false
  | l => l.any fun x => match x with
    | .control o => decide (0x62800 + 8 * (g / 64) ≤ o) && decide (o ≤ 0x62800 + 8 * (k / 64))
    | _ => false

/-- The scratch checks of R219 on an access whose bytes all lie in the window. -/
def scratchCheck (h : Hart) (va n : Nat) : Except Denied Place :=
  let o := va - scratchBase
  let lim := h.ids.ways * wayBytes
  if lim < o + n then .error (.trap .scratch (BitVec.ofNat 64 (max va (scratchBase + lim))))
  else if h.ownersPoisoned (o / granuleBytes) ((o + n - 1) / granuleBytes) then .error (.trap .poison (BitVec.allOnes 64))
  else match (List.range ((o + n - 1) / granuleBytes - o / granuleBytes + 1)).find? fun k => (h.granule (o / granuleBytes + k)).engine with
    | some k => .error (.trap .owner (BitVec.ofNat 64 (max va (scratchBase + (o / granuleBytes + k) * granuleBytes))))
    | none => .ok (.scratch o)

/-- Places an aligned access of at most 64 KiB that lies in one page (R197, R219, R269, R91, R92): the
scratch window's checks, or the lease check and the translation. A Lamplighter has no window and no
lease check (R56). -/
def place (s : State) (slot : Nat) (h : Hart) (va : Word) (n : Nat) (write : Bool) : Except Denied Place :=
  let a := va.toNat
  if !isLamp slot && inScratchWindow a then
    if decide (2 ^ 55 < a + n) then .error (.trap .scratch va) else scratchCheck h a n
  else if !isLamp slot && (decide (a < scratchBase) && decide (scratchBase < a + n)) then .error (.trap .scratch va)
  else
    let r := match hartTask s h with
      | some t => t.record
      | none => []
    match (if isLamp slot then none else leaseFailure (s.part h.ids.part) r a n write) with
    | some bad => .error (.lease (BitVec.ofNat 64 bad))
    | none =>
      match translatePage s slot h r a write with
      | .error d => .error d
      | .ok (pa, e) => .ok (.mem (pa + a % 65536) e)

end Sys2Proof.Machine
end

