-- ==== Sys2Proof/Machine/Pins.lean ====
section
/-! DEFINITION. How pins end, and what waits for their end (R319): the accesses that a release or a fence
orders, the transfers among them, and the reads of a TCAST (R314, R317, R322). -/

namespace Sys2Proof.Machine

/-! ## Reads of a TCAST (R322) -/

/-- The partition of a gang. -/
def partOfGang (s : State) (gang : Nat) : Nat :=
  match s.gang? gang with
  | some g => g.part
  | none => 0

/-- The partition whose transfer asked for a line. -/
def requestPart (s : State) (w : MergeWindow) : Nat :=
  match w.requests.head? with
  | some q => match s.transfers.find? fun t => t.id == q.transfer with
    | some t => partOfGang s t.gang
    | none => 0
  | none => 0

/-- A read of a TCAST that waited on a pin binds once its line has none: an engine's read, of host memory too
(R322, R97). -/
def bindMerge (s : State) (m : MergeWindow) : State × MergeWindow :=
  let a := m.line * 128
  if m.closed && m.bound.isNone && (pinnedElsewhere s none a 128).isNone then
    let x := engineReadLine s 1280 (requestPart s m) a 128
    (x.1, { m with bound := some x.2 })
  else (s, m)

/-- Reads of a TCAST that waited on pins bind as the pins end (R322). -/
def bindMerges (s : State) : State :=
  match s.merges with
  | [] => s
  | l =>
    let r := l.foldl (fun (r : State × List MergeWindow) m => let x := bindMerge r.1 m; (x.1, r.2 ++ [x.2])) (s, [])
    { r.1 with merges := r.2 }

/-- A pair whose pins are these: the stores to lines that no pin is on any more are at VA. -/
def Pair.keepPins (p : Pair) (l : List Pin) : Pair :=
  { p with pins := l, delayed := p.delayed.filter fun d => l.any fun q => q.line == d.line }

/-- The pins of one hart end at once: every store to their lines reaches VA. -/
def dropPins (s : State) (slot : Nat) : State :=
  match pairOfAgent slot with
  | none => s
  | some n =>
    let p := s.pair n
    match p.pins with
    | [] => s
    | l => bindMerges (s.setPair n (p.keepPins (l.filter fun q => q.slot != slot)))

/-- A pin of a core pair, by the pair, its hart and its line. -/
abbrev PinKey := Nat × Nat × Nat

def Pin.key (q : Pin) (pair : Nat) : PinKey := (pair, q.slot, q.line)

/-- The pins that a test names. -/
def pinKeys (s : State) (f : Pin → Bool) : List PinKey := s.pairs.flatMap fun e => (e.2.pins.filter f).map fun q => q.key e.1

/-- The pins on the lines that an access to a range reaches. -/
def pinsOn (s : State) (pa n : Nat) : List PinKey := pinKeys s fun q => pinCovers s q pa n

/-- A store was made by a partition through a page of a range; one to a ring was made through none. -/
def Delayed.through (d : Delayed) (p : Nat) (range : Word) : Bool :=
  d.part == p && decide (d.page < 2 ^ 39) && invCovers range d.page

/-- Stores that a partition made through the pages of a range and that a pin keeps from VA: core pair and store
(R102). -/
def delayedThrough (s : State) (p : Nat) (range : Word) : List (Nat × Delayed) :=
  s.pairs.flatMap fun e => (e.2.delayed.filter fun d => d.through p range).map fun d => (e.1, d)

/-- The pins that a CONFIRM in progress waits for (R102, R101); none where a draining page waits for anything
else. -/
def confirmPins (s : State) (part : Nat) : Option (List PinKey) :=
  let i := (s.part part).regs.inv
  let l := delayedThrough s part i.range
  if (i.op == some .confirm || i.op == some .shootDrain) && i.status == 1 && !l.isEmpty then
    some (l.flatMap fun d => pinKeys s fun q => q.line == d.2.line)
  else none

/-- The pins that a stretch of a transfer waits for: those on its lines, those that the walk meets by which it
translates again, and those that the CONFIRM of its page waits for (R102, R318, R326). It is none where the
stretch waits for something that is no pin. -/
def segmentPins (s : State) (part : Nat) (toMem stale : Bool) (g : Segment) : Option (List PinKey) :=
  if g.sent then some []
  else if draining (s.part part) (g.va / 65536) then confirmPins s part
  else if !stale then some (pinsOn s g.pa g.len)
  else match walk s part (g.va / 65536) with
    | .leaf e pa => if toMem && !pteWritable e then none else some (pinsOn s (pa + g.va % 65536) g.len)
    | .pinned _ a => some (pinsOn s a 8)
    | _ => none

/-- The pins that a transfer waits for: those of its memory side, or of its reads that are still to be made
(R318, R322); none where it waits for something that is no pin. -/
def Transfer.pins (s : State) (t : Transfer) : Option (List PinKey) :=
  match t.work with
  | .copy toMem rows _ =>
    let l := (rows.flatMap fun r => r.segs).map (segmentPins s (partOfGang s t.gang) toMem t.stale)
    if l.all Option.isSome then some (l.flatMap fun x => x.getD []) else none
  | .cast _ _ _ _ _ => some ((s.merges.filter fun m => m.bound.isNone && m.requests.any fun r => r.transfer == t.id).flatMap fun m =>
      pinsOn s (m.line * 128) 128)

/-- A list of pins is not empty and they all end. -/
def allEnd (gone l : List PinKey) : Bool := !l.isEmpty && l.all gone.contains

/-- A store to host memory is the hart's that stands in a slot now: by gang and HARTID, which it keeps where it
resumes on another slot (R80), and by slot where it belongs to no gang. -/
def HostStore.isOf (s : State) (slot : Nat) (e : HostStore) : Bool :=
  match s.hart? slot with
  | none => false
  | some h => e.gang == h.ids.gang && (if e.gang = 0 then e.slot == slot else e.hartid == h.ids.hartid)

/-- Stores of one queue of a hart to host memory, of a number below a bound, that the host's coherence has not
accepted (R310, R338). -/
def hostOpen (s : State) (slot : Nat) (vec : Bool) (bound : Nat) : Bool :=
  s.hostStores.any fun e => decide (e.stamp < bound) && e.vec == vec && e.isOf s slot

/-- What some transfers have stored to host memory, and the host's coherence has not accepted (R315). -/
def hostOpenOf (s : State) (l : List Nat) : Bool := s.hostStores.any fun e => e.transfer.any l.contains

/-- The accesses of a hart that an operation waits for have performed, where the pins `gone` end: its
transfers are over or wait for those pins alone, and no other pin of its sibling holds back the stores
that count. -/
def Pending.over (s : State) (slot : Nat) (gone : List PinKey) (w : Pending) : Bool :=
  (w.transfers.all fun id => match s.transfers.find? fun t => t.id == id with
    | none => true
    | some t => (t.pins s).any (allEnd gone)) &&
  (match pairOfAgent slot with
    | none => true
    | some k =>
      let p := s.pair k
      p.delayed.all fun d =>
        !(if d.slot = slot then decide (d.stamp < (if d.vec then w.ownV else w.own)) else d.seen.any fun n => decide (n < w.seen)) ||
          (p.siblingPins slot d).all fun q => gone.contains (q.key k)) &&
  !hostOpen s slot false w.host && !hostOpen s slot true w.hostV && !(w.sys && hostOpenOf s w.transfers)

/-- A pin ends, where the pins `gone` end: one of its operations takes effect. -/
def Pin.ends (s : State) (gone : List PinKey) (q : Pin) : Bool := q.ending.any (Pending.over s q.slot gone)

/-- The pins that are ending. -/
def endingPins (s : State) : List (Nat × Pin) := s.pairs.flatMap fun e => (e.2.pins.filter fun q => !q.ending.isEmpty).map fun q => (e.1, q)

/-- Of some pins the most that can end together, each waiting for none but the others. -/
def endTogether (s : State) : Nat → List (Nat × Pin) → List (Nat × Pin)
  | 0, l => l
  | n + 1, l => endTogether s n (l.filter fun e => e.2.ends s (l.map fun x => x.2.key x.1))

/-- The pins that end next: those whose operations wait for no pin; else those of one hart, of one core pair,
or of several, that wait for one another alone. -/
def endNext (s : State) : List (Nat × Pin) :=
  let l := endingPins s
  let groups := (l.map fun e => l.filter fun x => x.2.slot == e.2.slot) ++ (l.map fun e => l.filter fun x => x.1 == e.1) ++ [l]
  match l.filter fun e => e.2.ends s [] with
  | [] => ((groups.map fun g => endTogether s g.length g).find? fun g => !g.isEmpty).getD []
  | now => now

/-- Ending pins end as long as there are some that can. -/
def settleFor : Nat → State → State
  | 0, s => s
  | n + 1, s =>
    match endNext s with
    | [] => s
    | l => settleFor n (l.foldl (fun s e =>
        let p := s.pair e.1
        s.setPair e.1 (p.keepPins (p.pins.filter fun q => q.key e.1 != e.2.key e.1))) s)

/-- The pins whose release takes effect end (R319). -/
def settlePins (s : State) : State :=
  match endingPins s with
  | [] => s
  | l => bindMerges (settleFor l.length s)

/-- The pins of one hart end, because its release at GANG scope or wider takes effect (R319). -/
def endPins (s : State) (slot : Nat) : State := settlePins (dropPins s slot)

/-- The pins of one hart end when an operation takes effect that waits for `w`. -/
def pendPins (s : State) (slot : Nat) (w : Pending) : State :=
  match pairOfAgent slot with
  | none => s
  | some n =>
    let p := s.pair n
    match p.pins with
    | [] => s
    | l => settlePins (s.setPair n { p with pins := l.map fun q =>
        (if q.slot = slot ∧ !(w.whole && q.ending.any Pending.whole) then { q with ending := q.ending ++ [w] } else q) })

/-- The transfers of a hart. -/
def transfersOf (s : State) (slot : Nat) : List Nat := (s.transfers.filter fun t => t.slot == slot).map fun t => t.id

/-- The stamp of a hart's core pair. -/
def stampOf (s : State) (slot : Nat) : Nat :=
  match pairOfAgent slot with
  | none => 0
  | some n => (s.pair n).stamp

/-- The pins of one hart begin to end as by a GANG-scope release of kind all (R319): they end when the
transfers that it has started are over, and the stores that it made or read under its sibling's pins have
reached VA, a wait that starts the bound of those pins. -/
def releasePins (s : State) (slot : Nat) : State :=
  match pairOfAgent slot with
  | none => s
  | some n =>
    if (s.pair n).pins.any fun q => q.slot == slot then
      pendPins (boundSiblingPins .both s slot) slot
        { transfers := transfersOf s slot, own := stampOf s slot, ownV := stampOf s slot, seen := stampOf s slot, whole := true }
    else s

end Sys2Proof.Machine
end

