-- ==== Sys2Proof/Machine/Ops.lean ====
section
/-! DEFINITION. The named operations that the meanings share: loads and stores of an agent, reflected
stores, barrier phases, the Lantern's flush and fork, taking a trap and returning from one, and the
issue and completion of an instruction. -/

namespace Sys2Proof.Machine

/-! ## The window mapping table (R353) -/

def winWord (e : BitVec 512) (i : Nat) : Word := e.extractLsb' (64 * i) 64
def winValid (e : BitVec 512) : Bool := e.getLsbD 0
def winKind (e : BitVec 512) : Nat := bits (winWord e 0) 1 2
def winLb (e : BitVec 512) : Bool := e.getLsbD 3
def winPcls (e : BitVec 512) : Bool := e.getLsbD 4
def winPart (e : BitVec 512) : Nat := bits (winWord e 0) 8 4
def winNdest (e : BitVec 512) : Nat := bits (winWord e 0) 16 4
def winTva (e : BitVec 512) : Nat := bits (winWord e 1) 0 39 * 65536
def winRpa (e : BitVec 512) : Nat := bits (winWord e 1) 0 36 * 65536
def winSize (e : BitVec 512) : Nat := (bits (winWord e 2) 0 24 + 1) * 65536
def winBar (e : BitVec 512) : Nat := bits (winWord e 3) 0 6
def winDie (e : BitVec 512) : Nat := bits (winWord e 3) 6 4
def winCen (e : BitVec 512) : Bool := (winWord e 3).getLsbD 10
def winDev (e : BitVec 512) (k : Nat) : BitVec 16 := e.extractLsb' (256 + 32 * k) 16
def winRwin (e : BitVec 512) (k : Nat) : BitVec 12 := e.extractLsb' (256 + 32 * k + 16) 12

/-- A valid entry of the table. -/
def State.window (s : State) (w : Nat) : Option (BitVec 512) :=
  match tblGet s.windows w with
  | some e => if winValid e then some e else none
  | none => none

/-- The transmit checks of R351 on a page whose PTE names window `w`; `ok` is false for a swap, a
compare-and-swap and the lock instructions. -/
def transmitCheck (s : State) (part w va n : Nat) (ok : Bool) : Except Denied (BitVec 512) :=
  match s.window w with
  | none => .error (.trap .window (BitVec.ofNat 64 va))
  | some e =>
    if winKind e == 1 && winPart e == part && decide (winTva e ≤ va) && decide (va + n ≤ winTva e + winSize e) && ok
    then .ok e else .error (.trap .window (BitVec.ofNat 64 va))

/-- This device's identifier (R370). -/
def State.devid (s : State) : BitVec 16 := bcnDevid s.bcncfg

/-- Another device that the fabric's sizes reach while Beacon is enabled (R370). -/
def inFabric (cfg : Word) (dev : BitVec 16) : Bool :=
  let q := Coord.of dev
  bcnEn cfg && !dev.getLsbD 15 && decide (q.a ≤ bcnNa cfg) && decide (q.b ≤ bcnNb cfg) && decide (q.x ≤ bcnNx cfg) && decide (q.y ≤ bcnNy cfg)

/-- The route of a path, with this device first: fixed when the path first carries a store (R371). -/
def routeOf (s : State) (dev : BitVec 16) (rwin : BitVec 12) : List (BitVec 16) :=
  match s.routes.find? fun r => r.1 == dev && r.2.1 == rwin with
  | some r => r.2.2
  | none => s.devid :: (routeFrom s.bcncfg (Coord.of s.devid) (Coord.of dev)).map Coord.id

/-- A path that carries its first store keeps its route from then on. -/
def fixRoute (s : State) (dev : BitVec 16) (rwin : BitVec 12) : State :=
  if dev == s.devid || !inFabric s.bcncfg dev || s.routes.any fun r => r.1 == dev && r.2.1 == rwin then s
  else { s with routes := s.routes ++ [(dev, rwin, routeOf s dev rwin)] }

/-- One reflected store or reduction on one path. -/
def sendOne (s : State) (slot part w : Nat) (e : BitVec 512) (k off : Nat) (pl : Payload) : State :=
  let (id, s) := (fixRoute s (winDev e k) (winRwin e k)).newId
  { s with egress := s.egress ++ [{ id := id, slot := slot, part := part, win := w, dev := winDev e k, rwin := winRwin e k, offset := off, pcls := winPcls e, payload := pl }] }

/-- Sends on every path of the entry (R356). -/
def reflect (s : State) (slot part w : Nat) (e : BitVec 512) (va : Nat) (pl : Payload) : State :=
  (List.range (winNdest e)).foldl (fun s k => sendOne s slot part w e k (va - winTva e) pl) s

/-! ## Loads and stores of an agent -/

/-- The pinned area takes a page (R222): it holds fewer than four, and the pair has three cache ways. A page that
it holds already through another mapping takes no more room. -/
def Pair.takesPage (p : Pair) (page : Nat) : Bool :=
  let held := ((p.area.filter AreaPage.pinned).map AreaPage.page).eraseDups
  decide (3 ≤ p.cacheWays) && (held.contains page || decide (held.length < 4))

/-- An access meets a HOME 01 page at the core pair that its leaf names: at the first one since its translation was
installed the page is taken into the pair's pinned area, or is served as HOME 00 from then on (R222). -/
def meetPage (s : State) (part va pa : Nat) (pte : Word) : State :=
  if pteHome pte != 1 then s
  else
    let k := pteAux pte % 1024
    let p := s.pair k
    if p.area.any fun x => x.part == part && x.va == va / 65536 then s
    else s.setPair k { p with area := p.area ++
      [{ part := part, va := va / 65536, page := pa / 65536, pinned := p.takesPage (pa / 65536) }] }

/-- The line of an access through a HOME 01 leaf is served by the core pair that the leaf names (R222). -/
def inPinnedArea (s : State) (part va : Nat) (pte : Word) : Bool :=
  pteHome pte == 1 && (s.pair (pteAux pte % 1024)).area.any fun x => x.part == part && x.va == va / 65536 && x.pinned

/-- The words that an access touches in a combining window (R367), its count in a REPL page's window
(R227), and the HOME 01 page that it meets (R222). -/
def noteTouch (s : State) (slot part va pa n : Nat) (pte : Word) (write : Bool) : State :=
  let s := meetPage (if pteAtom pte then touchWords s pa n else s) part va pa pte
  if pteRepl pte && pteHome pte == 0 then countRepl s (dieOf slot) (leafPage pte) pa write else s

/-- What an access of an agent to memory leaves behind beside its bytes: the translation it used (R99) and
what it touched. -/
def noteAccess (s : State) (slot part va pa n : Nat) (pte : Word) (write : Bool) : State :=
  noteTouch (rememberAt s slot part va pa pte) slot part va pa n pte write

/-- The first byte of a failed read of host memory that is poisoned, as a distance from its start: all
are over a failed link (R97). -/
def hostPoisonAt (s : State) (pa n : Nat) : Nat :=
  if !linkTrained s (hostLink pa) || hostErrorAt s pa n then 0
  else match firstPoison s pa n with
    | some b => b - pa
    | none => 0

/-- A load of `n` bytes: the scratch, or memory with its pins, its links and its poison (R197, R219,
R318, R97, R392). -/
def load (s : State) (slot : Nat) (h : Hart) (va : Word) (n : Nat) : Except Denied (State × List Byte) :=
  match place s slot h va n false with
  | .error d => .error d
  | .ok (.scratch o) =>
    match poisonedIn h.scratchPoison o n with
    | some b => .error (.trap .poison (BitVec.ofNat 64 (scratchBase + b)))
    | none => .ok (s, h.readScratch o n)
  | .ok (.mem pa e) =>
    if hostReadFails s pa n then .error (.linkPoison (va.toNat + hostPoisonAt s pa n) pa)
    else match pinnedElsewhere s (pairOfAgent slot) pa n with
      | some k => .error (.retry k pa n)
      | none =>
        match readPoison s slot pa n with
        | some b => .error (.trap .poison (BitVec.ofNat 64 (va.toNat + (b - pa))))
        | none => .ok (noteAccess (markPinRead s slot pa n) slot h.ids.part va.toNat pa n e false, physReadBytes s pa n)

/-- A prefetched line that the trailing core has read is no longer one that may be wasted (R151); one still
in flight holds its place until it fills (R230). -/
def readPrefetches (l : List Prefetch) (line : Nat) : List Prefetch :=
  (l.filter fun p => !(p.line == line && p.filled)).map fun p => if p.line = line then { p with list := none, counted := true } else p

/-- A load of a hart has read memory through its caches. -/
def readAt (s : State) (slot va n : Nat) (h : Hart) : Hart :=
  match h.lantern.prefetches with
  | [] => h
  | l => match place s slot h (BitVec.ofNat 64 va) n false with
    | .ok (.mem pa _) => { h with lantern := { h.lantern with prefetches := readPrefetches l (pinLineOf pa) } }
    | _ => h

/-- An access of the trailing core has read bytes of memory, through its caches (R151). -/
def noteRead (s : State) (slot : Nat) (va : Word) (n : Nat) : State :=
  match s.hart? slot with
  | none => s
  | some h =>
    match h.lantern.prefetches with
    | [] => s
    | _ => s.setHart slot (readAt s slot va.toNat n h)

/-- A store through a leaf writes the page's own bytes: not where it names a transmit window with LB 0
(R358). -/
def writesLocal (s : State) (e : Word) : Bool :=
  pteWtype e != 1 || match s.window (pteAux e) with
    | some w => winLb w
    | none => false

/-- The checks of a store of `n` bytes, in the order of R197 and R351; `reflectable` as in
`transmitCheck`. -/
def checkStore (s : State) (slot : Nat) (h : Hart) (va : Word) (n : Nat) (reflectable : Bool) : Except Denied Place :=
  match place s slot h va n true with
  | .error d => .error d
  | .ok (.scratch o) => .ok (.scratch o)
  | .ok (.mem pa e) =>
    if !isRawAlias pa && touchesDecoded s pa n then .error (.trap .fmtWrite va)
    else
      match (if pteWtype e == 1 then (transmitCheck s h.ids.part (pteAux e) va.toNat n reflectable).map fun _ => () else .ok ()) with
      | .error d => .error d
      | .ok _ =>
        match (if writesLocal s e then pinnedElsewhere s (pairOfAgent slot) pa n else none) with
        | some k => .error (.retry k pa n)
        | none => .ok (.mem pa e)

/-- What makes a store: the agent of a slot, from its vector queue or not (R315), one of its transfers, and the number
under which what it overwrites in part counts (R392). -/
structure Maker where
  slot : Nat
  vec : Bool
  transfer : Option Nat := none
  key : Nat
  deriving DecidableEq, Repr

/-- An instruction of the scalar pipe, or of the vector queue, of an agent. -/
def Maker.instr (slot : Nat) (vec : Bool) : Maker := { slot := slot, vec := vec, key := slot }

/-- Who makes a store to host memory: the hart of a slot, its gang and its task (R310). -/
def hostStoreOf (s : State) (m : Maker) (part pa n : Nat) : HostStore :=
  let x := match s.hart? m.slot with
    | some h => h.ids
    | none => {}
  match s.gang? x.gang with
  | some g => { slot := m.slot, stamp := s.hostStamp, hartid := x.hartid, transfer := m.transfer, vec := m.vec, part := part,
                gang := x.gang, queue := g.queue, seq := g.seq, pa := pa, n := n }
  | none => { slot := m.slot, stamp := s.hostStamp, hartid := 0, transfer := m.transfer, vec := m.vec, part := part,
              gang := 0, queue := 80, seq := 0, pa := pa, n := n }

/-- Bytes written at a physical address for an agent of a partition: host memory over its link (R97, R310), device
memory otherwise. -/
def writePhys (s : State) (m : Maker) (part pa : Nat) (bs : List Byte) : State :=
  if isHostPa pa then
    if hostWriteFails s pa bs.length then hostLinkError s part pa
    else { coverMemory (physWrite s pa bs) m.key (storageOf pa) bs.length with
      hostStores := s.hostStores ++ [hostStoreOf s m part pa bs.length], hostStamp := s.hostStamp + 1 }
  else coverMemory (physWrite s pa bs) m.key (storageOf pa) bs.length

/-- A store of an agent's bytes at their own PA, through a page VA[54:16]: it is not at VA while its core pair
pins its line (R318). -/
def storeLocal (s : State) (m : Maker) (part page pa : Nat) (bs : List Byte) : State :=
  writePhys (delayStore s m.slot m.vec part page pa bs.length) m part pa bs

/-- A checked store performs (R197, R356); `vec` says that the vector queue makes it. Through a transmit window
with LB 1 its local bytes are at VA at once, whoever pins their line (R358). -/
def performStore (s : State) (slot : Nat) (vec : Bool) (part : Nat) (pl : Place) (va : Word) (bs : List Byte) : State :=
  match pl with
  | .scratch o => storeScratch s slot o bs
  | .mem pa e =>
    if pteWtype e == 1 then
      match s.window (pteAux e) with
      | some w =>
        let s := reflect (rememberAt s slot part va.toNat pa e) slot part (pteAux e) w va.toNat (.store bs [])
        if winLb w then writePhys (noteAccess s slot part va.toNat pa bs.length e true) (.instr slot vec) part pa bs else s
      | none => s
    else storeLocal (noteAccess s slot part va.toNat pa bs.length e true) (.instr slot vec) part (va.toNat / 65536) pa bs

/-! ## The Lantern's share, as the trailing core handles it (R147 to R152) -/

/-- Entries of the Wick queue that an entry takes (R146): a coordinate batch one for each 32 lanes and one
for its cursors. -/
def WickKind.size : WickKind → Nat
  | .coords _ _ _ lanes _ _ => (lanes + 31) / 32 + 1
  | _ => 1

/-- Entries that a hart holds. -/
def wickUsed (l : List WickEntry) : Nat := (l.map fun e => e.kind.size).foldl (fun a b => a + b) 0

/-- Prefetched lines whose gather list is flushed (R151). -/
def wastedByFlush (l : List Prefetch) : Nat := (l.filter fun p => p.list.isSome && !p.counted).length

/-- Prefetches after a flush: they are never recalled, and those of a flushed list are wasted (R151). -/
def flushPrefetches (l : List Prefetch) : List Prefetch :=
  match l with
  | [] => []
  | l => (l.filter fun p => !(p.filled && p.list.isSome)).map fun p => if p.list.isSome then { p with list := none, counted := true } else p

/-- Cycles of a wait on poison that a flush ends (R142, R408). -/
def LanternSide.waited (l : LanternSide) : Word :=
  match l.copy with
  | some c => if c.waiting.isSome then Config.lanternWait c.wait else 0
  | none => 0

/-- Flushes the hart's Wick share and discards its Lantern copy (R150 to R152). -/
def Hart.flushLantern (h : Hart) : Hart :=
  { ((h.bump 2 (BitVec.ofNat 64 (wickUsed h.lantern.wick))).bump 3 (BitVec.ofNat 64 (wastedByFlush h.lantern.prefetches))).bump 4 h.lantern.waited with
    watch := []
    lantern := { h.lantern with
      copy := none, forking := false, wick := [], stopped := false, popped := none, awaits := false, alone := false
      prefetches := flushPrefetches h.lantern.prefetches } }

/-- Starts the copy of 40 cycles after which the Lantern is forked again (R150 step 3); `n` is the
counter of its kind: 0 for a mismatch, 1 for ERET and resumption. With LOFF set nothing is forked
(R148). -/
def Hart.startFork (h : Hart) (n : Nat) : Hart :=
  let h := h.flushLantern
  if h.lslip.getLsbD 7 then h
  else { h.bump n 1 with lantern := { h.lantern with forking := true } }

/-- Same kind of entry. -/
def WickKind.sameKind : WickKind → WickKind → Bool
  | .branch _ _, .branch _ _ => true
  | .loopEnd _, .loopEnd _ => true
  | .gather _, .gather _ => true
  | .coords _ _ _ _ _ _, .coords _ _ _ _ _ _ => true
  | .translation _, .translation _ => true
  | _, _ => false

/-- Entries of the trailing core's instruction still wait for room in the share (R144, R145). -/
def LanternSide.holdsBack (l : LanternSide) : Bool :=
  match l.copy with
  | some c => c.pending.any fun e => e.seq == l.seq
  | none => false

/-- The Lantern waits at a VSETL for its lead to fall (R144, R148): it leads by the strips of SLIP still. -/
def Hart.slipping (h : Hart) (c : LanternCopy) : Bool :=
  c.slipped && decide (h.lantern.strips + (h.lslip.extractLsb' 0 7).toNat ≤ c.strips)

/-- The Lantern is issuing for its hart (R144, R147): it is forked, waits for no poison, no room and no strip,
and has not stopped. -/
def Hart.issuing (h : Hart) : Bool :=
  match h.lantern.copy with
  | some c => c.waiting.isNone && c.pending.isEmpty && !h.slipping c && !h.lantern.stopped && !h.lantern.forking
  | none => false

/-- The Lantern's count is below that of the trailing core's next instruction (R147), or stands at it while the
hart waits for its entries already. -/
def LanternSide.behind (l : LanternSide) : Bool :=
  match l.copy with
  | some c => decide (c.seq < l.seq) || (l.awaits && c.seq == l.seq)
  | none => false

/-- The trailing core resolves an instruction alone: it counts once for each (R147, R156, R408). -/
def Hart.resolveAlone (h : Hart) : Hart :=
  if h.lantern.alone then h else { h.bump 5 1 with lantern := { h.lantern with alone := true } }

/-- The trailing core pops and checks the entry of a consuming instruction (R146, R149): a mismatch
re-forks; an instruction whose entry is missing is resolved alone (R147), unless this instruction has
started a re-fork already. An entry of another kind at the instruction's number counts as missing, and is
dropped without a re-fork (DESIGN CHOICE, log entry 34: R149 gives it no outcome). -/
def Hart.consume (h : Hart) (k : WickKind) : Hart :=
  let l := h.lantern
  match l.wick.find? fun e => e.seq == l.seq && e.kind.sameKind k with
  | some e =>
    let h := { h with lantern := { l with wick := l.wick.erase e } }
    if e.kind = k then h else h.startFork 0
  | none => if l.forking then h else h.resolveAlone

/-- An entry of a walk or of an Equinox instruction, which the instruction pops as it issues. -/
def WickKind.isWalked : WickKind → Bool
  | .translation _ => true
  | .gather _ => true
  | .coords _ _ _ _ _ _ => true
  | _ => false

/-- The entries of the hart's current instruction leave its Wick share. -/
def LanternSide.dropOwn (l : LanternSide) : List WickEntry :=
  match l.wick with
  | [] => []
  | w => w.filter fun e => e.seq != l.seq || !e.kind.isWalked

/-- Prefetches once the instructions below a count have popped their entries or passed them: those whose list
or batch this was are tied to none (R151). -/
def untieBelow (l : List Prefetch) (seq : Nat) : List Prefetch :=
  match l with
  | [] => []
  | l => l.map fun p => if p.list.any fun n => decide (n < seq) then { p with list := none } else p

/-- The trailing core pops the entries of its instruction once, as it issues it: `found` says whether they
mismatch, and is none where there are none (R147, R149). -/
def Hart.popOwn (h : Hart) (found : Option Bool) : Hart :=
  match h.lantern.popped with
  | some _ => h
  | none =>
    let k := { h with lantern := { h.lantern with
      wick := h.lantern.dropOwn, popped := some (found.getD false), awaits := false
      prefetches := untieBelow h.lantern.prefetches (h.lantern.seq + 1) } }
    if found.isSome then k else k.resolveAlone

/-- An instruction whose entries mismatched re-forks as it completes (R150 step 1). -/
def Hart.endPop (h : Hart) : Hart :=
  match h.lantern.popped with
  | none => h
  | some true => h.startFork 0
  | some false => { h with lantern := { h.lantern with popped := none } }

/-! ## Ending causes and traps -/

def EndCause.plain (code : BitVec 8) : EndCause := { code := code }

/-- The states in which an ending cause still acts (R77, R402, R407). -/
def TaskState.canEnd : TaskState → Bool
  | .retiring => false
  | .retired => false
  | .ending _ => false
  | .ended => false
  | _ => true

def TaskState.isEnding : TaskState → Bool
  | .ending _ => true
  | _ => false

/-- A hart stops issuing: its Wick share is flushed and its Lantern copy discarded (R152). -/
def Hart.stop (h : Hart) : Hart := { h.flushLantern with run := .stopped }

/-- A hart reaches its stopping point (R380, R381): a WMAP or WUNMAP whose entry is replaced completes
first. -/
def Hart.stopWhole (h : Hart) : Hart :=
  match h.run with
  | .mapping _ _ => h
  | _ => h.stop

/-- Every hart of a gang stops issuing (R386 step 1, R403 step 1); its pins end as by a release of kind all
(R319), and a pin of its sibling on what it read or wrote starts its bound. -/
def stopHarts (f : Hart → Hart) (s : State) (g : Gang) : State :=
  match g.state with
  | .saved _ => s
  | _ => g.harts.foldl (fun s e => releasePins (boundSiblingPins .both (s.modHart e.2 f) e.2) e.2) s

/-- A task begins to end: its harts stop at once (R403 step 1); TASK_END does the rest. -/
def beginEnd (s : State) (p q n : Nat) (c : EndCause) : State :=
  match s.task? p q n with
  | some t =>
    if t.state.canEnd then
      let s := s.modTask p q n fun t => { t with state := .ending t.state.holdsLeases, cause := some c }
      (s.gangs.filter fun g => g.part == p && g.queue == q && g.seq == n).foldl (stopHarts Hart.stop) s
    else s
  | none => s

/-- The task of a hart ends with a cause that a hart raised (R402, R406). -/
def endTaskOf (s : State) (h : Hart) (code tcode : BitVec 8) (eval : Word) : State :=
  match s.gang? h.ids.gang with
  | some g => beginEnd s g.part g.queue g.seq
      { code := code, tcode := tcode, gridIdx := BitVec.ofNat 32 g.gridIdx, hartid := BitVec.ofNat 7 h.ids.hartid, eval := eval }
  | none => s

def causeLease : BitVec 8 := 0x40
def causeBadrec : BitVec 8 := 0x41
def causeRevoked : BitVec 8 := 0x42
def causeUnhandled : BitVec 8 := 0x43
def causeImage : BitVec 8 := 0x44

/-- The runtime of a Lamplighter stops (R56): RUN reads 0. -/
def stopRuntime (s : State) (slot part : Nat) : State :=
  (s.dropHart slot).modPart part fun p => { p with regs := { p.regs with rtentry := withBits p.regs.rtentry 0 1 0 } }

/-- What trap entry writes of the control state a restored image gave (R384, R388, R392): a poisoned PC or
VSTART takes its poison along into EPC or EVSTART, and the other registers written are clean. -/
def trapPoison (l : List RegLoc) : List RegLoc :=
  match l with
  | [] => []
  | l => (l.filter fun x => !RegLoc.controlIn [0x100, 0x108, 0x170, 0x178, 0x180, 0x188, 0x190] x) ++
      (if l.contains (.control 0x100) then [.control 0x170] else []) ++
      (if l.contains (.control 0x108) then [.control 0x178] else [])

/-- Trap entry (R384): the one operation by which a hart takes a trap. `epc` is the PC saved; what its
instruction has overwritten in part counts no more (R392). On a Lamplighter a trap with no handler stops its runtime (R56). -/
def takeTrap (s : State) (slot : Nat) (t : Trap) (eval : Word) (epc : Word) : State :=
  match s.hart? slot with
  | none => s
  | some h =>
    let s := settleStores (releasePins s slot) slot
    let h := { h.flushLantern with
      run := .running
      held := none
      poison := trapPoison h.poison
      trap := { h.trap with
        epc := epc
        evstart := h.regs.vstart.setWidth 64
        ecause := t.code.setWidth 64
        eval := eval
        estat := (BitVec.ofBool h.priv).setWidth 64
        evtype := h.regs.vtype
        suspended := true } }
    if isLamp slot then
      if h.trap.tvec == 0 then logSconce (stopRuntime s slot h.ids.part) (.runtimeStopped (slot - 1280) t.code)
      else s.setHart slot ((h.setPc h.trap.tvec).setVstart 0)
    else if h.priv || h.trap.tvec == 0 then
      endTaskOf (s.setHart slot h) h causeUnhandled t.code eval
    else s.setHart slot (({ h with priv := true }.setPc h.trap.tvec).setVstart 0)

/-- VTYPE is written, and VL falls to the VLMAX of its ETYPE (R239, R246). -/
def Regs.retype (r : Regs) (t : BitVec 7) : Regs :=
  { r with vtype := t, vl := BitVec.ofNat 12 (min r.vl.toNat (vlmaxOf (t.extractLsb' 0 4))) }

/-- The return from a trap (R212): PC, VSTART and the view come back, and VTYPE as trap entry saved it
(R239; log entry 48), the loop actions resume, and the Lantern is forked (R152). -/
def returnFromTrap (s : State) (slot : Nat) (h : Hart) : State :=
  let h := { h with regs := h.regs.retype h.trap.evtype, priv := isLamp slot || h.trap.estat.getLsbD 0, trap := { h.trap with suspended := false } }
  let h := (h.setPc h.trap.epc).setVstart (bits h.trap.evstart 0 11)
  s.setHart slot (if isLamp slot then h else h.startFork 1)

/-! ## Barriers (R323 to R325, R339, R427) -/

def barKey (die n : Nat) : Nat := 64 * die + n

/-- Slots of the harts that wait on barrier `n` of a die. -/
def waitersOn (s : State) (die n : Nat) : List Nat :=
  (s.harts.filter fun e => decide (dieOf e.1 = die) && match e.2.run with
    | .barWait m _ => m.toNat == n
    | _ => false).map fun e => e.1

/-- The hart of a slot waits on barrier `n`. -/
def waitsOn (s : State) (n slot : Nat) : Bool :=
  match s.hart? slot with
  | none => false
  | some h => match h.run with
    | .barWait m _ => m.toNat == n
    | _ => false

/-- Every hart waiting on the barrier traps BAROVER (R324): where the first of them ends the task, which stops the
others (R403), these wait no more. -/
def trapWaiters (s : State) (die n : Nat) : State :=
  (waitersOn s die n).foldl (fun s slot =>
    if waitsOn s n slot then
      takeTrap s slot .barOver (BitVec.ofNat 64 n) (match s.hart? slot with | some h => h.pc | none => 0)
    else s) s

/-- The completion test after an event that did not break the barrier (R324): a flip releases the
waiting harts, an excess of bytes breaks the barrier. -/
def settleBarrier (s : State) (die n : Nat) (c : BarrierCell) : State :=
  let b := c.bar
  let k := barKey die n
  if b.arr = b.expa ∧ b.cred = b.expb then
    let s := s.setBarrier k { c with bar := { b with phase := !b.phase, arr := 0, cred := 0, expb := b.baseb } }
    (waitersOn s die n).foldl (fun s slot => s.modHart slot fun h => { h with run := .barReady }) s
  else if b.arr = b.expa ∧ b.expb.ult b.cred then
    trapWaiters (s.setBarrier k { c with bar := { b with broken := true } }) die n
  else s.setBarrier k c

def satBytes (a b : Nat) : BitVec 40 := BitVec.ofNat 40 (min (a + b) (2 ^ 40 - 1))

/-- A credit of bytes reaches a barrier (R324): a broken one discards it. -/
def creditBarrier (s : State) (die n bytes : Nat) : State :=
  let c := s.barrier (barKey die n)
  if c.bar.broken then s
  else settleBarrier s die n { c with bar := { c.bar with cred := satBytes c.bar.cred.toNat bytes } }

/-- A credit held for a gang that is away (R325). -/
def holdCredit (s : State) (gang n bytes : Nat) : State :=
  s.modGang gang fun g => { g with credits := g.credits ++ [(n, bytes)] }

/-- A credit from a receive window (R366, R325, R427). -/
def creditFromWindow (s : State) (die n bytes : Nat) : State :=
  match (s.barrier (barKey die n)).owner with
  | .free => s
  | .owned _ => creditBarrier s die n bytes
  | .reserved g => holdCredit s g n bytes
  | .forwarding g => match s.gang? g with
    | some x => match x.state with
      | .saved _ => holdCredit s g n bytes
      | _ => creditBarrier s x.die n bytes
    | none => s

/-- A credit of a gang's own transfer (R305, R339): discarded where the gang does not own the
barrier. -/
def creditFromTransfer (s : State) (gang n bytes : Nat) : State :=
  match s.gang? gang with
  | some g => if (s.barrier (barKey g.die n)).owner = .owned gang then creditBarrier s g.die n bytes else s
  | none => s

/-! ## Issue and completion of an instruction -/

/-- What an instruction makes of its turn. -/
inductive Res where
  /-- it has completed without a redirect -/
  | done (s : State)
  /-- it has completed and redirects to an aligned target (R121) -/
  | jump (s : State) (target : Word)
  /-- it has completed and its PC stands as it set it (ERET) -/
  | placed (s : State)
  /-- it stops or waits, with its PC kept -/
  | keep (s : State)
  /-- it does not perform; the hart's VSTART says where it stands -/
  | deny (s : State) (d : Denied)
  /-- it completes, and then traps with the PC that follows it (TRAP, R215) -/
  | trapAfter (s : State) (t : Trap) (eval : Word)

/-- PC after an instruction at leN completes without a redirect, the loop registers (R207), and the outcomes of
the bodies that end there, in the order in which the loops act: true to continue (R146). -/
def loopEnd (r : LoopRegs) (x next : Word) : LoopRegs × Word × List Bool :=
  let (r, pc, seen, done) : LoopRegs × Word × List Bool × Bool :=
    if r.lc1 ≠ 0 ∧ x = r.le1 then
      if 1 < r.lc1.toNat then ({ r with lc1 := r.lc1 - 1 }, r.lb1, [true], true)
      else ({ r with lc1 := 0 }, next, [false], false)
    else (r, next, [], false)
  if !done && r.lc0 != 0 && x == r.le0 then
    if 1 < r.lc0.toNat then ({ r with lc0 := r.lc0 - 1 }, r.lb0, seen ++ [true])
    else ({ r with lc0 := 0 }, pc, seen ++ [false])
  else (r, pc, seen)

/-- The loop registers that an LSETUP arms, or empties on a zero trip (R206). -/
def armLoop (l : LoopRegs) (loop1 : Bool) (count lb le : Word) : LoopRegs :=
  if loop1 then { l with lc1 := count, lb1 := lb, le1 := le } else { l with lc0 := count, lb0 := lb, le0 := le }

/-- The loops with only one of them armed. -/
def onlyLoop (l : LoopRegs) (loop1 : Bool) : LoopRegs := if loop1 then { l with lc0 := 0 } else { l with lc1 := 0 }

/-- The step of the other loop when a zero trip ends at its end (R206): R207 applied to loop `other1`
alone, as if the instruction at `le` had completed. -/
def stepOther (l : LoopRegs) (other1 : Bool) (le next : Word) : LoopRegs × Word × List Bool :=
  if other1 then
    let (k, pc, seen) := loopEnd (onlyLoop l true) le next
    ({ k with lc0 := l.lc0 }, pc, seen)
  else
    let (k, pc, seen) := loopEnd (onlyLoop l false) le next
    ({ k with lc1 := l.lc1 }, pc, seen)

/-- A loop body that spans more than 64 packets (R154). -/
def bodyIsBig (lb le : Word) : Bool := decide (lb.toNat / 32 + 64 < (le.toNat + 11) / 32 + 1)

/-- Iterations of too large bodies that the loop-end action at `x` closes, for LOOPBIG (R154, R408). -/
def bigIterations (r : LoopRegs) (x : Word) : Nat :=
  let a1 := r.lc1 != 0 && x == r.le1
  let a0 := !(a1 && decide (1 < r.lc1.toNat)) && r.lc0 != 0 && x == r.le0
  (if a1 && bodyIsBig r.lb1 r.le1 then 1 else 0) + (if a0 && bodyIsBig r.lb0 r.le0 then 1 else 0)

/-- LOOPBIG after the loop-end action at `x` (R408). -/
def Hart.countBig (h : Hart) (x : Word) : Hart :=
  match bigIterations h.regs.loops x with
  | 0 => h
  | n => h.bump 8 (BitVec.ofNat 64 n)

/-- The trailing core pops and checks the outcomes of the bodies that end at an instruction (R146, R149). -/
def Hart.consumeLoops (h : Hart) (seen : List Bool) : Hart := seen.foldl (fun h again => h.consume (.loopEnd again)) h

/-- The loop-end action for a hart at address `x`, unless a handler runs (R207, R209). -/
def Hart.stepLoops (h : Hart) (x next : Word) : Hart :=
  if h.trap.suspended then h.setPc next
  else
    let (r, pc, seen) := loopEnd h.regs.loops x next
    { h.countBig x with regs := { h.regs with loops := r, pc := pc } }.consumeLoops seen

/-- Loop register `i`: lc0, lc1, lb0, lb1, le0, le1. -/
def publishLoop (c r : LoopRegs) (i : Nat) : LoopRegs :=
  match i with
  | 0 => { c with lc0 := r.lc0 }
  | 1 => { c with lc1 := r.lc1 }
  | 2 => { c with lb0 := r.lb0 }
  | 3 => { c with lb1 := r.lb1 }
  | 4 => { c with le0 := r.le0 }
  | _ => { c with le1 := r.le1 }

/-- A register of the copy takes the trailing core's value. -/
def publishReg (c : Regs) (h : Hart) : LanternReg → Regs
  | .s i => c.setS i (h.getS i)
  | .v i => { c with v := rset c.v i (h.getV i) }
  | .m i => c.setM i (h.getM i)
  | .p i => c.setP i (h.getP i)
  | .q i => { c with q := rset c.q i (h.getQ i) }
  | .e i => { c with e := rset c.e i (h.getE i) }
  | .vl => { c with vl := h.regs.vl }
  | .vtype => { c with vtype := h.regs.vtype }
  | .vstart => { c with vstart := h.regs.vstart }
  | .pc => { c with pc := h.regs.pc }
  | .loop i => { c with loops := publishLoop c.loops h.regs.loops i }

/-- The copy takes the value that it waits for at the later of two moments (R142): the start of its wait, and
the retirement of the instruction that last wrote the register, which is past once `seq` instructions are. -/
def LanternCopy.bind (c : LanternCopy) (h : Hart) (seq : Nat) : LanternCopy :=
  match c.waiting with
  | none => c
  | some x =>
    if c.bound || c.poison.any fun e => e.1 == x && decide (seq < e.2) then c
    else { c with regs := publishReg c.regs h x, bound := true }

/-- The trailing core's count passes an instruction; an entry that it left unpopped is discarded (R147), and
what the Lantern waits for may be published. -/
def LanternSide.passed (l : LanternSide) (h : Hart) : LanternSide :=
  { l with
    seq := l.seq + 1
    awaits := false
    alone := false
    copy := l.copy.map fun c => c.bind h (l.seq + 1)
    prefetches := untieBelow l.prefetches (l.seq + 1)
    wick := match l.wick with
      | [] => []
      | w => w.filter fun e => decide (l.seq < e.seq) }

/-- A hart counts a completed instruction (R216): INSTRET, the free gain of CYCLE, and the sequence
of R146. -/
def Hart.count (h : Hart) (tick : Word) : Hart :=
  { h with instret := h.instret + 1, cycle := h.cycle + tick, lantern := h.lantern.passed h }

/-- Completion without a redirect: the PC moves past the instruction or where the loop-end action
puts it. -/
def retire (s : State) (slot : Nat) : State :=
  match s.hart? slot with
  | none => s
  | some h =>
    let (k, s) := s.draw
    s.setHart slot ((h.stepLoops h.pc (h.pc + 12)).endPop.count (Config.cycleTick k))

/-- Completion at a PC that the instruction set. -/
def retireAt (s : State) (slot : Nat) (pc : Word) : State :=
  match s.hart? slot with
  | none => s
  | some h =>
    let (k, s) := s.draw
    s.setHart slot ((h.setPc pc).count (Config.cycleTick k))

/-- The front end records a failing page found by a running hart (R88, R89), unless a failure is
recorded already (R87). -/
def recordLeaseFault (s : State) (p : Nat) (run : Bool) (queue seq page cause : Nat) : State :=
  let r := (s.part p).regs
  if r.lfstat.getLsbD 0 then s
  else
    let v : Nat := 1 + cause * 2 + (if run then 8 else 0) + queue * 16 + seq * 2 ^ 32
    raiseInterrupt (s.modPart p fun x => { x with regs := { x.regs with lfstat := BitVec.ofNat 64 v, lfva := BitVec.ofNat 64 (page % 2 ^ 39 * 65536) } }) p 0x80

/-- What a refused or waiting access does at its hart: `held` says what it waits for (R89, R318). -/
def deny (s : State) (slot : Nat) (d : Denied) : State :=
  match s.hart? slot with
  | none => s
  | some h =>
    match d with
    | .trap t v => takeTrap s slot t v h.pc
    | .lease v => endTaskOf s h causeLease 0 v
    | .wait => s
    | .held page cause =>
      let s := s.setHart slot { h with held := some (.page page (cause == 3) false) }
      match s.gang? h.ids.gang with
      | some g => recordLeaseFault s h.ids.part true g.queue g.seq page cause
      | none => s
    | .retry k pa n =>
      let (i, s) := s.draw
      (noteRetry s k pa n).modHart slot fun h => { h.bump 10 (Config.retryCycles i) with held := some (.pin k pa n) }
    | .ordered k pa n => (noteRetry s k pa n).setHart slot { h with held := some (.order k pa n) }
    | .linkPoison va pa => takeTrap (hostLinkError s h.ids.part pa) slot .poison (BitVec.ofNat 64 va) h.pc

/-- The first instruction of a task's first gang makes the task Running (R77). A runtime belongs to no
gang (R56): gang 0 names none. -/
def noteRunning (s : State) (h : Hart) : State :=
  match (if h.ids.gang = 0 then none else s.gang? h.ids.gang) with
  | none => s
  | some g =>
    match s.task? g.part g.queue g.seq with
    | none => s
    | some t =>
      if t.ran && t.state != .dispatched then s
      else s.modTask g.part g.queue g.seq fun t => { t with ran := true, state := if t.state = .dispatched then .running else t.state }

/-- The guard of R110. -/
def guardTrue (h : Hart) (c : Ctl) : Bool := if c.neg then !h.getP c.pred else h.getP c.pred

/-- The opcodes a Lamplighter executes (R56). -/
def lampRuns (op : Nat) : Bool := decide (op ≤ 0x5F) || op == 0xD0 || op == 0xD3 || op == 0xE1 || op == 0xE2 || op == 0xE3

def endTurn (s : State) : State := { s with budget := none }

/-- The instruction stays at its hart, so that its stores go on being one store (R392). -/
def Res.waits : Res → Bool
  | .keep _ => true
  | .deny _ (.trap _ _) => false
  | .deny _ (.lease _) => false
  | .deny _ (.linkPoison _ _) => false
  | .deny _ _ => true
  | _ => false

/-- Closes an instruction's turn. -/
def close (slot : Nat) (r : Res) : State :=
  (fun s => endTurn (if r.waits then s else settleStores s slot)) (match r with
    | .done s => retire s slot
    | .jump s t => retireAt s slot t
    | .placed s =>
      let (k, s) := s.draw
      s.modHart slot fun h => h.count (Config.cycleTick k)
    | .keep s => s
    | .deny s d => deny s slot d
    | .trapAfter s' t v =>
      let s' := retire s' slot
      takeTrap s' slot t v (match s'.hart? slot with | some h => h.pc | none => 0))

/-- The agent whose instruction is being executed. -/
def State.current (s : State) : Option (Nat × Hart) :=
  match s.turn with
  | none => none
  | some a => (s.hart? a).map fun h => (a, h)

/-- An instruction whose guard is false (R110): a branch still has its outcome checked, not taken
(R146). -/
def skipGuarded (op : Nat) (h : Hart) : Hart :=
  if op == 0x30 || op == 0x31 then h.consume (.branch false 0) else h

/-- The instructions that issue element groups from the vector queue into the vector pipe (R130, R131). -/
def inVectorPipe (op : Nat) : Bool := (decide (0x60 ≤ op) && decide (op ≤ 0xAF)) || op == 0xD1 || op == 0xD2

/-- Lanes lent while an instruction of the vector pipe issues beside a sibling hart, and lanes borrowed by
one of OP 0x60 to 0x8F (R139): LENT and BORROW gain free counts. -/
def lendLanes (op slot : Nat) (s : State) : State :=
  if inVectorPipe op && (s.hart? (siblingOf slot)).isSome then
    let (k, s) := s.draw
    s.modHart slot fun h => (h.bump 6 (Config.lentLanes (2 * k))).bump 7 (if op ≤ 0x8F then Config.lentLanes (2 * k + 1) else 0)
  else s

/-- Issues an encoded instruction of major opcode `op` at the current agent (R117 steps 6 to 8): the
opcodes a Lamplighter has not (R56), the guard (R110), and the instruction's own body. -/
def issue (op : Nat) (c : Ctl) (s : State) (body : State → Nat → Hart → Res) : Host.Outcome State Fault Refusal :=
  match s.current with
  | none => .refused .noAgent
  | some (slot, h) =>
    if isLamp slot && !lampRuns op then .next (endTurn (takeTrap s slot .illegal 0 h.pc))
    else
      let s := noteRunning s h
      if guardTrue h c then .next (lendLanes op slot (close slot (body s slot h)))
      else .next (close slot (.done (s.setHart slot (skipGuarded op (h.setVstart 0)))))

/-- `deny` with the trap of a cause. -/
def trapRes (s : State) (t : Trap) (eval : Word) : Res := .deny s (.trap t eval)

/-- A body that changes only its hart and completes. -/
def doneWith (s : State) (slot : Nat) (h : Hart) : Res := .done (s.setHart slot h)

end Sys2Proof.Machine
end

