-- ==== Sys2Proof/Machine/Operands.lean ====
section
/-! DEFINITION. Operand forms (R107 to R111, R241), the width check (R240), poisoned operands (R392)
and the element loop (R242). -/

namespace Sys2Proof.Machine

/-- Operand B of a scalar instruction, as a value of a type (R109, R190). -/
def Hart.ssrc (h : Hart) (t : Ty) : SSrc → Word
  | .reg s => h.getS s
  | .imm v => t.imm v

/-- Operand B with an untyped immediate, zero-extended (R109). -/
def Hart.usrc (h : Hart) : SSrc → Word
  | .reg s => h.getS s
  | .imm v => v.setWidth 64

/-- Element `i` of operand B of an element-wise instruction (R241). -/
def Hart.vsrc (h : Hart) (t : Ty) (b : VSrc) (i : Nat) : Word :=
  match b with
  | .vec v => elemGet (h.getV v) t.slotWidth i
  | .reg s => low t.width (h.getS s)
  | .imm v => low t.width (t.imm v)

/-- Element `i` is active (R111). -/
def Hart.active (h : Hart) (m : Mask) (i : Nat) : Bool :=
  match m with
  | .none => true
  | .on _ k => maskBit (h.getM k) i

/-- The active elements below VL, in ascending order. -/
def Hart.activeBelow (h : Hart) (m : Mask) : List Nat := (List.range h.vl).filter fun i => h.active m i

/-- An inactive element is zeroed (R111). -/
def maskZeroing : Mask → Bool
  | .none => false
  | .on z _ => z

/-- The width check (R240). -/
def Hart.widthOk (h : Hart) (gw : Nat) : Bool := gw == etypeWidth h.etypeCode

/-! ## Poisoned operands (R392) -/

/-- A source that an instruction reads. -/
inductive Src where
  | s (i : SIdx)
  | m (i : MIdx)
  /-- bits `lo` to `hi` − 1 of a mask register -/
  | bits (i : MIdx) (lo hi : Nat)
  | q (i : QIdx)
  | e (i : EIdx)
  deriving DecidableEq, Repr

/-- A word that holds some of bits `lo` to `hi` − 1 of a mask register. -/
def RegLoc.ofBits (i : MIdx) (lo hi : Nat) : RegLoc → Bool
  | .m j k => j == i.toNat && decide (lo < hi) && decide (lo < 64 * k + 64) && decide (64 * k < hi)
  | _ => false

def Src.hits : Src → RegLoc → Bool
  | .s i => RegLoc.ofS i
  | .m i => RegLoc.ofM i
  | .bits i lo hi => RegLoc.ofBits i lo hi
  | .q i => RegLoc.ofQ i
  | .e i => RegLoc.ofE i

/-- A whole source register holds poison. -/
def Hart.poisoned (h : Hart) (l : List Src) : Bool :=
  match h.poison with
  | [] => false
  | p => l.any fun x => p.any x.hits

/-- Element `i` of width `w` of a vector register overlaps a poisoned word. -/
def Hart.elemPoisoned (h : Hart) (v : VIdx) (w i : Nat) : Bool :=
  match h.poison with
  | [] => false
  | p => p.any fun x => match x with
    | .v j k => j == v.toNat && k == i * w / 64
    | _ => false

/-- The trap of a poisoned register or tile (R382). -/
def poisonTrap : Denied := .trap .poison (BitVec.allOnes 64)

def ssrcReads : SSrc → List Src
  | .reg s => [.s s]
  | .imm _ => []

def vsrcReads : VSrc → List Src
  | .reg s => [.s s]
  | _ => []

/-- Bits `lo` to `hi` − 1 of the mask of an instruction. -/
def maskBits (lo hi : Nat) : Mask → List Src
  | .none => []
  | .on _ m => [.bits m lo hi]

/-- The word of a mask that governs element `i` holds poison: an instruction that performs its elements in order
meets it as it comes to the element (R383). -/
def Hart.maskPoisoned (h : Hart) (m : Mask) (i : Nat) : Bool := h.poisoned (maskBits i (i + 1) m)

/-- The mask of an instruction that performs elements VSTART to VL − 1. -/
def maskReads (h : Hart) (m : Mask) : List Src := maskBits h.vstart h.vl m

/-- The mask of a whole instruction (R244). -/
def maskWhole (h : Hart) (m : Mask) : List Src := maskBits 0 h.vl m

/-- A poisoned element of operand B. -/
def Hart.vsrcPoisoned (h : Hart) (b : VSrc) (w i : Nat) : Bool :=
  match b with
  | .vec v => h.elemPoisoned v w i
  | _ => false

/-- A body run only when no whole source is poisoned. -/
def unpoisoned (s : State) (h : Hart) (l : List Src) (r : Res) : Res :=
  if h.poisoned l then .deny s poisonTrap else r

/-! ## Loops over elements, rows or positions -/

/-- How a loop ends: complete, stopped by the budget, or denied, with the position it stands at. -/
inductive LoopEnd (σ : Type) where
  | finished (x : σ)
  | stopped (x : σ) (i : Nat)
  | denied (x : σ) (i : Nat) (d : Denied)

/-- Runs `f` on positions `i`, `i + 1`, … `n` of them, stopping before the first that is denied, or
when the budget is used up (R380, R381). -/
def eachPos {σ : Type} (f : Nat → σ → Except Denied σ) : Nat → Nat → Option Nat → σ → LoopEnd σ
  | 0, _, _, x => .finished x
  | n + 1, i, b, x =>
    if b = some 0 then .stopped x i
    else match f i x with
      | .error d => .denied x i d
      | .ok y => eachPos f n (i + 1) (b.map fun k => k - 1) y

/-- One element under a mask: the mask's bit is a source of its own element alone (R383), then `f` performs an
active element and `g` an inactive one. -/
def Hart.underMask {σ : Type} (h : Hart) (m : Mask) (f g : Nat → σ → Except Denied σ) (i : Nat) (x : σ) : Except Denied σ :=
  if h.maskPoisoned m i then .error poisonTrap else if h.active m i then f i x else g i x

/-- The element loop of R242 on a hart: from VSTART to VL − 1, then VSTART 0. `f` performs an active
element, `g` an inactive one. -/
def elementLoop (s : State) (slot : Nat) (h : Hart) (m : Mask) (f g : Nat → Hart → Except Denied Hart) : Res :=
  match eachPos (h.underMask m f g) (h.vl - h.vstart) h.vstart s.budget h with
  | .finished x => doneWith s slot (x.setVstart 0)
  | .stopped x i => .keep (s.setHart slot (x.setVstart i))
  | .denied x i d => .deny (s.setHart slot (x.setVstart i)) d

/-- Writes element `i` of a destination and raises flags. -/
def Hart.putElem (h : Hart) (d : VIdx) (w i : Nat) (x : Word × FFlags) : Hart :=
  (h.setV d (elemSet (h.getV d) w i x.1)).raise x.2

/-- An inactive element of a destination: zeroed or kept (R111). -/
def Hart.skipElem (h : Hart) (d : VIdx) (w : Nat) (m : Mask) (i : Nat) : Hart :=
  if maskZeroing m then h.setV d (elemSet (h.getV d) w i 0) else h

/-- Every element of 64-bit word `k` lies in `[lo, n)` and was written (log entry 13). -/
def wordWritten (lo n w : Nat) (written : Nat → Bool) (k : Nat) : Bool :=
  (List.range (64 / w)).all fun j =>
    let i := k * (64 / w) + j
    decide (lo ≤ i) && decide (i < n) && written i

/-- Words of a vector register that an instruction has written whole hold no poison. -/
def Hart.cleanV (h : Hart) (d : VIdx) (w lo n : Nat) (written : Nat → Bool) : Hart :=
  clearPoison h fun x => match x with
    | .v j k => j == d.toNat && wordWritten lo n w written k
    | _ => false

/-- The same for a mask register. -/
def Hart.cleanM (h : Hart) (d : MIdx) (lo n : Nat) (written : Nat → Bool) : Hart :=
  clearPoison h fun x => match x with
    | .m j k => j == d.toNat && wordWritten lo n 1 written k
    | _ => false

/-- Elements that an instruction writes under a mask (R111). -/
def Hart.writes (h : Hart) (m : Mask) (i : Nat) : Bool := h.active m i || maskZeroing m

/-- Writes one bit of a mask register; m0 is fixed (R108). -/
def Hart.putBit (h : Hart) (d : MIdx) (i : Nat) (b : Bool) : Hart :=
  { h with regs := h.regs.setM d (maskSet (h.getM d) i b) }

/-- The element-wise mould (R242): the width check, the poisoned operands, and OPERATION(i) of
elements a, b and c, of the destination's width `dw`. -/
def elementwise (s : State) (slot : Nat) (h : Hart) (gw dw : Nat) (d : VIdx) (m : Mask) (whole : List Src)
    (bad : Hart → Nat → Bool) (op : Hart → Nat → Word × FFlags) : Res :=
  if !h.widthOk gw then trapRes s .vwidth 0
  else unpoisoned s h whole
    (elementLoop s slot h m
      (fun i x => if bad x i then .error poisonTrap
        else .ok ((x.putElem d dw i (op x i)).cleanV d dw h.vstart (i + 1) (h.writes m)))
      (fun i x => .ok ((x.skipElem d dw m i).cleanV d dw h.vstart (i + 1) (h.writes m))))

/-- The same for an instruction that completes whole (R244): VSTART is ignored and no budget stops
it; the operation reads the hart as it stood before. -/
def wholeElements (s : State) (slot : Nat) (h : Hart) (gw dw : Nat) (d : VIdx) (m : Mask) (whole : List Src)
    (bad : Nat → Bool) (op : Nat → Option Word) : Res :=
  if !h.widthOk gw then trapRes s .vwidth 0
  else unpoisoned s h (whole ++ maskWhole h m)
    (if (List.range h.vl).any bad then .deny s poisonTrap
     else
      let r := (List.range h.vl).foldl (fun r i =>
        if h.active m i then (match op i with | some x => elemSet r dw i x | none => r)
        else if maskZeroing m && (op i).isSome then elemSet r dw i 0 else r) (h.getV d)
      doneWith s slot (((h.setV d r).cleanV d dw 0 h.vl fun i => h.writes m i && (op i).isSome).setVstart 0))

end Sys2Proof.Machine
end

