-- ==== Sys2Proof/Machine/Control.lean ====
section
/-! DEFINITION. Branches, calls and hardware loops, OP 0x30 to 0x32 (R205 to R209). -/

namespace Sys2Proof.Machine

/-- A branch out of an armed loop's body ends the loop (R208), unless a handler runs (R209). -/
def branchOut (h : Hart) (pc target : Word) : Hart :=
  if h.trap.suspended then h
  else
    let inside := fun (lb le x : Word) => decide (lb.toNat ≤ x.toNat) && decide (x.toNat ≤ le.toNat)
    let l := h.regs.loops
    let out := fun (lb le : Word) => inside lb le pc && !inside lb le target
    let l := { l with lc0 := if out l.lb0 l.le0 then 0 else l.lc0, lc1 := if out l.lb1 l.le1 then 0 else l.lc1 }
    { h with regs := { h.regs with loops := l } }

/-- A redirect (R121, R205): a misaligned target traps and nothing changes; otherwise the link is
written, the loops of R208 end and the entry of R146 is checked. -/
def redirect (s : State) (slot : Nat) (h : Hart) (target : Word) (link : Hart → Hart) : Res :=
  if target.toNat % 4 ≠ 0 then trapRes s .align target
  else .jump (s.setHart slot ((branchOut (link h) h.pc target).consume (.branch true target))) target

/-- BR (R205). -/
def execBr (c : Ctl) (o : BrForm) (s : State) : Host.Outcome State Fault Refusal :=
  issue 0x30 c s fun s slot h => redirect s slot h (h.pc + sext32 o.off) id

/-- BRI (R205). -/
def execBri (c : Ctl) (o : BriForm) (s : State) : Host.Outcome State Fault Refusal :=
  issue 0x30 c s fun s slot h =>
    unpoisoned s h [.s o.a] (redirect s slot h (h.getS o.a + sext32 o.off) id)

/-- CALL (R205). -/
def execCall (c : Ctl) (o : CallForm) (s : State) : Host.Outcome State Fault Refusal :=
  issue 0x31 c s fun s slot h => redirect s slot h (h.pc + sext32 o.off) fun h => h.setS o.d (h.pc + 12)

/-- CALLI (R205): VA is read before VD is written. -/
def execCalli (c : Ctl) (o : CalliForm) (s : State) : Host.Outcome State Fault Refusal :=
  issue 0x31 c s fun s slot h =>
    unpoisoned s h [.s o.a] (redirect s slot h (h.getS o.a + sext32 o.off) fun h => h.setS o.d (h.pc + 12))

/-- The words of an image that hold the registers of a loop (R388). -/
def loopOffsets (loop1 : Bool) : List Nat := if loop1 then [0x140, 0x150, 0x160] else [0x138, 0x148, 0x158]

/-- LSETUP (R206); an iteration of the other loop that a zero trip closes counts as one (R408). While a handler runs, R207 is suspended (R209) and a zero trip steps no loop. -/
def execLsetup (c : Ctl) (o : LsetupForm) (s : State) : Host.Outcome State Fault Refusal :=
  issue 0x32 c s fun s slot h =>
    let count := h.getS o.a
    let le := h.pc + sext32 o.off
    let l := armLoop h.regs.loops o.loop1 count (h.pc + 12) le
    let clean := fun (h : Hart) => clearPoison h (RegLoc.controlIn (loopOffsets o.loop1))
    unpoisoned s h [.s o.a]
      (if count = 0 then
        let (l', pc, seen) := if h.trap.suspended then (l, le + 12, []) else stepOther l (!o.loop1) le (le + 12)
        let big := if h.trap.suspended then 0 else bigIterations (onlyLoop l (!o.loop1)) le
        let h := { (if big = 0 then h else h.bump 8 (BitVec.ofNat 64 big)) with regs := { h.regs with loops := l' } }
        .jump (s.setHart slot (clean (h.consumeLoops seen))) pc
      else doneWith s slot (clean { h with regs := { h.regs with loops := l } }))

end Sys2Proof.Machine
end

