-- ==== Sys2Proof/Machine/Stream.lean ====
section
/-! DEFINITION. Streams, OP 0xA0 to 0xA3: binding, addresses, element checks, vector loads and stores
(R265 to R273), and the arrival of load data (R229). -/

namespace Sys2Proof.Machine

/-! ## Binding (R265, R266) -/

def Stream.ety (q : Stream) : Ty := Ty.ofCode (q.ctl.extractLsb' 3 4)

def streamCtl (kind : Nat) (t : Ty) (nf : Nat) (idx : QIdx) : Word :=
  BitVec.ofNat 64 (kind + t.code.toNat * 8 + nf * 128 + idx.toNat * 1024)

/-- Bound as a unit or stride stream of an integer type, i64 to n8: usable as an index stream. -/
def Stream.isIndex (q : Stream) : Bool := (q.kind == 1 || q.kind == 2) && q.ety.isInt8to64

/-- QSET.unit (R266). -/
def execQsetUnit (c : Ctl) (o : QsetForm) (s : State) : Host.Outcome State Fault Refusal :=
  issue 0xA0 c s fun s slot h =>
    unpoisoned s h [.s o.a, .s o.b]
      (doneWith s slot (h.setQ o.q { base := h.getS o.a, stride := h.getS o.b, pos := 0, ctl := streamCtl 1 o.ty 0 0 }))

/-- QSET.stride (R266). -/
def execQsetStride (c : Ctl) (o : QsetForm) (s : State) : Host.Outcome State Fault Refusal :=
  issue 0xA0 c s fun s slot h =>
    unpoisoned s h [.s o.a, .s o.b]
      (doneWith s slot (h.setQ o.q { base := h.getS o.a, stride := h.getS o.b, pos := 0, ctl := streamCtl 2 o.ty 0 0 }))

/-- QSET.seg (R266): B field 0 gives a packed stride and never reads s0. -/
def execQsetSeg (c : Ctl) (o : QsetSegForm) (s : State) : Host.Outcome State Fault Refusal :=
  issue 0xA0 c s fun s slot h =>
    let stride := if o.b = 0 then BitVec.ofNat 64 (o.f.toNat * o.ty.bytes) else h.getS o.b
    unpoisoned s h (.s o.a :: (if o.b = 0 then [] else [.s o.b]))
      (doneWith s slot (h.setQ o.q { base := h.getS o.a, stride := stride, pos := 0, ctl := streamCtl 3 o.ty (o.f.toNat - 1) 0 }))

/-- QSET.ind (R266); a poisoned source traps before STREAM (DESIGN CHOICE, log entry 59). -/
def execQsetInd (c : Ctl) (o : QsetIndForm) (s : State) : Host.Outcome State Fault Refusal :=
  issue 0xA0 c s fun s slot h =>
    unpoisoned s h [.s o.a, .q o.b]
      (if !(h.getQ o.b).isIndex then trapRes s .stream 0
       else doneWith s slot (h.setQ o.q { base := h.getS o.a, stride := 0, pos := 0, ctl := streamCtl 4 o.ty 0 o.b }))

/-! ## Addresses and element checks (R267, R269) -/

/-- The address of element `i` of a unit, stride or segment stream (R267). -/
def Stream.direct (q : Stream) (i : Nat) : Word :=
  let n := q.pos + BitVec.ofNat 64 i
  if q.kind = 1 then q.base + n * BitVec.ofNat 64 q.ety.bytes else q.base + n * q.stride

/-- The limit of a unit stream, where it has one. -/
def Stream.limit (q : Stream) : Option Nat := if q.kind = 1 ∧ q.stride ≠ 0 then some q.stride.toNat else none

/-- Steps 2 and 3 of R269. -/
def elementCheck (va : Word) (n : Nat) (limit : Option Nat) : Except Denied Unit :=
  if va.toNat % n ≠ 0 then .error (.trap .align va)
  else match limit with
    | some l => if l < va.toNat + n then .error (.trap .bufEnd va) else .ok ()
    | none => .ok ()

/-- An element read (R269), of whatever an instruction reads through a stream, a cursor or an index stream; the
trailing core has then read its line (R151). -/
def elementRead (s : State) (slot : Nat) (h : Hart) (va : Word) (n : Nat) (limit : Option Nat) : Except Denied (State × Nat) :=
  match elementCheck va n limit with
  | .error d => .error d
  | .ok _ => (load s slot h va n).map fun r => (noteRead r.1 slot va n, leNat r.2)

/-- The checks of an element write (R269). -/
def elementWriteCheck (s : State) (slot : Nat) (h : Hart) (va : Word) (n : Nat) (limit : Option Nat) (reflectable : Bool) : Except Denied Place :=
  match elementCheck va n limit with
  | .error d => .error d
  | .ok _ => checkStore s slot h va n reflectable

/-- The address of element `i` of a stream, reading the index of an indirect one (R267, step 1 of
R269). -/
def streamAddr (s : State) (slot : Nat) (h : Hart) (q : Stream) (i : Nat) : Except Denied (State × Word) :=
  if q.kind = 4 then
    let b := h.getQ q.idx
    match elementRead s slot h (b.direct i) b.ety.bytes b.limit with
    | .error d => .error d
    | .ok (s, x) => .ok (s, q.base + b.ety.place (BitVec.ofNat 64 x) * BitVec.ofNat 64 q.ety.bytes)
  else .ok (s, q.direct i)

/-- A stream that a form may use: the checks of R268 and, for an indirect one, of its index stream
(R267). -/
def streamOk (h : Hart) (q : Stream) (t : Ty) (kinds : List Nat) : Bool :=
  kinds.contains q.kind && q.ety == t && (q.kind != 4 || (h.getQ q.idx).isIndex)

/-- Stream registers that an access reads. -/
def streamReads (h : Hart) (q : QIdx) : List Src :=
  if (h.getQ q).kind = 4 then [.q q, .q (h.getQ q).idx] else [.q q]

/-- QPOS of a stream, and of its index stream, advances (R272). -/
def advanceStream (h : Hart) (q : QIdx) (n : Nat) : Hart :=
  let x := h.getQ q
  let h := h.setQ q { x with pos := x.pos + BitVec.ofNat 64 n }
  if x.kind = 4 then
    let y := h.getQ x.idx
    h.setQ x.idx { y with pos := y.pos + BitVec.ofNat 64 n }
  else h

/-! ## The Lantern's gather lists (R146, R149) -/

/-- Lists of at most 32 addresses. -/
def chunk32 : Nat → List Nat → List (List Nat)
  | 0, _ => []
  | n + 1, l => if l.isEmpty then [] else l.take 32 :: chunk32 n (l.drop 32)

/-- Translations that a stream register holds once it holds one more: at most four for each register, the
oldest leaving (R99; log entry 34). -/
def addPage (l : List StreamPage) (t : StreamPage) : List StreamPage :=
  let rest := l.filter fun x => !(x.q == t.q && x.page == t.page)
  let mine := rest.filter fun x => x.q == t.q
  (match mine[3]? with
  | some _ => rest.filter fun x => !(mine.head? == some x)
  | none => rest) ++ [t]

/-- The trailing core's check of a translation (R99, R149): it is what an access would use now. -/
def translationHolds (s : State) (slot part : Nat) (t : StreamPage) : Bool :=
  !draining (s.part part) t.page && match translation s slot part t.page with
    | .leaf e pa => e == t.pte && pa == t.pa
    | _ => false

/-- The translations that a hart pops for its instruction and that pass stand in its stream registers from then
on; the others are discarded (R149). -/
def Hart.popPages (s : State) (slot : Nat) (h : Hart) : List StreamPage :=
  (h.lantern.wick.filterMap fun e => match e.kind with
    | .translation t => if e.seq = h.lantern.seq ∧ translationHolds s slot h.ids.part t then some t else none
    | _ => none).foldl addPage h.lantern.pages

/-- The trailing core pops and checks the translations and gather lists of an access as it issues it; where some
of the lists still wait for room it resolves the access alone (R147). -/
def Hart.popGather (s : State) (slot : Nat) (h : Hart) (addrs : List Nat) : Hart :=
  let own := h.lantern.wick.filterMap fun e => match e.kind with
    | .gather l => if e.seq = h.lantern.seq then some l else none
    | _ => none
  let pages := if h.lantern.popped.isSome then h.lantern.pages else h.popPages s slot
  let found := if (own.isEmpty && !addrs.isEmpty) || h.lantern.holdsBack then none else some (decide (own ≠ chunk32 (addrs.length + 1) addrs))
  { h with lantern := { h.lantern with pages := pages } }.popOwn found

/-! ## The loop of a stream access -/

/-- The hart as it stands, by slot. -/
def hartAt (s : State) (slot : Nat) (h : Hart) : Hart := (s.hart? slot).getD h

/-- Elements above the stop that ran ahead (R229, R271): each by a free choice, when it can. -/
def runAhead (act : Nat → Bool) (f : Nat → State → Except Denied State) (k : Nat) (is : List Nat) (s : State) : State :=
  is.foldl (fun s i => if act i && Config.ranAhead k i then (match f i s with | .ok s' => s' | .error _ => s) else s) s

/-- An access that stops at element `i` leaves the effects of what ran ahead. -/
def ranOn (h : Hart) (m : Mask) (f : Nat → State → Except Denied State) (i : Nat) (x : State) : State :=
  let (k, x) := x.draw
  runAhead (fun j => h.active m j && !h.maskPoisoned m j) f k ((List.range (h.vl - i)).map fun j => i + j) x

/-- Elements or segments VSTART to VL − 1 (R242, R270, R271): `f` performs an active one, `g` an
inactive one, `fin` completes; `ahead` marks a form whose later elements may have run at a stop. The
gather lists of `addrs` are popped first. -/
def streamLoop (s : State) (slot : Nat) (h : Hart) (m : Mask) (addrs : List Nat) (ahead : Bool)
    (f g : Nat → State → Except Denied State) (fin : State → Res) : Res :=
  let s := s.modHart slot fun y => y.popGather s slot addrs
  let later := fun (i : Nat) (x : State) =>
    if ahead then ranOn h m f i x else x
  match eachPos (h.underMask m f g) (h.vl - h.vstart) h.vstart s.budget s with
  | .finished x => fin x
  | .stopped x i => .keep ((later i x).modHart slot fun y => y.setVstart i)
  | .denied x i d => .deny ((later i x).modHart slot fun y => y.setVstart i) d

/-- Addresses of the active elements or segments of an access from element `first` on, by field. -/
def gathered (s : State) (slot : Nat) (h : Hart) (q : Stream) (m : Mask) (fields first : Nat) : List Nat :=
  ((List.range h.vl).filter fun i => decide (first ≤ i) && h.active m i).flatMap fun i =>
    match streamAddr s slot h q i with
    | .ok (_, a) => (List.range fields).map fun k => (a + BitVec.ofNat 64 (k * q.ety.bytes)).toNat
    | .error _ => []

/-- Completion of a stream access: QPOS advances by VL, VSTART is 0 (R272). -/
def finishStream (slot : Nat) (h0 : Hart) (q : QIdx) (s : State) : Res :=
  .done (s.modHart slot fun h => (advanceStream h q h0.vl).setVstart 0)

/-! ## Vector loads (R229, R268 to R270) -/

/-- Loaded bits on their way to element `i` of a register. -/
def Hart.arrive (h : Hart) (d : VIdx) (w i : Nat) (x : Word) : Hart :=
  let mask := elemSet 0 w i (BitVec.allOnes 64)
  let data := elemSet 0 w i x
  if h.arriving.any fun a => a.reg == d then
    { h with arriving := h.arriving.map fun b =>
      if b.reg = d then { b with mask := b.mask ||| mask, data := (b.data &&& ~~~mask) ||| data } else b }
  else { h with arriving := h.arriving ++ [{ reg := d, mask := mask, data := data }] }

/-- A word of a register that a load fills holds no old poison. -/
def loadedElem (h0 : Hart) (m : Mask) (d : VIdx) (w i : Nat) (x : Word) (h : Hart) : Hart :=
  (h.arrive d w i x).cleanV d w h0.vstart (i + 1) (h0.writes m)

/-- An inactive element of a load's destination (R111). -/
def skippedElem (h0 : Hart) (m : Mask) (d : VIdx) (w i : Nat) (h : Hart) : Hart :=
  if maskZeroing m then (h.arrive d w i 0).cleanV d w h0.vstart (i + 1) (h0.writes m) else h

/-- VLD (R268 to R270). A poisoned stream or scalar register of a stream access traps before STREAM (DESIGN
CHOICE, log entry 59: R268, R383 and R392 give no order), and a poisoned mask word before the other checks of its
element. -/
def execVld (c : Ctl) (o : VloadForm) (s : State) : Host.Outcome State Fault Refusal :=
  issue 0xA1 c s fun s slot h =>
    let q := h.getQ o.q
    let w := o.ty.slotWidth
    if !h.widthOk w then trapRes s .vwidth 0
    else unpoisoned s h (streamReads h o.q)
      (if !streamOk h q o.ty [1, 2, 4] then trapRes s .stream 0
       else
        streamLoop s slot h o.mask (gathered s slot h q o.mask 1 0) true
          (fun i s =>
            match streamAddr s slot h q i with
            | .error d => .error d
            | .ok (s, a) =>
              match elementRead s slot (hartAt s slot h) a o.ty.bytes q.limit with
              | .error d => .error d
              | .ok (s, x) => .ok (s.modHart slot (loadedElem h o.mask o.d w i (BitVec.ofNat 64 x))))
          (fun i s => .ok (s.modHart slot (skippedElem h o.mask o.d w i)))
          (finishStream slot h o.q))

/-- The fields of a segment read, all checked before any performs (R270). -/
def segmentRead (s : State) (slot : Nat) (h : Hart) (a : Word) (n : Nat) : Nat → Nat → Except Denied (State × List Nat)
  | 0, _ => .ok (s, [])
  | f + 1, k =>
    match elementRead s slot h (a + BitVec.ofNat 64 (k * n)) n none with
    | .error d => .error d
    | .ok (s, x) => (segmentRead s slot h a n f (k + 1)).map fun r => (r.1, x :: r.2)

/-- Registers vD to vD + NF of a segment form. -/
def segmentRegs (d : VIdx) (nf : Nat) : List VIdx := (List.range (nf + 1)).map fun k => d + BitVec.ofNat 6 k

/-- VLDSEG (R268 to R270). -/
def execVldseg (c : Ctl) (o : VloadForm) (s : State) : Host.Outcome State Fault Refusal :=
  issue 0xA1 c s fun s slot h =>
    let q := h.getQ o.q
    let w := o.ty.slotWidth
    if !h.widthOk w then trapRes s .vwidth 0
    else unpoisoned s h (streamReads h o.q)
      (if !streamOk h q o.ty [3] || decide (63 < o.d.toNat + q.nf) then trapRes s .stream 0
       else
        streamLoop s slot h o.mask (gathered s slot h q o.mask (q.nf + 1) 0) true
          (fun i s =>
            match segmentRead s slot (hartAt s slot h) (q.direct i) o.ty.bytes (q.nf + 1) 0 with
            | .error d => .error d
            | .ok (s, xs) => .ok (s.modHart slot fun y =>
                ((segmentRegs o.d q.nf).zip xs).foldl (fun y e => loadedElem h o.mask e.1 w i (BitVec.ofNat 64 e.2) y) y))
          (fun i s => .ok (s.modHart slot fun y => (segmentRegs o.d q.nf).foldl (fun y v => skippedElem h o.mask v w i y) y))
          (finishStream slot h o.q))

/-! ## Vector stores (R268, R269, R271, R273) -/

/-- A value as `n` bytes. -/
def elemBytes (n : Nat) (x : Word) : List Byte := leBytes n x.toNat

/-- A list in a free order (R271, R333). -/
def freeOrder (k : Nat) {α : Type} (l : List α) : List α :=
  let order := Config.elementOrder k
  if order.isPerm (List.range l.length) then order.filterMap fun i => l[i]? else l

/-- A write that has passed its checks. -/
structure CheckedWrite where
  va : Word
  place : Place
  bytes : List Byte
  deriving DecidableEq, Repr

/-- The pin of the hart's own pair for which an ordered store waits before elements that others follow: they are not
at VA while the pin stands (R314; log entry 57). -/
def orderedHold (s : State) (slot : Nat) (ordered : Bool) (l : List CheckedWrite) : Option Denied :=
  match pairOfAgent slot with
  | none => none
  | some k =>
    if !ordered then none
    else l.findSome? fun w => match w.place with
      | .scratch _ => none
      | .mem pa e => if pteWtype e != 1 && stillPinned s k pa w.bytes.length then some (.ordered k pa w.bytes.length) else none

/-- Active elements follow element `i`. -/
def Hart.followed (h : Hart) (m : Mask) (i : Nat) : Bool := (List.range h.vl).any fun j => decide (i < j) && h.active m j

def CheckedWrite.perform (slot part : Nat) (s : State) (w : CheckedWrite) : State := performStore s slot true part w.place w.va w.bytes

/-- An element of a VST or VSTSEG performs once its checks have passed: an ordered one in order (R314). -/
def performElement (slot : Nat) (h : Hart) (m : Mask) (ordered : Bool) (i : Nat) (r : State × List CheckedWrite) : Except Denied State :=
  match orderedHold r.1 slot ordered (if h.followed m i then r.2 else r.2.dropLast) with
  | some d => .error d
  | none => .ok (r.2.foldl (CheckedWrite.perform slot h.ids.part) r.1)

/-- The store of element `i` of a vector store at its address. -/
def storeElem (s : State) (slot : Nat) (h : Hart) (m : Mask) (ordered : Bool) (i : Nat) (a : Word) (n : Nat) (limit : Option Nat) (x : Word) :
    Except Denied State :=
  match elementWriteCheck s slot (hartAt s slot h) a n limit true with
  | .error d => .error d
  | .ok pl => performElement slot h m ordered i (s, [{ va := a, place := pl, bytes := elemBytes n x }])

/-- Two active elements of this pass of a `.u` store reach one address (R271): `fields` as in
`gathered`, from VSTART on. -/
def unorderedClash (s : State) (slot : Nat) (h : Hart) (q : Stream) (m : Mask) (fields : Nat) : Bool :=
  !decide (gathered s slot h q m fields h.vstart).Nodup

/-- A `.u` store whose elements reach one address more than once (R271): every element is checked in
ascending order, and the writes of those that passed perform in a free order. -/
def unorderedLoop (k : Nat) (s : State) (slot : Nat) (h : Hart) (m : Mask) (addrs : List Nat)
    (f : Nat → State → Except Denied (State × List CheckedWrite))
    (fin : State → Res) : Res :=
  let s := s.modHart slot fun y => y.popGather s slot addrs
  let perform := fun (x : State × List CheckedWrite) => (freeOrder k x.2).foldl (CheckedWrite.perform slot h.ids.part) x.1
  let alone := fun (i : Nat) (s : State) => (f i s).map fun x => x.2.foldl (CheckedWrite.perform slot h.ids.part) x.1
  let stop := fun (x : State × List CheckedWrite) (i : Nat) =>
    (ranOn h m alone i (perform x)).modHart slot fun y => y.setVstart i
  match eachPos (h.underMask m (fun i x => (f i x.1).map fun r => (r.1, x.2 ++ r.2)) fun _ x => .ok x) (h.vl - h.vstart) h.vstart s.budget (s, []) with
  | .finished x => fin (perform x)
  | .stopped x i => .keep (stop x i)
  | .denied x i d => .deny (stop x i) d

/-- VST (R268, R269, R271). -/
def execVst (c : Ctl) (o : VstoreForm) (s : State) : Host.Outcome State Fault Refusal :=
  issue 0xA2 c s fun s slot h =>
    let q := h.getQ o.q
    let w := o.ty.slotWidth
    if !h.widthOk w then trapRes s .vwidth 0
    else unpoisoned s h (streamReads h o.q)
      (if !streamOk h q o.ty [1, 2, 4] then trapRes s .stream 0
       else
        let (k, s0) := s.draw
        let addrs := gathered s slot h q o.mask 1 0
        let n := o.ty.bytes
        let bytes := fun i => elemBytes n (elemGet (h.getV o.b) w i)
        let check := fun i (s : State) =>
          if h.elemPoisoned o.b w i then .error poisonTrap
          else match streamAddr s slot (hartAt s slot h) q i with
            | .error d => .error d
            | .ok (s, a) => (elementWriteCheck s slot (hartAt s slot h) a n q.limit true).map fun pl => (s, [({ va := a, place := pl, bytes := bytes i } : CheckedWrite)])
        (if o.u && unorderedClash s0 slot h q o.mask 1 then unorderedLoop k s0 slot h o.mask addrs check
        else streamLoop s0 slot h o.mask addrs o.u
          (fun i s => (check i s).bind (performElement slot h o.mask (!o.u) i))
          (fun _ s => .ok s))
          (finishStream slot h o.q))

/-- The fields of a segment write, all checked (R270, R271). -/
def segmentCheck (s : State) (slot : Nat) (h : Hart) (a : Word) (n : Nat) : Nat → Nat → Except Denied (List (Word × Place))
  | 0, _ => .ok []
  | f + 1, k =>
    let b := a + BitVec.ofNat 64 (k * n)
    match elementWriteCheck s slot h b n none true with
    | .error d => .error d
    | .ok pl => (segmentCheck s slot h a n f (k + 1)).map fun r => (b, pl) :: r

/-- VSTSEG (R268, R269, R271): a segment with a failing field performs nothing. -/
def execVstseg (c : Ctl) (o : VstoreForm) (s : State) : Host.Outcome State Fault Refusal :=
  issue 0xA2 c s fun s slot h =>
    let q := h.getQ o.q
    let w := o.ty.slotWidth
    if !h.widthOk w then trapRes s .vwidth 0
    else unpoisoned s h (streamReads h o.q)
      (if !streamOk h q o.ty [3] || decide (63 < o.b.toNat + q.nf) then trapRes s .stream 0
       else
        let (k, s0) := s.draw
        let addrs := gathered s slot h q o.mask (q.nf + 1) 0
        let n := o.ty.bytes
        let check := fun i (s : State) =>
          if (segmentRegs o.b q.nf).any fun v => h.elemPoisoned v w i then .error poisonTrap
          else (segmentCheck s slot (hartAt s slot h) (q.direct i) n (q.nf + 1) 0).map fun pls =>
            (s, ((segmentRegs o.b q.nf).zip pls).map fun e =>
              ({ va := e.2.1, place := e.2.2, bytes := elemBytes n (elemGet (h.getV e.1) w i) } : CheckedWrite))
        (if o.u && unorderedClash s0 slot h q o.mask (q.nf + 1) then unorderedLoop k s0 slot h o.mask addrs check
        else streamLoop s0 slot h o.mask addrs o.u
          (fun i s => (check i s).bind (performElement slot h o.mask (!o.u) i))
          (fun _ s => .ok s))
          (finishStream slot h o.q))

/-- Addresses of the elements that a VSTC still writes: QPOS has passed those below VSTART (R273). -/
def packedAddrs (h : Hart) (q : Stream) (m : Mask) : List Nat :=
  (List.range ((h.activeBelow m).filter fun i => decide (h.vstart ≤ i)).length).map fun j => (q.direct j).toNat

/-- VSTC (R273): QPOS counts the elements written. -/
def execVstc (c : Ctl) (o : VstoreForm) (s : State) : Host.Outcome State Fault Refusal :=
  issue 0xA3 c s fun s slot h =>
    let q := h.getQ o.q
    let w := o.ty.slotWidth
    if !h.widthOk w then trapRes s .vwidth 0
    else unpoisoned s h (streamReads h o.q)
      (if !streamOk h q o.ty [1] then trapRes s .stream 0
       else
        streamLoop s slot h o.mask (packedAddrs h q o.mask) false
          (fun i s =>
            if h.elemPoisoned o.b w i then .error poisonTrap
            else (storeElem s slot h o.mask true i (((hartAt s slot h).getQ o.q).direct 0) o.ty.bytes q.limit (elemGet (h.getV o.b) w i)).map
              fun s => s.modHart slot fun y => advanceStream y o.q 1)
          (fun _ s => .ok s)
          (fun s' => .done (s'.modHart slot fun y => y.setVstart 0)))

/-- LOAD_DATA_ARRIVAL (R229): data on its way to a 2048-bit group of a register is there; the register
holds what it read before. -/
def execLoadDataArrival (slot group : Nat) (s : State) : Host.Outcome State Fault Refusal :=
  .next (s.modHart slot fun h =>
    match h.arriving with
    | [] => h
    | a :: r =>
      let here : VReg := BitVec.ofNat 8192 ((2 ^ 2048 - 1) * 2 ^ (2048 * (group % 4)))
      let m := a.mask &&& here
      let v := (rget h.regs.v a.reg &&& ~~~m) ||| (a.data &&& m)
      let left := a.mask &&& ~~~here
      { h with
        regs := { h.regs with v := rset h.regs.v a.reg v }
        arriving := if left = 0 then r else { a with mask := left } :: r })

end Sys2Proof.Machine
end

