-- ==== Sys2Proof/Machine/Equinox.lean ====
section
/-! DEFINITION. Equinox, OP 0xC0 to 0xC2: cursors, intersection, merge, non-zero scan and row splits
(R291 to R298). -/

namespace Sys2Proof.Machine

/-! ## Cursor words (R291) -/

def curPos (c : Cursor) : Nat := bits c.cpos 0 32
def curAux (c : Cursor) : Nat := bits c.cpos 32 32
def curEnd (c : Cursor) : Nat := bits c.cend 0 32
def curEnc (c : Cursor) : Nat := bits c.cctl 0 2
def curSorted (c : Cursor) : Bool := c.cctl.getLsbD 2
def curCmb (c : Cursor) : Nat := bits c.cctl 3 2
def curLv (c : Cursor) : Bool := c.cctl.getLsbD 6
/-- The row-pointer array: RPB holds VA[54:3]. -/
def curRows (c : Cursor) : Nat := bits c.cctl 12 52 * 8
def exhausted (c : Cursor) : Bool := decide (curEnd c ≤ curPos c)

/-- The conditions of R293 under which a cursor's words trap CURSOR. -/
def cursorBad (c : Cursor) : Bool :=
  bits c.cend 32 32 != 0 || bits c.cctl 7 5 != 0 ||
  decide (2 ≤ curCmb c) ||
  (curSorted c && curEnc c != 0) ||
  (curLv c && (curEnc c == 1 || curEnc c == 3 || (curEnc c == 0 && !curSorted c && curCmb c == 0))) ||
  (curAux c != 0 && (curEnc c == 3 || (curEnc c == 0 && !curLv c))) ||
  decide (curEnd c < curPos c)

/-- A cursor of a hart may be used by a form that accepts some encodings (R294). -/
def cursorOk (h : Hart) (e : EIdx) (encs : List Nat) : Bool := !cursorBad (h.getE e) && encs.contains (curEnc (h.getE e))

def cursorTrap (e : EIdx) : Denied := .trap .cursor (e.setWidth 64)

/-- POS and AUX of a cursor. -/
def setPosAux (c : Cursor) (pos aux : Nat) : Cursor := { c with cpos := BitVec.ofNat 64 (pos % 2 ^ 32 + aux % 2 ^ 32 * 2 ^ 32) }
def setLv (c : Cursor) (b : Bool) : Cursor := { c with cctl := withBits c.cctl 6 1 (if b then 1 else 0) }

/-- The advance after consuming POS with coordinate `x` (R292). An exhausted cursor, which one
instruction naming a cursor twice can meet, stays (log entry 14). -/
def advanceCursor (c : Cursor) (x : Nat) : Cursor :=
  if exhausted c then c
  else
    let p := curPos c + 1
    match curEnc c with
    | 0 => if curSorted c || curCmb c == 1 then setLv (setPosAux c p x) true else setPosAux c p (curAux c)
    | 1 => setPosAux c p (curAux c + 1)
    | 2 => setLv (setPosAux c p x) true
    | _ => setPosAux c p (curAux c)

/-- What stands at a cursor's position. -/
inductive Peek where
  | exhausted
  /-- an absent position, a skip or a combined duplicate is consumed (R292, R294) -/
  | passed (c : Cursor)
  | present (coord rpos : Nat)

/-- Reads the position of a cursor (R292, R294): every index read is checked by R269. -/
def peek (s : State) (slot : Nat) (h : Hart) (c : Cursor) : Except Denied (State × Peek) :=
  let p := curPos c
  if exhausted c then .ok (s, .exhausted)
  else
    let dup := fun (x : Nat) => curCmb c == 1 && curLv c && x == curAux c
    match curEnc c with
    | 0 =>
      let a := c.cbase + BitVec.ofNat 64 (4 * p)
      match elementRead s slot h a 4 none with
      | .error d => .error d
      | .ok (s, x) =>
        if curSorted c && curLv c && decide (x < curAux c) then .error (.trap .unsorted a)
        else if dup x then .ok (s, .passed (setPosAux c (p + 1) (curAux c)))
        else .ok (s, .present x p)
    | 1 =>
      match elementRead s slot h (c.cbase + BitVec.ofNat 64 (8 * (p / 64))) 8 none with
      | .error d => .error d
      | .ok (s, x) =>
        if x.testBit (p % 64) then .ok (s, .present p (curAux c))
        else .ok (s, .passed (setPosAux c (p + 1) (curAux c)))
    | 2 =>
      let a := c.cbase + BitVec.ofNat 64 (2 * p)
      match elementRead s slot h a 2 none with
      | .error d => .error d
      | .ok (s, x) =>
        let sum := curAux c + x
        if 2 ^ 32 ≤ sum then .error (.trap .unsorted a)
        else if x = 0xFFFF then .ok (s, .passed (setLv (setPosAux c (p + 1) sum) false))
        else if dup sum then .ok (s, .passed (setPosAux c (p + 1) (curAux c)))
        else .ok (s, .present sum p)
    | _ => .ok (s, .present p p)

/-! ## Resumable loops (R294) -/

/-- Runs `f` until it says there is nothing more to consume, for at most `n` positions, stopping after
any of them when the budget is used up (R380). -/
def consumeLoop {σ : Type} (f : σ → Except Denied (Option σ)) : Nat → Option Nat → σ → LoopEnd σ
  | 0, _, x => .finished x
  | n + 1, b, x =>
    match f x with
    | .error d => .denied x 0 d
    | .ok none => .finished x
    | .ok (some y) => if b = some 0 then .stopped x 0 else consumeLoop f n (b.map fun k => k - 1) y

/-- Positions that a cursor still has. -/
def positionsLeft (c : Cursor) : Nat := curEnd c - curPos c

/-- The trailing core pops and checks the coordinate batch of its instruction as it issues it (R146, R149):
the cursors before, and the lines it was read from, of memory and of the hart's scratch. -/
def popCoords (s : State) (slot : Nat) (h0 : Hart) (es : List EIdx) : State :=
  let found := h0.lantern.wick.findSome? fun e => if e.seq == h0.lantern.seq then
      (match e.kind with
        | .coords n b _ _ ls os => some (!(b == es.map h0.getE && (ls.all fun x => s.watch.contains (n, x)) && os.all fun x => h0.watch.contains (n, x)))
        | _ => none) else none
  s.modHart slot fun h => h.popOwn found

/-- How a resumable Equinox instruction ends: at a stop VSTART counts its lanes; on completion VL
does (R294). Where VSTART exceeded VL already, VL stays (DESIGN CHOICE, log entry 64: the pseudocode of R295
gives VL := cnt, its text for LIM = 0 that nothing but VSTART changes). -/
def closeEquinox (slot : Nat) (h0 : Hart) (r : LoopEnd (State × Nat)) : Res :=
  match r with
  | .finished (s, cnt) => .done (s.modHart slot fun h => (h.setVl (min cnt h0.vl)).setVstart 0)
  | .stopped (s, cnt) _ => .keep (s.modHart slot fun h => h.setVstart cnt)
  | .denied (s, cnt) _ d => .deny (s.modHart slot fun h => h.setVstart cnt) d

/-- Writes 32-bit lane `i` of a register, the instruction having written those from `lo` on (R392). -/
def putLane (v : VIdx) (lo i x : Nat) (h : Hart) : Hart :=
  (h.setV v (elemSet (h.getV v) 32 i (BitVec.ofNat 64 x))).cleanV v 32 lo (i + 1) fun _ => true

/-- The first bad cursor of a list traps (R294, R382). -/
def cursorsChecked (s : State) (h : Hart) (es : List EIdx) (encs : List Nat) (r : Res) : Res :=
  match es.find? fun e => !cursorOk h e encs with
  | some e => .deny s (cursorTrap e)
  | none => r

/-! ## Intersection and merge (R295, R296) -/

/-- One position of EQINT. Where cursor A runs out as it passes over positions, B has not yet passed over its own
(DESIGN CHOICE, log entry 73: R295 does not say). -/
def eqintStep (slot : Nat) (o : EqintForm) (lim : Nat) (h0 : Hart) (x : State × Nat) : Except Denied (Option (State × Nat)) :=
  let (s, cnt) := x
  let h := hartAt s slot h0
  if lim ≤ cnt || exhausted (h.getE o.a) || exhausted (h.getE o.b) then .ok none
  else match peek s slot h (h.getE o.a) with
    | .error d => .error d
    | .ok (_, .exhausted) => .ok none
    | .ok (s, .passed c) => .ok (some (s.modHart slot fun h => h.setE o.a c, cnt))
    | .ok (s, .present a ra) =>
      match peek s slot h (h.getE o.b) with
      | .error d => .error d
      | .ok (_, .exhausted) => .ok none
      | .ok (s, .passed c) => .ok (some (s.modHart slot fun h => h.setE o.b c, cnt))
      | .ok (s, .present b rb) =>
        let adv := fun (e : EIdx) (k : Nat) (h : Hart) => h.setE e (advanceCursor (h.getE e) k)
        if a = b then
          .ok (some (s.modHart slot fun h => adv o.b b (adv o.a a (putLane (o.d + 1) h0.vstart cnt rb (putLane o.d h0.vstart cnt ra h))), cnt + 1))
        else if a < b then .ok (some (s.modHart slot (adv o.a a), cnt))
        else .ok (some (s.modHart slot (adv o.b b), cnt))

/-- Positions left of a list of cursors, and one turn to find that nothing is left. -/
def fuelOf (h : Hart) (es : List EIdx) : Nat := (es.map fun e => positionsLeft (h.getE e)).sum + 1

/-- EQINT (R295). -/
def execEqint (c : Ctl) (o : EqintForm) (s : State) : Host.Outcome State Fault Refusal :=
  issue 0xC0 c s fun s slot h =>
    if !h.widthOk 32 then trapRes s .vwidth 0
    else unpoisoned s h [.e o.a, .e o.b]
      (cursorsChecked s h [o.a, o.b] [0, 1, 2, 3]
        (closeEquinox slot h (consumeLoop (eqintStep slot o h.vl h) (fuelOf h [o.a, o.b]) s.budget (popCoords s slot h [o.a, o.b], h.vstart))))

/-- A lane of EQMRG: positions, coordinate and origin tags (R296), where lanes from `lo` on are this pass's. -/
def emit (o : EqmrgForm) (lo cnt x y k : Nat) (ta tb : Bool) (h : Hart) : Hart :=
  let h := putLane (o.d + 2) lo cnt k (putLane (o.d + 1) lo cnt y (putLane o.d lo cnt x h))
  let tag := fun (m : MIdx) (b : Bool) (h : Hart) => (h.putBit m cnt b).cleanM m lo (cnt + 1) fun _ => true
  tag (o.n + 1) tb (tag o.n ta h)

/-- A cursor settled on a coordinate: none when exhausted. -/
def settle (s : State) (slot : Nat) (h : Hart) (e : EIdx) : Except Denied (State × Option Peek) :=
  if exhausted (h.getE e) then .ok (s, none) else (peek s slot h (h.getE e)).map fun r => (r.1, some r.2)

/-- One position, or one lane, of EQMRG. -/
def eqmrgStep (slot : Nat) (o : EqmrgForm) (lim : Nat) (h0 : Hart) (x : State × Nat) : Except Denied (Option (State × Nat)) :=
  let (s, cnt) := x
  let h := hartAt s slot h0
  let adv := fun (e : EIdx) (k : Nat) (h : Hart) => h.setE e (advanceCursor (h.getE e) k)
  let none32 := 0xFFFFFFFF
  if lim ≤ cnt then .ok none
  else match settle s slot h o.a with
    | .error d => .error d
    | .ok (s, some (.passed c)) => .ok (some (s.modHart slot fun h => h.setE o.a c, cnt))
    | .ok (s, pa) =>
      match settle s slot h o.b with
      | .error d => .error d
      | .ok (s, some (.passed c)) => .ok (some (s.modHart slot fun h => h.setE o.b c, cnt))
      | .ok (s, pb) =>
        let onlyA := fun (k r : Nat) => Except.ok (some (s.modHart slot fun h => adv o.a k (emit o h0.vstart cnt r none32 k true false h), cnt + 1))
        let onlyB := fun (k r : Nat) => Except.ok (some (s.modHart slot fun h => adv o.b k (emit o h0.vstart cnt none32 r k false true h), cnt + 1))
        match pa, pb with
        | some (.present a ra), some (.present b rb) =>
          if a < b then onlyA a ra
          else if b < a then onlyB b rb
          else .ok (some (s.modHart slot fun h => adv o.b b (adv o.a a (emit o h0.vstart cnt ra rb a true true h)), cnt + 1))
        | some (.present a ra), _ => onlyA a ra
        | _, some (.present b rb) => onlyB b rb
        | _, _ => .ok none

/-- EQMRG (R296). -/
def execEqmrg (c : Ctl) (o : EqmrgForm) (s : State) : Host.Outcome State Fault Refusal :=
  issue 0xC0 c s fun s slot h =>
    if !h.widthOk 32 then trapRes s .vwidth 0
    else unpoisoned s h [.e o.a, .e o.b]
      (cursorsChecked s h [o.a, o.b] [0, 1, 2, 3]
        (closeEquinox slot h (consumeLoop (eqmrgStep slot o h.vl h) (fuelOf h [o.a, o.b]) s.budget (popCoords s slot h [o.a, o.b], h.vstart))))

/-! ## Non-zero scan (R297) -/

/-- A value is zero by its bits, or ±0 after input flushing for a floating type. -/
def scanZero (h : Hart) (t : Ty) (x : Word) : Bool :=
  if t.isFloat then (t.fmt.read h.flush (low t.width x)).isZero else low t.width x == 0

/-- EQNZ, vector form (R297): a whole instruction. -/
def execEqnz (c : Ctl) (o : EqnzForm) (s : State) : Host.Outcome State Fault Refusal :=
  issue 0xC0 c s fun s slot h =>
    let w := o.ty.width
    let act := h.activeBelow o.mask
    let elem := fun i => elemGet (h.getV o.a) w i
    if !h.widthOk w then trapRes s .vwidth 0
    else unpoisoned s h (ssrcReads o.b ++ maskWhole h o.mask)
      (if act.any fun i => h.elemPoisoned o.a w i then .deny s poisonTrap
       else
        let hits := act.filter fun i => !scanZero h o.ty (elem i)
        let nv := o.ty.isFloat && act.any fun i => (o.ty.fmt.value (elem i)).isSignalling
        let base := h.usrc o.b
        let r := hits.foldl (fun (p : VReg × Nat) i => (elemSet p.1 32 p.2 (base + BitVec.ofNat 64 i), p.2 + 1)) (h.getV o.d, 0)
        let h' := ((h.setV o.d r.1).cleanV o.d 32 0 r.2 fun _ => true).raise (nvOf nv)
        .done (popCoords (s.setHart slot ((h'.setVl r.2).setVstart 0)) slot h []))

/-- One position of EQNZ's cursor form. -/
def eqnzStep (slot : Nat) (o : EqnzCursorForm) (lim : Nat) (h0 : Hart) (x : State × Nat) : Except Denied (Option (State × Nat)) :=
  let (s, cnt) := x
  let h := hartAt s slot h0
  let cu := h.getE o.a
  if lim ≤ cnt || exhausted cu then .ok none
  else match elementRead s slot h (cu.cbase + BitVec.ofNat 64 (curPos cu * o.ty.bytes)) o.ty.bytes none with
    | .error d => .error d
    | .ok (s, v) =>
      let next := fun (h : Hart) => h.setE o.a (advanceCursor (h.getE o.a) (curPos cu))
      if scanZero h o.ty (BitVec.ofNat 64 v) then .ok (some (s.modHart slot next, cnt))
      else .ok (some (s.modHart slot fun h => next (putLane o.d h0.vstart cnt (curPos cu) h), cnt + 1))

/-- EQNZ, cursor form (R297): resumable. -/
def execEqnzCursorForm (c : Ctl) (o : EqnzCursorForm) (s : State) : Host.Outcome State Fault Refusal :=
  issue 0xC0 c s fun s slot h =>
    if !h.widthOk 32 then trapRes s .vwidth 0
    else unpoisoned s h [.e o.a]
      (cursorsChecked s h [o.a] [3]
        (closeEquinox slot h (consumeLoop (eqnzStep slot o h.vl h) (fuelOf h [o.a]) s.budget (popCoords s slot h [o.a], h.vstart))))

/-! ## Row splits and cursor moves (R298, R293) -/

/-- POS, END and SPLIT of a split (R298). -/
def splitRow (s e t r : Nat) (h g : Nat) : Nat × Nat × Nat :=
  let len := e - s
  if t < len then (s + len * h / g, s + len * (h + 1) / g, 1)
  else if h = r % g then (s, e, 0)
  else (e, e, 0)

/-- EQSPLT (R298): a whole instruction. -/
def execEqsplt (c : Ctl) (o : EqspltForm) (s : State) : Host.Outcome State Fault Refusal :=
  issue 0xC1 c s fun s slot h =>
    let cu := h.getE o.e
    let r := h.getS o.a
    let t := h.ssrc .i64 o.b
    let at_ := BitVec.ofNat 64 (curRows cu) + r * 8
    unpoisoned s h (.s o.a :: .e o.e :: ssrcReads o.b)
      (cursorsChecked s h [o.e] [0, 3]
        (match elementRead s slot h at_ 8 none with
        | .error d => .deny s d
        | .ok (s, x) =>
          match elementRead s slot h (at_ + 8) 8 none with
          | .error d => .deny s d
          | .ok (s, y) =>
            if y < x || decide (2 ^ 32 ≤ y) then .deny s (cursorTrap o.e)
            else
              let (pos, end_, split) := splitRow x y t.toNat r.toNat h.ids.hartid h.ids.gsize
              let cu := { setLv (setPosAux cu pos 0) false with cend := BitVec.ofNat 64 end_ }
              .done (s.modHart slot fun y => y.setE o.e { cu with cctl := withBits cu.cctl 5 1 split })))

/-- The four words of a cursor (R293). -/
def cursorBytes (c : Cursor) : List Byte := leBytes 8 c.cbase.toNat ++ leBytes 8 c.cpos.toNat ++ leBytes 8 c.cend.toNat ++ leBytes 8 c.cctl.toNat

def cursorOfBytes (bs : List Byte) : Cursor where
  cbase := BitVec.ofNat 64 (leNat (bs.take 8))
  cpos := BitVec.ofNat 64 (leNat ((bs.drop 8).take 8))
  cend := BitVec.ofNat 64 (leNat ((bs.drop 16).take 8))
  cctl := BitVec.ofNat 64 (leNat ((bs.drop 24).take 8))

/-- EQSAVE (R293). -/
def execEqsave (c : Ctl) (o : CursorMemForm) (s : State) : Host.Outcome State Fault Refusal :=
  issue 0xC2 c s fun s slot h =>
    let ea := h.getS o.a + sext32 o.off
    unpoisoned s h [.s o.a, .e o.e]
      (match elementWriteCheck s slot h ea 32 none true with
      | .error d => .deny s d
      | .ok pl => .done (performStore s slot true h.ids.part pl ea (cursorBytes (h.getE o.e))))

/-- EQLOAD (R293). -/
def execEqload (c : Ctl) (o : CursorMemForm) (s : State) : Host.Outcome State Fault Refusal :=
  issue 0xC2 c s fun s slot h =>
    let ea := h.getS o.a + sext32 o.off
    unpoisoned s h [.s o.a]
      (match elementCheck ea 32 none with
      | .error d => .deny s d
      | .ok _ =>
        match load s slot h ea 32 with
        | .error d => .deny s d
        | .ok (s, bs) =>
          let cu := cursorOfBytes bs
          let s := noteRead s slot ea 32
          if cursorBad cu then .deny s (cursorTrap o.e) else .done (s.modHart slot fun y => y.setE o.e cu))

end Sys2Proof.Machine
end

