-- ==== Sys2Proof/Machine/Engine.lean ====
section
/-! DEFINITION. The tile buffer and the copy engine, OP 0xC8 and 0xC9 (R301 to R307), with the events
of a transfer: its completion, a merge window's close and a line's delivery (R233, R305, R322). -/

namespace Sys2Proof.Machine

/-! ## TRESIZE (R301) -/

/-- The first granule from window offset `n` ways upward that is not H with count 0. -/
def busyGranule (h : Hart) (n : Nat) : Option Nat :=
  (h.granules.find? fun g => decide (n * (wayBytes / granuleBytes) ≤ g.1)).map fun g => g.1

/-- The hart keeps the scratch of its first `n` ways; a way that comes is zero with its granules H. -/
def Hart.resize (h : Hart) (n : Nat) : Hart :=
  let kept := min n h.ids.ways
  { h with
    ids := { h.ids with ways := n }
    scratch := h.scratch.filter fun c => c.1 < kept * wayBytes
    scratchPoison := match h.scratchPoison with
      | [] => []
      | l => l.filter fun w => w < kept * wayBytes
    watch := match h.watch with
      | [] => []
      | l => l.filter fun w => w.2 * 128 < kept * wayBytes
    granules := h.granules.filter fun g => decide (g.1 < kept * (wayBytes / granuleBytes)) }

/-- TRESIZE (R301). -/
def execTresize (c : Ctl) (o : TresizeForm) (s : State) : Host.Outcome State Fault Refusal :=
  issue 0xC8 c s fun s slot h =>
    let n := (h.usrc o.b).toNat
    let p := s.pair (pairOf slot)
    let old := h.ids.ways
    unpoisoned s h (ssrcReads o.b)
      (if 15 < n ∨ 15 < n + p.ways (1 - sideOf slot) then trapRes s .scratch 0
       else if h.ownersPoisoned (n * (wayBytes / granuleBytes)) 479 then .deny s poisonTrap
       else match busyGranule h n with
        | some g => trapRes s .owner (BitVec.ofNat 64 (scratchBase + g * granuleBytes))
        | none => doneWith (s.setPair (pairOf slot) (p.setWays (sideOf slot) n)) slot
            ((h.resize n).setS o.d (BitVec.ofNat 64 old)))

/-! ## TGIVE (R302) -/

/-- TGIVE (R302, R220). -/
def execTgive (c : Ctl) (o : TgiveForm) (s : State) : Host.Outcome State Fault Refusal :=
  issue 0xC8 c s fun s slot h =>
    let a := h.getS o.a
    let n := (h.usrc o.b).toNat
    let va := a.toNat
    let lim := scratchBase + h.ids.ways * wayBytes
    unpoisoned s h (.s o.a :: ssrcReads o.b)
      (if va % granuleBytes ≠ 0 ∨ n % granuleBytes ≠ 0 then trapRes s .align a
       else if n = 0 then .done s
       else if va < scratchBase then trapRes s .scratch a
       else if lim < va + n then trapRes s .scratch (BitVec.ofNat 64 (max va lim))
       else
        let g0 := (va - scratchBase) / granuleBytes
        if h.ownersPoisoned g0 (g0 + n / granuleBytes - 1) then .deny s poisonTrap
        else doneWith s slot ((List.range (n / granuleBytes)).foldl (fun h k =>
          if (h.granule (g0 + k)).engine then h else h.setGranule (g0 + k) { engine := true, count := 0 }) h))

/-! ## Transfers: granule counts (R220) -/

/-- Granules that `n` bytes from a window offset cover. -/
def coveredGranules (o n : Nat) : List Nat :=
  (List.range ((o + n - 1) / granuleBytes - o / granuleBytes + 1)).map fun k => o / granuleBytes + k

def Hart.raiseCounts (h : Hart) (gs : List Nat) : Hart :=
  gs.foldl (fun h g => h.setGranule g { (h.granule g) with count := (h.granule g).count + 1 }) h

/-- A completing transfer lowers each count; a granule that reaches 0 flips to H. -/
def Hart.lowerCounts (h : Hart) (gs : List Nat) : Hart :=
  gs.foldl (fun h g =>
    let x := h.granule g
    h.setGranule g (if 1 < x.count then { x with count := x.count - 1 } else {})) h

/-- A granule over which fifteen transfers are in flight. -/
def Hart.countFull (h : Hart) (gs : List Nat) : Bool := gs.any fun g => decide (15 ≤ (h.granule g).count)

/-! ## TCOPY (R303) -/

def wholeInWindow (a n : Nat) : Bool := decide (scratchBase ≤ a) && decide (a + n ≤ 2 ^ 55)
def touchesWindow (a n : Nat) : Bool := decide (a < 2 ^ 55) && decide (scratchBase < a + n)

/-- The address of row `r` of a stream (R303), reading the index of an indirect one. -/
def rowAddr (s : State) (slot : Nat) (h : Hart) (q : Stream) (len r : Nat) : Except Denied (State × Word) :=
  if q.kind = 1 then .ok (s, q.base + (q.pos + BitVec.ofNat 64 r) * BitVec.ofNat 64 len)
  else if q.kind = 4 then
    let b := h.getQ q.idx
    match elementRead s slot h (b.direct r) b.ety.bytes b.limit with
    | .error d => .error d
    | .ok (s, x) => .ok (s, q.base + b.ety.place (BitVec.ofNat 64 x) * BitVec.ofNat 64 len)
  else .ok (s, q.direct r)

/-- The pages of the memory side of a row, translated (step 7 of R303). -/
def translateRange (s : State) (slot : Nat) (h : Hart) (r : List Byte) (va n : Nat) (write : Bool) :
    List Nat → Except Denied (List Segment)
  | [] => .ok []
  | g :: gs =>
    let a := max va (g * 65536)
    match translatePage s slot h r a write with
    | .error d => .error d
    | .ok (pa, e) =>
      (translateRange s slot h r va n write gs).map fun l =>
        { va := a, pa := pa + a % 65536, len := min (va + n) ((g + 1) * 65536) - a, pte := e } :: l

/-- Steps 6 and 7 of R303 on a memory side. -/
def memorySide (s : State) (slot : Nat) (h : Hart) (va n : Nat) (write : Bool) : Except Denied (List Segment) :=
  let r := match hartTask s h with
    | some t => t.record
    | none => []
  match leaseFailure (s.part h.ids.part) r va n write with
  | some bad => .error (.lease (BitVec.ofNat 64 bad))
  | none => translateRange s slot h r va n write (pagesOf va n)

/-- Steps 8 and 9 of R303 on a memory destination. -/
def destinationCheck (s : State) (part : Nat) (l : List Segment) : Except Denied Unit :=
  match l.find? fun g => !isRawAlias g.pa && touchesDecoded s g.pa g.len with
  | some g => .error (.trap .fmtWrite (BitVec.ofNat 64 g.va))
  | none => l.foldl (fun r g => match r with
    | .ok _ => if pteWtype g.pte == 1 then (transmitCheck s part (pteAux g.pte) g.va g.len true).map fun _ => () else .ok ()
    | r => r) (.ok ())

/-- EVAL of step 2 of R303: the row's first byte in the window; where no byte is in it the manual
states none. -/
def straddleEval (k src dst n : Nat) : Word :=
  match touchesWindow src n, touchesWindow dst n with
  | true, true => BitVec.ofNat 64 (min (max src scratchBase) (max dst scratchBase))
  | true, false => BitVec.ofNat 64 (max src scratchBase)
  | false, true => BitVec.ofNat 64 (max dst scratchBase)
  | false, false => Config.openEval k

/-- Steps 2 to 9 of R303 on one row; `side` is that of row 0, true for a memory destination. -/
def rowCheck (s : State) (slot : Nat) (h : Hart) (src dst : Word) (n : Nat) (side : Option Bool) : Except Denied (Bool × CopyRow) :=
  let a := src.toNat
  let b := dst.toNat
  let toMem := wholeInWindow a n && !touchesWindow b n
  let toScr := wholeInWindow b n && !touchesWindow a n
  if !(toMem || toScr) || (side.isSome && side != some toMem) then .error (.trap .scratch (straddleEval s.fresh a b n))
  else if n % 4 ≠ 0 ∨ a % 4 ≠ 0 then .error (.trap .align src)
  else if b % 4 ≠ 0 then .error (.trap .align dst)
  else
    let (sv, mv) := if toMem then (a, b) else (b, a)
    let lim := scratchBase + h.ids.ways * wayBytes
    if lim < sv + n then .error (.trap .scratch (BitVec.ofNat 64 (max sv lim)))
    else if h.ownersPoisoned ((sv - scratchBase) / granuleBytes) ((sv - scratchBase + n - 1) / granuleBytes) then .error poisonTrap
    else match (coveredGranules (sv - scratchBase) n).find? fun g => !(h.granule g).engine with
      | some g => .error (.trap .owner (BitVec.ofNat 64 (max sv (scratchBase + g * granuleBytes))))
      | none =>
        match memorySide s slot h mv n toMem with
        | .error d => .error d
        | .ok l => (if toMem then destinationCheck s h.ids.part l else .ok ()).map fun _ =>
            (toMem, { scratch := sv - scratchBase, segs := l })

/-- The rows of a TCOPY, in ascending order: `n` of them from row `r`. A row's source index is read before its
destination's (DESIGN CHOICE, log entry 65: step 1 of R303 gives no order between them). -/
def copyRows (slot : Nat) (h : Hart) (qd qa : Stream) (len : Nat) : Nat → Nat → Option Bool → State →
    Except Denied (State × Option Bool × List CopyRow)
  | 0, _, side, s => .ok (s, side, [])
  | n + 1, r, side, s =>
    match rowAddr s slot h qa len r with
    | .error d => .error d
    | .ok (s, src) =>
      match rowAddr s slot h qd len r with
      | .error d => .error d
      | .ok (s, dst) =>
        match rowCheck s slot h src dst len side with
        | .error d => .error d
        | .ok (toMem, row) =>
          (copyRows slot h qd qa len n (r + 1) (some toMem) s).map fun x => (x.1, x.2.1, row :: x.2.2)

/-! ## What an engine reads and writes -/

/-- Packets of at most one line each of `n` bytes from a PA (R426): first place and length. -/
def linePieces (pa n : Nat) : List (Nat × Nat) :=
  (List.range (lineOf (pa + n - 1) - lineOf pa + 1)).map fun k =>
    let a := max pa ((lineOf pa + k) * 128)
    (a - pa, min (pa + n) ((lineOf pa + k + 1) * 128) - a)

/-- Bytes read for an engine, line by line. -/
def engineRead (s : State) (slot part pa n : Nat) : State × List Byte × List Nat :=
  (linePieces pa n).foldl (fun r p =>
    let x := engineReadLine r.1 slot part (pa + p.1) p.2
    (x.1, r.2.1 ++ x.2.1, r.2.2 ++ x.2.2.map fun k => p.1 + k)) (s, [], [])

/-- Places of a piece among those of the whole. -/
def inPiece (poison : List Nat) (p : Nat × Nat) : List Nat := (poison.filter fun k => decide (p.1 ≤ k) && decide (k < p.1 + p.2)).map fun k => k - p.1

/-- What the transfers of a hart have overwritten in part counts under a number of its own. -/
def engineKey (slot : Nat) : Nat := 2000 + slot

/-- A write of a hart's transfer: an access of the vector queue (R315). -/
def Maker.engine (slot id : Nat) : Maker := { slot := slot, vec := true, transfer := some id, key := engineKey slot }

/-- Bytes written to one line, poisoned ones poisoned (R392). A decoded view is read-only: an engine that comes to one
after the checks of R303 writes nothing there (R179; log entry 40). -/
def engineWriteLine (s : State) (m : Maker) (part pa : Nat) (bs : List Byte) (poison : List Nat) : State :=
  if isDecoded s pa bs.length then s
  else
    let t := writePhys s m part pa bs
    if hostWriteFails s pa bs.length then t
    else poison.foldl (fun s k => poisonByte s (pa + k)) t

/-- Bytes written by an engine, line by line. -/
def engineWrite (s : State) (m : Maker) (part pa : Nat) (bs : List Byte) (poison : List Nat) : State :=
  (linePieces pa bs.length).foldl (fun s p => engineWriteLine s m part (pa + p.1) ((bs.drop p.1).take p.2) (inPiece poison p)) s

/-- Bytes written to a hart's scratch, poisoned ones poisoned. -/
def writeScratchPoison (s : State) (key slot o : Nat) (bs : List Byte) (poison : List Nat) : State :=
  (storeScratchAs s key slot o bs).modHart slot fun h => poison.foldl (fun h k => h.poisonScratch (o + k)) h

/-- The lines of a stretch count in the window of a REPL page, each as one access (R227). -/
def touchLines (s : State) (slot part : Nat) (g : Segment) (write : Bool) : State :=
  (linePieces g.pa g.len).foldl (fun s p => noteTouch s slot part (g.va + p.1) (g.pa + p.1) p.2 g.pte write) s

/-- A stretch of a memory destination on a transmit window enters the egress, in packets of a line at most,
and with LB 1 the page's local bytes are written (R426, R358). -/
def sendSegment (s : State) (slot id part : Nat) (g : Segment) (bs : List Byte) (poison : List Nat) : State :=
  match s.window (pteAux g.pte) with
  | none => s
  | some e =>
    let s := (linePieces g.pa g.len).foldl (fun s p => reflect s slot part (pteAux g.pte) e (g.va + p.1)
      (.store ((bs.drop p.1).take p.2) (inPiece poison p))) s
    if winLb e then engineWrite (touchLines s slot part g true) (.engine slot id) part g.pa bs poison else s

/-- The bytes of a row's stretch in the hart's scratch, with the places of poisoned ones. -/
def rowBytes (h : Hart) (r : CopyRow) (g : Segment) : List Byte × List Nat :=
  let o := r.scratch + (g.va - match r.segs with
    | x :: _ => x.va
    | [] => 0)
  (h.readScratch o g.len, (List.range g.len).filter fun k => h.scratchPoison.contains ((o + k) / 8 * 8))

/-- One stretch of a row of transfer `id` moves (R303), unless it has entered the egress. -/
def moveSegment (s : State) (slot id part : Nat) (toMem : Bool) (r : CopyRow) (g : Segment) : State :=
  match s.hart? slot with
  | none => s
  | some h =>
    if g.sent then s
    else
      if toMem then
        let x := rowBytes h r g
        if pteWtype g.pte == 1 then sendSegment s slot id part g x.1 x.2
        else engineWrite (touchLines s slot part g true) (.engine slot id) part g.pa x.1 x.2
      else
        let (s, bs, bad) := engineRead (touchLines s slot part g false) slot part g.pa g.len
        let o := r.scratch + (g.va - match r.segs with
          | x :: _ => x.va
          | [] => 0)
        writeScratchPoison s (engineKey slot) slot o bs bad

/-- One row moves (R303). -/
def moveRow (s : State) (slot id part : Nat) (toMem : Bool) (r : CopyRow) : State :=
  r.segs.foldl (fun s g => moveSegment s slot id part toMem r g) s

/-- The rows in a free order (R303). -/
def inRowOrder (k : Nat) (rows : List CopyRow) : List CopyRow :=
  match rows with
  | [] => []
  | [r] => [r]
  | l =>
    let order := Config.rowOrder k
    if order.isPerm (List.range l.length) then order.filterMap fun i => l[i]? else l

/-- A stream that TCOPY may use (R303, R267). -/
def copyStreamOk (h : Hart) (q : Stream) : Bool :=
  (q.kind == 1 || q.kind == 2 || q.kind == 4) && (q.kind != 4 || (h.getQ q.idx).isIndex)

/-- A transfer of a new number starts. -/
def startTransfer (s : State) (id slot gang : Nat) (work : Work) (bar : Option BarIdx) (bytes : Nat) : State :=
  { s with transfers := s.transfers ++ [{ id := id, slot := slot, gang := gang, work := work, bar := bar, bytes := bytes }] }

/-- The stretches of memory destinations that go into transmit windows enter the egress as TCOPY starts, in
the order of the vector queue (R360, R426; log entry 40). -/
def sendRows (s : State) (slot id : Nat) (h : Hart) (rows : List CopyRow) : State :=
  rows.foldl (fun s r => r.segs.foldl (fun s g =>
    if pteWtype g.pte == 1 then sendSegment s slot id h.ids.part g (rowBytes h r g).1 (rowBytes h r g).2 else s) s) s

/-- Those stretches are marked as sent. -/
def CopyRow.markSent (r : CopyRow) : CopyRow := { r with segs := r.segs.map fun g => if pteWtype g.pte = 1 then { g with sent := true } else g }

/-- A pinned line under local bytes that TCOPY writes as it starts (R318, R358). -/
def sentPinned (s : State) (slot : Nat) (rows : List CopyRow) : Option (Nat × Segment) :=
  (rows.flatMap fun r => r.segs).findSome? fun g =>
    if pteWtype g.pte == 1 && writesLocal s g.pte then (pinnedElsewhere s (pairOfAgent slot) g.pa g.len).map fun k => (k, g) else none

/-- The translations of a transfer's memory side are held (R99). -/
def rememberRows (s : State) (slot part : Nat) (rows : List CopyRow) : State :=
  (rows.flatMap fun r => r.segs).foldl (fun s g => rememberAt s slot part g.va g.pa g.pte) s

/-- A segment or unbound stream, whose kind no poison hides, traps STREAM before anything else (R303). -/
def copyKindBad (h : Hart) (q : QIdx) : Bool :=
  let k := (h.getQ q).kind
  !(k == 1 || k == 2 || k == 4) && !h.poison.contains (.q q.toNat 3)

/-- TCOPY (R303, R220): every row passes its checks, and the transfer starts. An index stream that serves both
streams, or a stream that is the other's index, advances once for each of the two (DESIGN CHOICE, log entry 65:
R303 does not say), and a poisoned stream traps before the check of an index stream (log entry 59). -/
def execTcopy (c : Ctl) (o : TcopyForm) (s : State) : Host.Outcome State Fault Refusal :=
  issue 0xC9 c s fun s slot h =>
    let qa := h.getQ o.a
    let qd := h.getQ o.d
    let len := o.len.toNat
    if copyKindBad h o.a || copyKindBad h o.d then trapRes s .stream 0
    else unpoisoned s h (streamReads h o.a ++ streamReads h o.d)
      (if !copyStreamOk h qa || !copyStreamOk h qd then trapRes s .stream 0
       else if h.vl = 0 then .done s
       else match copyRows slot h qd qa len h.vl 0 none s with
        | .error d => .deny s.draw.2 d
        | .ok (s', side, rows) =>
          let gs := (rows.flatMap fun r => coveredGranules r.scratch len).eraseDups
          let toMem := side == some true
          if h.countFull gs then .keep s
          else match (if toMem then sentPinned s slot rows else none) with
          | some (k, g) => .deny s (.retry k g.pa g.len)
          | none =>
            let (id, s') := s'.newId
            let s' := if toMem then settleStores (sendRows s' slot id h rows) (engineKey slot) else s'
            let rows := if toMem then rows.map CopyRow.markSent else rows
            let s' := rememberRows s' slot h.ids.part rows
            let s' := startTransfer s' id slot h.ids.gang (.copy toMem rows gs) (if o.ben then some o.bar else none) (h.vl * len)
            .done (s'.modHart slot fun y => advanceStream (advanceStream (y.raiseCounts gs) o.a h.vl) o.d h.vl))

/-! ## The end of a transfer (R305) -/

/-- The memory side of a transfer still translates: `none` while a page of it drains (R102), or where
it translates again after a CONFIRM and finds no usable translation. A destination that has become a decoded
view since the checks of R303 gives no wait: nothing is written there (R179; log entry 40). -/
def currentSegment (s : State) (part : Nat) (toMem stale : Bool) (g : Segment) : Option Segment :=
  if g.sent then some g
  else if draining (s.part part) (g.va / 65536) then none
  else if !stale then some g
  else match walk s part (g.va / 65536) with
    | .leaf e pa =>
      let pa := pa + g.va % 65536
      if toMem && (!pteWritable e ||
          (pteWtype e == 1 && (transmitCheck s part (pteAux e) g.va g.len true).toOption.isNone)) then none
      else some { g with pa := pa, pte := e }
    | _ => none

def currentRow (s : State) (part : Nat) (toMem stale : Bool) (r : CopyRow) : Option CopyRow :=
  let l := r.segs.map (currentSegment s part toMem stale)
  if l.all Option.isSome then some { r with segs := l.filterMap id } else none

/-- The walks by which a stretch translates again meet pins, whose bound starts (R319). -/
def retryWalks (s : State) (part : Nat) (stale : Bool) (rows : List CopyRow) : State :=
  if !stale then s
  else (rows.flatMap fun r => r.segs).foldl (fun s g =>
    if g.sent || draining (s.part part) (g.va / 65536) then s
    else match walk s part (g.va / 65536) with
      | .pinned k a => noteRetry s k a 8
      | _ => s) s

/-- A pinned line on the memory side makes the engine wait, the pair's own too (R310, R318). -/
def pinOnRows (s : State) (rows : List CopyRow) : Option (Nat × Segment) :=
  (rows.flatMap fun r => r.segs).findSome? fun g =>
    if g.sent then none else (pinnedElsewhere s none g.pa g.len).map fun k => (k, g)

/-- The bytes of a completed transfer are credited (R305). -/
def creditTransfer (s : State) (t : Transfer) : State :=
  match t.bar with
  | some n => creditFromTransfer s t.gang n.toNat t.bytes
  | none => s

/-- TRANSFER_COMPLETE (R305): the bytes of a TCOPY move; a TCAST waits for its last delivery; then the
counts fall and the bytes are credited. -/
def execTransferComplete (id : Nat) (s : State) : Host.Outcome State Fault Refusal :=
  match s.transfers.find? fun t => t.id == id with
  | none => .next s
  | some t =>
    let gone := fun (s : State) => settlePins { s with transfers := s.transfers.filter fun x => x.id != id }
    match t.work with
    | .cast _ _ _ dests left =>
      if left ≠ 0 then .next s
      else .next (creditTransfer (gone (dests.foldl (fun s d => s.modHart d.slot fun h => h.lowerCounts d.granules) s)) t)
    | .copy toMem rows gs =>
      match s.hart? t.slot with
      | none => .next (gone s)
      | some h =>
        let part := h.ids.part
        let l := rows.map (currentRow s part toMem t.stale)
        if !l.all Option.isSome then .next (settlePins (retryWalks s part t.stale rows))
        else
          let rows := l.filterMap fun x => x
          match pinOnRows s rows with
          | some (k, g) => .next (settlePins (noteRetry s k g.pa g.len))
          | none =>
            let (k, s) := s.draw
            let s := settleStores ((inRowOrder k rows).foldl (fun s r => moveRow s t.slot t.id part toMem r) s) (engineKey t.slot)
            .next (creditTransfer (gone (s.modHart t.slot fun h => h.lowerCounts gs)) t)

/-! ## TCAST (R304, R233, R322) -/

/-- The gang's hart `n` and its slot, where it has not halted. -/
def slotOfHart (s : State) (gang n : Nat) : Option Nat :=
  match s.gang? gang with
  | some g => (g.harts.find? fun e => e.1 == n).map fun e => e.2
  | none => none

/-- Granules of the destination range that a slot accepts: E, within its scratch, and not of an owner that came
poisoned (log entry 53). -/
def acceptedGranules (s : State) (slot : Nat) (gs : List Nat) : List Nat :=
  match s.hart? slot with
  | some h => gs.filter fun g => decide (g * granuleBytes < h.ids.ways * wayBytes) && (h.granule g).engine && !h.ownersPoisoned g g
  | none => []

/-- A line request at its home slice: it joins the open window of its line or opens one (R233). -/
def requestLine (l : List MergeWindow) (line transfer index : Nat) : List MergeWindow :=
  if l.any fun w => w.line == line && !w.closed then
    l.map fun w => if w.line = line ∧ w.closed = false then { w with requests := w.requests ++ [{ transfer := transfer, index := index }] } else w
  else l ++ [{ line := line, requests := [{ transfer := transfer, index := index }] }]

/-- Unmerged reads of a line that a core pair's pinned area serves, one for each destination (R304, R222). -/
def requestPinned (l : List MergeWindow) (line transfer index : Nat) (dests : List CastDest) : List MergeWindow :=
  l ++ dests.map fun d => { line := line, closed := true, requests := [{ transfer := transfer, index := index, only := some d.slot }] }

/-- Line `i` of a multicast lands in an accepted granule of a destination. -/
def CastDest.takes (d : CastDest) (dest i : Nat) : Bool := d.granules.contains ((dest + 128 * i) / granuleBytes)

/-- The request for line `i` of a TCAST from `src` that some destination takes: to its home slice, a HOME 01 page that
no core pair's pinned area holds included, since it is served as HOME 00 (R222, R237). -/
def requestOf (s : State) (part : Nat) (segs : List Segment) (src dest id : Nat) (dests : List CastDest)
    (l : List MergeWindow) (i : Nat) : List MergeWindow :=
  let va := src + 128 * i
  let takers := dests.filter fun d => d.takes dest i
  match segs.find? fun g => decide (g.va ≤ va) && decide (va < g.va + g.len) with
  | none => l
  | some g =>
    let line := lineOf (g.pa + (va - g.va))
    if takers.isEmpty then l
    else if inPinnedArea s part va g.pte then requestPinned l line id i takers
    else requestLine l line id i

/-- What a TCAST's line requests meet: the windows of REPL pages count them (R227), and HOME 01 pages (R222). -/
def countRequests (s : State) (slot part : Nat) (segs : List Segment) : State :=
  segs.foldl (fun s g => (List.range (g.len / 128)).foldl (fun s k => noteTouch s slot part (g.va + 128 * k) (g.pa + 128 * k) 128 g.pte false) s) s

/-- TCAST (R304). A destination address below the scratch window traps SCRATCH too, with that address in EVAL (DESIGN
CHOICE, log entry 70: R304 names a range that runs past the fifteen ways alone). Bits of the mask from GSIZE up, which
are ignored, are no source. -/
def execTcast (c : Ctl) (o : TcastForm) (s : State) : Host.Outcome State Fault Refusal :=
  issue 0xC9 c s fun s slot h =>
    let src := (h.getS o.a).toNat
    let dva := (h.getS o.b).toNat
    let n := o.lines.toNat
    let size := 128 * n
    let lim := scratchBase + 15 * wayBytes
    unpoisoned s h [.s o.a, .s o.b, .bits o.m 0 h.ids.gsize]
      (if src % 128 ≠ 0 then trapRes s .align (h.getS o.a)
       else if dva % 128 ≠ 0 then trapRes s .align (h.getS o.b)
       else if touchesWindow src size then trapRes s .scratch (BitVec.ofNat 64 (max src scratchBase))
       else if dva < scratchBase then trapRes s .scratch (h.getS o.b)
       else if lim < dva + size then trapRes s .scratch (BitVec.ofNat 64 (max dva lim))
       else match memorySide s slot h src size false with
        | .error d => .deny s d
        | .ok segs =>
          let dest := dva - scratchBase
          let gs := coveredGranules dest size
          let named := (List.range h.ids.gsize).filter fun k => maskBit (h.getM o.m) k
          let all := named.map fun k => match slotOfHart s h.ids.gang k with
            | some d => { slot := d, granules := acceptedGranules s d gs : CastDest }
            | none => { slot := slot, granules := [] }
          let dests := all.filter fun d => !d.granules.isEmpty
          let refused := (all.map fun d => gs.length - d.granules.length).foldl (fun a b => a + b) 0
          if dests.any fun d => match s.hart? d.slot with
            | some y => y.countFull d.granules
            | none => false then .keep s
          else
            let left := ((List.range n).map fun i => (dests.filter fun d => d.takes dest i).length).foldl (fun a b => a + b) 0
            let s := rememberRows (countRequests s slot h.ids.part segs) slot h.ids.part [{ scratch := dest, segs := segs }]
            let (id, s) := s.newId
            let s := startTransfer s id slot h.ids.gang (.cast src n dest dests left) (if o.ben then some o.bar else none) (128 * left)
            let s := { s with merges := (List.range n).foldl (requestOf s h.ids.part segs src dest id dests) s.merges }
            let s := dests.foldl (fun s d => s.modHart d.slot fun y => y.raiseCounts d.granules) s
            .done (s.modHart slot fun y => y.setS o.d (BitVec.ofNat 64 refused)))

/-- The deliveries that a read line makes for one request. -/
def deliverRequest (s : State) (q : CastRequest) (bs : List Byte) (bad : List Nat) : State :=
  match s.transfers.find? fun t => t.id == q.transfer with
  | some { work := .cast _ _ dest dests _, .. } =>
    (dests.filter fun d => d.takes dest q.index && (q.only.isNone || q.only == some d.slot)).foldl (fun s d =>
      let (id, s) := s.newId
      { s with deliveries := s.deliveries ++ [{ id := id, transfer := q.transfer, slot := d.slot, offset := dest + 128 * q.index, bytes := bs, poison := bad }] }) s
  | _ => s

/-- Closes a window, which then waits out a pin. -/
def closeMerge : List MergeWindow → MergeWindow → List MergeWindow
  | [], _ => []
  | w :: r, x => if w = x then { w with closed := true } :: r else w :: closeMerge r x

/-- The window of a line at which the slice acts: the first that has closed and waits for nothing more, else the open
one, whose 64 cycles end (R233); none where all wait out a pin. -/
def nextWindow (l : List MergeWindow) (line : Nat) (pinned : Bool) : Option MergeWindow :=
  match l.find? fun w => w.line == line && w.closed && (w.bound.isSome || !pinned) with
  | some w => some w
  | none => l.find? fun w => w.line == line && !w.closed

/-- What a closing window reads: the line now, or what the read bound at the end of the pin it waited out
(R322). -/
def mergeRead (s : State) (w : MergeWindow) : State × List Byte × List Nat :=
  match w.bound with
  | some (bs, bad) => (s, bs, bad)
  | none => engineRead s 1280 (requestPart s w) (w.line * 128) 128

/-- MERGE_WINDOW_CLOSE (R233, R322): the slice reads the line once and sends it to the union of the
destinations; a pin is waited out first, which holds back no later window of the line. -/
def execMergeWindowClose (line : Nat) (s : State) : Host.Outcome State Fault Refusal :=
  let pin := pinnedElsewhere s none (line * 128) 128
  match nextWindow s.merges line pin.isSome with
  | none => .next (match pin with
    | some k => noteRetry s k (line * 128) 128
    | none => s)
  | some w =>
    match (if w.bound.isSome then none else pin) with
    | some k => .next { noteRetry s k (line * 128) 128 with merges := closeMerge s.merges w }
    | none =>
      let (s', bs, bad) := mergeRead s w
      .next (w.requests.foldl (fun s q => deliverRequest s q bs bad) { s' with merges := s.merges.erase w })

/-- One delivery of a transfer has been made. -/
def Transfer.delivered (t : Transfer) : Transfer :=
  match t.work with
  | .cast src n dest dests left => { t with work := .cast src n dest dests (left - 1) }
  | .copy _ _ _ => t

/-- TCAST_LINE_DELIVERY (R232, R304): a line is written to one destination's scratch, all of it poisoned where it
crosses a failed Mearil link (R393). -/
def execTcastLineDelivery (id : Nat) (s : State) : Host.Outcome State Fault Refusal :=
  match s.deliveries.find? fun d => d.id == id with
  | none => .next s
  | some d =>
    let bad := if s.mearilFailed.contains (d.slot / 2) then List.range d.bytes.length else d.poison
    let s := writeScratchPoison s (engineKey d.slot) d.slot d.offset d.bytes bad
    .next { s with
      deliveries := s.deliveries.filter fun x => x.id != id
      transfers := s.transfers.map fun t => if t.id = d.transfer then t.delivered else t }

end Sys2Proof.Machine
end

