-- ==== Sys2Proof/Machine/ScalarMem.lean ====
section
/-! DEFINITION. Scalar loads and stores, OP 0x08 and 0x09 (R196 to R198), and the releases and pins
of the consistency model (R316 to R319). -/

namespace Sys2Proof.Machine

/-- EA of a scalar access (R197). -/
def effective (h : Hart) (a : SIdx) (off : BitVec 32) : Word := h.getS a + sext32 off

/-- The alignment check of R197. -/
def alignCheck (ea : Word) (n : Nat) : Except Denied Unit :=
  if ea.toNat % n = 0 then .ok () else .error (.trap .align ea)

/-- A checked scalar load of `n` bytes. -/
def scalarRead (s : State) (slot : Nat) (h : Hart) (ea : Word) (n : Nat) : Except Denied (State × Nat) :=
  match alignCheck ea n with
  | .error d => .error d
  | .ok _ => (load s slot h ea n).map fun r => (r.1, leNat r.2)

/-- A scalar store's checks (R197). -/
def scalarWriteCheck (s : State) (slot : Nat) (h : Hart) (ea : Word) (n : Nat) (reflectable : Bool) : Except Denied Place :=
  match alignCheck ea n with
  | .error d => .error d
  | .ok _ => checkStore s slot h ea n reflectable

/-- The mould of LD and LDA: in one order of all accesses an acquire adds nothing (log entry 12). -/
def scalarLoad (c : Ctl) (o : LoadForm) (s : State) : Host.Outcome State Fault Refusal :=
  issue 0x08 c s fun s slot h =>
    unpoisoned s h [.s o.a]
      (match scalarRead s slot h (effective h o.a o.off) o.ty.bytes with
      | .error d => .deny s d
      | .ok (s, x) => doneWith s slot (readAt s slot (effective h o.a o.off).toNat o.ty.bytes (h.setS o.d (o.ty.place (BitVec.ofNat 64 x)))))

/-- LD (R196, R197). -/
def execLd (c : Ctl) (o : LoadForm) (s : State) : Host.Outcome State Fault Refusal := scalarLoad c o s

/-- LDA (R196 to R198). -/
def execLda (c : Ctl) (o : LoadForm) (s : State) : Host.Outcome State Fault Refusal := scalarLoad c o s

/-- ST (R196, R197). -/
def execSt (c : Ctl) (o : StoreForm) (s : State) : Host.Outcome State Fault Refusal :=
  issue 0x09 c s fun s slot h =>
    let ea := effective h o.a o.off
    unpoisoned s h [.s o.a, .s o.b]
      (match scalarWriteCheck s slot h ea o.ty.bytes true with
      | .error d => .deny s d
      | .ok pl => .done (performStore s slot false h.ids.part pl ea (leBytes o.ty.bytes (h.getS o.b).toNat)))

/-! ## Releases (R316 to R319) -/

/-- Stores of some queues of the hart to host memory that the host's coherence has not accepted, for an operation
at SYSTEM scope (R310, R338). -/
def systemWaits (s : State) (slot : Nat) (k : Queues) (sc : Scope) : Bool :=
  sc == .system && s.hostStores.any fun e => k.has e.vec && e.isOf s slot

/-- What a release at a scope, ordered after the accesses of some queues (R316), waits for: none when it may take
effect. It waits for the stores its hart read under a pin of the sibling (R317), for the hart's own stores that
such a pin keeps from VA (R314), and at SYSTEM scope for those that the host has not accepted. -/
def releaseHeld (s : State) (slot : Nat) (k : Queues) (sc : Scope) : Option State :=
  if sc == .core then none
  else if touchedUnderPin k s slot then some (boundSiblingPins k s slot)
  else if systemWaits s slot k sc then some s else none

/-- A release at GANG scope or wider ends the hart's pins (R319). -/
def releaseAt (s : State) (slot : Nat) (sc : Scope) : State := if sc == .core then s else endPins s slot

/-- Lines that a pair holds pinned. -/
def pinnedLines (p : Pair) : List Nat := (p.pins.map fun q => q.line).eraseDups

/-- Pins the line of a CORE-scope release, or answers none where it would be the 65th (R319). -/
def pinLine (s : State) (slot line : Nat) : Option State :=
  let k := pairOf slot
  let p := s.pair k
  if p.pins.any fun q => q.slot == slot && q.line == line then some s
  else if !(pinnedLines p).contains line && decide (64 ≤ (pinnedLines p).length) then none
  else some (s.setPair k { p with pins := p.pins ++ [{ slot := slot, line := line }] })

/-- The line that a CORE-scope release pins with its store: none for the scratch, and none for a transmit
window, whose local bytes are at VA at once (R318, R358). -/
def storedLine : Place → Option Nat
  | .scratch _ => none
  | .mem pa e => if pteWtype e == 1 then none else some (pinLineOf pa)

/-- What a CORE-scope STL does to pins: none where it acts as a GANG release (R318, R319). A
Lamplighter has no core pair, and its releases pin nothing. -/
def corePin (s : State) (slot : Nat) (pl : Place) : Option State :=
  if isLamp slot then some s
  else match storedLine pl with
    | none => some s
    | some l => pinLine s slot l

/-- The scope at which an STL releases when it does not pin: a CORE-scope release that would pin a 65th
line acts as a GANG-scope one (R319). -/
def widerScope (sc : Scope) : Scope := if sc == .core then .gang else sc

/-- STL (R196 to R198, R318): a release at its scope. -/
def execStl (c : Ctl) (o : StoreForm) (s : State) : Host.Outcome State Fault Refusal :=
  issue 0x09 c s fun s slot h =>
    let ea := effective h o.a o.off
    unpoisoned s h [.s o.a, .s o.b]
      (match scalarWriteCheck s slot h ea o.ty.bytes true with
      | .error d => .deny s d
      | .ok pl =>
        let bs := leBytes o.ty.bytes (h.getS o.b).toNat
        match (if o.scope == .core then corePin s slot pl else none) with
        | some s => .done (performStore s slot false h.ids.part pl ea bs)
        | none =>
          match releaseHeld s slot .ofScalar (widerScope o.scope) with
          | some s => .keep s
          | none => .done (endPins (performStore s slot false h.ids.part pl ea bs) slot))

end Sys2Proof.Machine
end

