-- ==== Sys2Proof/Machine/Atomics.lean ====
section
/-! DEFINITION. Atomics, locks and fences, OP 0xD0 to 0xD3 (R330 to R338), and the combining windows
of the base dies (R367). -/

namespace Sys2Proof.Machine

/-! ## The atomic operation (R330) -/

/-- What an atomic stores: nothing for a compare-and-swap that fails. -/
def atomicNew (op : Aop) (ty : AType) (old b cmp : Word) : Option Word :=
  let t := ty.ty
  match op with
  | .add => some (if ty = .f32 then (Fmt.f32.add .rne false (Fmt.f32.value old) (Fmt.f32.value b)).1 else low t.width (old + b))
  | .and => some (low t.width (old &&& b))
  | .or => some (low t.width (old ||| b))
  | .xor => some (low t.width (old ^^^ b))
  | .min => some (t.lesser old b)
  | .max => some (t.greater old b)
  | .swap => some (low t.width b)
  | .cas => if low t.width old = low t.width cmp then some (low t.width b) else none

/-- An atomic that can travel as a non-returning reduction (R351, R357). -/
def canReflect : Aop → Bool
  | .swap => false
  | .cas => false
  | _ => true

/-! ## Atomics in place -/

/-- The checks of an atomic on `n` bytes: those of a store, then its read (R330, R269 step 8, R97). -/
def atomicCheck (s : State) (slot : Nat) (h : Hart) (va : Word) (n : Nat) (reflectable : Bool) : Except Denied Place :=
  match checkStore s slot h va n reflectable with
  | .error d => .error d
  | .ok (.scratch o) =>
    match poisonedIn h.scratchPoison o n with
    | some b => .error (.trap .poison (BitVec.ofNat 64 (scratchBase + b)))
    | none => .ok (.scratch o)
  | .ok (.mem pa e) =>
    if pteWtype e == 1 then .ok (.mem pa e)
    else if hostReadFails s pa n then .error (.linkPoison (va.toNat + hostPoisonAt s pa n) pa)
    else match readPoison s slot pa n with
      | some b => .error (.trap .poison (BitVec.ofNat 64 (va.toNat + (b - pa))))
      | none => .ok (.mem pa e)

/-- The atomic is on a transmit window, where it is a reduction (R357). -/
def Place.reflects : Place → Bool
  | .scratch _ => false
  | .mem _ e => pteWtype e == 1

/-- The old value at a checked place. -/
def oldValue (s : State) (slot : Nat) (n : Nat) : Place → Word
  | .scratch o => match s.hart? slot with
    | some h => BitVec.ofNat 64 (leNat (h.readScratch o n))
    | none => 0
  | .mem pa _ => BitVec.ofNat 64 (leNat (physReadBytes s pa n))

/-- What an atomic leaves behind beside its bytes: as a load it reads the sibling's pinned lines (R317) and a
prefetched line (R151), and its access is an agent's. -/
def noteAtomic (s : State) (slot part : Nat) (va : Word) (n : Nat) : Place → State
  | .scratch _ => s
  | .mem pa e => noteRead (noteAccess (markPinRead s slot pa n) slot part va.toNat pa n e true) slot va n

/-- An atomic of the scalar pipe, or of the vector queue, performs at a checked place and answers the old value; on a
transmit window it is sent and answers 0 (R330, R357). -/
def performAtomic (s : State) (slot : Nat) (vec : Bool) (part : Nat) (pl : Place) (va : Word) (op : Aop) (ty : AType) (b cmp : Word) :
    State × Word :=
  let n := ty.ty.bytes
  if pl.reflects then
    match pl with
    | .mem pa e => match s.window (pteAux e) with
      | some w => (reflect (rememberAt s slot part va.toNat pa e) slot part (pteAux e) w va.toNat (.reduce op ty (low (8 * n) b)), 0)
      | none => (s, 0)
    | .scratch _ => (s, 0)
  else
    let old := oldValue s slot n pl
    let s := noteAtomic s slot part va n pl
    match atomicNew op ty old b cmp with
    | none => (s, old)
    | some x => (match pl with
      | .scratch o => storeScratch s slot o (elemBytes n x)
      | .mem pa _ => writePhys s (.instr slot vec) part pa (elemBytes n x), old)

/-! ## AMO (R330, R331) -/

/-- The checks of an AMO (R330). -/
def amoCheck (s : State) (slot : Nat) (h : Hart) (ea : Word) (n : Nat) (reflectable : Bool) : Except Denied Place :=
  match alignCheck ea n with
  | .error d => .error d
  | .ok _ => atomicCheck s slot h ea n reflectable

/-- AMO (R330). On a transmit window it is neither an acquire nor a release (R357). -/
def execAmo (c : Ctl) (o : AmoForm) (s : State) : Host.Outcome State Fault Refusal :=
  issue 0xD0 c s fun s slot h =>
    let t := o.aty.ty
    let ea := effective h o.a o.off
    unpoisoned s h ([.s o.a, .s o.b] ++ (if o.aop = .cas then [.s o.d] else []))
      (match amoCheck s slot h ea t.bytes (canReflect o.aop) with
      | .error d => .deny s d
      | .ok pl =>
        match (if pl.reflects then none else releaseHeld s slot .ofScalar o.scope) with
        | some s => .keep s
        | none =>
          let (s, old) := performAtomic s slot false h.ids.part pl ea o.aop o.aty (h.getS o.b) (h.getS o.d)
          let s := if pl.reflects then s else releaseAt s slot o.scope
          .done (s.modHart slot fun y => y.setS o.d (t.place old)))

/-! ## VAMO (R332, R333) -/

/-- An element of a VAMO that has passed its checks. -/
structure AtomicElem where
  index : Nat
  va : Word
  place : Place
  value : Word
  cmp : Word
  deriving DecidableEq, Repr

/-- The elements of one VAMO in a free order where two reach one address (R333). -/
def elementOrder (k : Nat) (l : List AtomicElem) : List AtomicElem :=
  if (l.map fun e => e.va).Nodup then l else freeOrder k l

/-- One checked element performs, and its element of VD is written. -/
def performElem (slot : Nat) (h : Hart) (o : VamoForm) (s : State) (e : AtomicElem) : State :=
  let w := o.aty.ty.width
  let (s, old) := performAtomic s slot true h.ids.part e.place e.va o.aop o.aty e.value e.cmp
  s.modHart slot fun y => (y.setV o.d (elemSet (y.getV o.d) w e.index old)).cleanV o.d w h.vstart (e.index + 1) (h.writes o.mask)

/-- Where a loop stands at its end. -/
def LoopEnd.now {σ : Type} : LoopEnd σ → σ
  | .finished x => x
  | .stopped x _ => x
  | .denied x _ _ => x

/-- VAMO (R332): it waits for what its own index loads have read too (R317). Elements on transmit windows release
nothing (R357). -/
def execVamo (c : Ctl) (o : VamoForm) (s : State) : Host.Outcome State Fault Refusal :=
  issue 0xD1 c s fun s slot h =>
    let q := h.getQ o.q
    let t := o.aty.ty
    let w := t.width
    let regs := streamReads h o.q ++ vsrcReads o.b
    if !h.widthOk w then trapRes s .vwidth 0
    else unpoisoned s h regs
      (if !([1, 2, 4].contains q.kind && q.ety.slotWidth == w && (q.kind != 4 || (h.getQ q.idx).isIndex)) then trapRes s .stream 0
       else
        let s := s.modHart slot fun y => y.popGather s slot (gathered s slot h q o.mask 1 0)
        let check := fun (i : Nat) (x : State × List AtomicElem) =>
          if h.maskPoisoned o.mask i then .error poisonTrap
          else if !h.active o.mask i then .ok x
          else if h.vsrcPoisoned o.b w i || (o.aop == .cas && h.elemPoisoned o.d w i) then .error poisonTrap
          else match streamAddr x.1 slot h q i with
            | .error d => .error d
            | .ok (s, a) =>
              match elementCheck a t.bytes q.limit with
              | .error d => .error d
              | .ok _ => match atomicCheck s slot h a t.bytes (canReflect o.aop) with
                | .error d => .error d
                | .ok pl => .ok (s, x.2 ++ [{ index := i, va := a, place := pl, value := h.vsrc t o.b i, cmp := elemGet (h.getV o.d) w i : AtomicElem }])
        let perform := fun (x : State × List AtomicElem) (n : Nat) =>
          let (k, s) := x.1.draw
          let s := (elementOrder k x.2).foldl (performElem slot h o) s
          let s := if x.2.all fun e => e.place.reflects then s else releaseAt s slot o.scope
          s.modHart slot fun y => ((List.range n).filter fun i => decide (h.vstart ≤ i) && !h.active o.mask i).foldl (fun y i =>
            (y.skipElem o.d w o.mask i).cleanV o.d w h.vstart (i + 1) (h.writes o.mask)) y
        let r := eachPos check (h.vl - h.vstart) h.vstart s.budget (s, [])
        match (if r.now.2.all fun e => e.place.reflects then none else releaseHeld r.now.1 slot .ofVector o.scope) with
        | some s => .keep s
        | none => match r with
          | .finished x => finishStream slot h o.q (perform x h.vl)
          | .stopped x i => .keep ((perform x i).modHart slot fun y => y.setVstart i)
          | .denied x i d => .deny ((perform x i).modHart slot fun y => y.setVstart i) d)

/-! ## Locks (R334 to R336) -/

/-- LV: the lock value of a hart (R334). -/
def lockValue (h : Hart) : Word := BitVec.ofNat 64 (h.ids.gang % 2 ^ 32 * 2 ^ 32 + (h.ids.hartid + 1))

/-- The checks of every active element of a lock instruction, in ascending order (R334): the address
and place of each. -/
def lockPlaces (s : State) (slot : Nat) (h : Hart) (v : VIdx) : List Nat → Except Denied (List (Nat × Word × Place))
  | [] => .ok []
  | i :: is =>
    let a := elemGet (h.getV v) 64 i
    if h.elemPoisoned v 64 i then .error poisonTrap
    else match elementCheck a 8 none with
      | .error d => .error d
      | .ok _ => match atomicCheck s slot h a 8 false with
        | .error d => .error d
        | .ok pl => (lockPlaces s slot h v is).map fun l => (i, a, pl) :: l

/-- Inserts a lock by ascending address; a repeated address keeps its first element. -/
def insertLock (l : List (Nat × Word × Place)) (x : Nat × Word × Place) : List (Nat × Word × Place) :=
  match l with
  | [] => [x]
  | y :: r => if x.2.1.ult y.2.1 then x :: y :: r else if x.2.1 = y.2.1 then y :: r else y :: insertLock r x

/-- The distinct addresses in ascending order, each with its lowest active element. -/
def distinctLocks (l : List (Nat × Word × Place)) : List (Nat × Word × Place) := l.foldl insertLock []

/-- Writes a lock word at a checked place. -/
def writeLock (s : State) (slot part : Nat) (pl : Place) (x : Word) : State :=
  match pl with
  | .scratch o => storeScratch s slot o (elemBytes 8 x)
  | .mem pa _ => writePhys s (.instr slot true) part pa (elemBytes 8 x)

/-- One take of VLOCK: the state and the elements whose locks are taken. -/
def takeLock (slot : Nat) (h : Hart) (r : State × List Nat) (e : Nat × Word × Place) : State × List Nat :=
  let old := oldValue r.1 slot 8 e.2.2
  let s := noteAtomic r.1 slot h.ids.part e.2.1 8 e.2.2
  if old = 0 then (writeLock s slot h.ids.part e.2.2 (lockValue h), e.1 :: r.2)
  else if old = lockValue h then (s, e.1 :: r.2) else (s, r.2)

/-- VLOCK (R335). -/
def execVlock (c : Ctl) (o : VlockForm) (s : State) : Host.Outcome State Fault Refusal :=
  issue 0xD2 c s fun s slot h =>
    if !h.widthOk 64 then trapRes s .vwidth 0
    else unpoisoned s h (maskWhole h o.mask)
      (match lockPlaces s slot h o.a (h.activeBelow o.mask) with
      | .error d => .deny s d
      | .ok l =>
        let (s, taken) := (distinctLocks l).foldl (takeLock slot h) (s, [])
        .done (s.modHart slot fun y =>
          (((List.range h.vl).foldl (fun y i => y.putBit o.d i (taken.contains i)) y).cleanM o.d 0 h.vl (fun _ => true)).setVstart 0))

/-- One release of VUNLOCK: the state, the words that did not hold LV, and whether any was released. -/
def freeLock (slot : Nat) (h : Hart) (r : State × Nat × Bool) (e : Nat × Word × Place) : State × Nat × Bool :=
  let s := noteAtomic r.1 slot h.ids.part e.2.1 8 e.2.2
  if oldValue r.1 slot 8 e.2.2 = lockValue h then (writeLock s slot h.ids.part e.2.2 0, r.2.1, true)
  else (s, r.2.1 + 1, r.2.2)

/-- VUNLOCK (R336). -/
def execVunlock (c : Ctl) (o : VunlockForm) (s : State) : Host.Outcome State Fault Refusal :=
  issue 0xD2 c s fun s slot h =>
    if !h.widthOk 64 then trapRes s .vwidth 0
    else unpoisoned s h (maskWhole h o.mask)
      (match lockPlaces s slot h o.a (h.activeBelow o.mask) with
      | .error d => .deny s d
      | .ok l =>
        match releaseHeld s slot .both o.scope with
        | some s => .keep s
        | none =>
          let (s, cnt, any) := (distinctLocks l).foldl (freeLock slot h) (s, 0, false)
          let s := if any then releaseAt s slot o.scope else s
          .done (s.modHart slot fun y => (y.setS o.d (BitVec.ofNat 64 cnt)).setVstart 0))

/-! ## FENCE (R315, R337) -/

/-- The kinds whose earlier accesses are those of the vector queue: they wait for the hart's transfers (R315,
R337). -/
def FenceKind.drains : FenceKind → Bool
  | .vs => true
  | .vv => true
  | .all => true
  | _ => false

/-- The queues whose earlier accesses a kind orders (R315). -/
def FenceKind.queues : FenceKind → Queues
  | .ss => .ofScalar
  | .sv => .ofScalar
  | .vs => .ofVector
  | .vv => .ofVector
  | .all => .both

/-- The kinds at which the scalar pipe waits (R337). -/
def FenceKind.stalls : FenceKind → Bool
  | .vs => true
  | .all => true
  | _ => false

/-- What a FENCE orders at its scope. Accesses perform at their issue here, so this is transfers, the stores of the
queues that its kind names under the sibling's pins (R314), and at SYSTEM scope those that the host has not
accepted, with those that the transfers are still to make (log entries 12, 38). -/
def fenceOrders (s : State) (slot : Nat) (o : FenceForm) : Pending :=
  let k := FenceKind.queues o.kind
  let own := if o.scope == .core then 0 else stampOf s slot
  let host := if o.scope == .system then s.hostStamp else 0
  { transfers := if FenceKind.drains o.kind then transfersOf s slot else []
    own := if k.scalar then own else 0
    ownV := if k.vector then own else 0
    host := if k.scalar then host else 0
    hostV := if k.vector then host else 0
    sys := o.scope == .system }

/-- Two sets of accesses that an operation waits for: where one of them waits for the host, so do the transfers of
both. -/
def Pending.join (a b : Pending) : Pending :=
  { a with
    transfers := (a.transfers ++ b.transfers).eraseDups
    own := max a.own b.own, ownV := max a.ownV b.ownV, host := max a.host b.host, hostV := max a.hostV b.hostV
    sys := a.sys || b.sys }

/-- The marker of a FENCE ss, sv or vv (R337). -/
def Hart.markFence (h : Hart) (k : FenceKind) (w : Pending) : Hart :=
  if k == .ss then { h with fenceS := h.fenceS.join w } else { h with fenceV := h.fenceV.join w }

/-- A FENCE ss, sv or vv that has not all it orders performed leaves a marker, for which the hart's later
accesses wait. -/
def leaveMarker (s : State) (slot : Nat) (k : FenceKind) (w : Pending) : State :=
  if w.over s slot [] then s else boundStorePins (FenceKind.queues k) (s.modHart slot fun h => h.markFence k w) slot

/-- The hart's pins end once a FENCE at GANG scope or wider takes effect (R319). -/
def fencePins (s : State) (slot : Nat) (sc : Scope) (w : Pending) : State := if sc == .core then s else pendPins s slot w

/-- FENCE (R337): vs and all hold the scalar pipe until what they order has performed; the others let it go on
and leave a marker. -/
def execFence (c : Ctl) (o : FenceForm) (s : State) : Host.Outcome State Fault Refusal :=
  issue 0xD3 c s fun s slot _ =>
    let w := fenceOrders s slot o
    if FenceKind.stalls o.kind && !w.over s slot [] then .keep (boundStorePins (FenceKind.queues o.kind) s slot)
    else .done (fencePins (leaveMarker s slot o.kind w) slot o.scope w)

end Sys2Proof.Machine
end

