-- ==== Sys2Proof/Machine/Barrier.lean ====
section
/-! DEFINITION. Barriers and the Lantern's synchronisation, OP 0xD4 and 0xD5 (R339 to R346, R324). -/

namespace Sys2Proof.Machine

/-- The trap of a barrier that the gang does not own (R339). -/
def barBusy (s : State) (n : BarIdx) : Res := trapRes s .barBusy (n.setWidth 64)

/-- A hart's gang owns a barrier of its die. A barrier whose words an image gave poisoned traps POISON where an
instruction reads them, until BARINIT writes them anew (R390, R392; log entry 53). -/
def ownsBarrier (h : Hart) (c : BarrierCell) : Bool := c.owner == .owned h.ids.gang

/-- BARINIT (R340, R324): it claims a free barrier (R339), and waits as a GANG-scope release does.
That it also ends the hart's pins as such a release is the model's (DESIGN CHOICE, log entry 74). -/
def execBarinit (c : Ctl) (o : BarinitForm) (s : State) : Host.Outcome State Fault Refusal :=
  issue 0xD4 c s fun s slot h =>
    let die := dieOf slot
    let k := barKey die o.n.toNat
    let cell := s.barrier k
    unpoisoned s h [.s o.a, .s o.b]
      (if !ownsBarrier h cell && cell.owner != .free then barBusy s o.n
       else match releaseHeld s slot .both .gang with
        | some s => .keep s
        | none =>
          let a := (h.getS o.a).toNat
          let b := (h.getS o.b).toNat
          let bytes := BitVec.ofNat 40 (min b (2 ^ 40 - 1))
          let bar : Barrier := { expa := BitVec.ofNat 8 (if a = 0 then 1 else min a 255), baseb := bytes, expb := bytes }
          let s := releaseAt s slot .gang
          .done (trapWaiters (s.setBarrier k { bar := bar, owner := .owned h.ids.gang }) die o.n.toNat))

/-- The hart of a slot has stopped. -/
def stoppedAt (s : State) (slot : Nat) : Bool :=
  match s.hart? slot with
  | some h => h.run == .stopped
  | none => false

/-- BARARV (R341, R324): a release at GANG scope, then one arrival. Where a waiting hart's BAROVER has ended the
task, which stops the arriving hart too (R403), it traps no more. -/
def execBararv (c : Ctl) (o : BararvForm) (s : State) : Host.Outcome State Fault Refusal :=
  issue 0xD4 c s fun s slot h =>
    let die := dieOf slot
    let n := o.n.toNat
    let k := barKey die n
    let cell := s.barrier k
    if !ownsBarrier h cell then barBusy s o.n
    else if cell.poisoned then .deny s poisonTrap
    else match releaseHeld s slot .both .gang with
      | some s => .keep s
      | none =>
        let s := releaseAt s slot .gang
        let b := cell.bar
        if b.broken then trapRes s .barOver (o.n.setWidth 64)
        else if b.arr.toNat < b.expa.toNat then
          let s := settleBarrier s die n { cell with bar := { b with arr := b.arr + 1 } }
          .done (s.modHart slot fun y => y.setS o.d ((BitVec.ofBool b.phase).setWidth 64))
        else
          let s := trapWaiters (s.setBarrier k { cell with bar := { b with broken := true } }) die n
          if stoppedAt s slot then .keep s else trapRes s .barOver (o.n.setWidth 64)

/-- BAREXP (R342, R324). -/
def execBarexp (c : Ctl) (o : BarForm) (s : State) : Host.Outcome State Fault Refusal :=
  issue 0xD4 c s fun s slot h =>
    let die := dieOf slot
    let n := o.n.toNat
    let cell := s.barrier (barKey die n)
    unpoisoned s h [.s o.a]
      (if !ownsBarrier h cell then barBusy s o.n
       else if cell.poisoned then .deny s poisonTrap
       else if cell.bar.broken then .done s
       else .done (settleBarrier s die n { cell with bar := { cell.bar with expb := satBytes cell.bar.expb.toNat (h.getS o.a).toNat } }))

/-- BARWAIT (R343, R324): it returns at once, or the hart waits for the flip. -/
def execBarwait (c : Ctl) (o : BarForm) (s : State) : Host.Outcome State Fault Refusal :=
  issue 0xD4 c s fun s slot h =>
    let cell := s.barrier (barKey (dieOf slot) o.n.toNat)
    let f := (h.getS o.a).getLsbD 0
    unpoisoned s h [.s o.a]
      (if !ownsBarrier h cell then barBusy s o.n
       else if cell.poisoned then .deny s poisonTrap
       else if cell.bar.broken then trapRes s .barOver (o.n.setWidth 64)
       else if cell.bar.phase != f then .done s
       else .keep (s.setHart slot { h with run := .barWait o.n f }))

/-- BARWAIT_RETURN (R343, R344): a hart that a flip released completes its BARWAIT. -/
def execBarwaitReturn (slot : Nat) (s : State) : Host.Outcome State Fault Refusal :=
  match s.hart? slot with
  | some h => if h.run = .barReady then .next (retire (s.setHart slot { h with run := .running }) slot) else .next s
  | none => .next s

/-- LSYNC (R346): nothing but its completion, which the Lantern waits for (R143). -/
def execLsync (c : Ctl) (_ : LsyncForm) (s : State) : Host.Outcome State Fault Refusal :=
  issue 0xD5 c s fun s _ _ => .done s

end Sys2Proof.Machine
end

