-- ==== Sys2Proof/Machine/Tasks.lean ====
section
/-! DEFINITION. Tasks and events, OP 0xE0 and 0xE1 (R70 to R73, R347, R348, R350), and the rings of
the work queues (R61, R97). -/

namespace Sys2Proof.Machine

/-- The privileged view (R54); a runtime is always in it (R56). -/
def privileged (slot : Nat) (h : Hart) : Bool := isLamp slot || h.priv

/-! ## Queues and their rings (R61) -/

def Partition.queue (p : Partition) (n : Nat) : Queue := tblGetD p.queues n {}
def Partition.setQueue (p : Partition) (n : Nat) (q : Queue) : Partition := { p with queues := tblPut p.queues n q {} }

/-- LOG2N as it acts (R61). -/
def Queue.log (q : Queue) : Nat := if 4 ≤ q.log2n.toNat ∧ q.log2n.toNat ≤ 16 then q.log2n.toNat else 4
def Queue.size (q : Queue) : Nat := 2 ^ q.log

/-- Records published and not taken. -/
def Queue.backlog (q : Queue) : Nat := (q.tail - q.head).toNat

/-- The PA of a record's ring slot (R61, R97): none where it names no memory of its kind (R96). A host
address of 2^49 or more wraps (DESIGN CHOICE, log entry 52: PA[48:0] of R97 holds no more). -/
def ringSlot (s : State) (q : Queue) (i : Nat) : Option Nat :=
  let a := q.base.toNat * 256 + i % q.size * 256
  if q.loc then some (2 ^ 50 + (if linkTrained s false then 0 else 2 ^ 49) + a % 2 ^ 49)
  else if isDevicePa a then some a else none

/-! ## TLAUNCH (R347, R70, R71) -/

/-- TLAUNCH (R347): the record passes the checks of a load, the hart's stores have performed at DEVICE
scope, and the copy follows. -/
def execTlaunch (c : Ctl) (o : TlaunchForm) (s : State) : Host.Outcome State Fault Refusal :=
  issue 0xE0 c s fun s slot h =>
    let va := h.getS o.a
    unpoisoned s h (.s o.a :: ssrcReads o.b)
      (if va.toNat % 256 ≠ 0 then trapRes s .align va
       else match load s slot h va 256 with
        | .error d => .deny s d
        | .ok (s, _) =>
          match releaseHeld s slot .both .device with
          | some s => .keep s
          | none => .keep ((noteRead s slot va 256).modHart slot fun y => { y with run := .launching o.d (y.usrc o.b).toNat va }))

/-- A launch status word (R71). -/
def launchStatus (seq queue status : Nat) : Word := BitVec.ofNat 64 (seq + queue * 2 ^ 32 + status * 2 ^ 56)

/-- A record with its NEST field set (R37). -/
def withNest (r : List Byte) (nest : Nat) : List Byte := r.set 4 (BitVec.ofNat 8 ((listGetD r 4 0).toNat / 16 * 16 + nest))

/-- The page under which the copy of a record to its ring counts as a store: no virtual page, since it uses no
translation. -/
def noPage : Nat := 2 ^ 39

/-- The step of R70 for a hart's launch: its status word, or none while a pin of another pair covers
the ring slot (R318). A slot outside device memory takes no bytes, nor does one in a decoded view, which is
read-only (R179); both answer OK (DESIGN CHOICE, log entry 51: R70 gives no outcome). Under a pin of the hart's
own pair the bytes are at VC and not at VA. -/
def launchStep (s : State) (slot : Nat) (h : Hart) (j : Nat) (record : List Byte) : Except Denied (State × Word) :=
  let n := 64 + j
  let q := (s.part h.ids.part).queue n
  match hartTask s h with
  | none => .ok (s, launchStatus 0 0 3)
  | some t =>
    if 15 < j ∨ q.en = false then .ok (s, launchStatus 0 0 3)
    else if recNest t.record = 8 then .ok (s, launchStatus 0 0 2)
    else if q.backlog = q.size then .ok (s, launchStatus 0 0 1)
    else
      let seq := q.tail.toNat
      let publish := fun (s : State) =>
        (s.modPart h.ids.part fun p => { p.setQueue n { q with tail := q.tail + 1 } with
          launched := p.launched ++ [{ queue := n, seq := seq, ancestors := (t.queue, t.seq) :: t.ancestors }] }).modTask t.part t.queue t.seq fun t =>
          { t with children := t.children ++ [{ queue := n, seq := seq }] }
      match ringSlot s q seq with
      | none => .ok (publish s, launchStatus seq n 0)
      | some pa =>
        match pinnedElsewhere s (pairOfAgent slot) pa 256 with
        | some k => .error (.retry k pa 256)
        | none =>
          if !isRawAlias pa && touchesDecoded s pa 256 then .ok (publish s, launchStatus seq n 0)
          else .ok (publish (physWrite (delayStore s slot false h.ids.part noPage pa 256) pa (withNest record (recNest t.record + 1))), launchStatus seq n 0)

/-- TLAUNCH_COPY (R70): the record is read and copied in one step, a DEVICE-scope release that waits once more for
what this read has read (R317), and the TLAUNCH completes. Where the record cannot be read any more, the TLAUNCH
executes again. -/
def execTlaunchCopy (slot : Nat) (s : State) : Host.Outcome State Fault Refusal :=
  match s.hart? slot with
  | some h =>
    match h.run with
    | .launching d j va =>
      let again := s.setHart slot { h with run := .running }
      match load s slot h va 256 with
      | .error _ => .next again
      | .ok (s, record) =>
        match releaseHeld s slot .both .device with
        | some s => .next s
        | none =>
          match launchStep (noteRead s slot va 256) slot h j record with
          | .error e => .next (deny again slot e)
          | .ok (s, x) =>
            let s := releaseAt s slot .device
            .next (retire (s.modHart slot fun y => { y.setS d x with run := .running }) slot)
    | _ => .next s
  | none => .next s

/-! ## TWAIT (R348, R72, R73) -/

/-- A gang stops issuing (R386 step 1). -/
def stopGang (s : State) (id : Nat) (k : StopKind) (await : Option Word) : State :=
  match s.gang? id with
  | some g => (stopHarts Hart.stopWhole s g).modGang id fun g => { g with state := .stopping k, await := await }
  | none => s

/-- The child that a handle names (R72): none for a bad handle. -/
def namedChild (t : Task) (x : Word) : Option Child :=
  if bits x 56 8 ≠ 0 ∨ bits x 32 7 < 64 then none
  else t.children.find? fun c => c.queue == bits x 32 7 && c.seq == bits x 0 32

/-- TWAIT (R348): it completes for a finished child or a bad handle; otherwise the gang parks (R73). -/
def execTwait (c : Ctl) (o : TwaitForm) (s : State) : Host.Outcome State Fault Refusal :=
  issue 0xE0 c s fun s slot h =>
    let x := h.getS o.a
    unpoisoned s h [.s o.a]
      (match (hartTask s h).bind fun t => namedChild t x with
      | none => doneWith s slot (h.setS o.d (BitVec.ofNat 64 (0xFF * 2 ^ 56)))
      | some c =>
        match c.status with
        | some y => doneWith s slot (h.setS o.d y)
        | none => .keep (stopGang s h.ids.gang .parked (some x)))

/-! ## EVPOP (R350) -/

def Partition.events (p : Partition) (n : Nat) : EvQueue := tblGetD p.evq n {}
def Partition.setEvents (p : Partition) (n : Nat) (q : EvQueue) : Partition := { p with evq := tblPut p.evq n q {} }

/-- A place `o` bytes on. -/
def Place.shift : Place → Nat → Place
  | .scratch a, o => .scratch (a + o)
  | .mem pa e, o => .mem (pa + o) e

/-- A record's four words. -/
def EvRecord.words (r : EvRecord) : List Word := [r.w0, r.w1, r.w2, r.w3]

/-- EVPOP (R350). -/
def execEvpop (c : Ctl) (o : EvpopForm) (s : State) : Host.Outcome State Fault Refusal :=
  issue 0xE1 c s fun s slot h =>
    let va := h.getS o.a
    let part := h.ids.part
    let q := (s.part part).events o.n.toNat
    if !privileged slot h then trapRes s .priv 0
    else unpoisoned s h [.s o.a]
      (match q.records with
      | [] => doneWith s slot (h.setS o.d (BitVec.allOnes 64))
      | r :: rest =>
        if va.toNat % 32 ≠ 0 then trapRes s .align va
        else match checkStore s slot h va 32 true with
          | .error d => .deny s d
          | .ok pl =>
            let s := s.modPart part fun p => p.setEvents o.n.toNat { q with records := rest }
            let s := ((List.range 4).zip r.words).foldl (fun s e =>
              performStore s slot false part (pl.shift (8 * e.1)) (va + BitVec.ofNat 64 (8 * e.1)) (elemBytes 8 e.2)) s
            .done (s.modHart slot fun y => y.setS o.d (BitVec.ofNat 64 rest.length)))

end Sys2Proof.Machine
end

