-- ==== Sys2Proof/Machine/Reflect.lean ====
section
/-! DEFINITION. Beacon reflection: RFENCE, WMAP and WUNMAP, OP 0xE2 and 0xE3 (R353, R354, R364), the
fabric's routes (R370 to R372), and the events of a packet: its application, its acknowledgement and
its discard (R359 to R369, R374, R375). -/

namespace Sys2Proof.Machine

/-! ## RFENCE (R364) -/

/-- RFENCE (R364): it waits for the hart's reflected stores, and orders as FENCE all at SYSTEM scope. -/
def execRfence (c : Ctl) (o : RfenceForm) (s : State) : Host.Outcome State Fault Refusal :=
  issue 0xE2 c s fun s slot h =>
    if h.marked [0x1A8] then .deny s poisonTrap
    else if (s.egress.any fun r => r.slot == slot) || (s.transfers.any fun t => t.slot == slot) then .keep s
    else match releaseHeld s slot .both .system with
      | some s => .keep s
      | none => .done ((releaseAt s slot .system).setHart slot ({ h.setS o.d (h.rdisc.setWidth 64) with rdisc := 0 }))

/-! ## The window mapping table (R353, R354) -/

/-- A physical range lies wholly in a partition's stacks. -/
def rangeInStacks (p : Partition) (a n : Nat) : Bool :=
  (List.range ((a + n - 1) / 2 ^ 36 - a / 2 ^ 36 + 1)).all fun k => inStacks p ((a / 2 ^ 36 + k) * 2 ^ 36)

/-- The image keeps R353: reserved bits, KIND, NDEST, and the fields of the other kind. -/
def imageOk (e : BitVec 512) : Bool :=
  let w0 := winWord e 0
  let dest := fun k => (e.extractLsb' (256 + 32 * k) 32).toNat
  let common := bits w0 5 3 == 0 && bits w0 12 4 == 0 && bits w0 20 44 == 0 && bits (winWord e 2) 24 40 == 0
  let transmit := bits (winWord e 1) 39 25 == 0 && winWord e 3 == 0 && decide (1 ≤ winNdest e) && decide (winNdest e ≤ 8) &&
    (List.range 8).all fun k => if k < winNdest e then dest k < 2 ^ 28 else dest k == 0
  let receive := !winLb e && !winPcls e && winNdest e == 0 && bits (winWord e 1) 36 28 == 0 && bits (winWord e 3) 11 53 == 0 &&
    (List.range 8).all fun k => dest k == 0
  common && ((winKind e == 1 && transmit) || (winKind e == 2 && receive))

/-- A receive entry stays within its partition (R354, status 3). -/
def receiveOk (p : Partition) (e : BitVec 512) : Bool :=
  winKind e != 2 || (rangeInStacks p (winRpa e) (winSize e) && (!winCen e || ownsDie p (winDie e)))

/-- A valid receive entry with CEN 1 names barrier `n` of a die. -/
def creditedBarrier (s : State) (die n : Nat) : Bool :=
  s.windows.any fun w => winValid w.2 && winKind w.2 == 2 && winCen w.2 && winDie w.2 == die && winBar w.2 == n

/-- A forwarding barrier that no receive entry names any longer becomes free (R427). -/
def settleForwarding (s : State) : State :=
  s.barriers.foldl (fun s b => match b.2.owner with
    | .forwarding _ => if creditedBarrier s (b.1 / 64) (b.1 % 64) then s else s.setBarrier b.1 { b.2 with owner := .free }
    | _ => s) s

/-- Writes or clears an entry. -/
def setWindow (s : State) (w : Nat) (e : Option (BitVec 512)) : State :=
  settleForwarding { s with windows := match e with
    | some e => tblSet s.windows w e
    | none => tblDel s.windows w }

/-- Packets sent under an entry and neither applied nor discarded. -/
def sentUnder (s : State) (w : Nat) : List Nat :=
  (s.egress.filter fun r => r.win == w && r.fate == .inFlight).map fun r => r.id

/-- The entry is replaced, and the hart waits for the packets sent under the old one (R354). -/
def remap (s : State) (slot : Nat) (d : SIdx) (w : Nat) (e : Option (BitVec 512)) : Res :=
  let l := sentUnder s w
  let s := setWindow s w e
  match l with
  | [] => .done (s.modHart slot fun y => y.setS d 0)
  | l => .keep (s.modHart slot fun y => { y with run := .mapping d l })

/-- Answers a status word. -/
def statusWord (s : State) (slot : Nat) (d : SIdx) (n : Nat) : Res := .done (s.modHart slot fun y => y.setS d (BitVec.ofNat 64 n))

/-- The entry is valid and another partition owns it. -/
def foreignEntry (s : State) (part w : Nat) : Bool :=
  match s.window w with
  | some e => winPart e != part
  | none => false

/-- WMAP (R354). -/
def execWmap (c : Ctl) (o : WmapForm) (s : State) : Host.Outcome State Fault Refusal :=
  issue 0xE3 c s fun s slot h =>
    let va := h.getS o.a
    let part := h.ids.part
    let w := (h.usrc o.b).toNat
    if !privileged slot h then trapRes s .priv 0
    else unpoisoned s h (.s o.a :: ssrcReads o.b)
      (if va.toNat % 64 ≠ 0 then trapRes s .align va
       else match load s slot h va 64 with
        | .error d => .deny s d
        | .ok (s, bs) =>
          let s := noteRead s slot va 64
          let e := BitVec.ofNat 512 (leNat bs)
          if 4095 < w then statusWord s slot o.d 4
          else if foreignEntry s part w then statusWord s slot o.d 1
          else if !winValid e then remap s slot o.d w none
          else if winPart e != part then statusWord s slot o.d 1
          else if !imageOk e then statusWord s slot o.d 2
          else if !receiveOk (s.part part) e then statusWord s slot o.d 3
          else remap s slot o.d w (some e))

/-- WUNMAP (R354). -/
def execWunmap (c : Ctl) (o : WunmapForm) (s : State) : Host.Outcome State Fault Refusal :=
  issue 0xE3 c s fun s slot h =>
    let w := (h.usrc o.b).toNat
    if !privileged slot h then trapRes s .priv 0
    else unpoisoned s h (ssrcReads o.b)
      (if 4095 < w then statusWord s slot o.d 4
       else if foreignEntry s h.ids.part w then statusWord s slot o.d 1
       else remap s slot o.d w none)

/-! ## Routes (R370 to R372) -/

/-- A list of devices passed in order meets a failure (R372). -/
def routeFailed (failed : List FabricPart) : List (BitVec 16) → Bool
  | [] => false
  | p :: r => routeFails failed (Coord.of p) (r.map Coord.of)

/-- A path to another device along which stores travel (R370 to R372): its route stands, or a detour does
where the entry permits one. -/
def reachable (s : State) (dev : BitVec 16) (rwin : BitVec 12) (detour : Bool) : Bool :=
  let p := Coord.of s.devid
  inFabric s.bcncfg dev &&
    (!routeFailed s.failed (routeOf s dev rwin) || (detour && (detours s.bcncfg p (Coord.of dev)).any fun r => !routeFails s.failed p r))

/-! ## Errors (R369) and the count of discards (R364) -/

/-- Records a discard in a partition's RFLSTAT. -/
def recordReflection (s : State) (part : Nat) (receiver : Bool) (cause : BitVec 3) (rwin : BitVec 12) (dev : BitVec 16) : State :=
  let x := (s.part part).regs.rflstat
  let x := withBits x 48 16 (satAdd 16 (bits x 48 16) 1)
  if x.getLsbD 0 then s.modPart part fun p => { p with regs := { p.regs with rflstat := x } }
  else
    let x := BitVec.ofNat 64 (1 + (if receiver then 2 else 0) + cause.toNat * 4 + rwin.toNat * 2 ^ 16 + dev.toNat * 2 ^ 32 + bits x 48 16 * 2 ^ 48)
    raiseInterrupt (s.modPart part fun p => { p with regs := { p.regs with rflstat := x } }) part 0x81

/-- RDISC of a hart counts one more, saturating. -/
def Hart.countDiscard (h : Hart) : Hart := { h with rdisc := BitVec.ofNat 32 (satAdd 32 h.rdisc.toNat 1) }

/-- A reflected store of this device is discarded: counted and recorded at its sender. -/
def discardOwn (s : State) (r : Reflected) (cause : BitVec 3) : State :=
  recordReflection (s.modHart r.slot Hart.countDiscard) r.part false cause r.rwin r.dev

/-- Sets how a packet stands. -/
def setFate (s : State) (id : Nat) (f : Fate) : State :=
  { s with egress := s.egress.map fun r => if r.id = id then { r with fate := f } else r }

def dropPacket (s : State) (id : Nat) : State := { s with egress := s.egress.filter fun r => r.id != id }

/-- The hart's gang is stopping or its task ending: it issues nothing more (R386, R403). -/
def gangStops (s : State) (h : Hart) : Bool :=
  match s.gang? h.ids.gang with
  | some g => g.state != .running || match s.task? g.part g.queue g.seq with
    | some t => t.state.isEnding
    | none => false
  | none => false

/-- Harts in WMAP or WUNMAP whose packets are all applied or discarded complete (R354); one whose gang stops
reaches its stopping point so (R380). -/
def finishMappings (s : State) : State :=
  s.harts.foldl (fun s e => match s.hart? e.1 with
    | some h => match h.run with
      | .mapping d l =>
        if s.egress.any fun r => l.contains r.id && r.fate == .inFlight then s
        else
          let t := retire (s.setHart e.1 { h.setS d 0 with run := .running }) e.1
          if gangStops s h then t.modHart e.1 Hart.stop else t
      | _ => s
    | none => s) s

/-! ## Application (R356, R357, R361, R362, R366, R367) -/

def payloadSize : Payload → Nat
  | .store bs _ => bs.length
  | .reduce _ t _ => t.ty.bytes

/-- Entries of a page table that memory lists, by PA of the entry. -/
def listedEntries (s : State) (table : Nat) : List Nat :=
  ((s.mem.filter fun c => decide (table ≤ c.1) && decide (c.1 < table + 65536)).map fun c => c.1 / 8 * 8).eraseDups

/-- The leaves below a table that map a PA and pass a test; `n` is 3 less the levels above the table. -/
def leavesBelow (s : State) (p : Partition) (ok : Word → Bool) (pa : Nat) : Nat → Nat → List Word
  | 0, _ => []
  | n + 1, table => (listedEntries s table).flatMap fun a =>
    match readPte s a 0 with
    | none => []
    | some e =>
      if !e.getLsbD 0 then []
      else if e.getLsbD 1 then
        if leafOk p (3 - n) e && ok e &&
            decide (ptePa e ≤ pa) && decide (pa < ptePa e + 2 ^ (13 * n) * 65536) then [e] else []
      else if n != 0 && pointerOk p e then leavesBelow s p ok pa n (ptePa e) else []

/-- The leaves of a partition's page tables that map a PA and pass a test (R93). -/
def leavesAt (s : State) (part : Nat) (ok : Word → Bool) (pa : Nat) : List Word :=
  let p := s.part part
  if p.regs.ptroot.getLsbD 0 then leavesBelow s p ok pa 3 (bits p.regs.ptroot 16 36 * 65536) else []

/-- The leaves by which a partition reads a PA as a page of its receive window (R352). -/
def receiveLeaves (s : State) (part w pa : Nat) : List Word := leavesAt s part (fun e => pteWtype e == 2 && pteAux e == w) pa

/-- A number that is no die's: of what comes from outside all of them. -/
def noDie : Nat := 16

/-- A leaf of a REPL page (R226). -/
def replLeaf (e : Word) : Bool := pteRepl e && pteHome e == 0

/-- An access that arrives from outside every die counts in the window of a REPL page (R227; log entry 36). -/
def countArrival (s : State) (leaves : List Word) (pa : Nat) (write : Bool) : State :=
  match leaves.find? replLeaf with
  | some e => countRepl s noDie (leafPage e) pa write
  | none => s

/-- A packet's bytes land at their address, in pages of these leaves: those of an ATOM page through the combining
window (R367). A reduction over a poisoned word leaves it poisoned (R392). -/
def landPayload (s : State) (leaves : List Word) (pa : Nat) (pl : Payload) : State :=
  let s := if leaves.any pteAtom then touchWords s pa (payloadSize pl) else s
  let s := countArrival s leaves pa true
  match pl with
  | .store bs bad => physWritePoison s pa bs bad
  | .reduce op t x =>
    let n := t.ty.bytes
    let old := BitVec.ofNat 64 (leNat (physReadBytes s pa n))
    let bad := (firstPoison s pa n).isSome
    match atomicNew op t old x 0 with
    | none => s
    | some y =>
      let s := physWrite s pa (elemBytes n y)
      if bad then poisonByte s pa else s

/-- What becomes of a packet at this device. -/
inductive Landing where
  | applied (s : State)
  | discarded (s : State) (cause : BitVec 3)
  /-- it waits out a pin (R318) -/
  | held (s : State)

/-- A packet meets its receive entry (R362). `source` is the sending device. -/
def landPacket (s : State) (source : BitVec 16) (rwin : BitVec 12) (offset : Nat) (pl : Payload) : Landing :=
  match s.window rwin.toNat with
  | none => .discarded s 1
  | some e =>
    if winKind e != 2 then .discarded s 1
    else
      let pa := winRpa e + offset
      let n := payloadSize pl
      let record := fun c => recordReflection s (winPart e) true c rwin source
      if winSize e < offset + n then .discarded (record 2) 2
      else if !isRawAlias pa && touchesDecoded s pa n then .discarded (record 3) 3
      else match pinnedElsewhere s none pa n with
        | some k => .held (noteRetry s k pa n)
        | none =>
          let s := landPayload s (receiveLeaves s (winPart e) rwin.toNat pa) pa pl
          .applied (if winCen e then creditFromWindow s (winDie e) (winBar e) n else s)

/-- The first packet in flight on the path of a packet (R359). -/
def headOfPath (s : State) (r : Reflected) : Bool :=
  match s.egress.find? fun x => x.dev == r.dev && x.rwin == r.rwin && x.fate == .inFlight with
  | some x => x.id == r.id
  | none => false

/-- BEACON_PACKET_APPLY (R359, R361 to R363, R366, R367). -/
def execBeaconPacketApply (a : Arrival) (s : State) : Host.Outcome State Fault Refusal :=
  match a with
  | .loopback id =>
    match s.egress.find? fun r => r.id == id with
    | none => .next s
    | some r =>
      if r.dev != s.devid || !headOfPath s r then .next s
      else match landPacket s s.devid r.rwin r.offset r.payload with
        | .applied s => .next (finishMappings (setFate s id .applied))
        | .discarded s c => .next (finishMappings (setFate (discardOwn s r c) id (.discarded c)))
        | .held s => .next s
  | .foreign source rwin offset pl =>
    if !bcnEn s.bcncfg then .next s
    else match landPacket s source rwin offset pl with
      | .applied s => .next s
      | .discarded s _ => .next s
      | .held s => .next s

/-- A loop-back packet that is discarded for want of time is recorded at the owner of its receive entry too,
where that is valid (R369). -/
def recordTimedOut (s : State) (r : Reflected) : State :=
  if r.dev != s.devid then s
  else match s.window r.rwin.toNat with
    | some e => if winKind e == 2 then recordReflection s (winPart e) true 4 r.rwin s.devid else s
    | none => s

/-- REFLECT_TIMEOUT (R374): a packet neither applied nor discarded in 10 ms is discarded. -/
def execReflectTimeout (id : Nat) (s : State) : Host.Outcome State Fault Refusal :=
  match s.egress.find? fun r => r.id == id with
  | none => .next s
  | some r =>
    if r.fate = .inFlight then .next (finishMappings (dropPacket (recordTimedOut (discardOwn s r 4) r) id)) else .next s

/-- REFLECTION_ACKNOWLEDGEMENT (R375): the sender learns what became of a packet. A packet to another
device is applied or discarded there, in path order and over a route that stands. -/
def execReflectionAcknowledgement (id : Nat) (applied : Bool) (cause : BitVec 3) (s : State) : Host.Outcome State Fault Refusal :=
  match s.egress.find? fun r => r.id == id with
  | none => .next s
  | some r =>
    match r.fate with
    | .inFlight =>
      if r.dev == s.devid || !headOfPath s r || !reachable s r.dev r.rwin r.pcls then .next s
      else if applied then .next (finishMappings (dropPacket s id))
      else if cause = 1 ∨ cause = 2 ∨ cause = 3 then .next (finishMappings (dropPacket (discardOwn s r cause) id))
      else .next s
    | _ => .next (dropPacket s id)

/-- COMBINING_WRITEBACK (R367): an entry of a combining window is written back; its word reads as
before. -/
def execCombiningWriteback (word : Nat) (s : State) : Host.Outcome State Fault Refusal :=
  .next { s with combining := s.combining.filter fun w => w != word }

/-- A store to host memory is at VA: no pin keeps one to a byte of it from there (R310, R318). -/
def HostStore.atVa (s : State) (e : HostStore) : Bool :=
  !(s.pairs.any fun p => p.2.delayed.any fun d => decide (d.pa < e.pa + e.n) && decide (e.pa < d.pa + d.n))

/-- HOST_COHERENCE_ACCEPT (R310): the host's coherence accepts the oldest store to host memory of those at VA, for
which the end of a pin may have waited (R319). -/
def execHostCoherenceAccept (s : State) : Host.Outcome State Fault Refusal :=
  match s.hostStores.find? (HostStore.atVa s) with
  | none => .next s
  | some e => .next (settlePins { s with hostStores := s.hostStores.erase e })

end Sys2Proof.Machine
end

