-- ==== Sys2Proof/Machine/VecInt.lean ====
section
/-! DEFINITION. Vector length, type and integer arithmetic, OP 0x60 to 0x64 (R245 to R249). -/

namespace Sys2Proof.Machine

/-- VSETL (R245). -/
def execVsetl (c : Ctl) (o : SetForm) (s : State) : Host.Outcome State Fault Refusal :=
  issue 0x60 c s fun s slot h =>
    let n := min (h.usrc o.b).toNat (vlmaxOf h.etypeCode)
    let h' := ((h.setVl n).setS o.d (BitVec.ofNat 64 n)).setVstart 0
    unpoisoned s h (ssrcReads o.b) (doneWith s slot { h' with lantern := { h'.lantern with strips := h'.lantern.strips + 1 } })

/-- A new VTYPE with the length cut to what it allows (R239, R246). -/
def Hart.setVtype (h : Hart) (v : BitVec 7) : Hart :=
  clearPoison { h with regs := h.regs.retype v } (RegLoc.controlIn [0x118])

/-- VSETT (R246). -/
def execVsett (c : Ctl) (o : SetForm) (s : State) : Host.Outcome State Fault Refusal :=
  issue 0x60 c s fun s slot h =>
    let h' := h.setVtype ((h.usrc o.b).setWidth 7)
    unpoisoned s h (ssrcReads o.b) (doneWith s slot ((h'.setS o.d (BitVec.ofNat 64 (vlmaxOf h'.etypeCode))).setVstart 0))

/-- Elements a, b and c of one width, and which of them is poisoned. -/
def poisonedAt (x : Hart) (a : VIdx) (b : VSrc) (w : Nat) (i : Nat) : Bool := x.elemPoisoned a w i || x.vsrcPoisoned b w i

/-- The mould of R247: OPERATION(i) of elements a, b and, where it is a source, c. -/
def vecBin (op : Nat) (c : Ctl) (o : VecBin) (s : State) (readsD : Bool) (f : Ty → Word → Word → Word → Word) :
    Host.Outcome State Fault Refusal :=
  issue op c s fun s slot h =>
    let w := o.ty.width
    elementwise s slot h w w o.d o.mask (vsrcReads o.b)
      (fun x i => poisonedAt x o.a o.b w i || (readsD && x.elemPoisoned o.d w i))
      (fun x i => (f o.ty (elemGet (x.getV o.a) w i) (x.vsrc o.ty o.b i) (elemGet (x.getV o.d) w i), 0))

/-- An exact integer operation, saturated or wrapped (R247). -/
def exactVec (sat : Bool) (f : Int → Int → Int → Int) (t : Ty) (a b c : Word) : Word :=
  t.narrow sat (f (t.int a) (t.int b) (t.int c))

def execVadd (c : Ctl) (o : VecBin) (s : State) : Host.Outcome State Fault Refusal :=
  vecBin 0x61 c o s false (exactVec o.sat fun a b _ => a + b)

def execVsub (c : Ctl) (o : VecBin) (s : State) : Host.Outcome State Fault Refusal :=
  vecBin 0x61 c o s false (exactVec o.sat fun a b _ => a - b)

def execVrsub (c : Ctl) (o : VecBin) (s : State) : Host.Outcome State Fault Refusal :=
  vecBin 0x61 c o s false (exactVec o.sat fun a b _ => b - a)

def execVmin (c : Ctl) (o : VecBin) (s : State) : Host.Outcome State Fault Refusal :=
  vecBin 0x61 c o s false fun t a b _ => t.lesser a b

def execVmax (c : Ctl) (o : VecBin) (s : State) : Host.Outcome State Fault Refusal :=
  vecBin 0x61 c o s false fun t a b _ => t.greater a b

def execVabsd (c : Ctl) (o : VecBin) (s : State) : Host.Outcome State Fault Refusal :=
  vecBin 0x61 c o s false (exactVec false fun a b _ => ((a - b).natAbs : Int))

def execVavg (c : Ctl) (o : VecBin) (s : State) : Host.Outcome State Fault Refusal :=
  vecBin 0x61 c o s false (exactVec false fun a b _ => Int.fdiv (a + b + 1) 2)

def execVmul (c : Ctl) (o : VecBin) (s : State) : Host.Outcome State Fault Refusal :=
  vecBin 0x62 c o s false (exactVec o.sat fun a b _ => a * b)

def execVmulh (c : Ctl) (o : VecBin) (s : State) : Host.Outcome State Fault Refusal :=
  vecBin 0x62 c o s false fun t a b _ => t.mulHigh a b

def execVmacc (c : Ctl) (o : VecBin) (s : State) : Host.Outcome State Fault Refusal :=
  vecBin 0x62 c o s true (exactVec o.sat fun a b c => c + a * b)

def execVdiv (c : Ctl) (o : VecBin) (s : State) : Host.Outcome State Fault Refusal :=
  vecBin 0x62 c o s false fun t a b _ => t.quot a b

def execVrem (c : Ctl) (o : VecBin) (s : State) : Host.Outcome State Fault Refusal :=
  vecBin 0x62 c o s false fun t a b _ => t.rest a b

def execVand (c : Ctl) (o : VecBin) (s : State) : Host.Outcome State Fault Refusal :=
  vecBin 0x63 c o s false fun _ a b _ => a &&& b

def execVor (c : Ctl) (o : VecBin) (s : State) : Host.Outcome State Fault Refusal :=
  vecBin 0x63 c o s false fun _ a b _ => a ||| b

def execVxor (c : Ctl) (o : VecBin) (s : State) : Host.Outcome State Fault Refusal :=
  vecBin 0x63 c o s false fun _ a b _ => a ^^^ b

def execVsll (c : Ctl) (o : VecBin) (s : State) : Host.Outcome State Fault Refusal :=
  vecBin 0x63 c o s false fun t a b _ => t.shiftLeft a b

def execVsrl (c : Ctl) (o : VecBin) (s : State) : Host.Outcome State Fault Refusal :=
  vecBin 0x63 c o s false fun t a b _ => t.shiftRight a b

def execVsra (c : Ctl) (o : VecBin) (s : State) : Host.Outcome State Fault Refusal :=
  vecBin 0x63 c o s false fun t a b _ => t.shiftRightA a b

/-- The mould of the widening forms (R248): narrow elements a and b, the wide element c. -/
def vecWide (c : Ctl) (o : VecBin) (s : State) (readsD : Bool) (f : Int → Int → Int → Int) : Host.Outcome State Fault Refusal :=
  issue 0x64 c s fun s slot h =>
    let w := o.ty.width
    let t := o.ty.wide
    elementwise s slot h t.width t.width o.d o.mask (vsrcReads o.b)
      (fun x i => poisonedAt x o.a o.b w i || (readsD && x.elemPoisoned o.d t.width i))
      (fun x i => (t.narrow o.sat (f (o.ty.int (elemGet (x.getV o.a) w i)) (o.ty.int (x.vsrc o.ty o.b i))
        (t.int (elemGet (x.getV o.d) t.width i))), 0))

def execVwadd (c : Ctl) (o : VecBin) (s : State) : Host.Outcome State Fault Refusal :=
  vecWide c o s false fun a b _ => a + b

def execVwmul (c : Ctl) (o : VecBin) (s : State) : Host.Outcome State Fault Refusal :=
  vecWide c o s false fun a b _ => a * b

def execVwmacc (c : Ctl) (o : VecBin) (s : State) : Host.Outcome State Fault Refusal :=
  vecWide c o s true fun a b c => c + a * b

/-- a ÷ 2^s, rounded down or to the nearest with ties to even (R249). -/
def shiftRounded (down : Bool) (a : Int) (s : Nat) : Int :=
  let q := Int.fdiv a (2 ^ s)
  let r := a - q * 2 ^ s
  if down then q
  else if 2 * r > 2 ^ s ∨ (2 * r = 2 ^ s ∧ q % 2 ≠ 0) then q + 1 else q

/-- VNSHR (R249). -/
def execVnshr (c : Ctl) (o : VecNarrow) (s : State) : Host.Outcome State Fault Refusal :=
  issue 0x64 c s fun s slot h =>
    let t := o.ty.wide
    elementwise s slot h t.width o.ty.width o.d o.mask (vsrcReads o.b)
      (fun x i => poisonedAt x o.a o.b t.width i)
      (fun x i => (o.ty.narrow o.sat (shiftRounded (o.rm == .rdn) (t.int (elemGet (x.getV o.a) t.width i))
        ((x.vsrc t o.b i).toNat % t.width)), 0))

end Sys2Proof.Machine
end

