-- ==== Sys2Proof/Machine/Registers.lean ====
section
/-! DEFINITION. The system registers that a hart reaches by number: their rights and their write rules
(R55, R148, R167, R216, R217, R239, R276, R408). -/

namespace Sys2Proof.Machine

/-- What a view may do with a register: read it, write some field of it. -/
structure Rights where
  read : Bool
  write : Bool
  deriving DecidableEq, Repr

/-- The column of a register number in a view (R216, R408): none for a number that names no register. -/
def sysRights (n : Nat) (priv : Bool) : Option Rights :=
  if n = 0x000 ∨ n = 0x004 ∨ (0x010 ≤ n ∧ n ≤ 0x015) ∨ (0x10C ≤ n ∧ n ≤ 0x17F) then some ⟨true, true⟩
  else if (0x001 ≤ n ∧ n ≤ 0x003) ∨ n = 0x007 ∨ n = 0x00D ∨ n = 0x00E ∨ (0x100 ≤ n ∧ n ≤ 0x10B) then some ⟨true, priv⟩
  else if n = 0x005 ∨ n = 0x006 ∨ (0x008 ≤ n ∧ n ≤ 0x00C) then some ⟨true, false⟩
  else if 0x020 ≤ n ∧ n ≤ 0x025 then some ⟨priv, priv⟩
  else none

/-- Registers of a hart that a Lamplighter has not: it has no vector, matrix or engine state, no core
pair, no gang and no counters (R56). -/
def noLampRegister (n : Nat) : Bool :=
  (decide (0x001 ≤ n) && decide (n ≤ 0x00C)) || (decide (0x100 ≤ n) && decide (n ≤ 0x10B))

def alignWord (x : Word) : Word := x &&& ~~~3#64

/-- The value of a system register (R216, R217, R408). -/
def sysRead (s : State) (slot : Nat) (h : Hart) (n : Nat) : Word :=
  let r := h.regs
  let p := s.pair (pairOf slot)
  match n with
  | 0x000 => h.fcsr.setWidth 64
  | 0x001 => r.vl.setWidth 64
  | 0x002 => r.vtype.setWidth 64
  | 0x003 => r.vstart.setWidth 64
  | 0x004 => h.lslip.setWidth 64
  | 0x005 => p.zsplit.setWidth 64
  | 0x006 => (p.sw1 ++ p.sw0).setWidth 64
  | 0x007 => h.zdirty.setWidth 64
  | 0x008 => BitVec.ofNat 64 (h.ids.hartid % 2 ^ 7)
  | 0x009 => BitVec.ofNat 64 (h.ids.gang % 2 ^ 32)
  | 0x00A => BitVec.ofNat 64 (h.ids.gridIdx % 2 ^ 32)
  | 0x00B => BitVec.ofNat 64 (h.ids.gsize % 2 ^ 7)
  | 0x00C => BitVec.ofNat 64 (h.ids.zshare % 2 ^ 6)
  | 0x00D => h.cycle
  | 0x00E => h.instret
  | 0x010 => r.loops.lc0
  | 0x011 => r.loops.lc1
  | 0x012 => r.loops.lb0
  | 0x013 => r.loops.lb1
  | 0x014 => r.loops.le0
  | 0x015 => r.loops.le1
  | 0x020 => h.trap.tvec
  | 0x021 => h.trap.epc
  | 0x022 => h.trap.evstart
  | 0x023 => h.trap.ecause
  | 0x024 => h.trap.eval
  | 0x025 => h.trap.estat
  | n => if 0x100 ≤ n ∧ n ≤ 0x10B then rget h.perf (BitVec.ofNat 4 (n - 0x100)) else 0

/-! ## Write rules -/

/-- FCSR (R167). -/
def fcsrOf (x : Word) : BitVec 8 :=
  let m := bits x 0 3
  BitVec.ofNat 8 (bits x 3 5 * 8 + (if 4 < m then 0 else m))

/-- VL (R216). -/
def Hart.writeVl (h : Hart) (x : Word) : Hart := h.setVl (min x.toNat (vlmaxOf h.etypeCode))

/-- LSLIP's stored value (R148). -/
def lslipOf (x : Word) : BitVec 8 :=
  let n := bits x 0 7
  BitVec.ofNat 8 ((if n = 0 then 1 else min n 64) + bits x 7 1 * 128)

/-- A write of LSLIP by SYSWR (R148): LOFF set flushes and discards, LOFF cleared forks. -/
def Hart.writeLslip (h : Hart) (x : Word) : Hart :=
  let v := lslipOf x
  let h' := { h with lslip := v }
  if v.getLsbD 7 then (if h.lslip.getLsbD 7 then h' else h'.flushLantern)
  else if h.lslip.getLsbD 7 then { h' with lantern := { h'.lantern with forking := true } } else h'

/-- ZDIRTY (R216, R276): a bit that is cleared zeroes its tile. -/
def Hart.writeZdirty (h : Hart) (x : Word) : Hart :=
  let v : BitVec 32 := BitVec.ofNat 32 (x.toNat % 2 ^ h.ids.zshare)
  let gone := fun k => h.zdirty.getLsbD k && !v.getLsbD k
  let h := { h with zdirty := v, tiles := h.tiles.filter fun e => !gone (e.1 / 256) }
  clearPoison h fun l => match l with
    | .z k _ _ => gone k
    | _ => false

/-- The loop registers (R209). -/
def Hart.modLoops (h : Hart) (f : LoopRegs → LoopRegs) : Hart := { h with regs := { h.regs with loops := f h.regs.loops } }
def Hart.modTrap (h : Hart) (f : TrapRegs → TrapRegs) : Hart := { h with trap := f h.trap }

/-- A write of a system register that its column admits. R216 gives EVSTART no field: it keeps 64 bits, of which
ERET takes VSTART's eleven (DESIGN CHOICE, log entry 72). -/
def sysWrite (h : Hart) (n : Nat) (x : Word) : Hart :=
  match n with
  | 0x000 => { h with fcsr := fcsrOf x }
  | 0x001 => h.writeVl x
  | 0x002 => h.setVtype (x.setWidth 7)
  | 0x003 => h.setVstart (bits x 0 11)
  | 0x004 => h.writeLslip x
  | 0x007 => h.writeZdirty x
  | 0x00D => { h with cycle := x }
  | 0x00E => { h with instret := x }
  | 0x010 => h.modLoops fun l => { l with lc0 := x }
  | 0x011 => h.modLoops fun l => { l with lc1 := x }
  | 0x012 => h.modLoops fun l => { l with lb0 := alignWord x }
  | 0x013 => h.modLoops fun l => { l with lb1 := alignWord x }
  | 0x014 => h.modLoops fun l => { l with le0 := alignWord x }
  | 0x015 => h.modLoops fun l => { l with le1 := alignWord x }
  | 0x020 => h.modTrap fun t => { t with tvec := alignWord x }
  | 0x021 => h.modTrap fun t => { t with epc := x }
  | 0x022 => h.modTrap fun t => { t with evstart := x }
  | 0x023 => h.modTrap fun t => { t with ecause := BitVec.ofNat 64 (bits x 0 8) }
  | 0x024 => h.modTrap fun t => { t with eval := x }
  | 0x025 => h.modTrap fun t => { t with estat := BitVec.ofNat 64 (bits x 0 1) }
  | n => if 0x100 ≤ n ∧ n ≤ 0x10B then { h with perf := rset h.perf (BitVec.ofNat 4 (n - 0x100)) x } else h

end Sys2Proof.Machine
end

