-- ==== Sys2Proof/Machine/Retire.lean ====
section
/-! DEFINITION. How a hart gives up its slot, a gang retires, and a task retires or ends: the signal,
the event record, and what waits on a child (R72, R73, R84, R214, R306, R365, R401 to R407). -/

namespace Sys2Proof.Machine

/-! ## Slots, barriers and images -/

/-- A slot becomes empty (R84): no pin of it is left, nor a count of what its instruction has overwritten (R392),
its ways return to cache use, and its registers, tiles and scratch are gone. -/
def releaseSlot (s : State) (slot : Nat) : State :=
  let s := settleStores (dropPins s slot) slot
  let k := pairOf slot
  (s.setPair k ((s.pair k).setWays (sideOf slot) 0)).dropHart slot

/-- A barrier is held by a gang, in any way. -/
def heldBy (o : BarOwner) (gang : Nat) : Bool :=
  match o with
  | .free => false
  | .owned g => g == gang
  | .reserved g => g == gang
  | .forwarding g => g == gang

/-- The barriers of a gang become free and keep their state (R339, R427, R328). -/
def freeBarriers (s : State) (gang : Nat) : State :=
  s.barriers.foldl (fun s b => if heldBy b.2.owner gang then s.setBarrier b.1 { b.2 with owner := .free } else s) s

/-- Bytes of a hart image (R387). -/
def imageSize : Nat := 0xA60000

/-- PA of a partition's image (R387), by the alias that is not raw (R96). -/
def imageBase (p : Partition) (n : Nat) : Nat := storageOf (p.ctxbase.toNat * 65536 + n * imageSize)

/-- A pin of some pair covers an image of the gang (R318). -/
def imagePinned (s : State) (g : Gang) : Option (Nat × Nat) :=
  g.images.findSome? fun n =>
    let a := imageBase (s.part g.part) n
    (pinnedElsewhere s none a imageSize).map fun k => (k, a)

/-- VALID of an image becomes 0. -/
def invalidateImage (s : State) (part n : Nat) : State := physWrite s (imageBase (s.part part) n + 4) [0]

/-- The images of a gang are free again (R69). -/
def freeImages (s : State) (part gang : Nat) : State :=
  s.modPart part fun p => { p with images := p.images.filter fun e => e.2 != gang, ready := p.ready.filter fun g => g != gang }

/-- A gang is gone (R77, R339, R69). -/
def forgetGang (s : State) (g : Gang) : State := (freeImages (freeBarriers s g.id) g.part g.id).dropGang g.id

/-! ## Gangs that wait on a child (R72, R73) -/

/-- The handle of a task (R71). -/
def handleOf (queue seq : Nat) : Word := launchStatus seq queue 0

/-- The gang may resume: it joins those that are ready, once (R67). -/
def makeReady (s : State) (g : Gang) : State :=
  s.modPart g.part fun p => if p.ready.contains g.id then p else { p with ready := p.ready ++ [g.id] }

/-- The child that a saved gang awaits is Retired or Ended (R73). -/
def awaitOver (s : State) (g : Gang) : Bool :=
  match g.await with
  | none => false
  | some x => match s.task? g.part g.queue g.seq with
    | some t => match namedChild t x with
      | some c => c.status.isSome
      | none => true
    | none => false

/-- Every parked gang whose child is over becomes ready: several that one child makes ready at a moment in the
order of their dispatch (DESIGN CHOICE, log entry 61: R67 orders them by the moment alone). -/
def wakeParked (s : State) (part : Nat) : State :=
  s.gangs.foldl (fun s g => if g.part = part ∧ g.state = .saved .parked ∧ awaitOver s g then makeReady s g else s) s

/-- The front end keeps a finished child's status word for its launcher (R72). -/
def reportChild (s : State) (part queue seq : Nat) (status : Word) : State :=
  wakeParked { s with tasks := s.tasks.map fun t =>
    if t.part = part then { t with children := t.children.map fun c =>
      if c.queue = queue ∧ c.seq = seq ∧ c.status = none then { c with status := some status } else c } else t } part

/-! ## The signal (R401, R403, R404) -/

/-- SIGADDR is 8-byte aligned and in a writable lease range or standing range (R41). -/
def signalValid (p : Partition) (r : List Byte) : Bool :=
  let a := (recSigAddr r).toNat
  a % 8 == 0 && decide (a / 65536 < 2 ^ 39) && !inScratchWindow a && pageGranted p r (a / 65536) true

/-- How a signal write goes. -/
inductive Signal where
  | written (s : State)
  | failed
  | waits (s : State)
  /-- it has met a pin of a core pair on the lines of a range -/
  | pinned (pair pa n : Nat)

/-- The sender of what a front end stores: no hart. -/
def frontSlot : Nat := 1296

/-- The bytes of a signal at the PA of a leaf: as a store of the front end, reflected on a transmit window
(log entry 50), whose local bytes change with LB 1 alone (R358). -/
def storeSignal (s : State) (part va pa : Nat) (e : Word) (bs : List Byte) : Signal :=
  let local_ := fun (s : State) =>
    let s := meetPage (if pteAtom e then touchWords s pa bs.length else s) part va pa e
    writePhys (countArrival s [e] pa true) (.instr frontSlot false) part pa bs
  if pteWtype e == 1 then
    match transmitCheck s part (pteAux e) va bs.length true with
    | .error _ => .failed
    | .ok w =>
      let s := reflect s frontSlot part (pteAux e) w va (.store bs [])
      .written (if winLb w then local_ s else s)
  else .written (local_ s)

/-- The signal store: not made where no usable, writable translation serves it (R404); it waits out a
drain (R102) and pins, on its page tables too (R318, R326). -/
def writeSignal (s : State) (part : Nat) (va : Nat) (x : Word) : Signal :=
  let p := s.part part
  if draining p (va / 65536) then .waits s
  else match walk s part (va / 65536) with
    | .leaf e base =>
      let pa := base + va % 65536
      if !pteWritable e || (!isRawAlias pa && touchesDecoded s pa 8) then .failed
      else match (if writesLocal s e then pinnedElsewhere s none pa 8 else none) with
        | some k => .pinned k pa 8
        | none => storeSignal s part va pa e (elemBytes 8 x)
    | .pinned k a => .pinned k a 8
    | _ => .failed

/-- The signal's release at SYSTEM scope (R316): stores of the task's harts that the host's coherence has
not accepted. -/
def signalHeld (s : State) (t : Task) : Bool :=
  s.hostStores.any fun e => e.part == t.part && e.queue == t.queue && e.seq == t.seq

/-- The signal has met a pin that still stands: it ends before the store translates again (R328). -/
def signalPinned (s : State) (t : Task) : Option (Nat × Nat × Nat) :=
  match t.pinned with
  | none => none
  | some p => if stillPinned s p.1 p.2.1 p.2.2 then some p else none

/-- The signal of a task that retires or ends, when one is asked for (R401 step 2, R403 step 4, R404). -/
def signalTask (s : State) (t : Task) (x : Word) : Signal :=
  if recSigAddr t.record = 0 then .written s
  else if !t.sigOk then .failed
  else if signalHeld s t then .waits s
  else match signalPinned s t with
  | some (k, pa, n) => .pinned k pa n
  | none => writeSignal s t.part (recSigAddr t.record).toNat x

/-! ## The event record (R405, R406) -/

def eventRecord (t : Task) (sigFail : Bool) : EvRecord :=
  let c := t.cause.getD { code := 0 }
  { w0 := recTag t.record
    w1 := BitVec.ofNat 64 (t.seq % 2 ^ 32 + t.queue % 128 * 2 ^ 32 + (if sigFail then 2 ^ 39 else 0))
    w2 := (0#9 ++ c.hartid ++ c.gridIdx ++ c.tcode ++ c.code)
    w3 := c.eval }

/-- Appends a record to event queue `n`, or drops it when the queue is full (R405). -/
def appendEvent (s : State) (part n : Nat) (r : EvRecord) : State :=
  let q := (s.part part).events n
  if 256 ≤ q.records.length then
    s.modPart part fun p => p.setEvents n { q with drop := BitVec.ofNat 16 (satAdd 16 q.drop.toNat 1) }
  else
    let s := s.modPart part fun p => p.setEvents n { q with records := q.records ++ [r] }
    if q.ien then raiseInterrupt s part 0x83 else s

def postEvent (s : State) (t : Task) (sigFail : Bool) : State :=
  let n := recEvq t.record
  if n < 16 then appendEvent s t.part n (eventRecord t sigFail) else s

/-! ## TASK_RETIRE (R401, R24) -/

/-- Gangs of a task. -/
def gangsOf (s : State) (t : Task) : List Gang := s.gangs.filter fun g => g.part == t.part && g.queue == t.queue && g.seq == t.seq

/-- A task that no longer counts (R65, R66). -/
def TaskState.finished : TaskState → Bool
  | .retired => true
  | .ended => true
  | _ => false

/-- Tasks taken before a task from its queue, in record order. -/
def earlierTasks (s : State) (t : Task) : List Task :=
  (s.tasks.filter fun x => x.part == t.part && x.queue == t.queue).takeWhile fun x => x.seq != t.seq || x.state.finished

/-- Every gang of the tasks before this one has been dispatched (R65). -/
def dispatchTurn (s : State) (t : Task) : Bool :=
  (earlierTasks s t).all fun x => x.state.finished || x.state.isEnding || x.state == .retiring ||
    (x.blocks.isEmpty && x.state != .queued && !(recGrid x.record == 0 && x.state == .resident))

/-- A task of an empty grid whose turn to dispatch has come (R24, R77). -/
def emptyTurn (s : State) (t : Task) : Bool := recGrid t.record == 0 && t.state == .resident && dispatchTurn s t

/-- The task is at its retirement: its last hart has halted, or it is Dispatched with an empty grid (R24,
R77, R401). -/
def retires (t : Task) : Bool := t.state == .retiring || (recGrid t.record == 0 && t.state == .dispatched)

/-- Steps 3 and 4 of R401, with the state that a launcher sees. -/
def finishTask (s : State) (t : Task) (final : TaskState) (sigFail : Bool) (status : Word) : State :=
  let s := s.modTask t.part t.queue t.seq fun t => { t with state := final, children := [], blocks := [], sigFail := sigFail }
  reportChild (postEvent s t sigFail) t.part t.queue t.seq status

/-- The signal of a task waits out a pin, whose bound starts (R318, R319, R328). -/
def awaitPin (s : State) (t : Task) (k pa n : Nat) : State :=
  (noteRetry s k pa n).modTask t.part t.queue t.seq fun t => { t with pinned := some (k, pa, n) }

/-- The front end has power: not in Autumn or Winter, when the core dies have none (R59, R409; log entry 27). -/
def frontPowered (s : State) : Bool := decide (s.sconce.pwr.toNat ≤ 1)

/-- TASK_RETIRE (R401); a task of an empty grid becomes Dispatched first (R24). -/
def execTaskRetire (p queue seq : Nat) (s : State) : Host.Outcome State Fault Refusal :=
  match s.task? p queue seq with
  | none => .next s
  | some t =>
    if !frontPowered s then .next s
    else if emptyTurn s t then .next (s.modTask p queue seq fun t => { t with state := .dispatched })
    else if !retires t then .next s
    else
      let s := s.modTask p queue seq fun t => { t with state := .retiring }
      match signalTask s t (recSigVal t.record) with
      | .written s => .next (finishTask s t .retired false 0)
      | .failed => .next (finishTask s t .retired true 0)
      | .waits s => .next s
      | .pinned k pa n => .next (awaitPin s t k pa n)

/-! ## TASK_END (R403) -/

/-- A hart still holds pins, or its sibling's pins keep from VA stores that it made or read (R316, R317, R319,
R386). -/
def hartPinned (s : State) (slot : Nat) : Bool :=
  touchedUnderPin .both s slot || (s.pair (pairOf slot)).pins.any fun q => q.slot == slot

/-- A saved gang, and a parked one. -/
def Gang.isSaved (g : Gang) : Bool :=
  match g.state with
  | .saved _ => true
  | _ => false
def Gang.isParked (g : Gang) : Bool := g.state == .saved .parked

/-- An engine transfer or a reflected store of a gang is in flight (R306, R365). -/
def gangSends (s : State) (g : Gang) : Bool :=
  (s.transfers.any fun t => t.gang == g.id) ||
    (!g.isSaved && s.egress.any fun r => g.harts.any fun e => e.2 == r.slot)

/-- A hart stands in a WMAP or WUNMAP whose entry is replaced (R380), or its FENCEs still order later accesses
(R337), which its image could not tell. -/
def hartWaits (s : State) (slot : Nat) : Bool :=
  match s.hart? slot with
  | none => false
  | some h => !h.fenceS.over s slot [] || !h.fenceV.over s slot [] || match h.run with
    | .mapping _ _ => true
    | _ => false

/-- What a stopping gang or an ending task waits for: what its harts have in flight, and what pins hold
back (R386 step 2, R403 step 2). -/
def gangBusy (s : State) (g : Gang) : Bool :=
  gangSends s g || (!g.isSaved && g.harts.any fun e => hartPinned s e.2 || hartWaits s e.2)

/-- What is left of a gang of an ending task (R403 step 3). -/
def endGang (s : State) (g : Gang) : State :=
  let s := match g.state with
    | .saved _ => g.images.foldl (fun s n => invalidateImage s g.part n) s
    | _ => g.harts.foldl (fun s e => releaseSlot s e.2) s
  forgetGang s g

/-- TASK_END (R403): after its waits, those for pinned images among them, the slots, images and barriers are free, the signal is written
and the event record appended. -/
def execTaskEnd (p queue seq : Nat) (s : State) : Host.Outcome State Fault Refusal :=
  match s.task? p queue seq with
  | none => .next s
  | some t =>
    if !frontPowered s || !t.state.isEnding || (gangsOf s t).any (gangBusy s) then .next s
    else match ((gangsOf s t).filter Gang.isSaved).findSome? (imagePinned s) with
    | some (k, a) => .next (noteRetry s k a imageSize)
    | none =>
      let s := (gangsOf s t).foldl endGang s
      let code := (t.cause.getD { code := 0 }).code
      let status := BitVec.ofNat 64 (2 ^ 56 + code.toNat)
      match signalTask s t (0x8000000000000000#64 ||| code.setWidth 64) with
      | .written s => .next (finishTask s t .ended false status)
      | .failed => .next (finishTask s t .ended true status)
      | .waits s => .next s
      | .pinned k pa n => .next (awaitPin s t k pa n)

/-! ## HALT_SLOT_RELEASE (R214, R19) -/

/-- The Parked condition (R77): no undispatched gang, no gang with a hart slot, a parked gang. -/
def parkedCondition (s : State) (t : Task) : Bool :=
  t.blocks.isEmpty && (gangsOf s t).all Gang.isSaved && (gangsOf s t).any Gang.isParked

/-- A running task whose Parked condition has become true is Parked (R77). -/
def settleParked (s : State) (p q n : Nat) : State :=
  match s.task? p q n with
  | some t => if t.state = .running ∧ parkedCondition s t then s.modTask p q n fun t => { t with state := .parked } else s
  | none => s

/-- A gang whose last hart has halted is gone, and its task retires with its last gang (R214, R401). -/
def retireGang (s : State) (g : Gang) : State :=
  let s := (forgetGang s g).modTask g.part g.queue g.seq fun t =>
    let t := { t with live := t.live - 1 }
    if t.live = 0 ∧ t.blocks = [] ∧ t.state.canEnd then { t with state := .retiring } else t
  settleParked s g.part g.queue g.seq

/-- A halted hart leaves its gang; the gang retires with its last hart. -/
def leaveGang (s : State) (g : Gang) (slot : Nat) : State :=
  let l := g.harts.filter fun e => e.2 != slot
  let s := releaseSlot s slot
  if l.isEmpty then retireGang s g else s.modGang g.id fun g => { g with harts := l }

/-- HALT_SLOT_RELEASE (R214): the waits of a HALT are over and its hart gives up its slot. A runtime
that halts stops. -/
def execHaltSlotRelease (slot : Nat) (s : State) : Host.Outcome State Fault Refusal :=
  match s.hart? slot with
  | none => .next s
  | some h =>
    if h.run != .halting then .next s
    else if isLamp slot then .next (stopRuntime s slot h.ids.part)
    else match s.gang? h.ids.gang with
      | none => .next s
      | some g => if gangSends s g || hartPinned s slot then .next s else .next (leaveGang s g slot)

end Sys2Proof.Machine
end

