-- ==== Sys2Proof/Machine/FrontEnd.lean ====
section
/-! DEFINITION. The front end (R50, R61 to R69, R78 to R89): who may write a privileged window, the
doorbell, the taking of records, the residency walk, placement, and the dispatch round. -/

namespace Sys2Proof.Machine

/-! ## Who writes (R50, R54) -/

def masterCode : Master → Nat
  | .management => 0
  | .host0 => 1
  | .host1 => 2

/-- The master is the owner (R51): OWNER while STATE is Owned or Handover. -/
def isOwner (s : State) (m : Master) : Bool :=
  (s.mailbox.state == 2 || s.mailbox.state == 3) && s.mailbox.owner.toNat == masterCode m

/-- A write without effect counts in NOWNWR, saturating (R50). -/
def countDiscarded (s : State) : State :=
  { s with mailbox := { s.mailbox with nownwr := BitVec.ofNat 32 (satAdd 32 s.mailbox.nownwr.toNat 1) } }

/-- A master reaches BAR0 (R44, R47): a host over its trained link, the management link always. -/
def reaches (s : State) (m : Master) : Bool :=
  match m with
  | .management => true
  | .host0 => linkTrained s false
  | .host1 => s.twoLinks && linkTrained s true

/-- A write of a master that reaches BAR0. -/
def byMaster (s : State) (m : Master) (f : State → State) : State := if reaches s m then f s else s

/-- A write that only the owner may make. -/
def byOwner (s : State) (m : Master) (f : State → State) : State :=
  byMaster s m fun s => if isOwner s m then f s else countDiscarded s

/-- Some agent of a partition runs in the privileged view (R54). -/
def hasPrivileged (s : State) (p : Nat) : Bool := s.harts.any fun e => e.2.ids.part == p && privileged e.1 e.2

/-- A write to the privileged window of a partition (R50, R54). -/
def byWriter (s : State) (w : Writer) (p : Nat) (f : State → State) : State :=
  match w with
  | .master m => byOwner s m f
  | .runtime => if hasPrivileged s p then f s else s

/-- A runtime of the partition runs on its front end's Lamplighter (R56). -/
def hasRuntime (s : State) (p : Nat) : Bool := s.harts.any fun e => e.2.ids.part == p && isLamp e.1

/-- A write of a doorbell: only by the owner and by the partition's front end (R53). -/
def byRinger (s : State) (w : Writer) (p : Nat) (f : State → State) : State :=
  match w with
  | .master m => byOwner s m f
  | .runtime => if hasRuntime s p then f s else s

/-! ## Queues (R61 to R64) -/

/-- A queue enters QSTATE 2; no record from a count on is taken (R63, R64), the first such count where
several errors meet. -/
def Queue.fail (q : Queue) (err : BitVec 4) (from_ : BitVec 32) : Queue :=
  { q with qstate := 2, qerr := err, upTo := some (q.upTo.getD from_) }

/-- A doorbell (R63, R64): TAIL of a queue that producers fill. The two bounds alone decide whether it is
accepted, in QSTATE 2 as well. -/
def ringDoorbell (q : Queue) (tail : BitVec 32) : Queue :=
  if !q.en then { q with tail := tail }
  else if (tail - q.head).toNat ≤ q.size ∧ (tail - q.tail).toNat ≤ q.size then { q with tail := tail } else q.fail 1 q.tail

/-- EN is set (R64): the stored TAIL is checked once. -/
def enableQueue (q : Queue) : Queue :=
  if q.en then q
  else
    let q := { q with en := true, qstate := 1, qerr := 0, upTo := none }
    if q.size < q.backlog then q.fail 1 q.head else q

/-- EN is cleared (R64). QERR stays until EN is set again (DESIGN CHOICE, log entry 41: R64 does not
say). -/
def disableQueue (q : Queue) : Queue := if q.en then { q with en := false, qstate := 0, upTo := none } else q

def modQueue (s : State) (p n : Nat) (f : Queue → Queue) : State := s.modPart p fun x => x.setQueue n (f (x.queue n))

/-- DOORBELL (R53, R62, R63): TLAUNCH alone fills queues 64 to 79. -/
def execDoorbell (w : Writer) (p n : Nat) (tail : BitVec 32) (s : State) : Host.Outcome State Fault Refusal :=
  if n < 64 then .next (byRinger s w p fun s => modQueue s p n fun q => ringDoorbell q tail)
  else match w with
    | .master m => .next (byMaster s m countDiscarded)
    | .runtime => .next s

/-- QUEUE_ENABLE (R64). It is taken while the partition is not enabled or its disable is in progress too: EN and
QSTATE become 1, and no record is taken (DESIGN CHOICE, log entry 60: R60 and R64 do not say). -/
def execQueueEnable (w : Writer) (p n : Nat) (s : State) : Host.Outcome State Fault Refusal :=
  .next (if n < 80 then byWriter s w p fun s => modQueue s p n enableQueue else s)

/-- QUEUE_DISABLE (R64). -/
def execQueueDisable (w : Writer) (p n : Nat) (s : State) : Host.Outcome State Fault Refusal :=
  .next (if n < 80 then byWriter s w p fun s => modQueue s p n disableQueue else s)

/-! ## Validation of a record (R41, R21) -/

/-- The gang of a record fits a core die (R21). -/
def gangFits (r : List Byte) : Bool :=
  decide (recGang r ≤ 40) || (decide (recGang r ≤ 80) && decide (2 * recZtiles r ≤ 32) && decide (2 * recSways r ≤ 15))

/-- A lease entry below LCOUNT is well formed (R39, R41). -/
def leaseOk (e : Word) : Bool :=
  !e.getLsbD 63 && decide (rangeFirst e + rangePages e ≤ 2 ^ 39) && (!e.getLsbD 61 || rangeFirst e % 2 ^ 13 == 0)

/-- Reserved fields of a record are zero (R36, R37). -/
def reservedOk (r : List Byte) : Bool :=
  bits (recCtl r) 27 5 == 0 && bits (recCtl r) 36 28 == 0 && recNat r 0x16 2 == 0 && recNat r 0x48 56 == 0

/-- A record passes validation (R41). -/
def recordOk (p : Partition) (queue : Nat) (r : List Byte) : Bool :=
  recVer r == 1 && reservedOk r && decide (recLcount r ≤ 16) && decide (recSways r ≤ 15) && decide (recZtiles r ≤ 32) &&
  decide (1 ≤ recGang r) && decide (recGang r ≤ 80) && gangFits r &&
  (decide (recEvq r < 16) || recEvq r == 255) &&
  bits (recEntry r) 55 9 == 0 && bits (recEntry r) 0 2 == 0 &&
  (leasesOf r).all leaseOk &&
  ((List.range 16).all fun i => decide (i < (diesOf p).length) || recPvec r i == 0) &&
  (recSigAddr r == 0 || signalValid p r) &&
  (recNest r == 0 || decide (64 ≤ queue))

/-! ## TAKE_RECORD (R65, R38) -/

/-- Tasks taken and neither Retired nor Ended. -/
def liveTasks (s : State) (p : Nat) : List Task := s.tasks.filter fun t => t.part == p && !t.state.finished

/-- The front end may take a record of a queue now (R65): after an error, of those before it (R63). Core
dies held in reset take none (R394), nor does a front end without power (R409). -/
def mayTake (s : State) (p n : Nat) : Bool :=
  let x := s.part p
  let q := x.queue n
  x.en && !x.disabling && s.sconce.fw == 1 && frontPowered s && decide (n < 80) && q.en && q.upTo != some q.head && decide (0 < q.backlog) &&
    decide (((liveTasks s p).filter fun t => t.queue == n).length < 16) && decide ((liveTasks s p).length < 512)

/-- A read of a record from host memory fails for some of its lines, each a read of its own: they are recorded one by
one (R97). -/
def ringErrors (s : State) (p pa : Nat) : State :=
  (linePieces pa 256).foldl (fun s l => if hostReadFails s (pa + l.1) l.2 then hostLinkError s p (pa + l.1) else s) s

/-- How a read of a ring slot goes (R63, R97, R318). -/
inductive RingRead where
  | got (bytes : List Byte)
  | failed (s : State)
  | waits (s : State)

def readRing (s : State) (p n : Nat) : RingRead :=
  let q := (s.part p).queue n
  match ringSlot s q q.head.toNat with
  | none => .failed s
  | some pa =>
    if hostReadFails s pa 256 then .failed (ringErrors s p pa)
    else match pinnedElsewhere s none pa 256 with
      | some k => .waits (noteRetry s k pa 256)
      | none => if (firstPoison s pa 256).isSome then .failed s else .got (physReadBytes s pa 256)

/-- The tasks above a record that TLAUNCH copied (R66). -/
def launchOf (p : Partition) (n seq : Nat) : List (Nat × Nat) :=
  match p.launched.find? fun l => l.queue == n && l.seq == seq with
  | some l => l.ancestors
  | none => []

/-- TAKE_RECORD (R65, R38, R41). -/
def execTakeRecord (p n : Nat) (s : State) : Host.Outcome State Fault Refusal :=
  if !mayTake s p n then .next s
  else match readRing s p n with
    | .waits s => .next s
    | .failed s => .next (modQueue s p n fun q => q.fail 2 q.head)
    | .got r =>
      let seq := ((s.part p).queue n).head.toNat
      let t : Task := { part := p, queue := n, seq := seq, record := r, ancestors := launchOf (s.part p) n seq
                        sigOk := recSigAddr r == 0 || signalValid (s.part p) r }
      let s := modQueue { s with tasks := s.tasks ++ [t] } p n fun q => { q with head := q.head + 1 }
      let s := s.modPart p fun x => { x with launched := x.launched.filter fun l => !(l.queue == n && l.seq == seq) }
      .next (if recordOk (s.part p) n r then s else beginEnd s p n seq (EndCause.plain causeBadrec))

/-! ## RESIDENCY_WALK (R66, R86, R87, R78) -/

/-- The oldest task of a queue that is Queued. -/
def oldestQueued (s : State) (p n : Nat) : Option Task :=
  s.tasks.find? fun t => t.part == p && t.queue == n && t.state == .queued

/-- B is satisfied (R66). -/
def barrierSatisfied (s : State) (t : Task) : Bool :=
  !recB t.record || (earlierTasks s t).all fun x => x.state.finished || t.ancestors.contains (x.queue, x.seq)

/-- Where a residency walk stops: at a failing page with its cause (R87, R88), or at an entry of a page table
whose line is pinned (R318, R326). -/
inductive WalkStop where
  | fails (cause : Nat)
  | pinned (pair pa : Nat)
  deriving DecidableEq, Repr

/-- Whether a walk of the front end stops. -/
def walkStop (w : Walk) (write : Bool) : Option WalkStop :=
  match w with
  | .pinned k pa => some (.pinned k pa)
  | w => (walkFailure w write).map .fails

/-- Pages of a lease entry from page number `k` on, `n` of them: the first at which the walk stops (R86). -/
def walkPages (s : State) (p : Nat) (e : Word) : Nat → Nat → Option (Nat × WalkStop)
  | 0, _ => none
  | n + 1, k =>
    match walkStop (walk s p (rangeFirst e + k)) (rangeWritable e) with
    | some c => some (k, c)
    | none => walkPages s p e n (k + 1)

/-- The lease entries from number `i` on, the first from page `k`: the entry, page number and page at which
the walk stops. -/
def walkLeases (s : State) (p : Nat) : List Word → Nat → Nat → Option (Nat × Nat × Nat × WalkStop)
  | [], _, _ => none
  | e :: r, i, k =>
    match walkPages s p e (rangePages e - k) k with
    | some (j, c) => some (i, j, rangeFirst e + j, c)
    | none => walkLeases s p r (i + 1) 0

/-- The front end holds the translations of the pages it has walked (R86, R99). -/
def rememberLeases (s : State) (p : Nat) (l : List Word) : State :=
  l.foldl (fun s e => (List.range (rangePages e)).foldl (fun s k =>
    match walk s p (rangeFirst e + k) with
    | .leaf pte pa => remember s { pair := frontPair, part := p, page := rangeFirst e + k, pte := pte, pa := pa }
    | _ => s) s) s

/-- A two-phase invalidation holds a range of the task back (R102, R104). -/
def drainHolds (p : Partition) (r : List Byte) : Bool :=
  let i := p.regs.inv
  (i.op == some .drain || i.op == some .shootDrain || i.op == some .confirm || i.status == 3) && i.status != 0 &&
    (leasesOf r).any fun e => i.range.getLsbD 63 || rangesMeet i.range e

/-- The blocks of a grid over the dies of a partition (R78). -/
def splitGrid (p : Partition) (r : List Byte) : List GangRun :=
  let d := (diesOf p).length
  let ws := (List.range d).map (recPvec r)
  let w := ws.foldl (fun a b => a + b) 0
  let ws := if w = 0 then ws.map fun _ => 1 else ws
  let total := if w = 0 then d else w
  let sum := fun i => (ws.take i).foldl (fun a b => a + b) 0
  ((List.range d).map fun i => { rank := i, first := recGrid r * sum i / total, stop := recGrid r * sum (i + 1) / total : GangRun }).filter
    fun g => g.first < g.stop

/-- LFSTAT holds a failure of this task's walk, so that the walk does not go on (R87). -/
def walkHeld (p : Partition) (t : Task) : Bool :=
  let r := p.regs.lfstat
  r.getLsbD 0 && !r.getLsbD 3 && bits r 4 7 == t.queue && bits r 32 32 == t.seq

/-- RESIDENCY_WALK (R86, R87): the oldest Queued task of a queue becomes Resident, or its first failing
page is recorded; a pinned entry is waited out. -/
def execResidencyWalk (p n : Nat) (s : State) : Host.Outcome State Fault Refusal :=
  match oldestQueued s p n with
  | none => .next s
  | some t =>
    let x := s.part p
    if !frontPowered s || !barrierSatisfied s t || drainHolds x t.record || walkHeld x t then .next s
    else match walkLeases s p ((leasesOf t.record).drop t.walk.1) t.walk.1 t.walk.2 with
      | none => .next ((rememberLeases s p (leasesOf t.record)).modTask p n t.seq fun t =>
          { t with state := .resident, blocks := splitGrid x t.record })
      | some (i, k, page, c) =>
        let s := s.modTask p n t.seq fun t => { t with walk := (i, k) }
        match c with
        | .fails c => .next (recordLeaseFault s p false n t.seq page c)
        | .pinned j pa => .next (noteRetry s j pa 8)

/-- A write of LFSTAT (R88): VALID written 0 clears it. -/
def writeLfstat (x : Word) (r : WindowRegs) : WindowRegs :=
  if r.lfstat.getLsbD 0 && !x.getLsbD 0 then { r with lfstat := withBits r.lfstat 0 1 0 } else r

def State.modRegs (s : State) (p : Nat) (f : WindowRegs → WindowRegs) : State := s.modPart p fun x => { x with regs := f x.regs }

/-- LFSTAT (R88). -/
def execLfstat (w : Writer) (p : Nat) (value : Word) (s : State) : Host.Outcome State Fault Refusal :=
  .next (byWriter s w p fun s => s.modRegs p (writeLfstat value))

/-! ## Placement (R81 to R83) -/

/-- What a hart asks of its slot: its tiles and its scratch ways. -/
structure Need where
  tiles : Nat
  ways : Nat
  deriving DecidableEq, Repr

/-- What the slots of a die hold, with the harts chosen earlier in the same step. -/
abbrev Chosen := List (Nat × Need)

/-- The tiles and ways that a slot holds; none where it is free. -/
def holder (s : State) (c : Chosen) (slot : Nat) : Option Need :=
  match c.find? fun e => e.1 == slot with
  | some e => some e.2
  | none => (s.hart? slot).map fun h => { tiles := h.ids.zshare, ways := h.ids.ways }

/-- FITS of a slot for a need (R81). -/
def fits (s : State) (c : Chosen) (n : Need) (slot : Nat) : Bool :=
  let o := (holder s c (siblingOf slot)).getD { tiles := 0, ways := 0 }
  decide (n.tiles + o.tiles ≤ 32) && decide (n.ways + o.ways ≤ 15)

/-- Slots of a die, pairs ascending, side 0 before side 1. -/
def slotsOfDie (die : Nat) : List Nat := (List.range 80).map fun k => die * 80 + k

/-- Pairs of a die with both slots free, ascending. -/
def freePairs (s : State) (c : Chosen) (die : Nat) : List Nat :=
  ((List.range 40).map fun k => die * 40 + k).filter fun p => (holder s c (2 * p)).isNone && (holder s c (2 * p + 1)).isNone

/-- The harts in order take the free slots in order, each where it fits (R81): one pass over the slots. -/
def takeSlots (s : State) : List Nat → List (Nat × Need) → Chosen → List (Nat × Nat) → Option (Chosen × List (Nat × Nat))
  | _, [], c, got => some (c, got)
  | [], _ :: _, _, _ => none
  | slot :: r, (h, n) :: hs, c, got =>
    if (holder s c slot).isNone && fits s c n slot then takeSlots s r hs (c ++ [(slot, n)]) (got ++ [(h, slot)])
    else takeSlots s r ((h, n) :: hs) c got

/-- Placement of a new gang of `n` harts (R81): (HARTID, slot) in order. -/
def placeGang (s : State) (die n : Nat) (need : Need) : Option (List (Nat × Nat)) :=
  let p1 := freePairs s [] die
  if n ≤ 40 ∧ n ≤ p1.length then some ((List.range n).map fun h => (h, 2 * listGetD p1 h 0))
  else (takeSlots s (slotsOfDie die) ((List.range n).map fun h => (h, need)) [] []).map fun r => r.2

/-- The slice table as a hart takes the slot of a side (R141). -/
def freshSlices (l : List SliceEntry) (side : Nat) : List SliceEntry := l.filter fun e => e.side != side

/-- A hart takes a slot (R82): ZSPLIT and the ways of its side. One that takes side 1 beside a hart on side 0 changes
ZSPLIT as R82 says, although R290 says that it cannot change while a hart of the pair is live (DESIGN CHOICE, log
entry 71). -/
def takeSlot (s : State) (slot : Nat) (h : Hart) : State :=
  let k := pairOf slot
  let p := s.pair k
  let sibling := (s.hart? (siblingOf slot)).isSome
  let z := if sideOf slot = 1 then BitVec.ofNat 6 (32 - h.ids.zshare)
    else if sibling then p.zsplit else BitVec.ofNat 6 h.ids.zshare
  (s.setPair k ({ p with zsplit := z, slices := freshSlices p.slices (sideOf slot) }.setWays (sideOf slot) h.ids.ways)).setHart slot h

/-! ## DISPATCH_ROUND (R67, R79) -/

/-- The Lantern's copy at a fork: v0 to v63 are poison (R140), and its stream registers hold the translations
that the hart's do (R99). -/
def forkCopy (r : Regs) (pages : List StreamPage) : LanternCopy :=
  { regs := r, poison := (List.range 64).map fun i => (.v (BitVec.ofNat 6 i), 0), pages := pages }

/-- A hart before its first instruction (R17). -/
def newHart (p : Partition) (g : Gang) (r : List Byte) (h : Nat) : Hart :=
  let regs := ({ Regs.initial with pc := recEntry r }).setS 1 (recArgs r)
  { Hart.initial with
    ids := { part := g.part, gang := g.id, hartid := h, gridIdx := g.gridIdx, gsize := g.size, zshare := recZtiles r, ways := recSways r }
    regs := regs
    trap := { tvec := p.regs.tvecdef }
    lantern := { copy := some (forkCopy regs []) } }

/-- Free images, in ascending order (R69). -/
def freeImageNumbers (p : Partition) : List Nat := (List.range p.ctxn.toNat).filter fun i => (tblGet p.images i).isNone

/-- The image reserve (R69). -/
def imagesAllow (p : Partition) (r : List Byte) : Bool :=
  decide (recGang r + 80 * (8 - recNest r) + p.images.length ≤ p.ctxn.toNat)

/-- The oldest task of a queue with undispatched gangs, where the queue may be eligible (R67). -/
def dispatchable (s : State) (p n : Nat) : Option Task :=
  match s.tasks.find? fun t => t.part == p && t.queue == n && ((!t.blocks.isEmpty && t.state.canEnd) || t.state == .queued) with
  | some t => if (t.state == .resident && dispatchTurn s t) || t.state == .dispatched || t.state == .running then some t else none
  | none => none

/-- The ranks whose die holds an undispatched gang of the task and can place it now (R79, R81). -/
def placeableRanks (s : State) (p : Nat) (t : Task) : List Nat :=
  let x := s.part p
  let r := t.record
  if !imagesAllow x r then []
  else ((List.range (diesOf x).length).filter fun k => t.blocks.any fun g => g.rank == k).filter fun k =>
    (placeGang s (listGetD (diesOf x) k 0) (recGang r) { tiles := recZtiles r, ways := recSways r }).isSome

/-- A parked gang waits on the task (R67). -/
def awaited (s : State) (t : Task) : Bool :=
  s.gangs.any fun g => g.part == t.part && g.isParked &&
    match g.await with
    | some x => bits x 32 7 == t.queue && bits x 0 32 == t.seq
    | none => false

/-- LEVEL + 1 of a queue's task (R67). -/
def levelOf (s : State) (p n : Nat) (t : Task) : Nat :=
  let x := s.part p
  let age := bits x.regs.fectl 0 8
  if awaited s t then 0
  else (if age = 0 then recPrio t.record else recPrio t.record - tblGetD x.pass n 0 / age) + 1

/-- The queues that are eligible, with their levels + 1 (R67). -/
def eligible (s : State) (p : Nat) : List (Nat × Nat) :=
  (List.range 80).filterMap fun n => match dispatchable s p n with
    | some t => if (placeableRanks s p t).isEmpty then none else some (n, levelOf s p n t)
    | none => none

/-- The queue of a round, with its level + 1 (R67). -/
def chooseQueue (s : State) (p : Nat) : Option (Nat × Nat) :=
  let l := eligible s p
  match l.foldl (fun m e => match m with | none => some e.2 | some k => some (min k e.2)) (none : Option Nat) with
  | none => none
  | some lv =>
    let from_ := (tblGetD (s.part p).last lv 79 + 1) % 80
    (((List.range 80).map fun k => (from_ + k) % 80).find? fun n => l.contains (n, lv)).map fun n => (n, lv)

/-- The `k`-th undispatched gang of a rank, and what is left. -/
def pickGang (rank : Nat) : Nat → List GangRun → Option (Nat × List GangRun)
  | _, [] => none
  | k, g :: r =>
    if g.rank ≠ rank then (pickGang rank k r).map fun x => (x.1, g :: x.2)
    else if k < g.stop - g.first then
      some (g.first + k, ([{ g with stop := g.first + k }, { g with first := g.first + k + 1 }].filter fun x => x.first < x.stop) ++ r)
    else (pickGang rank (k - (g.stop - g.first)) r).map fun x => (x.1, g :: x.2)

/-- One gang of a task is dispatched to the die of a rank (R17, R19, R67, R69, R81, R82). -/
def dispatchGang (s : State) (p : Nat) (t : Task) (rank index : Nat) (left : List GangRun) : State :=
  let x := s.part p
  let r := t.record
  let die := listGetD (diesOf x) rank 0
  match placeGang s die (recGang r) { tiles := recZtiles r, ways := recSways r } with
  | none => s
  | some slots =>
    let images := (freeImageNumbers x).take (recGang r)
    let g : Gang := { id := s.nextGang, part := p, queue := t.queue, seq := t.seq, gridIdx := index, die := die, size := recGang r, harts := slots, images := images }
    let s := { s with nextGang := s.nextGang + 1, gangs := s.gangs ++ [g] }
    let s := s.modPart p fun x => { x with images := images.foldl (fun l i => tblSet l i g.id) x.images }
    let s := slots.foldl (fun s e => takeSlot s e.2 (newHart x g r e.1)) s
    s.modTask p t.queue t.seq fun t => { t with
      blocks := left, live := t.live + 1, state := if t.state = .resident then .dispatched else t.state }

/-- LAST and PASS after a round (R67). -/
def countRound (s : State) (p n lv : Nat) (others : List Nat) : State :=
  s.modPart p fun x => { x with
    last := tblPut x.last lv n 79
    pass := (others.filter fun k => k != n).foldl (fun t k => tblPut t k (min (tblGetD t k 0 + 1) 65535) 0) (tblPut x.pass n 0 0) }

end Sys2Proof.Machine
end

