-- ==== Sys2Proof/Machine/Predicates.lean ====
section
/-! DEFINITION. Predicates and masks, OP 0x50 to 0x53 (R202 to R204). -/

namespace Sys2Proof.Machine

/-- An integer condition by TYPE's signedness (R202); un occurs with floating types only. -/
def intCond (c : Cond) (t : Ty) (a b : Word) : Bool :=
  match c with
  | .eq => t.int a == t.int b
  | .ne => t.int a != t.int b
  | .lt => decide (t.int a < t.int b)
  | .ge => decide (t.int b ≤ t.int a)
  | .un => false

/-- A condition and the flags it raises, of two w-bit values (R202, R254). -/
def condOf (c : Cond) (t : Ty) (fl : Flush) (a b : Word) : Bool × FFlags :=
  if t.isFloat then FVal.compare c (t.fmt.read fl (low t.width a)) (t.fmt.read fl (low t.width b))
  else (intCond c t a b, 0)

/-- PCMP (R202). -/
def execPcmp (c : Ctl) (o : PcmpForm) (s : State) : Host.Outcome State Fault Refusal :=
  issue 0x50 c s fun s slot h =>
    let r := condOf o.cond o.ty Flush.off (h.getS o.a) (h.ssrc o.ty o.b)
    unpoisoned s h (.s o.a :: ssrcReads o.b) (doneWith s slot ((h.setP o.d r.1).raise r.2))

/-- The mould of predicate logic (R203). -/
def predLogic (c : Ctl) (d a b : PIdx) (s : State) (f : Bool → Bool → Bool) : Host.Outcome State Fault Refusal :=
  issue 0x51 c s fun s slot h => doneWith s slot (h.setP d (f (h.getP a) (h.getP b)))

def execPand (c : Ctl) (o : PredBin) (s : State) : Host.Outcome State Fault Refusal :=
  predLogic c o.d o.a o.b s fun a b => a && b

def execPor (c : Ctl) (o : PredBin) (s : State) : Host.Outcome State Fault Refusal :=
  predLogic c o.d o.a o.b s fun a b => a || b

def execPxor (c : Ctl) (o : PredBin) (s : State) : Host.Outcome State Fault Refusal :=
  predLogic c o.d o.a o.b s fun a b => a != b

def execPandn (c : Ctl) (o : PredBin) (s : State) : Host.Outcome State Fault Refusal :=
  predLogic c o.d o.a o.b s fun a b => a && !b

def execPnot (c : Ctl) (o : PredUn) (s : State) : Host.Outcome State Fault Refusal :=
  predLogic c o.d o.a o.a s fun a _ => !a

def execPmov (c : Ctl) (o : PredUn) (s : State) : Host.Outcome State Fault Refusal :=
  predLogic c o.d o.a o.a s fun a _ => a

/-- The mould of mask logic, on all 1024 bits (R203). -/
def maskLogic (c : Ctl) (d a b : MIdx) (s : State) (f : MReg → MReg → MReg) : Host.Outcome State Fault Refusal :=
  issue 0x52 c s fun s slot h =>
    unpoisoned s h [.m a, .m b] (doneWith s slot (h.setM d (f (h.getM a) (h.getM b))))

def execMand (c : Ctl) (o : MaskBin) (s : State) : Host.Outcome State Fault Refusal :=
  maskLogic c o.d o.a o.b s fun a b => a &&& b

def execMor (c : Ctl) (o : MaskBin) (s : State) : Host.Outcome State Fault Refusal :=
  maskLogic c o.d o.a o.b s fun a b => a ||| b

def execMxor (c : Ctl) (o : MaskBin) (s : State) : Host.Outcome State Fault Refusal :=
  maskLogic c o.d o.a o.b s fun a b => a ^^^ b

def execMandn (c : Ctl) (o : MaskBin) (s : State) : Host.Outcome State Fault Refusal :=
  maskLogic c o.d o.a o.b s fun a b => a &&& ~~~b

def execMnot (c : Ctl) (o : MaskUn) (s : State) : Host.Outcome State Fault Refusal :=
  maskLogic c o.d o.a o.a s fun a _ => ~~~a

def execMmov (c : Ctl) (o : MaskUn) (s : State) : Host.Outcome State Fault Refusal :=
  maskLogic c o.d o.a o.a s fun a _ => a

/-- MPOPC (R204). -/
def execMpopc (c : Ctl) (o : MaskRead) (s : State) : Host.Outcome State Fault Refusal :=
  issue 0x53 c s fun s slot h =>
    unpoisoned s h [.bits o.a 0 h.vl] (doneWith s slot (h.setS o.d (BitVec.ofNat 64 (maskCount h.vl (h.getM o.a)))))

/-- MFIRST (R204): all ones when no bit below VL is set. -/
def execMfirst (c : Ctl) (o : MaskRead) (s : State) : Host.Outcome State Fault Refusal :=
  issue 0x53 c s fun s slot h =>
    let r := match maskFirst h.vl 0 (h.getM o.a) with
      | some i => BitVec.ofNat 64 i
      | none => BitVec.allOnes 64
    unpoisoned s h [.bits o.a 0 h.vl] (doneWith s slot (h.setS o.d r))

end Sys2Proof.Machine
end

