-- ==== Sys2Proof/Machine/ScalarInt.lean ====
section
/-! DEFINITION. Scalar integer instructions, OP 0x01 to 0x05 (R189 to R195). -/

namespace Sys2Proof.Machine

/-- The mould of R192: both operands at the width of TYPE, the result extended by R190. -/
def scalarBin (op : Nat) (c : Ctl) (o : ScalarBin) (s : State) (f : Ty → Word → Word → Word) : Host.Outcome State Fault Refusal :=
  issue op c s fun s slot h =>
    unpoisoned s h (.s o.a :: ssrcReads o.b)
      (doneWith s slot (h.setS o.d (o.ty.place (f o.ty (low o.ty.width (h.getS o.a)) (low o.ty.width (h.ssrc o.ty o.b))))))

/-- An exact integer operation, saturated or wrapped (R192). -/
def exactOp (sat : Bool) (f : Int → Int → Int) (t : Ty) (a b : Word) : Word := t.narrow sat (f (t.int a) (t.int b))

/-- The mould of MOV and of the bit-field group (R192, R193). -/
def scalarUn (op : Nat) (c : Ctl) (o : ScalarUn) (s : State) (f : Ty → Word → Word) : Host.Outcome State Fault Refusal :=
  issue op c s fun s slot h =>
    unpoisoned s h [.s o.a] (doneWith s slot (h.setS o.d (o.ty.place (f o.ty (low o.ty.width (h.getS o.a))))))

def execAdd (c : Ctl) (o : ScalarBin) (s : State) : Host.Outcome State Fault Refusal :=
  scalarBin 0x01 c o s (exactOp o.sat fun a b => a + b)

def execSub (c : Ctl) (o : ScalarBin) (s : State) : Host.Outcome State Fault Refusal :=
  scalarBin 0x01 c o s (exactOp o.sat fun a b => a - b)

def execAnd (c : Ctl) (o : ScalarBin) (s : State) : Host.Outcome State Fault Refusal :=
  scalarBin 0x01 c o s fun _ a b => a &&& b

def execOr (c : Ctl) (o : ScalarBin) (s : State) : Host.Outcome State Fault Refusal :=
  scalarBin 0x01 c o s fun _ a b => a ||| b

def execXor (c : Ctl) (o : ScalarBin) (s : State) : Host.Outcome State Fault Refusal :=
  scalarBin 0x01 c o s fun _ a b => a ^^^ b

def execAndn (c : Ctl) (o : ScalarBin) (s : State) : Host.Outcome State Fault Refusal :=
  scalarBin 0x01 c o s fun _ a b => a &&& ~~~b

def execSll (c : Ctl) (o : ScalarBin) (s : State) : Host.Outcome State Fault Refusal :=
  scalarBin 0x01 c o s Ty.shiftLeft

def execSrl (c : Ctl) (o : ScalarBin) (s : State) : Host.Outcome State Fault Refusal :=
  scalarBin 0x01 c o s Ty.shiftRight

def execSra (c : Ctl) (o : ScalarBin) (s : State) : Host.Outcome State Fault Refusal :=
  scalarBin 0x01 c o s Ty.shiftRightA

def execMin (c : Ctl) (o : ScalarBin) (s : State) : Host.Outcome State Fault Refusal :=
  scalarBin 0x01 c o s Ty.lesser

def execMax (c : Ctl) (o : ScalarBin) (s : State) : Host.Outcome State Fault Refusal :=
  scalarBin 0x01 c o s Ty.greater

/-- SLT (R192): 1 if a < b by TYPE's signedness, otherwise 0. -/
def execSlt (c : Ctl) (o : ScalarBin) (s : State) : Host.Outcome State Fault Refusal :=
  scalarBin 0x01 c o s fun t a b => if t.int a < t.int b then 1 else 0

def execMov (c : Ctl) (o : ScalarUn) (s : State) : Host.Outcome State Fault Refusal :=
  scalarUn 0x01 c o s fun _ a => a

def execMul (c : Ctl) (o : ScalarBin) (s : State) : Host.Outcome State Fault Refusal :=
  scalarBin 0x02 c o s (exactOp o.sat fun a b => a * b)

def execMulh (c : Ctl) (o : ScalarBin) (s : State) : Host.Outcome State Fault Refusal :=
  scalarBin 0x02 c o s Ty.mulHigh

/-- DIV (R192, R160). -/
def execDiv (c : Ctl) (o : ScalarBin) (s : State) : Host.Outcome State Fault Refusal :=
  scalarBin 0x02 c o s Ty.quot

/-- REM (R192, R160). -/
def execRem (c : Ctl) (o : ScalarBin) (s : State) : Host.Outcome State Fault Refusal :=
  scalarBin 0x02 c o s Ty.rest

def execClz (c : Ctl) (o : ScalarUn) (s : State) : Host.Outcome State Fault Refusal :=
  scalarUn 0x03 c o s fun t a => BitVec.ofNat 64 (leadingZeros t.width a)

def execCtz (c : Ctl) (o : ScalarUn) (s : State) : Host.Outcome State Fault Refusal :=
  scalarUn 0x03 c o s fun t a => BitVec.ofNat 64 (trailingZeros t.width 0 a)

def execPopc (c : Ctl) (o : ScalarUn) (s : State) : Host.Outcome State Fault Refusal :=
  scalarUn 0x03 c o s fun t a => BitVec.ofNat 64 (popCount t.width a)

def execBrev (c : Ctl) (o : ScalarUn) (s : State) : Host.Outcome State Fault Refusal :=
  scalarUn 0x03 c o s fun t a => bitReverse t.width t.width a

def execBswap (c : Ctl) (o : ScalarUn) (s : State) : Host.Outcome State Fault Refusal :=
  scalarUn 0x03 c o s fun t a => byteSwap (t.width / 8) a

/-- EXT (R193): LEN bits of a from LO, sign-extended for i64 and zero-extended for n64. -/
def extField (signed : Bool) (lo len : Nat) (a : Word) : Word :=
  let f := a.extractLsb' lo len
  if signed then f.signExtend 64 else f.setWidth 64

def execExt (c : Ctl) (o : ExtForm) (s : State) : Host.Outcome State Fault Refusal :=
  issue 0x03 c s fun s slot h =>
    unpoisoned s h [.s o.a] (doneWith s slot (h.setS o.d (extField o.ty.isSigned o.lo.toNat (o.len1.toNat + 1) (h.getS o.a))))

/-- MOVI (R194). -/
def execMovi (c : Ctl) (o : MoviForm) (s : State) : Host.Outcome State Fault Refusal :=
  issue 0x04 c s fun s slot h =>
    doneWith s slot (h.setS o.d (if o.ty.isSigned then sext32 o.imm else o.imm.setWidth 64))

/-- MOVHI (R194): IMM above the low half of the source. -/
def execMovhi (c : Ctl) (o : MovhiForm) (s : State) : Host.Outcome State Fault Refusal :=
  issue 0x04 c s fun s slot h =>
    unpoisoned s h [.s o.a] (doneWith s slot (h.setS o.d (o.imm ++ (h.getS o.a).setWidth 32 : BitVec (32 + 32))))

/-- ADDPC (R195). -/
def execAddpc (c : Ctl) (o : AddpcForm) (s : State) : Host.Outcome State Fault Refusal :=
  issue 0x05 c s fun s slot h => doneWith s slot (h.setS o.d (h.pc + sext32 o.imm))

end Sys2Proof.Machine
end

