-- ==== Sys2Proof/WellFormed.lean ====
section
/-! DEFINITION. Well-formedness of an instruction (R118). An event carries no word and is always
well formed. -/

namespace Sys2Proof

/-- The conditions of R118 that the shapes of Syntax.lean leave to be checked. -/
def Instr.wf (i : Instr) : Bool :=
  match i with
  | .add c o => c.ok && o.ok true
  | .sub c o => c.ok && o.ok true
  | .and_ c o => c.ok && o.ok false
  | .or_ c o => c.ok && o.ok false
  | .xor_ c o => c.ok && o.ok false
  | .andn c o => c.ok && o.ok false
  | .sll c o => c.ok && o.ok false
  | .srl c o => c.ok && o.ok false
  | .sra c o => c.ok && o.ok false
  | .min_ c o => c.ok && o.ok false
  | .max_ c o => c.ok && o.ok false
  | .slt c o => c.ok && o.ok false
  | .mov c o => c.ok && o.okInt
  | .mul c o => c.ok && o.ok true
  | .mulh c o => c.ok && o.ok false
  | .div c o => c.ok && o.ok false
  | .rem c o => c.ok && o.ok false
  | .clz c o => c.ok && o.okInt
  | .ctz c o => c.ok && o.okInt
  | .popc c o => c.ok && o.okInt
  | .brev c o => c.ok && o.okInt
  | .bswap c o => c.ok && o.okInt
  | .ext_ c o => c.ok && o.ok
  | .movi c o => c.ok && o.ok
  | .movhi c _ => c.ok
  | .addpc c _ => c.ok
  | .ld c o => c.ok && o.ok false
  | .lda c o => c.ok && o.ok true
  | .st c o => c.ok && o.ok false
  | .stl c o => c.ok && o.ok true
  | .fadd c o => c.ok && o.ok true
  | .fsub c o => c.ok && o.ok true
  | .fmul c o => c.ok && o.ok true
  | .fdiv c o => c.ok && o.ok true
  | .fsqrt c o => c.ok && o.ok
  | .fmin c o => c.ok && o.ok true
  | .fmax c o => c.ok && o.ok true
  | .fcopys c o => c.ok && o.ok false
  | .fcopyn c o => c.ok && o.ok false
  | .fxsign c o => c.ok && o.ok false
  | .fma c o => c.ok && o.ok true
  | .fms c o => c.ok && o.ok true
  | .fnma c o => c.ok && o.ok true
  | .fnms c o => c.ok && o.ok true
  | .fcvt c o => c.ok && o.okFloat
  | .fcvti c o => c.ok && o.okToInt
  | .icvtf c o => c.ok && o.okFromInt
  | .fclass c o => c.ok && o.okClass
  | .br c _ => c.ok
  | .bri c _ => c.ok
  | .call c _ => c.ok
  | .calli c _ => c.ok
  | .lsetup c o => c.ok && o.ok
  | .sysrd c o => c.ok && o.target.ok
  | .syswr c o => c.ok && o.target.ok
  | .eret c => c.ok
  | .nop c => c.ok
  | .yield c _ => c.ok
  | .yieldExpiry _ => true
  | .halt c => c.ok
  | .haltSlotRelease _ => true
  | .trap c _ => c.ok
  | .pcmp c o => c.ok && o.ok
  | .pand c _ => c.ok
  | .por c _ => c.ok
  | .pxor c _ => c.ok
  | .pandn c _ => c.ok
  | .pnot c _ => c.ok
  | .pmov c _ => c.ok
  | .mand c _ => c.ok
  | .mor c _ => c.ok
  | .mxor c _ => c.ok
  | .mandn c _ => c.ok
  | .mnot c _ => c.ok
  | .mmov c _ => c.ok
  | .mpopc c _ => c.ok
  | .mfirst c _ => c.ok
  | .vsetl c _ => c.ok
  | .vsett c o => c.ok && o.okVtype
  | .vadd c o => c.ok && o.ok true
  | .vsub c o => c.ok && o.ok true
  | .vrsub c o => c.ok && o.ok true
  | .vmin c o => c.ok && o.ok false
  | .vmax c o => c.ok && o.ok false
  | .vabsd c o => c.ok && o.ok false
  | .vavg c o => c.ok && o.ok false
  | .vmul c o => c.ok && o.ok true
  | .vmulh c o => c.ok && o.ok false
  | .vmacc c o => c.ok && o.ok true
  | .vdiv c o => c.ok && o.ok false
  | .vrem c o => c.ok && o.ok false
  | .vand c o => c.ok && o.ok false
  | .vor c o => c.ok && o.ok false
  | .vxor c o => c.ok && o.ok false
  | .vsll c o => c.ok && o.ok false
  | .vsrl c o => c.ok && o.ok false
  | .vsra c o => c.ok && o.ok false
  | .vwadd c o => c.ok && o.okWide false
  | .vwmul c o => c.ok && o.okWide false
  | .vwmacc c o => c.ok && o.okWide true
  | .vnshr c o => c.ok && o.ok
  | .vfadd c o => c.ok && o.ok true
  | .vfsub c o => c.ok && o.ok true
  | .vfmul c o => c.ok && o.ok true
  | .vfdiv c o => c.ok && o.ok true
  | .vfsqrt c o => c.ok && o.ok
  | .vfmin c o => c.ok && o.ok true
  | .vfmax c o => c.ok && o.ok true
  | .vfcopys c o => c.ok && o.ok false
  | .vfcopyn c o => c.ok && o.ok false
  | .vfxsign c o => c.ok && o.ok false
  | .vfma c o => c.ok && o.ok true
  | .vfms c o => c.ok && o.ok true
  | .vfnma c o => c.ok && o.ok true
  | .vfnms c o => c.ok && o.ok true
  | .vfwadd c o => c.ok && o.okWide
  | .vfwmul c o => c.ok && o.okWide
  | .vfwma c o => c.ok && o.okWide
  | .vfcvt c o => c.ok && o.okFloat
  | .vfcvti c o => c.ok && o.okToInt
  | .vicvtf c o => c.ok && o.okFromInt
  | .vfclass c o => c.ok && o.okClass
  | .vcmp c o => c.ok && o.ok
  | .vmerge c _ => c.ok
  | .vmov c _ => c.ok
  | .vsplat c o => c.ok && o.ok
  | .vext c o => c.ok && o.ok
  | .vins c o => c.ok && o.ok
  | .vmrank c o => c.ok && o.ok
  | .vid c o => c.ok && o.ok
  | .vshuf c _ => c.ok
  | .vslideup c _ => c.ok
  | .vslidedn c _ => c.ok
  | .vcompress c _ => c.ok
  | .vexpand c _ => c.ok
  | .vredsum c o => c.ok && o.ok
  | .vredmin c o => c.ok && o.ok
  | .vredmax c o => c.ok && o.ok
  | .vredand c o => c.ok && o.ok
  | .vredor c o => c.ok && o.ok
  | .vredxor c o => c.ok && o.ok
  | .vfredo c o => c.ok && o.ok
  | .vfredt c o => c.ok && o.ok
  | .vfredmin c o => c.ok && o.ok
  | .vfredmax c o => c.ok && o.ok
  | .vdefer c o => c.ok && o.ok
  | .vdrain c o => c.ok && o.ok
  | .vdcount c o => c.ok && o.ok
  | .qsetUnit c _ => c.ok
  | .qsetStride c _ => c.ok
  | .qsetSeg c o => c.ok && o.ok
  | .qsetInd c o => c.ok && o.ok
  | .vld c _ => c.ok
  | .vldseg c o => c.ok && o.okSegment
  | .vst c o => c.ok && o.ok true
  | .vstseg c o => c.ok && o.okSegment
  | .vstc c o => c.ok && o.ok false
  | .loadDataArrival _ _ => true
  | .mopa c o => c.ok && o.ok
  | .mops c o => c.ok && o.ok
  | .mstage c _ => c.ok
  | .mswap c => c.ok
  | .mstream c o => c.ok && o.ok
  | .zread c o => c.ok && o.ok
  | .zwrite c o => c.ok && o.ok
  | .zzero c _ => c.ok
  | .zsave c o => c.ok && o.ok
  | .zload c o => c.ok && o.ok
  | .eqint c o => c.ok && o.ok
  | .eqmrg c o => c.ok && o.ok
  | .eqnz c o => c.ok && o.ok
  | .eqnzCursorForm c o => c.ok && o.ok
  | .eqsplt c _ => c.ok
  | .eqsave c _ => c.ok
  | .eqload c _ => c.ok
  | .tresize c _ => c.ok
  | .tgive c _ => c.ok
  | .tcopy c o => c.ok && o.ok
  | .tcast c o => c.ok && o.ok
  | .transferComplete _ => true
  | .mergeWindowClose _ => true
  | .tcastLineDelivery _ => true
  | .amo c o => c.ok && o.ok
  | .vamo c o => c.ok && o.ok
  | .vlock c o => c.ok && o.ok
  | .vunlock c o => c.ok && o.ok
  | .fence c _ => c.ok
  | .barinit c _ => c.ok
  | .bararv c _ => c.ok
  | .barexp c _ => c.ok
  | .barwait c _ => c.ok
  | .barwaitReturn _ => true
  | .lsync c _ => c.ok
  | .tlaunch c _ => c.ok
  | .tlaunchCopy _ => true
  | .twait c _ => c.ok
  | .evpop c _ => c.ok
  | .rfence c _ => c.ok
  | .wmap c _ => c.ok
  | .wunmap c _ => c.ok
  | .fetchPacket _ => true
  | .lanternIssue _ => true
  | .lanternForkCopyDone _ => true
  | .lanternPublish _ => true
  | .prefetchFill _ _ _ => true
  | .pinTimeout _ _ => true
  | .replWindowEnd _ _ _ => true
  | .combiningWriteback _ => true
  | .beaconPacketApply _ => true
  | .reflectTimeout _ => true
  | .linkFailureReport _ _ _ => true
  | .doorbell _ _ _ _ => true
  | .queueEnable _ _ _ => true
  | .queueDisable _ _ _ => true
  | .takeRecord _ _ => true
  | .residencyWalk _ _ => true
  | .lfstat _ _ _ => true
  | .dispatchRound _ _ _ => true
  | .gangResume _ => true
  | .gangSave _ => true
  | .taskRetire _ _ _ => true
  | .taskEnd _ _ _ => true
  | .preempt _ _ _ _ => true
  | .resume _ _ _ _ => true
  | .revoke _ _ _ _ => true
  | .claim _ => true
  | .respond _ => true
  | .handover _ _ => true
  | .release _ => true
  | .respondTimeout => true
  | .ownerLinkDown => true
  | .partitionEnable _ _ => true
  | .partitionDisable _ _ => true
  | .partitionDisableComplete _ => true
  | .runtimeStart _ _ _ => true
  | .runtimeStop _ _ => true
  | .shoot _ _ => true
  | .shootComplete _ => true
  | .drain _ _ => true
  | .drainBegin _ => true
  | .drainComplete _ => true
  | .confirm _ _ => true
  | .confirmComplete _ => true
  | .ssettle _ _ _ => true
  | .settleComplete _ => true
  | .formatRegionEnable _ _ _ => true
  | .formatRegionDisable _ _ _ => true
  | .replctl _ _ _ => true
  | .rflstat _ _ _ => true
  | .errstat _ _ _ => true
  | .evqstat _ _ _ _ => true
  | .bcncfg _ _ => true
  | .summer _ => true
  | .spring _ => true
  | .autumn _ => true
  | .autumnEntry => true
  | .winter _ => true
  | .dbgreq _ _ => true
  | .debugGangHalt _ _ => true
  | .attreq _ => true
  | .deviceReset => true
  | .linkTraining _ _ => true
  | .hostHdmWrite _ _ _ => true
  | .hostHdmRead _ _ _ => true
  | .uncorrectableError _ => true
  | .correctedError _ => true
  | .registerWrite _ _ _ => true
  | .linkDown _ => true
  | .debugGangResume _ _ => true
  | .debugMemoryWrite _ _ _ => true
  | .securityStateEntry _ => true
  | .ownerKeyReplace _ _ _ => true
  | .attestationReportReady _ => true
  | .powerTransitionComplete => true
  | .reflectionAcknowledgement _ _ _ => true
  | .hostCoherenceAccept => true

end Sys2Proof
end

