-- ==== Sys2Proof/Decode.lean ====
section
/-! DEFINITION. The decoder, total on every 96-bit word and on any bytes, and the encoder, both
written from the word of R105 and the operand fields of R107 to R116. The decoder reads the fields
an instruction's entry names; a word is accepted when it is the encoding of the well-formed
instruction so read, which is R118: every field the entry does not name is then zero. -/

namespace Sys2Proof

/-- The fields of R105. -/
structure Raw where
  op : BitVec 8
  fn : BitVec 6
  g : BitVec 4
  d : BitVec 8
  a : BitVec 8
  b : BitVec 8
  m : BitVec 6
  h : BitVec 8
  x : BitVec 8
  imm : BitVec 32
  deriving DecidableEq, Repr

/-- The word of the fields (R105). -/
def Raw.pack (r : Raw) : BitVec 96 :=
  (r.op ++ r.fn ++ r.g ++ r.d ++ r.a ++ r.b ++ r.m ++ r.h ++ r.x ++ r.imm : BitVec (8 + 6 + 4 + 8 + 8 + 8 + 6 + 8 + 8 + 32))

/-- The fields of a word (R105). -/
def Raw.unpack (w : BitVec 96) : Raw where
  op := w.extractLsb' 88 8
  fn := w.extractLsb' 82 6
  g := w.extractLsb' 78 4
  d := w.extractLsb' 70 8
  a := w.extractLsb' 62 8
  b := w.extractLsb' 54 8
  m := w.extractLsb' 48 6
  h := w.extractLsb' 40 8
  x := w.extractLsb' 32 8
  imm := w.extractLsb' 0 32

/-! Operand fields (R107): class in [7:6], index in [5:0]. -/

def sField (i : SIdx) : BitVec 8 := 0b00#2 ++ i
def vField (i : VIdx) : BitVec 8 := 0b01#2 ++ i
def mField (i : MIdx) : BitVec 8 := 0b1000#4 ++ i
def pField (i : PIdx) : BitVec 8 := 0b10010#5 ++ i
def qField (i : QIdx) : BitVec 8 := 0b10011000#8 + i.setWidth 8
def eField (i : EIdx) : BitVec 8 := 0b101010#6 ++ i
def zField (i : ZIdx) : BitVec 8 := 0b110#3 ++ i

def sOf (f : BitVec 8) : SIdx := f.extractLsb' 0 6
def vOf (f : BitVec 8) : VIdx := f.extractLsb' 0 6
def mOf (f : BitVec 8) : MIdx := f.extractLsb' 0 4
def pOf (f : BitVec 8) : PIdx := f.extractLsb' 0 3
def qOf (f : BitVec 8) : QIdx := (f - 0b10011000#8).extractLsb' 0 4
def eOf (f : BitVec 8) : EIdx := f.extractLsb' 0 2
def zOf (f : BitVec 8) : ZIdx := f.extractLsb' 0 5

/-- A subfield of IMM at bit `lo`. -/
def immAt {w : Nat} (v : BitVec w) (lo : Nat) : BitVec 32 := v.setWidth 32 <<< lo

/-- Field B of a scalar source: 0xFF is the immediate (R107). -/
def SSrc.field : SSrc → BitVec 8
  | .reg s => sField s
  | .imm _ => 0xFF#8

/-- IMM of a scalar source (R109). -/
def SSrc.immField : SSrc → BitVec 32
  | .reg _ => 0
  | .imm v => v

def SSrc.of (f : BitVec 8) (imm : BitVec 32) : SSrc := if f = 0xFF#8 then .imm imm else .reg (sOf f)

/-- Field B of an element-wise source (R241). -/
def VSrc.field : VSrc → BitVec 8
  | .vec v => vField v
  | .reg s => sField s
  | .imm _ => 0xFF#8

def VSrc.immField : VSrc → BitVec 32
  | .vec _ => 0
  | .reg _ => 0
  | .imm v => v

def VSrc.of (f : BitVec 8) (imm : BitVec 32) : VSrc :=
  if f = 0xFF#8 then .imm imm
  else if f.extractLsb' 6 2 = 0b01#2 then .vec (vOf f) else .reg (sOf f)

/-- The mask field M (R111). -/
def Mask.field : Mask → BitVec 6
  | .none => 0
  | .on z m => 0b1#1 ++ BitVec.ofBool z ++ m

def Mask.of (f : BitVec 6) : Mask :=
  if f.getLsbD 5 then .on (f.getLsbD 4) (f.extractLsb' 0 4) else .none

/-- IMM of SYSRD and SYSWR (R211). -/
def SysTarget.immField : SysTarget → BitVec 32
  | .reg n => n.setWidth 32
  | .window off => 0x80000000#32 ||| off.setWidth 32

def SysTarget.of (imm : BitVec 32) : SysTarget :=
  if imm.getLsbD 31 then .window (imm.extractLsb' 0 20) else .reg (imm.extractLsb' 0 12)

/-! Codes of the X subfields (R113 to R116, R329). -/

def Rm.code : Rm → BitVec 3
  | .rne => 0 | .rtz => 1 | .rup => 2 | .rdn => 3 | .rmm => 4 | .dyn => 7

/-- Codes 5 and 6 are malformed (R115). -/
def Rm.ofCode (c : BitVec 3) : Option Rm :=
  match c.toNat with
  | 0 => some .rne | 1 => some .rtz | 2 => some .rup | 3 => some .rdn | 4 => some .rmm | 7 => some .dyn
  | _ => none

def Scope.code : Scope → BitVec 2
  | .core => 0 | .gang => 1 | .device => 2 | .system => 3

def Scope.ofCode (c : BitVec 2) : Scope :=
  match c.toNat with
  | 0 => .core | 1 => .gang | 2 => .device | _ => .system

def Aop.code : Aop → BitVec 3
  | .add => 0 | .and => 1 | .or => 2 | .xor => 3 | .min => 4 | .max => 5 | .swap => 6 | .cas => 7

def Aop.ofCode (c : BitVec 3) : Aop :=
  match c.toNat with
  | 0 => .add | 1 => .and | 2 => .or | 3 => .xor | 4 => .min | 5 => .max | 6 => .swap | _ => .cas

def AType.code : AType → BitVec 3
  | .i32 => 0 | .i64 => 1 | .n32 => 2 | .n64 => 3 | .f32 => 4

/-- Codes 5 to 7 are malformed (R116). -/
def AType.ofCode (c : BitVec 3) : Option AType :=
  match c.toNat with
  | 0 => some .i32 | 1 => some .i64 | 2 => some .n32 | 3 => some .n64 | 4 => some .f32
  | _ => none

def FenceKind.code : FenceKind → BitVec 3
  | .ss => 0 | .sv => 1 | .vs => 2 | .vv => 3 | .all => 4

/-- Codes 5 to 7 are malformed (R329). -/
def FenceKind.ofCode (c : BitVec 3) : Option FenceKind :=
  match c.toNat with
  | 0 => some .ss | 1 => some .sv | 2 => some .vs | 3 => some .vv | 4 => some .all
  | _ => none

/-- The FN of PCMP and VCMP (R119). -/
def Cond.code : Cond → BitVec 6
  | .eq => 0 | .ne => 1 | .lt => 2 | .ge => 3 | .un => 4

def Cond.ofCode (c : BitVec 6) : Option Cond :=
  match c.toNat with
  | 0 => some .eq | 1 => some .ne | 2 => some .lt | 3 => some .ge | 4 => some .un
  | _ => none

def Steer.code : Steer → BitVec 2
  | .auto => 0 | .lantern => 1 | .trailing => 2

/-- The value 0b11 is malformed (R112). -/
def Steer.ofCode (c : BitVec 2) : Option Steer :=
  match c.toNat with
  | 0 => some .auto | 1 => some .lantern | 2 => some .trailing
  | _ => none

/-- Layout A (R113). -/
def xA (sat : Bool) (rm : Rm) (ty : Ty) : BitVec 8 := BitVec.ofBool sat ++ rm.code ++ ty.code
/-- Layout M (R113). -/
def xM (scope : Scope) (u : Bool) (ty : Ty) : BitVec 8 := scope.code ++ 0#1 ++ BitVec.ofBool u ++ ty.code
/-- Layout S (R113). -/
def xS (scope : Scope) (aop : Aop) (aty : AType) : BitVec 8 := scope.code ++ aop.code ++ aty.code
/-- Layout F (R113). -/
def xF (scope : Scope) (kind : FenceKind) : BitVec 8 := scope.code ++ 0#3 ++ kind.code

/-- The guard and hint fields (R105, R112). -/
def Ctl.g (c : Ctl) : BitVec 4 := BitVec.ofBool c.neg ++ c.pred
def Ctl.h (c : Ctl) : BitVec 8 := c.rd ++ c.steer.code ++ BitVec.ofBool c.yld ++ 0#2

def Ctl.parse (r : Raw) : Option Ctl :=
  (Steer.ofCode (r.h.extractLsb' 3 2)).map fun st =>
    { neg := r.g.getLsbD 3, pred := r.g.extractLsb' 0 3, rd := r.h.extractLsb' 5 3, steer := st, yld := r.h.getLsbD 2 }

/-- A word with only OP, FN, guard and hints. -/
def Raw.base (op : BitVec 8) (fn : BitVec 6) (c : Ctl) : Raw :=
  { op := op, fn := fn, g := c.g, d := 0, a := 0, b := 0, m := 0, h := c.h, x := 0, imm := 0 }

/-! Each shape's fields in the word: `fill` writes them, `parse` reads them. -/

def ScalarBin.fill (o : ScalarBin) (r : Raw) : Raw := { r with d := sField o.d, a := sField o.a, b := o.b.field, x := xA o.sat .rne o.ty, imm := o.b.immField }

def ScalarBin.parse (r : Raw) : Option ScalarBin := some { ty := Ty.ofCode (r.x.extractLsb' 0 4), sat := r.x.getLsbD 7, d := sOf r.d, a := sOf r.a, b := SSrc.of r.b r.imm }

def ScalarUn.fill (o : ScalarUn) (r : Raw) : Raw := { r with d := sField o.d, a := sField o.a, x := xA false .rne o.ty }

def ScalarUn.parse (r : Raw) : Option ScalarUn := some { ty := Ty.ofCode (r.x.extractLsb' 0 4), d := sOf r.d, a := sOf r.a }

def ExtForm.fill (o : ExtForm) (r : Raw) : Raw := { r with d := sField o.d, a := sField o.a, x := xA false .rne o.ty, imm := immAt o.lo 0 ||| immAt o.len1 8 }

def ExtForm.parse (r : Raw) : Option ExtForm := some { ty := Ty.ofCode (r.x.extractLsb' 0 4), d := sOf r.d, a := sOf r.a, lo := r.imm.extractLsb' 0 6, len1 := r.imm.extractLsb' 8 6 }

def MoviForm.fill (o : MoviForm) (r : Raw) : Raw := { r with d := sField o.d, x := xA false .rne o.ty, imm := o.imm }

def MoviForm.parse (r : Raw) : Option MoviForm := some { ty := Ty.ofCode (r.x.extractLsb' 0 4), d := sOf r.d, imm := r.imm }

def MovhiForm.fill (o : MovhiForm) (r : Raw) : Raw := { r with d := sField o.d, a := sField o.a, imm := o.imm }

def MovhiForm.parse (r : Raw) : Option MovhiForm := some { d := sOf r.d, a := sOf r.a, imm := r.imm }

def AddpcForm.fill (o : AddpcForm) (r : Raw) : Raw := { r with d := sField o.d, imm := o.imm }

def AddpcForm.parse (r : Raw) : Option AddpcForm := some { d := sOf r.d, imm := r.imm }

def LoadForm.fill (o : LoadForm) (r : Raw) : Raw := { r with d := sField o.d, a := sField o.a, x := xM o.scope false o.ty, imm := o.off }

def LoadForm.parse (r : Raw) : Option LoadForm := some { ty := Ty.ofCode (r.x.extractLsb' 0 4), scope := Scope.ofCode (r.x.extractLsb' 6 2), d := sOf r.d, a := sOf r.a, off := r.imm }

def StoreForm.fill (o : StoreForm) (r : Raw) : Raw := { r with a := sField o.a, b := sField o.b, x := xM o.scope false o.ty, imm := o.off }

def StoreForm.parse (r : Raw) : Option StoreForm := some { ty := Ty.ofCode (r.x.extractLsb' 0 4), scope := Scope.ofCode (r.x.extractLsb' 6 2), a := sOf r.a, b := sOf r.b, off := r.imm }

def FloatBin.fill (o : FloatBin) (r : Raw) : Raw := { r with d := sField o.d, a := sField o.a, b := o.b.field, x := xA false o.rm o.ty, imm := o.b.immField }

def FloatBin.parse (r : Raw) : Option FloatBin := (Rm.ofCode (r.x.extractLsb' 4 3)).bind fun rm => some { ty := Ty.ofCode (r.x.extractLsb' 0 4), d := sOf r.d, a := sOf r.a, b := SSrc.of r.b r.imm, rm := rm }

def FloatUn.fill (o : FloatUn) (r : Raw) : Raw := { r with d := sField o.d, a := sField o.a, x := xA false o.rm o.ty }

def FloatUn.parse (r : Raw) : Option FloatUn := (Rm.ofCode (r.x.extractLsb' 4 3)).bind fun rm => some { ty := Ty.ofCode (r.x.extractLsb' 0 4), d := sOf r.d, a := sOf r.a, rm := rm }

def ConvertForm.fill (o : ConvertForm) (r : Raw) : Raw := { r with d := sField o.d, a := sField o.a, x := xA false o.rm o.ty, imm := immAt o.src.code 0 }

def ConvertForm.parse (r : Raw) : Option ConvertForm := (Rm.ofCode (r.x.extractLsb' 4 3)).bind fun rm => some { ty := Ty.ofCode (r.x.extractLsb' 0 4), src := Ty.ofCode (r.imm.extractLsb' 0 4), d := sOf r.d, a := sOf r.a, rm := rm }

def BrForm.fill (o : BrForm) (r : Raw) : Raw := { r with imm := o.off }

def BrForm.parse (r : Raw) : Option BrForm := some { off := r.imm }

def BriForm.fill (o : BriForm) (r : Raw) : Raw := { r with a := sField o.a, imm := o.off }

def BriForm.parse (r : Raw) : Option BriForm := some { a := sOf r.a, off := r.imm }

def CallForm.fill (o : CallForm) (r : Raw) : Raw := { r with d := sField o.d, imm := o.off }

def CallForm.parse (r : Raw) : Option CallForm := some { d := sOf r.d, off := r.imm }

def CalliForm.fill (o : CalliForm) (r : Raw) : Raw := { r with d := sField o.d, a := sField o.a, imm := o.off }

def CalliForm.parse (r : Raw) : Option CalliForm := some { d := sOf r.d, a := sOf r.a, off := r.imm }

def LsetupForm.fill (o : LsetupForm) (r : Raw) : Raw := { r with fn := (BitVec.ofBool o.loop1).setWidth 6, a := sField o.a, imm := o.off }

def LsetupForm.parse (r : Raw) : Option LsetupForm := some { loop1 := r.fn.getLsbD 0, a := sOf r.a, off := r.imm }

def SysrdForm.fill (o : SysrdForm) (r : Raw) : Raw := { r with d := sField o.d, imm := o.target.immField }

def SysrdForm.parse (r : Raw) : Option SysrdForm := some { d := sOf r.d, target := SysTarget.of r.imm }

def SyswrForm.fill (o : SyswrForm) (r : Raw) : Raw := { r with a := sField o.a, imm := o.target.immField }

def SyswrForm.parse (r : Raw) : Option SyswrForm := some { a := sOf r.a, target := SysTarget.of r.imm }

def YieldForm.fill (o : YieldForm) (r : Raw) : Raw := { r with imm := immAt o.cycles 0 }

def YieldForm.parse (r : Raw) : Option YieldForm := some { cycles := r.imm.extractLsb' 0 10 }

def TrapForm.fill (o : TrapForm) (r : Raw) : Raw := { r with imm := immAt o.code 0 }

def TrapForm.parse (r : Raw) : Option TrapForm := some { code := r.imm.extractLsb' 0 16 }

def PcmpForm.fill (o : PcmpForm) (r : Raw) : Raw := { r with fn := o.cond.code, d := pField o.d, a := sField o.a, b := o.b.field, x := xA false .rne o.ty, imm := o.b.immField }

def PcmpForm.parse (r : Raw) : Option PcmpForm := (Cond.ofCode r.fn).bind fun cond => some { ty := Ty.ofCode (r.x.extractLsb' 0 4), d := pOf r.d, a := sOf r.a, b := SSrc.of r.b r.imm, cond := cond }

def PredBin.fill (o : PredBin) (r : Raw) : Raw := { r with d := pField o.d, a := pField o.a, b := pField o.b }

def PredBin.parse (r : Raw) : Option PredBin := some { d := pOf r.d, a := pOf r.a, b := pOf r.b }

def PredUn.fill (o : PredUn) (r : Raw) : Raw := { r with d := pField o.d, a := pField o.a }

def PredUn.parse (r : Raw) : Option PredUn := some { d := pOf r.d, a := pOf r.a }

def MaskBin.fill (o : MaskBin) (r : Raw) : Raw := { r with d := mField o.d, a := mField o.a, b := mField o.b }

def MaskBin.parse (r : Raw) : Option MaskBin := some { d := mOf r.d, a := mOf r.a, b := mOf r.b }

def MaskUn.fill (o : MaskUn) (r : Raw) : Raw := { r with d := mField o.d, a := mField o.a }

def MaskUn.parse (r : Raw) : Option MaskUn := some { d := mOf r.d, a := mOf r.a }

def MaskRead.fill (o : MaskRead) (r : Raw) : Raw := { r with d := sField o.d, a := mField o.a }

def MaskRead.parse (r : Raw) : Option MaskRead := some { d := sOf r.d, a := mOf r.a }

def SetForm.fill (o : SetForm) (r : Raw) : Raw := { r with d := sField o.d, b := o.b.field, imm := o.b.immField }

def SetForm.parse (r : Raw) : Option SetForm := some { d := sOf r.d, b := SSrc.of r.b r.imm }

def VecBin.fill (o : VecBin) (r : Raw) : Raw := { r with d := vField o.d, a := vField o.a, b := o.b.field, m := o.mask.field, x := xA o.sat .rne o.ty, imm := o.b.immField }

def VecBin.parse (r : Raw) : Option VecBin := some { ty := Ty.ofCode (r.x.extractLsb' 0 4), sat := r.x.getLsbD 7, d := vOf r.d, a := vOf r.a, b := VSrc.of r.b r.imm, mask := Mask.of r.m }

def VecNarrow.fill (o : VecNarrow) (r : Raw) : Raw := { r with d := vField o.d, a := vField o.a, b := o.b.field, m := o.mask.field, x := xA o.sat o.rm o.ty, imm := o.b.immField }

def VecNarrow.parse (r : Raw) : Option VecNarrow := (Rm.ofCode (r.x.extractLsb' 4 3)).bind fun rm => some { ty := Ty.ofCode (r.x.extractLsb' 0 4), sat := r.x.getLsbD 7, d := vOf r.d, a := vOf r.a, b := VSrc.of r.b r.imm, mask := Mask.of r.m, rm := rm }

def VecFloatBin.fill (o : VecFloatBin) (r : Raw) : Raw := { r with d := vField o.d, a := vField o.a, b := o.b.field, m := o.mask.field, x := xA false o.rm o.ty, imm := o.b.immField }

def VecFloatBin.parse (r : Raw) : Option VecFloatBin := (Rm.ofCode (r.x.extractLsb' 4 3)).bind fun rm => some { ty := Ty.ofCode (r.x.extractLsb' 0 4), d := vOf r.d, a := vOf r.a, b := VSrc.of r.b r.imm, mask := Mask.of r.m, rm := rm }

def VecFloatUn.fill (o : VecFloatUn) (r : Raw) : Raw := { r with d := vField o.d, a := vField o.a, m := o.mask.field, x := xA false o.rm o.ty }

def VecFloatUn.parse (r : Raw) : Option VecFloatUn := (Rm.ofCode (r.x.extractLsb' 4 3)).bind fun rm => some { ty := Ty.ofCode (r.x.extractLsb' 0 4), d := vOf r.d, a := vOf r.a, mask := Mask.of r.m, rm := rm }

def VecConvert.fill (o : VecConvert) (r : Raw) : Raw := { r with d := vField o.d, a := vField o.a, m := o.mask.field, x := xA false o.rm o.ty, imm := immAt o.src.code 0 }

def VecConvert.parse (r : Raw) : Option VecConvert := (Rm.ofCode (r.x.extractLsb' 4 3)).bind fun rm => some { ty := Ty.ofCode (r.x.extractLsb' 0 4), src := Ty.ofCode (r.imm.extractLsb' 0 4), d := vOf r.d, a := vOf r.a, mask := Mask.of r.m, rm := rm }

def VecUn.fill (o : VecUn) (r : Raw) : Raw := { r with d := vField o.d, a := vField o.a, m := o.mask.field, x := xA false .rne o.ty }

def VecUn.parse (r : Raw) : Option VecUn := some { ty := Ty.ofCode (r.x.extractLsb' 0 4), d := vOf r.d, a := vOf r.a, mask := Mask.of r.m }

def VcmpForm.fill (o : VcmpForm) (r : Raw) : Raw := { r with fn := o.cond.code, d := mField o.d, a := vField o.a, b := o.b.field, m := o.mask.field, x := xA false .rne o.ty, imm := o.b.immField }

def VcmpForm.parse (r : Raw) : Option VcmpForm := (Cond.ofCode r.fn).bind fun cond => some { ty := Ty.ofCode (r.x.extractLsb' 0 4), d := mOf r.d, a := vOf r.a, b := VSrc.of r.b r.imm, mask := Mask.of r.m, cond := cond }

def VmergeForm.fill (o : VmergeForm) (r : Raw) : Raw := { r with d := vField o.d, a := vField o.a, b := vField o.b, m := (Mask.on false o.m).field, x := xA false .rne o.ty }

def VmergeForm.parse (r : Raw) : Option VmergeForm := some { ty := Ty.ofCode (r.x.extractLsb' 0 4), d := vOf r.d, a := vOf r.a, b := vOf r.b, m := r.m.extractLsb' 0 4 }

def VsplatForm.fill (o : VsplatForm) (r : Raw) : Raw := { r with d := vField o.d, b := o.b.field, m := o.mask.field, x := xA false .rne o.ty, imm := o.b.immField }

def VsplatForm.parse (r : Raw) : Option VsplatForm := some { ty := Ty.ofCode (r.x.extractLsb' 0 4), d := vOf r.d, b := SSrc.of r.b r.imm, mask := Mask.of r.m }

def VextForm.fill (o : VextForm) (r : Raw) : Raw := { r with d := sField o.d, a := vField o.a, b := o.b.field, x := xA false .rne o.ty, imm := o.b.immField }

def VextForm.parse (r : Raw) : Option VextForm := some { ty := Ty.ofCode (r.x.extractLsb' 0 4), d := sOf r.d, a := vOf r.a, b := SSrc.of r.b r.imm }

def VinsForm.fill (o : VinsForm) (r : Raw) : Raw := { r with d := vField o.d, a := sField o.a, b := o.b.field, x := xA false .rne o.ty, imm := o.b.immField }

def VinsForm.parse (r : Raw) : Option VinsForm := some { ty := Ty.ofCode (r.x.extractLsb' 0 4), d := vOf r.d, a := sOf r.a, b := SSrc.of r.b r.imm }

def VmrankForm.fill (o : VmrankForm) (r : Raw) : Raw := { r with d := vField o.d, a := mField o.a, m := o.mask.field, x := xA false .rne o.ty }

def VmrankForm.parse (r : Raw) : Option VmrankForm := some { ty := Ty.ofCode (r.x.extractLsb' 0 4), d := vOf r.d, a := mOf r.a, mask := Mask.of r.m }

def VidForm.fill (o : VidForm) (r : Raw) : Raw := { r with d := vField o.d, m := o.mask.field, x := xA false .rne o.ty }

def VidForm.parse (r : Raw) : Option VidForm := some { ty := Ty.ofCode (r.x.extractLsb' 0 4), d := vOf r.d, mask := Mask.of r.m }

def VshufForm.fill (o : VshufForm) (r : Raw) : Raw := { r with d := vField o.d, a := vField o.a, b := vField o.b, m := o.mask.field, x := xA false .rne o.ty }

def VshufForm.parse (r : Raw) : Option VshufForm := some { ty := Ty.ofCode (r.x.extractLsb' 0 4), d := vOf r.d, a := vOf r.a, b := vOf r.b, mask := Mask.of r.m }

def VslideForm.fill (o : VslideForm) (r : Raw) : Raw := { r with d := vField o.d, a := vField o.a, b := o.b.field, m := o.mask.field, x := xA false .rne o.ty, imm := o.b.immField }

def VslideForm.parse (r : Raw) : Option VslideForm := some { ty := Ty.ofCode (r.x.extractLsb' 0 4), d := vOf r.d, a := vOf r.a, b := SSrc.of r.b r.imm, mask := Mask.of r.m }

def VcompressForm.fill (o : VcompressForm) (r : Raw) : Raw := { r with d := vField o.d, a := vField o.a, m := (Mask.on false o.m).field, x := xA false .rne o.ty }

def VcompressForm.parse (r : Raw) : Option VcompressForm := some { ty := Ty.ofCode (r.x.extractLsb' 0 4), d := vOf r.d, a := vOf r.a, m := r.m.extractLsb' 0 4 }

def VexpandForm.fill (o : VexpandForm) (r : Raw) : Raw := { r with d := vField o.d, a := vField o.a, m := (Mask.on o.zeroing o.m).field, x := xA false .rne o.ty }

def VexpandForm.parse (r : Raw) : Option VexpandForm := some { ty := Ty.ofCode (r.x.extractLsb' 0 4), d := vOf r.d, a := vOf r.a, zeroing := r.m.getLsbD 4, m := r.m.extractLsb' 0 4 }

def VecReduce.fill (o : VecReduce) (r : Raw) : Raw := { r with d := sField o.d, a := vField o.a, b := o.b.field, m := o.mask.field, x := xA false .rne o.ty, imm := o.b.immField }

def VecReduce.parse (r : Raw) : Option VecReduce := some { ty := Ty.ofCode (r.x.extractLsb' 0 4), d := sOf r.d, a := vOf r.a, b := SSrc.of r.b r.imm, mask := Mask.of r.m }

def VecFloatReduce.fill (o : VecFloatReduce) (r : Raw) : Raw := { r with d := sField o.d, a := vField o.a, b := o.b.field, m := o.mask.field, x := xA false o.rm o.ty, imm := o.b.immField }

def VecFloatReduce.parse (r : Raw) : Option VecFloatReduce := (Rm.ofCode (r.x.extractLsb' 4 3)).bind fun rm => some { ty := Ty.ofCode (r.x.extractLsb' 0 4), d := sOf r.d, a := vOf r.a, b := SSrc.of r.b r.imm, mask := Mask.of r.m, rm := rm }

def VdeferForm.fill (o : VdeferForm) (r : Raw) : Raw := { r with d := sField o.d, a := vField o.a, b := sField o.b, m := o.mask.field, x := xA false .rne o.ty, imm := immAt o.n1 0 ||| immAt o.path 8 }

def VdeferForm.parse (r : Raw) : Option VdeferForm := some { ty := Ty.ofCode (r.x.extractLsb' 0 4), d := sOf r.d, a := vOf r.a, b := sOf r.b, n1 := r.imm.extractLsb' 0 2, path := r.imm.extractLsb' 8 4, mask := Mask.of r.m }

def VdrainForm.fill (o : VdrainForm) (r : Raw) : Raw := { r with d := vField o.d, a := vField o.a, x := xA false .rne o.ty, imm := immAt o.n1 0 ||| immAt o.path 8 }

def VdrainForm.parse (r : Raw) : Option VdrainForm := some { ty := Ty.ofCode (r.x.extractLsb' 0 4), d := vOf r.d, a := vOf r.a, n1 := r.imm.extractLsb' 0 2, path := r.imm.extractLsb' 8 4 }

def VdcountForm.fill (o : VdcountForm) (r : Raw) : Raw := { r with d := sField o.d, imm := immAt o.path 0 }

def VdcountForm.parse (r : Raw) : Option VdcountForm := some { d := sOf r.d, path := r.imm.extractLsb' 0 5 }

def QsetForm.fill (o : QsetForm) (r : Raw) : Raw := { r with d := qField o.q, a := sField o.a, b := sField o.b, x := xA false .rne o.ty }

def QsetForm.parse (r : Raw) : Option QsetForm := some { ty := Ty.ofCode (r.x.extractLsb' 0 4), q := qOf r.d, a := sOf r.a, b := sOf r.b }

def QsetSegForm.fill (o : QsetSegForm) (r : Raw) : Raw := { r with d := qField o.q, a := sField o.a, b := sField o.b, x := xA false .rne o.ty, imm := immAt o.f 0 }

def QsetSegForm.parse (r : Raw) : Option QsetSegForm := some { ty := Ty.ofCode (r.x.extractLsb' 0 4), q := qOf r.d, a := sOf r.a, b := sOf r.b, f := r.imm.extractLsb' 0 4 }

def QsetIndForm.fill (o : QsetIndForm) (r : Raw) : Raw := { r with d := qField o.q, a := sField o.a, b := qField o.b, x := xA false .rne o.ty }

def QsetIndForm.parse (r : Raw) : Option QsetIndForm := some { ty := Ty.ofCode (r.x.extractLsb' 0 4), q := qOf r.d, a := sOf r.a, b := qOf r.b }

def VloadForm.fill (o : VloadForm) (r : Raw) : Raw := { r with d := vField o.d, a := qField o.q, m := o.mask.field, x := xA false .rne o.ty }

def VloadForm.parse (r : Raw) : Option VloadForm := some { ty := Ty.ofCode (r.x.extractLsb' 0 4), d := vOf r.d, q := qOf r.a, mask := Mask.of r.m }

def VstoreForm.fill (o : VstoreForm) (r : Raw) : Raw := { r with a := qField o.q, b := vField o.b, m := o.mask.field, x := xM .core o.u o.ty }

def VstoreForm.parse (r : Raw) : Option VstoreForm := some { ty := Ty.ofCode (r.x.extractLsb' 0 4), u := r.x.getLsbD 4, q := qOf r.a, b := vOf r.b, mask := Mask.of r.m }

def MopaForm.fill (o : MopaForm) (r : Raw) : Raw := { r with d := zField o.d, a := vField o.a, b := vField o.b, m := o.mask.field, x := xA o.sat o.rm o.ty, imm := immAt (BitVec.ofBool o.half) 0 }

def MopaForm.parse (r : Raw) : Option MopaForm := (Rm.ofCode (r.x.extractLsb' 4 3)).bind fun rm => some { ty := Ty.ofCode (r.x.extractLsb' 0 4), sat := r.x.getLsbD 7, half := r.imm.getLsbD 0, d := zOf r.d, a := vOf r.a, b := vOf r.b, mask := Mask.of r.m, rm := rm }

def MstageForm.fill (o : MstageForm) (r : Raw) : Raw := { r with a := qField o.q, b := o.b.field, x := xA false .rne .bf16, imm := o.b.immField }

def MstageForm.parse (r : Raw) : Option MstageForm := some { q := qOf r.a, b := SSrc.of r.b r.imm }

def MstreamForm.fill (o : MstreamForm) (r : Raw) : Raw := { r with d := zField o.d, a := vField o.a, b := sField o.b, m := o.mask.field, x := xA false o.rm .bf16, imm := immAt o.c 0 }

def MstreamForm.parse (r : Raw) : Option MstreamForm := (Rm.ofCode (r.x.extractLsb' 4 3)).bind fun rm => some { d := zOf r.d, a := vOf r.a, b := sOf r.b, c := r.imm.extractLsb' 0 2, mask := Mask.of r.m, rm := rm }

def ZreadForm.fill (o : ZreadForm) (r : Raw) : Raw := { r with d := vField o.d, a := zField o.z, b := o.b.field, m := o.mask.field, x := xA false .rne o.ty, imm := o.b.immField }

def ZreadForm.parse (r : Raw) : Option ZreadForm := some { ty := Ty.ofCode (r.x.extractLsb' 0 4), d := vOf r.d, z := zOf r.a, b := SSrc.of r.b r.imm, mask := Mask.of r.m }

def ZwriteForm.fill (o : ZwriteForm) (r : Raw) : Raw := { r with d := zField o.z, a := vField o.a, b := o.b.field, m := o.mask.field, x := xA false .rne o.ty, imm := o.b.immField }

def ZwriteForm.parse (r : Raw) : Option ZwriteForm := some { ty := Ty.ofCode (r.x.extractLsb' 0 4), z := zOf r.d, a := vOf r.a, b := SSrc.of r.b r.imm, mask := Mask.of r.m }

def ZzeroForm.fill (o : ZzeroForm) (r : Raw) : Raw := { r with d := zField o.z }

def ZzeroForm.parse (r : Raw) : Option ZzeroForm := some { z := zOf r.d }

def EqintForm.fill (o : EqintForm) (r : Raw) : Raw := { r with d := vField o.d, a := eField o.a, b := eField o.b, x := xA false .rne .n32 }

def EqintForm.parse (r : Raw) : Option EqintForm := some { d := vOf r.d, a := eOf r.a, b := eOf r.b }

def EqmrgForm.fill (o : EqmrgForm) (r : Raw) : Raw := { r with d := vField o.d, a := eField o.a, b := eField o.b, x := xA false .rne .n32, imm := immAt o.n 0 }

def EqmrgForm.parse (r : Raw) : Option EqmrgForm := some { d := vOf r.d, a := eOf r.a, b := eOf r.b, n := r.imm.extractLsb' 0 4 }

def EqnzForm.fill (o : EqnzForm) (r : Raw) : Raw := { r with d := vField o.d, a := vField o.a, b := o.b.field, m := o.mask.field, x := xA false .rne o.ty, imm := o.b.immField }

def EqnzForm.parse (r : Raw) : Option EqnzForm := some { ty := Ty.ofCode (r.x.extractLsb' 0 4), d := vOf r.d, a := vOf r.a, b := SSrc.of r.b r.imm, mask := Mask.of r.m }

def EqnzCursorForm.fill (o : EqnzCursorForm) (r : Raw) : Raw := { r with d := vField o.d, a := eField o.a, x := xA false .rne o.ty }

def EqnzCursorForm.parse (r : Raw) : Option EqnzCursorForm := some { ty := Ty.ofCode (r.x.extractLsb' 0 4), d := vOf r.d, a := eOf r.a }

def EqspltForm.fill (o : EqspltForm) (r : Raw) : Raw := { r with d := eField o.e, a := sField o.a, b := o.b.field, imm := o.b.immField }

def EqspltForm.parse (r : Raw) : Option EqspltForm := some { e := eOf r.d, a := sOf r.a, b := SSrc.of r.b r.imm }

def TresizeForm.fill (o : TresizeForm) (r : Raw) : Raw := { r with d := sField o.d, b := o.b.field, imm := o.b.immField }

def TresizeForm.parse (r : Raw) : Option TresizeForm := some { d := sOf r.d, b := SSrc.of r.b r.imm }

def TgiveForm.fill (o : TgiveForm) (r : Raw) : Raw := { r with a := sField o.a, b := o.b.field, imm := o.b.immField }

def TgiveForm.parse (r : Raw) : Option TgiveForm := some { a := sOf r.a, b := SSrc.of r.b r.imm }

def TcopyForm.fill (o : TcopyForm) (r : Raw) : Raw := { r with d := qField o.d, a := qField o.a, imm := immAt o.len 0 ||| immAt o.bar 17 ||| immAt (BitVec.ofBool o.ben) 23 }

def TcopyForm.parse (r : Raw) : Option TcopyForm := some { d := qOf r.d, a := qOf r.a, len := r.imm.extractLsb' 0 17, bar := r.imm.extractLsb' 17 6, ben := r.imm.getLsbD 23 }

def TcastForm.fill (o : TcastForm) (r : Raw) : Raw := { r with d := sField o.d, a := sField o.a, b := sField o.b, m := (Mask.on false o.m).field, imm := immAt o.lines 0 ||| immAt o.bar 14 ||| immAt (BitVec.ofBool o.ben) 20 }

def TcastForm.parse (r : Raw) : Option TcastForm := some { d := sOf r.d, a := sOf r.a, b := sOf r.b, m := r.m.extractLsb' 0 4, lines := r.imm.extractLsb' 0 14, bar := r.imm.extractLsb' 14 6, ben := r.imm.getLsbD 20 }

def AmoForm.fill (o : AmoForm) (r : Raw) : Raw := { r with d := sField o.d, a := sField o.a, b := sField o.b, x := xS o.scope o.aop o.aty, imm := o.off }

def AmoForm.parse (r : Raw) : Option AmoForm := (AType.ofCode (r.x.extractLsb' 0 3)).bind fun aty => some { aop := Aop.ofCode (r.x.extractLsb' 3 3), scope := Scope.ofCode (r.x.extractLsb' 6 2), d := sOf r.d, a := sOf r.a, b := sOf r.b, off := r.imm, aty := aty }

def VamoForm.fill (o : VamoForm) (r : Raw) : Raw := { r with d := vField o.d, a := qField o.q, b := o.b.field, m := o.mask.field, x := xS o.scope o.aop o.aty, imm := o.b.immField }

def VamoForm.parse (r : Raw) : Option VamoForm := (AType.ofCode (r.x.extractLsb' 0 3)).bind fun aty => some { aop := Aop.ofCode (r.x.extractLsb' 3 3), scope := Scope.ofCode (r.x.extractLsb' 6 2), d := vOf r.d, q := qOf r.a, b := VSrc.of r.b r.imm, mask := Mask.of r.m, aty := aty }

def VlockForm.fill (o : VlockForm) (r : Raw) : Raw := { r with d := mField o.d, a := vField o.a, m := o.mask.field, x := xS o.scope .add .n64 }

def VlockForm.parse (r : Raw) : Option VlockForm := some { scope := Scope.ofCode (r.x.extractLsb' 6 2), d := mOf r.d, a := vOf r.a, mask := Mask.of r.m }

def VunlockForm.fill (o : VunlockForm) (r : Raw) : Raw := { r with d := sField o.d, a := vField o.a, m := o.mask.field, x := xS o.scope .add .n64 }

def VunlockForm.parse (r : Raw) : Option VunlockForm := some { scope := Scope.ofCode (r.x.extractLsb' 6 2), d := sOf r.d, a := vOf r.a, mask := Mask.of r.m }

def FenceForm.fill (o : FenceForm) (r : Raw) : Raw := { r with x := xF o.scope o.kind }

def FenceForm.parse (r : Raw) : Option FenceForm := (FenceKind.ofCode (r.x.extractLsb' 0 3)).bind fun kind => some { scope := Scope.ofCode (r.x.extractLsb' 6 2), kind := kind }

def BarinitForm.fill (o : BarinitForm) (r : Raw) : Raw := { r with a := sField o.a, b := sField o.b, imm := immAt o.n 0 }

def BarinitForm.parse (r : Raw) : Option BarinitForm := some { n := r.imm.extractLsb' 0 6, a := sOf r.a, b := sOf r.b }

def BararvForm.fill (o : BararvForm) (r : Raw) : Raw := { r with d := sField o.d, imm := immAt o.n 0 }

def BararvForm.parse (r : Raw) : Option BararvForm := some { d := sOf r.d, n := r.imm.extractLsb' 0 6 }

def BarForm.fill (o : BarForm) (r : Raw) : Raw := { r with a := sField o.a, imm := immAt o.n 0 }

def BarForm.parse (r : Raw) : Option BarForm := some { n := r.imm.extractLsb' 0 6, a := sOf r.a }

def LsyncForm.fill (o : LsyncForm) (r : Raw) : Raw := { r with a := sField o.a }

def LsyncForm.parse (r : Raw) : Option LsyncForm := some { a := sOf r.a }

def TlaunchForm.fill (o : TlaunchForm) (r : Raw) : Raw := { r with d := sField o.d, a := sField o.a, b := o.b.field, imm := o.b.immField }

def TlaunchForm.parse (r : Raw) : Option TlaunchForm := some { d := sOf r.d, a := sOf r.a, b := SSrc.of r.b r.imm }

def TwaitForm.fill (o : TwaitForm) (r : Raw) : Raw := { r with d := sField o.d, a := sField o.a }

def TwaitForm.parse (r : Raw) : Option TwaitForm := some { d := sOf r.d, a := sOf r.a }

def EvpopForm.fill (o : EvpopForm) (r : Raw) : Raw := { r with d := sField o.d, a := sField o.a, imm := immAt o.n 0 }

def EvpopForm.parse (r : Raw) : Option EvpopForm := some { d := sOf r.d, a := sOf r.a, n := r.imm.extractLsb' 0 4 }

def RfenceForm.fill (o : RfenceForm) (r : Raw) : Raw := { r with d := sField o.d }

def RfenceForm.parse (r : Raw) : Option RfenceForm := some { d := sOf r.d }

def WmapForm.fill (o : WmapForm) (r : Raw) : Raw := { r with d := sField o.d, a := sField o.a, b := o.b.field, imm := o.b.immField }

def WmapForm.parse (r : Raw) : Option WmapForm := some { d := sOf r.d, a := sOf r.a, b := SSrc.of r.b r.imm }

def WunmapForm.fill (o : WunmapForm) (r : Raw) : Raw := { r with d := sField o.d, b := o.b.field, imm := o.b.immField }

def WunmapForm.parse (r : Raw) : Option WunmapForm := some { d := sOf r.d, b := SSrc.of r.b r.imm }

/-- ZSAVE names its tile in B, ZLOAD in D (R289). -/
def ZmemForm.fillSave (o : ZmemForm) (r : Raw) : Raw := { r with a := qField o.q, b := zField o.z, x := xM .core false o.ty }

def ZmemForm.parseSave (r : Raw) : Option ZmemForm := some { ty := Ty.ofCode (r.x.extractLsb' 0 4), z := zOf r.b, q := qOf r.a }

def ZmemForm.fillLoad (o : ZmemForm) (r : Raw) : Raw := { r with d := zField o.z, a := qField o.q, x := xM .core false o.ty }

def ZmemForm.parseLoad (r : Raw) : Option ZmemForm := some { ty := Ty.ofCode (r.x.extractLsb' 0 4), z := zOf r.d, q := qOf r.a }

/-- EQSAVE names its cursor in B, EQLOAD in D (R293). -/
def CursorMemForm.fillSave (o : CursorMemForm) (r : Raw) : Raw := { r with a := sField o.a, b := eField o.e, imm := o.off }

def CursorMemForm.parseSave (r : Raw) : Option CursorMemForm := some { e := eOf r.b, a := sOf r.a, off := r.imm }

def CursorMemForm.fillLoad (o : CursorMemForm) (r : Raw) : Raw := { r with d := eField o.e, a := sField o.a, imm := o.off }

def CursorMemForm.parseLoad (r : Raw) : Option CursorMemForm := some { e := eOf r.d, a := sOf r.a, off := r.imm }

/-- The fields of an instruction; an event has none. -/
def Instr.raw (i : Instr) : Option Raw :=
  match i with
  | .add c o => some (o.fill (Raw.base 0x01 0 c))
  | .sub c o => some (o.fill (Raw.base 0x01 1 c))
  | .and_ c o => some (o.fill (Raw.base 0x01 2 c))
  | .or_ c o => some (o.fill (Raw.base 0x01 3 c))
  | .xor_ c o => some (o.fill (Raw.base 0x01 4 c))
  | .andn c o => some (o.fill (Raw.base 0x01 5 c))
  | .sll c o => some (o.fill (Raw.base 0x01 6 c))
  | .srl c o => some (o.fill (Raw.base 0x01 7 c))
  | .sra c o => some (o.fill (Raw.base 0x01 8 c))
  | .min_ c o => some (o.fill (Raw.base 0x01 9 c))
  | .max_ c o => some (o.fill (Raw.base 0x01 10 c))
  | .slt c o => some (o.fill (Raw.base 0x01 11 c))
  | .mov c o => some (o.fill (Raw.base 0x01 12 c))
  | .mul c o => some (o.fill (Raw.base 0x02 0 c))
  | .mulh c o => some (o.fill (Raw.base 0x02 1 c))
  | .div c o => some (o.fill (Raw.base 0x02 2 c))
  | .rem c o => some (o.fill (Raw.base 0x02 3 c))
  | .clz c o => some (o.fill (Raw.base 0x03 0 c))
  | .ctz c o => some (o.fill (Raw.base 0x03 1 c))
  | .popc c o => some (o.fill (Raw.base 0x03 2 c))
  | .brev c o => some (o.fill (Raw.base 0x03 3 c))
  | .bswap c o => some (o.fill (Raw.base 0x03 4 c))
  | .ext_ c o => some (o.fill (Raw.base 0x03 5 c))
  | .movi c o => some (o.fill (Raw.base 0x04 0 c))
  | .movhi c o => some (o.fill (Raw.base 0x04 1 c))
  | .addpc c o => some (o.fill (Raw.base 0x05 0 c))
  | .ld c o => some (o.fill (Raw.base 0x08 0 c))
  | .lda c o => some (o.fill (Raw.base 0x08 1 c))
  | .st c o => some (o.fill (Raw.base 0x09 0 c))
  | .stl c o => some (o.fill (Raw.base 0x09 1 c))
  | .fadd c o => some (o.fill (Raw.base 0x20 0 c))
  | .fsub c o => some (o.fill (Raw.base 0x20 1 c))
  | .fmul c o => some (o.fill (Raw.base 0x20 2 c))
  | .fdiv c o => some (o.fill (Raw.base 0x20 3 c))
  | .fsqrt c o => some (o.fill (Raw.base 0x20 4 c))
  | .fmin c o => some (o.fill (Raw.base 0x20 5 c))
  | .fmax c o => some (o.fill (Raw.base 0x20 6 c))
  | .fcopys c o => some (o.fill (Raw.base 0x20 7 c))
  | .fcopyn c o => some (o.fill (Raw.base 0x20 8 c))
  | .fxsign c o => some (o.fill (Raw.base 0x20 9 c))
  | .fma c o => some (o.fill (Raw.base 0x21 0 c))
  | .fms c o => some (o.fill (Raw.base 0x21 1 c))
  | .fnma c o => some (o.fill (Raw.base 0x21 2 c))
  | .fnms c o => some (o.fill (Raw.base 0x21 3 c))
  | .fcvt c o => some (o.fill (Raw.base 0x22 0 c))
  | .fcvti c o => some (o.fill (Raw.base 0x22 1 c))
  | .icvtf c o => some (o.fill (Raw.base 0x22 2 c))
  | .fclass c o => some (o.fill (Raw.base 0x23 0 c))
  | .br c o => some (o.fill (Raw.base 0x30 0 c))
  | .bri c o => some (o.fill (Raw.base 0x30 1 c))
  | .call c o => some (o.fill (Raw.base 0x31 0 c))
  | .calli c o => some (o.fill (Raw.base 0x31 1 c))
  | .lsetup c o => some (o.fill (Raw.base 0x32 0 c))
  | .sysrd c o => some (o.fill (Raw.base 0x40 0 c))
  | .syswr c o => some (o.fill (Raw.base 0x41 0 c))
  | .eret c => some (Raw.base 0x42 0 c)
  | .nop c => some (Raw.base 0x43 0 c)
  | .yield c o => some (o.fill (Raw.base 0x43 1 c))
  | .yieldExpiry _ => none
  | .halt c => some (Raw.base 0x44 0 c)
  | .haltSlotRelease _ => none
  | .trap c o => some (o.fill (Raw.base 0x45 0 c))
  | .pcmp c o => some (o.fill (Raw.base 0x50 0 c))
  | .pand c o => some (o.fill (Raw.base 0x51 0 c))
  | .por c o => some (o.fill (Raw.base 0x51 1 c))
  | .pxor c o => some (o.fill (Raw.base 0x51 2 c))
  | .pandn c o => some (o.fill (Raw.base 0x51 3 c))
  | .pnot c o => some (o.fill (Raw.base 0x51 4 c))
  | .pmov c o => some (o.fill (Raw.base 0x51 5 c))
  | .mand c o => some (o.fill (Raw.base 0x52 0 c))
  | .mor c o => some (o.fill (Raw.base 0x52 1 c))
  | .mxor c o => some (o.fill (Raw.base 0x52 2 c))
  | .mandn c o => some (o.fill (Raw.base 0x52 3 c))
  | .mnot c o => some (o.fill (Raw.base 0x52 4 c))
  | .mmov c o => some (o.fill (Raw.base 0x52 5 c))
  | .mpopc c o => some (o.fill (Raw.base 0x53 0 c))
  | .mfirst c o => some (o.fill (Raw.base 0x53 1 c))
  | .vsetl c o => some (o.fill (Raw.base 0x60 0 c))
  | .vsett c o => some (o.fill (Raw.base 0x60 1 c))
  | .vadd c o => some (o.fill (Raw.base 0x61 0 c))
  | .vsub c o => some (o.fill (Raw.base 0x61 1 c))
  | .vrsub c o => some (o.fill (Raw.base 0x61 2 c))
  | .vmin c o => some (o.fill (Raw.base 0x61 3 c))
  | .vmax c o => some (o.fill (Raw.base 0x61 4 c))
  | .vabsd c o => some (o.fill (Raw.base 0x61 5 c))
  | .vavg c o => some (o.fill (Raw.base 0x61 6 c))
  | .vmul c o => some (o.fill (Raw.base 0x62 0 c))
  | .vmulh c o => some (o.fill (Raw.base 0x62 1 c))
  | .vmacc c o => some (o.fill (Raw.base 0x62 2 c))
  | .vdiv c o => some (o.fill (Raw.base 0x62 3 c))
  | .vrem c o => some (o.fill (Raw.base 0x62 4 c))
  | .vand c o => some (o.fill (Raw.base 0x63 0 c))
  | .vor c o => some (o.fill (Raw.base 0x63 1 c))
  | .vxor c o => some (o.fill (Raw.base 0x63 2 c))
  | .vsll c o => some (o.fill (Raw.base 0x63 3 c))
  | .vsrl c o => some (o.fill (Raw.base 0x63 4 c))
  | .vsra c o => some (o.fill (Raw.base 0x63 5 c))
  | .vwadd c o => some (o.fill (Raw.base 0x64 0 c))
  | .vwmul c o => some (o.fill (Raw.base 0x64 1 c))
  | .vwmacc c o => some (o.fill (Raw.base 0x64 2 c))
  | .vnshr c o => some (o.fill (Raw.base 0x64 3 c))
  | .vfadd c o => some (o.fill (Raw.base 0x68 0 c))
  | .vfsub c o => some (o.fill (Raw.base 0x68 1 c))
  | .vfmul c o => some (o.fill (Raw.base 0x68 2 c))
  | .vfdiv c o => some (o.fill (Raw.base 0x68 3 c))
  | .vfsqrt c o => some (o.fill (Raw.base 0x68 4 c))
  | .vfmin c o => some (o.fill (Raw.base 0x68 5 c))
  | .vfmax c o => some (o.fill (Raw.base 0x68 6 c))
  | .vfcopys c o => some (o.fill (Raw.base 0x68 7 c))
  | .vfcopyn c o => some (o.fill (Raw.base 0x68 8 c))
  | .vfxsign c o => some (o.fill (Raw.base 0x68 9 c))
  | .vfma c o => some (o.fill (Raw.base 0x69 0 c))
  | .vfms c o => some (o.fill (Raw.base 0x69 1 c))
  | .vfnma c o => some (o.fill (Raw.base 0x69 2 c))
  | .vfnms c o => some (o.fill (Raw.base 0x69 3 c))
  | .vfwadd c o => some (o.fill (Raw.base 0x6A 0 c))
  | .vfwmul c o => some (o.fill (Raw.base 0x6A 1 c))
  | .vfwma c o => some (o.fill (Raw.base 0x6A 2 c))
  | .vfcvt c o => some (o.fill (Raw.base 0x6B 0 c))
  | .vfcvti c o => some (o.fill (Raw.base 0x6B 1 c))
  | .vicvtf c o => some (o.fill (Raw.base 0x6B 2 c))
  | .vfclass c o => some (o.fill (Raw.base 0x6B 3 c))
  | .vcmp c o => some (o.fill (Raw.base 0x70 0 c))
  | .vmerge c o => some (o.fill (Raw.base 0x71 0 c))
  | .vmov c o => some (o.fill (Raw.base 0x71 1 c))
  | .vsplat c o => some (o.fill (Raw.base 0x71 2 c))
  | .vext c o => some (o.fill (Raw.base 0x71 3 c))
  | .vins c o => some (o.fill (Raw.base 0x71 4 c))
  | .vmrank c o => some (o.fill (Raw.base 0x71 5 c))
  | .vid c o => some (o.fill (Raw.base 0x71 6 c))
  | .vshuf c o => some (o.fill (Raw.base 0x90 0 c))
  | .vslideup c o => some (o.fill (Raw.base 0x90 1 c))
  | .vslidedn c o => some (o.fill (Raw.base 0x90 2 c))
  | .vcompress c o => some (o.fill (Raw.base 0x91 0 c))
  | .vexpand c o => some (o.fill (Raw.base 0x91 1 c))
  | .vredsum c o => some (o.fill (Raw.base 0x92 0 c))
  | .vredmin c o => some (o.fill (Raw.base 0x92 1 c))
  | .vredmax c o => some (o.fill (Raw.base 0x92 2 c))
  | .vredand c o => some (o.fill (Raw.base 0x92 3 c))
  | .vredor c o => some (o.fill (Raw.base 0x92 4 c))
  | .vredxor c o => some (o.fill (Raw.base 0x92 5 c))
  | .vfredo c o => some (o.fill (Raw.base 0x93 0 c))
  | .vfredt c o => some (o.fill (Raw.base 0x93 1 c))
  | .vfredmin c o => some (o.fill (Raw.base 0x93 2 c))
  | .vfredmax c o => some (o.fill (Raw.base 0x93 3 c))
  | .vdefer c o => some (o.fill (Raw.base 0x94 0 c))
  | .vdrain c o => some (o.fill (Raw.base 0x94 1 c))
  | .vdcount c o => some (o.fill (Raw.base 0x94 2 c))
  | .qsetUnit c o => some (o.fill (Raw.base 0xA0 0 c))
  | .qsetStride c o => some (o.fill (Raw.base 0xA0 1 c))
  | .qsetSeg c o => some (o.fill (Raw.base 0xA0 2 c))
  | .qsetInd c o => some (o.fill (Raw.base 0xA0 3 c))
  | .vld c o => some (o.fill (Raw.base 0xA1 0 c))
  | .vldseg c o => some (o.fill (Raw.base 0xA1 1 c))
  | .vst c o => some (o.fill (Raw.base 0xA2 0 c))
  | .vstseg c o => some (o.fill (Raw.base 0xA2 1 c))
  | .vstc c o => some (o.fill (Raw.base 0xA3 0 c))
  | .loadDataArrival _ _ => none
  | .mopa c o => some (o.fill (Raw.base 0xB0 0 c))
  | .mops c o => some (o.fill (Raw.base 0xB0 1 c))
  | .mstage c o => some (o.fill (Raw.base 0xB1 0 c))
  | .mswap c => some (Raw.base 0xB1 1 c)
  | .mstream c o => some (o.fill (Raw.base 0xB1 2 c))
  | .zread c o => some (o.fill (Raw.base 0xB2 0 c))
  | .zwrite c o => some (o.fill (Raw.base 0xB2 1 c))
  | .zzero c o => some (o.fill (Raw.base 0xB2 2 c))
  | .zsave c o => some (o.fillSave (Raw.base 0xB3 0 c))
  | .zload c o => some (o.fillLoad (Raw.base 0xB3 1 c))
  | .eqint c o => some (o.fill (Raw.base 0xC0 0 c))
  | .eqmrg c o => some (o.fill (Raw.base 0xC0 1 c))
  | .eqnz c o => some (o.fill (Raw.base 0xC0 2 c))
  | .eqnzCursorForm c o => some (o.fill (Raw.base 0xC0 2 c))
  | .eqsplt c o => some (o.fill (Raw.base 0xC1 0 c))
  | .eqsave c o => some (o.fillSave (Raw.base 0xC2 0 c))
  | .eqload c o => some (o.fillLoad (Raw.base 0xC2 1 c))
  | .tresize c o => some (o.fill (Raw.base 0xC8 0 c))
  | .tgive c o => some (o.fill (Raw.base 0xC8 1 c))
  | .tcopy c o => some (o.fill (Raw.base 0xC9 0 c))
  | .tcast c o => some (o.fill (Raw.base 0xC9 1 c))
  | .transferComplete _ => none
  | .mergeWindowClose _ => none
  | .tcastLineDelivery _ => none
  | .amo c o => some (o.fill (Raw.base 0xD0 0 c))
  | .vamo c o => some (o.fill (Raw.base 0xD1 0 c))
  | .vlock c o => some (o.fill (Raw.base 0xD2 0 c))
  | .vunlock c o => some (o.fill (Raw.base 0xD2 1 c))
  | .fence c o => some (o.fill (Raw.base 0xD3 0 c))
  | .barinit c o => some (o.fill (Raw.base 0xD4 0 c))
  | .bararv c o => some (o.fill (Raw.base 0xD4 1 c))
  | .barexp c o => some (o.fill (Raw.base 0xD4 2 c))
  | .barwait c o => some (o.fill (Raw.base 0xD4 3 c))
  | .barwaitReturn _ => none
  | .lsync c o => some (o.fill (Raw.base 0xD5 0 c))
  | .tlaunch c o => some (o.fill (Raw.base 0xE0 0 c))
  | .tlaunchCopy _ => none
  | .twait c o => some (o.fill (Raw.base 0xE0 1 c))
  | .evpop c o => some (o.fill (Raw.base 0xE1 0 c))
  | .rfence c o => some (o.fill (Raw.base 0xE2 0 c))
  | .wmap c o => some (o.fill (Raw.base 0xE3 0 c))
  | .wunmap c o => some (o.fill (Raw.base 0xE3 1 c))
  | .fetchPacket _ => none
  | .lanternIssue _ => none
  | .lanternForkCopyDone _ => none
  | .lanternPublish _ => none
  | .prefetchFill _ _ _ => none
  | .pinTimeout _ _ => none
  | .replWindowEnd _ _ _ => none
  | .combiningWriteback _ => none
  | .beaconPacketApply _ => none
  | .reflectTimeout _ => none
  | .linkFailureReport _ _ _ => none
  | .doorbell _ _ _ _ => none
  | .queueEnable _ _ _ => none
  | .queueDisable _ _ _ => none
  | .takeRecord _ _ => none
  | .residencyWalk _ _ => none
  | .lfstat _ _ _ => none
  | .dispatchRound _ _ _ => none
  | .gangResume _ => none
  | .gangSave _ => none
  | .taskRetire _ _ _ => none
  | .taskEnd _ _ _ => none
  | .preempt _ _ _ _ => none
  | .resume _ _ _ _ => none
  | .revoke _ _ _ _ => none
  | .claim _ => none
  | .respond _ => none
  | .handover _ _ => none
  | .release _ => none
  | .respondTimeout => none
  | .ownerLinkDown => none
  | .partitionEnable _ _ => none
  | .partitionDisable _ _ => none
  | .partitionDisableComplete _ => none
  | .runtimeStart _ _ _ => none
  | .runtimeStop _ _ => none
  | .shoot _ _ => none
  | .shootComplete _ => none
  | .drain _ _ => none
  | .drainBegin _ => none
  | .drainComplete _ => none
  | .confirm _ _ => none
  | .confirmComplete _ => none
  | .ssettle _ _ _ => none
  | .settleComplete _ => none
  | .formatRegionEnable _ _ _ => none
  | .formatRegionDisable _ _ _ => none
  | .replctl _ _ _ => none
  | .rflstat _ _ _ => none
  | .errstat _ _ _ => none
  | .evqstat _ _ _ _ => none
  | .bcncfg _ _ => none
  | .summer _ => none
  | .spring _ => none
  | .autumn _ => none
  | .autumnEntry => none
  | .winter _ => none
  | .dbgreq _ _ => none
  | .debugGangHalt _ _ => none
  | .attreq _ => none
  | .deviceReset => none
  | .linkTraining _ _ => none
  | .hostHdmWrite _ _ _ => none
  | .hostHdmRead _ _ _ => none
  | .uncorrectableError _ => none
  | .correctedError _ => none
  | .registerWrite _ _ _ => none
  | .linkDown _ => none
  | .debugGangResume _ _ => none
  | .debugMemoryWrite _ _ _ => none
  | .securityStateEntry _ => none
  | .ownerKeyReplace _ _ _ => none
  | .attestationReportReady _ => none
  | .powerTransitionComplete => none
  | .reflectionAcknowledgement _ _ _ => none
  | .hostCoherenceAccept => none

/-- The encoder: the word of an instruction (R105); an event has no word. -/
def encode (i : Instr) : Option (BitVec 96) := i.raw.map Raw.pack

def parseOp01 (c : Ctl) (r : Raw) : Option Instr :=
  match r.fn.toNat with
  | 0 => (ScalarBin.parse r).map (Instr.add c)
  | 1 => (ScalarBin.parse r).map (Instr.sub c)
  | 2 => (ScalarBin.parse r).map (Instr.and_ c)
  | 3 => (ScalarBin.parse r).map (Instr.or_ c)
  | 4 => (ScalarBin.parse r).map (Instr.xor_ c)
  | 5 => (ScalarBin.parse r).map (Instr.andn c)
  | 6 => (ScalarBin.parse r).map (Instr.sll c)
  | 7 => (ScalarBin.parse r).map (Instr.srl c)
  | 8 => (ScalarBin.parse r).map (Instr.sra c)
  | 9 => (ScalarBin.parse r).map (Instr.min_ c)
  | 10 => (ScalarBin.parse r).map (Instr.max_ c)
  | 11 => (ScalarBin.parse r).map (Instr.slt c)
  | 12 => (ScalarUn.parse r).map (Instr.mov c)
  | _ => none

def parseOp02 (c : Ctl) (r : Raw) : Option Instr :=
  match r.fn.toNat with
  | 0 => (ScalarBin.parse r).map (Instr.mul c)
  | 1 => (ScalarBin.parse r).map (Instr.mulh c)
  | 2 => (ScalarBin.parse r).map (Instr.div c)
  | 3 => (ScalarBin.parse r).map (Instr.rem c)
  | _ => none

def parseOp03 (c : Ctl) (r : Raw) : Option Instr :=
  match r.fn.toNat with
  | 0 => (ScalarUn.parse r).map (Instr.clz c)
  | 1 => (ScalarUn.parse r).map (Instr.ctz c)
  | 2 => (ScalarUn.parse r).map (Instr.popc c)
  | 3 => (ScalarUn.parse r).map (Instr.brev c)
  | 4 => (ScalarUn.parse r).map (Instr.bswap c)
  | 5 => (ExtForm.parse r).map (Instr.ext_ c)
  | _ => none

def parseOp04 (c : Ctl) (r : Raw) : Option Instr :=
  match r.fn.toNat with
  | 0 => (MoviForm.parse r).map (Instr.movi c)
  | 1 => (MovhiForm.parse r).map (Instr.movhi c)
  | _ => none

def parseOp05 (c : Ctl) (r : Raw) : Option Instr :=
  match r.fn.toNat with
  | 0 => (AddpcForm.parse r).map (Instr.addpc c)
  | _ => none

def parseOp08 (c : Ctl) (r : Raw) : Option Instr :=
  match r.fn.toNat with
  | 0 => (LoadForm.parse r).map (Instr.ld c)
  | 1 => (LoadForm.parse r).map (Instr.lda c)
  | _ => none

def parseOp09 (c : Ctl) (r : Raw) : Option Instr :=
  match r.fn.toNat with
  | 0 => (StoreForm.parse r).map (Instr.st c)
  | 1 => (StoreForm.parse r).map (Instr.stl c)
  | _ => none

def parseOp20 (c : Ctl) (r : Raw) : Option Instr :=
  match r.fn.toNat with
  | 0 => (FloatBin.parse r).map (Instr.fadd c)
  | 1 => (FloatBin.parse r).map (Instr.fsub c)
  | 2 => (FloatBin.parse r).map (Instr.fmul c)
  | 3 => (FloatBin.parse r).map (Instr.fdiv c)
  | 4 => (FloatUn.parse r).map (Instr.fsqrt c)
  | 5 => (FloatBin.parse r).map (Instr.fmin c)
  | 6 => (FloatBin.parse r).map (Instr.fmax c)
  | 7 => (FloatBin.parse r).map (Instr.fcopys c)
  | 8 => (FloatBin.parse r).map (Instr.fcopyn c)
  | 9 => (FloatBin.parse r).map (Instr.fxsign c)
  | _ => none

def parseOp21 (c : Ctl) (r : Raw) : Option Instr :=
  match r.fn.toNat with
  | 0 => (FloatBin.parse r).map (Instr.fma c)
  | 1 => (FloatBin.parse r).map (Instr.fms c)
  | 2 => (FloatBin.parse r).map (Instr.fnma c)
  | 3 => (FloatBin.parse r).map (Instr.fnms c)
  | _ => none

def parseOp22 (c : Ctl) (r : Raw) : Option Instr :=
  match r.fn.toNat with
  | 0 => (ConvertForm.parse r).map (Instr.fcvt c)
  | 1 => (ConvertForm.parse r).map (Instr.fcvti c)
  | 2 => (ConvertForm.parse r).map (Instr.icvtf c)
  | _ => none

def parseOp23 (c : Ctl) (r : Raw) : Option Instr :=
  match r.fn.toNat with
  | 0 => (ScalarUn.parse r).map (Instr.fclass c)
  | _ => none

def parseOp30 (c : Ctl) (r : Raw) : Option Instr :=
  match r.fn.toNat with
  | 0 => (BrForm.parse r).map (Instr.br c)
  | 1 => (BriForm.parse r).map (Instr.bri c)
  | _ => none

def parseOp31 (c : Ctl) (r : Raw) : Option Instr :=
  match r.fn.toNat with
  | 0 => (CallForm.parse r).map (Instr.call c)
  | 1 => (CalliForm.parse r).map (Instr.calli c)
  | _ => none

def parseOp32 (c : Ctl) (r : Raw) : Option Instr :=
  (LsetupForm.parse r).map (Instr.lsetup c)

def parseOp40 (c : Ctl) (r : Raw) : Option Instr :=
  match r.fn.toNat with
  | 0 => (SysrdForm.parse r).map (Instr.sysrd c)
  | _ => none

def parseOp41 (c : Ctl) (r : Raw) : Option Instr :=
  match r.fn.toNat with
  | 0 => (SyswrForm.parse r).map (Instr.syswr c)
  | _ => none

def parseOp42 (c : Ctl) (r : Raw) : Option Instr :=
  match r.fn.toNat with
  | 0 => some (Instr.eret c)
  | _ => none

def parseOp43 (c : Ctl) (r : Raw) : Option Instr :=
  match r.fn.toNat with
  | 0 => some (Instr.nop c)
  | 1 => (YieldForm.parse r).map (Instr.yield c)
  | _ => none

def parseOp44 (c : Ctl) (r : Raw) : Option Instr :=
  match r.fn.toNat with
  | 0 => some (Instr.halt c)
  | _ => none

def parseOp45 (c : Ctl) (r : Raw) : Option Instr :=
  match r.fn.toNat with
  | 0 => (TrapForm.parse r).map (Instr.trap c)
  | _ => none

def parseOp50 (c : Ctl) (r : Raw) : Option Instr :=
  (PcmpForm.parse r).map (Instr.pcmp c)

def parseOp51 (c : Ctl) (r : Raw) : Option Instr :=
  match r.fn.toNat with
  | 0 => (PredBin.parse r).map (Instr.pand c)
  | 1 => (PredBin.parse r).map (Instr.por c)
  | 2 => (PredBin.parse r).map (Instr.pxor c)
  | 3 => (PredBin.parse r).map (Instr.pandn c)
  | 4 => (PredUn.parse r).map (Instr.pnot c)
  | 5 => (PredUn.parse r).map (Instr.pmov c)
  | _ => none

def parseOp52 (c : Ctl) (r : Raw) : Option Instr :=
  match r.fn.toNat with
  | 0 => (MaskBin.parse r).map (Instr.mand c)
  | 1 => (MaskBin.parse r).map (Instr.mor c)
  | 2 => (MaskBin.parse r).map (Instr.mxor c)
  | 3 => (MaskBin.parse r).map (Instr.mandn c)
  | 4 => (MaskUn.parse r).map (Instr.mnot c)
  | 5 => (MaskUn.parse r).map (Instr.mmov c)
  | _ => none

def parseOp53 (c : Ctl) (r : Raw) : Option Instr :=
  match r.fn.toNat with
  | 0 => (MaskRead.parse r).map (Instr.mpopc c)
  | 1 => (MaskRead.parse r).map (Instr.mfirst c)
  | _ => none

def parseOp60 (c : Ctl) (r : Raw) : Option Instr :=
  match r.fn.toNat with
  | 0 => (SetForm.parse r).map (Instr.vsetl c)
  | 1 => (SetForm.parse r).map (Instr.vsett c)
  | _ => none

def parseOp61 (c : Ctl) (r : Raw) : Option Instr :=
  match r.fn.toNat with
  | 0 => (VecBin.parse r).map (Instr.vadd c)
  | 1 => (VecBin.parse r).map (Instr.vsub c)
  | 2 => (VecBin.parse r).map (Instr.vrsub c)
  | 3 => (VecBin.parse r).map (Instr.vmin c)
  | 4 => (VecBin.parse r).map (Instr.vmax c)
  | 5 => (VecBin.parse r).map (Instr.vabsd c)
  | 6 => (VecBin.parse r).map (Instr.vavg c)
  | _ => none

def parseOp62 (c : Ctl) (r : Raw) : Option Instr :=
  match r.fn.toNat with
  | 0 => (VecBin.parse r).map (Instr.vmul c)
  | 1 => (VecBin.parse r).map (Instr.vmulh c)
  | 2 => (VecBin.parse r).map (Instr.vmacc c)
  | 3 => (VecBin.parse r).map (Instr.vdiv c)
  | 4 => (VecBin.parse r).map (Instr.vrem c)
  | _ => none

def parseOp63 (c : Ctl) (r : Raw) : Option Instr :=
  match r.fn.toNat with
  | 0 => (VecBin.parse r).map (Instr.vand c)
  | 1 => (VecBin.parse r).map (Instr.vor c)
  | 2 => (VecBin.parse r).map (Instr.vxor c)
  | 3 => (VecBin.parse r).map (Instr.vsll c)
  | 4 => (VecBin.parse r).map (Instr.vsrl c)
  | 5 => (VecBin.parse r).map (Instr.vsra c)
  | _ => none

def parseOp64 (c : Ctl) (r : Raw) : Option Instr :=
  match r.fn.toNat with
  | 0 => (VecBin.parse r).map (Instr.vwadd c)
  | 1 => (VecBin.parse r).map (Instr.vwmul c)
  | 2 => (VecBin.parse r).map (Instr.vwmacc c)
  | 3 => (VecNarrow.parse r).map (Instr.vnshr c)
  | _ => none

def parseOp68 (c : Ctl) (r : Raw) : Option Instr :=
  match r.fn.toNat with
  | 0 => (VecFloatBin.parse r).map (Instr.vfadd c)
  | 1 => (VecFloatBin.parse r).map (Instr.vfsub c)
  | 2 => (VecFloatBin.parse r).map (Instr.vfmul c)
  | 3 => (VecFloatBin.parse r).map (Instr.vfdiv c)
  | 4 => (VecFloatUn.parse r).map (Instr.vfsqrt c)
  | 5 => (VecFloatBin.parse r).map (Instr.vfmin c)
  | 6 => (VecFloatBin.parse r).map (Instr.vfmax c)
  | 7 => (VecFloatBin.parse r).map (Instr.vfcopys c)
  | 8 => (VecFloatBin.parse r).map (Instr.vfcopyn c)
  | 9 => (VecFloatBin.parse r).map (Instr.vfxsign c)
  | _ => none

def parseOp69 (c : Ctl) (r : Raw) : Option Instr :=
  match r.fn.toNat with
  | 0 => (VecFloatBin.parse r).map (Instr.vfma c)
  | 1 => (VecFloatBin.parse r).map (Instr.vfms c)
  | 2 => (VecFloatBin.parse r).map (Instr.vfnma c)
  | 3 => (VecFloatBin.parse r).map (Instr.vfnms c)
  | _ => none

def parseOp6A (c : Ctl) (r : Raw) : Option Instr :=
  match r.fn.toNat with
  | 0 => (VecFloatBin.parse r).map (Instr.vfwadd c)
  | 1 => (VecFloatBin.parse r).map (Instr.vfwmul c)
  | 2 => (VecFloatBin.parse r).map (Instr.vfwma c)
  | _ => none

def parseOp6B (c : Ctl) (r : Raw) : Option Instr :=
  match r.fn.toNat with
  | 0 => (VecConvert.parse r).map (Instr.vfcvt c)
  | 1 => (VecConvert.parse r).map (Instr.vfcvti c)
  | 2 => (VecConvert.parse r).map (Instr.vicvtf c)
  | 3 => (VecUn.parse r).map (Instr.vfclass c)
  | _ => none

def parseOp70 (c : Ctl) (r : Raw) : Option Instr :=
  (VcmpForm.parse r).map (Instr.vcmp c)

def parseOp71 (c : Ctl) (r : Raw) : Option Instr :=
  match r.fn.toNat with
  | 0 => (VmergeForm.parse r).map (Instr.vmerge c)
  | 1 => (VecUn.parse r).map (Instr.vmov c)
  | 2 => (VsplatForm.parse r).map (Instr.vsplat c)
  | 3 => (VextForm.parse r).map (Instr.vext c)
  | 4 => (VinsForm.parse r).map (Instr.vins c)
  | 5 => (VmrankForm.parse r).map (Instr.vmrank c)
  | 6 => (VidForm.parse r).map (Instr.vid c)
  | _ => none

def parseOp90 (c : Ctl) (r : Raw) : Option Instr :=
  match r.fn.toNat with
  | 0 => (VshufForm.parse r).map (Instr.vshuf c)
  | 1 => (VslideForm.parse r).map (Instr.vslideup c)
  | 2 => (VslideForm.parse r).map (Instr.vslidedn c)
  | _ => none

def parseOp91 (c : Ctl) (r : Raw) : Option Instr :=
  match r.fn.toNat with
  | 0 => (VcompressForm.parse r).map (Instr.vcompress c)
  | 1 => (VexpandForm.parse r).map (Instr.vexpand c)
  | _ => none

def parseOp92 (c : Ctl) (r : Raw) : Option Instr :=
  match r.fn.toNat with
  | 0 => (VecReduce.parse r).map (Instr.vredsum c)
  | 1 => (VecReduce.parse r).map (Instr.vredmin c)
  | 2 => (VecReduce.parse r).map (Instr.vredmax c)
  | 3 => (VecReduce.parse r).map (Instr.vredand c)
  | 4 => (VecReduce.parse r).map (Instr.vredor c)
  | 5 => (VecReduce.parse r).map (Instr.vredxor c)
  | _ => none

def parseOp93 (c : Ctl) (r : Raw) : Option Instr :=
  match r.fn.toNat with
  | 0 => (VecFloatReduce.parse r).map (Instr.vfredo c)
  | 1 => (VecFloatReduce.parse r).map (Instr.vfredt c)
  | 2 => (VecFloatReduce.parse r).map (Instr.vfredmin c)
  | 3 => (VecFloatReduce.parse r).map (Instr.vfredmax c)
  | _ => none

def parseOp94 (c : Ctl) (r : Raw) : Option Instr :=
  match r.fn.toNat with
  | 0 => (VdeferForm.parse r).map (Instr.vdefer c)
  | 1 => (VdrainForm.parse r).map (Instr.vdrain c)
  | 2 => (VdcountForm.parse r).map (Instr.vdcount c)
  | _ => none

def parseOpA0 (c : Ctl) (r : Raw) : Option Instr :=
  match r.fn.toNat with
  | 0 => (QsetForm.parse r).map (Instr.qsetUnit c)
  | 1 => (QsetForm.parse r).map (Instr.qsetStride c)
  | 2 => (QsetSegForm.parse r).map (Instr.qsetSeg c)
  | 3 => (QsetIndForm.parse r).map (Instr.qsetInd c)
  | _ => none

def parseOpA1 (c : Ctl) (r : Raw) : Option Instr :=
  match r.fn.toNat with
  | 0 => (VloadForm.parse r).map (Instr.vld c)
  | 1 => (VloadForm.parse r).map (Instr.vldseg c)
  | _ => none

def parseOpA2 (c : Ctl) (r : Raw) : Option Instr :=
  match r.fn.toNat with
  | 0 => (VstoreForm.parse r).map (Instr.vst c)
  | 1 => (VstoreForm.parse r).map (Instr.vstseg c)
  | _ => none

def parseOpA3 (c : Ctl) (r : Raw) : Option Instr :=
  match r.fn.toNat with
  | 0 => (VstoreForm.parse r).map (Instr.vstc c)
  | _ => none

def parseOpB0 (c : Ctl) (r : Raw) : Option Instr :=
  match r.fn.toNat with
  | 0 => (MopaForm.parse r).map (Instr.mopa c)
  | 1 => (MopaForm.parse r).map (Instr.mops c)
  | _ => none

def parseOpB1 (c : Ctl) (r : Raw) : Option Instr :=
  match r.fn.toNat with
  | 0 => (MstageForm.parse r).map (Instr.mstage c)
  | 1 => some (Instr.mswap c)
  | 2 => (MstreamForm.parse r).map (Instr.mstream c)
  | _ => none

def parseOpB2 (c : Ctl) (r : Raw) : Option Instr :=
  match r.fn.toNat with
  | 0 => (ZreadForm.parse r).map (Instr.zread c)
  | 1 => (ZwriteForm.parse r).map (Instr.zwrite c)
  | 2 => (ZzeroForm.parse r).map (Instr.zzero c)
  | _ => none

def parseOpB3 (c : Ctl) (r : Raw) : Option Instr :=
  match r.fn.toNat with
  | 0 => (ZmemForm.parseSave r).map (Instr.zsave c)
  | 1 => (ZmemForm.parseLoad r).map (Instr.zload c)
  | _ => none

def parseOpC0 (c : Ctl) (r : Raw) : Option Instr :=
  match r.fn.toNat with
  | 0 => (EqintForm.parse r).map (Instr.eqint c)
  | 1 => (EqmrgForm.parse r).map (Instr.eqmrg c)
  | 2 => if r.a.extractLsb' 6 2 = 0b01#2 then (EqnzForm.parse r).map (Instr.eqnz c)
         else (EqnzCursorForm.parse r).map (Instr.eqnzCursorForm c)
  | _ => none

def parseOpC1 (c : Ctl) (r : Raw) : Option Instr :=
  match r.fn.toNat with
  | 0 => (EqspltForm.parse r).map (Instr.eqsplt c)
  | _ => none

def parseOpC2 (c : Ctl) (r : Raw) : Option Instr :=
  match r.fn.toNat with
  | 0 => (CursorMemForm.parseSave r).map (Instr.eqsave c)
  | 1 => (CursorMemForm.parseLoad r).map (Instr.eqload c)
  | _ => none

def parseOpC8 (c : Ctl) (r : Raw) : Option Instr :=
  match r.fn.toNat with
  | 0 => (TresizeForm.parse r).map (Instr.tresize c)
  | 1 => (TgiveForm.parse r).map (Instr.tgive c)
  | _ => none

def parseOpC9 (c : Ctl) (r : Raw) : Option Instr :=
  match r.fn.toNat with
  | 0 => (TcopyForm.parse r).map (Instr.tcopy c)
  | 1 => (TcastForm.parse r).map (Instr.tcast c)
  | _ => none

def parseOpD0 (c : Ctl) (r : Raw) : Option Instr :=
  match r.fn.toNat with
  | 0 => (AmoForm.parse r).map (Instr.amo c)
  | _ => none

def parseOpD1 (c : Ctl) (r : Raw) : Option Instr :=
  match r.fn.toNat with
  | 0 => (VamoForm.parse r).map (Instr.vamo c)
  | _ => none

def parseOpD2 (c : Ctl) (r : Raw) : Option Instr :=
  match r.fn.toNat with
  | 0 => (VlockForm.parse r).map (Instr.vlock c)
  | 1 => (VunlockForm.parse r).map (Instr.vunlock c)
  | _ => none

def parseOpD3 (c : Ctl) (r : Raw) : Option Instr :=
  match r.fn.toNat with
  | 0 => (FenceForm.parse r).map (Instr.fence c)
  | _ => none

def parseOpD4 (c : Ctl) (r : Raw) : Option Instr :=
  match r.fn.toNat with
  | 0 => (BarinitForm.parse r).map (Instr.barinit c)
  | 1 => (BararvForm.parse r).map (Instr.bararv c)
  | 2 => (BarForm.parse r).map (Instr.barexp c)
  | 3 => (BarForm.parse r).map (Instr.barwait c)
  | _ => none

def parseOpD5 (c : Ctl) (r : Raw) : Option Instr :=
  match r.fn.toNat with
  | 0 => (LsyncForm.parse r).map (Instr.lsync c)
  | _ => none

def parseOpE0 (c : Ctl) (r : Raw) : Option Instr :=
  match r.fn.toNat with
  | 0 => (TlaunchForm.parse r).map (Instr.tlaunch c)
  | 1 => (TwaitForm.parse r).map (Instr.twait c)
  | _ => none

def parseOpE1 (c : Ctl) (r : Raw) : Option Instr :=
  match r.fn.toNat with
  | 0 => (EvpopForm.parse r).map (Instr.evpop c)
  | _ => none

def parseOpE2 (c : Ctl) (r : Raw) : Option Instr :=
  match r.fn.toNat with
  | 0 => (RfenceForm.parse r).map (Instr.rfence c)
  | _ => none

def parseOpE3 (c : Ctl) (r : Raw) : Option Instr :=
  match r.fn.toNat with
  | 0 => (WmapForm.parse r).map (Instr.wmap c)
  | 1 => (WunmapForm.parse r).map (Instr.wunmap c)
  | _ => none

/-- The opcode map (R119) on OP; a reserved OP answers none. -/
def parseOp (c : Ctl) (r : Raw) : Option Instr :=
  match r.op.toNat with
  | 0x01 => parseOp01 c r
  | 0x02 => parseOp02 c r
  | 0x03 => parseOp03 c r
  | 0x04 => parseOp04 c r
  | 0x05 => parseOp05 c r
  | 0x08 => parseOp08 c r
  | 0x09 => parseOp09 c r
  | 0x20 => parseOp20 c r
  | 0x21 => parseOp21 c r
  | 0x22 => parseOp22 c r
  | 0x23 => parseOp23 c r
  | 0x30 => parseOp30 c r
  | 0x31 => parseOp31 c r
  | 0x32 => parseOp32 c r
  | 0x40 => parseOp40 c r
  | 0x41 => parseOp41 c r
  | 0x42 => parseOp42 c r
  | 0x43 => parseOp43 c r
  | 0x44 => parseOp44 c r
  | 0x45 => parseOp45 c r
  | 0x50 => parseOp50 c r
  | 0x51 => parseOp51 c r
  | 0x52 => parseOp52 c r
  | 0x53 => parseOp53 c r
  | 0x60 => parseOp60 c r
  | 0x61 => parseOp61 c r
  | 0x62 => parseOp62 c r
  | 0x63 => parseOp63 c r
  | 0x64 => parseOp64 c r
  | 0x68 => parseOp68 c r
  | 0x69 => parseOp69 c r
  | 0x6A => parseOp6A c r
  | 0x6B => parseOp6B c r
  | 0x70 => parseOp70 c r
  | 0x71 => parseOp71 c r
  | 0x90 => parseOp90 c r
  | 0x91 => parseOp91 c r
  | 0x92 => parseOp92 c r
  | 0x93 => parseOp93 c r
  | 0x94 => parseOp94 c r
  | 0xA0 => parseOpA0 c r
  | 0xA1 => parseOpA1 c r
  | 0xA2 => parseOpA2 c r
  | 0xA3 => parseOpA3 c r
  | 0xB0 => parseOpB0 c r
  | 0xB1 => parseOpB1 c r
  | 0xB2 => parseOpB2 c r
  | 0xB3 => parseOpB3 c r
  | 0xC0 => parseOpC0 c r
  | 0xC1 => parseOpC1 c r
  | 0xC2 => parseOpC2 c r
  | 0xC8 => parseOpC8 c r
  | 0xC9 => parseOpC9 c r
  | 0xD0 => parseOpD0 c r
  | 0xD1 => parseOpD1 c r
  | 0xD2 => parseOpD2 c r
  | 0xD3 => parseOpD3 c r
  | 0xD4 => parseOpD4 c r
  | 0xD5 => parseOpD5 c r
  | 0xE0 => parseOpE0 c r
  | 0xE1 => parseOpE1 c r
  | 0xE2 => parseOpE2 c r
  | 0xE3 => parseOpE3 c r
  | _ => none

/-- The instruction whose fields a word holds, before the checks of R118. -/
def parse (r : Raw) : Option Instr := (Ctl.parse r).bind fun c => parseOp c r

/-- What steps 4 to 6 of R117 make of a word. -/
inductive Decoded where
  | instr (i : Instr)
  | zeroWord
  | onesWord
  | malformed
  deriving DecidableEq, Repr

/-- Step 6 of R117: the well-formed instruction of a word, or none (R118). -/
def decodeWord (w : BitVec 96) : Option Instr :=
  match parse (Raw.unpack w) with
  | some i => if i.wf = true ∧ i.raw = some (Raw.unpack w) then some i else none
  | none => none

/-- Steps 4 to 6 of R117, in order. -/
def decode (w : BitVec 96) : Decoded :=
  if w = 0 then .zeroWord
  else if w = BitVec.allOnes 96 then .onesWord
  else match decodeWord w with
    | some i => .instr i
    | none => .malformed

/-- The word of the first 12 bytes, little-endian (R106), and the bytes that follow. -/
def wordOfBytes (bs : List Byte) : Option (BitVec 96 × List Byte) :=
  if bs.length < 12 then none
  else some ((bs.take 12).foldr (fun b w => (w <<< 8) ||| b.setWidth 96) 0, bs.drop 12)

/-- The 12 bytes of a word, from the lowest address (R106). -/
def bytesOfWord (w : BitVec 96) : List Byte := (List.range 12).map fun k => w.extractLsb' (8 * k) 8

/-- Decoding a list of bytes: the first instruction and the rest, or why there is none. -/
def decodeBytes (bs : List Byte) : Option (Decoded × List Byte) :=
  (wordOfBytes bs).map fun p => (decode p.1, p.2)

/-- The instruction of the word `w`, bit 0 the least significant bit of the first byte. The bits
from `nbits` up are zero. -/
def decodeTableWord (nbits w : Nat) : Option Instr :=
  match decodeBytes (bytesOfWord (BitVec.ofNat 96 (w % 2 ^ nbits))) with
  | some (.instr i, _) => some i
  | _ => none

end Sys2Proof
end

