-- ==== Sys2Proof/Machine/Slices.lean ====
section
/-! DEFINITION. The registers that an instruction reads and writes, as the Lantern's poison (R140) and the
slice table (R141) follow them. -/

namespace Sys2Proof.Machine

/-! ## Registers of an instruction -/

/-- The register that an operand field names (R107); s0, p0 and m0 carry no poison. -/
def fieldReg (f : BitVec 8) : Option LanternReg :=
  let i := f.toNat % 64
  match f.toNat / 64 with
  | 0 => if i = 0 then none else some (.s (BitVec.ofNat 6 i))
  | 1 => some (.v (BitVec.ofNat 6 i))
  | 2 =>
    if i = 0 ∨ i = 16 then none
    else if i < 16 then some (.m (BitVec.ofNat 4 i))
    else if i < 24 then some (.p (BitVec.ofNat 3 (i - 16)))
    else if i < 40 then some (.q (BitVec.ofNat 4 (i - 24)))
    else if i < 44 then some (.e (BitVec.ofNat 2 (i - 40)))
    else none
  | _ => none

def fieldRegs (f : BitVec 8) : List LanternReg := (fieldReg f).toList

def LanternReg.isCursor : LanternReg → Bool
  | .e _ => true
  | _ => false

/-- The mask register that M enables. -/
def maskReg (r : Raw) : List LanternReg :=
  if r.m.getLsbD 5 then fieldRegs (0b1000#4 ++ r.m.extractLsb' 0 4) else []

/-- `n` vector registers from `d` on. -/
def vectorRegs (d : VIdx) (n : Nat) : List LanternReg := (List.range n).map fun k => .v (d + BitVec.ofNat 6 k)

/-- A stream register, with the index stream of an indirect one (R265, R267). -/
def streamRegs (x : Regs) (q : QIdx) : List LanternReg :=
  let st := rget x.q q
  if st.kind = 4 then [.q q, .q st.idx] else [.q q]

/-- The walks of a stream: vector memory and VAMO (R26, R146). -/
def isWalk (op : Nat) : Bool := op == 0xA1 || op == 0xA2 || op == 0xA3 || op == 0xD1

/-- The vector integer forms (R26, R27, R141): OP 0x61 to 0x64, and compares and moves of a TYPE that is no
floating one. -/
def isVecInt (i : Instr) (op : Nat) : Bool :=
  match i with
  | .vcmp _ o => !o.ty.isFloat
  | .vmerge _ o => !o.ty.isFloat
  | .vmov _ o => !o.ty.isFloat
  | .vsplat _ o => !o.ty.isFloat
  | .vext _ o => !o.ty.isFloat
  | .vins _ o => !o.ty.isFloat
  | _ => (decide (0x61 ≤ op) && decide (op ≤ 0x64)) || op == 0x71

/-- The streams and cursors that an instruction moves on (R272, R292, R303). -/
def movedRegs (x : Regs) : Instr → List LanternReg
  | .vld _ o => streamRegs x o.q
  | .vldseg _ o => streamRegs x o.q
  | .vst _ o => streamRegs x o.q
  | .vstseg _ o => streamRegs x o.q
  | .vstc _ o => streamRegs x o.q
  | .vamo _ o => streamRegs x o.q
  | .mstage _ o => streamRegs x o.q
  | .zsave _ o => streamRegs x o.q
  | .zload _ o => streamRegs x o.q
  | .tcopy _ o => streamRegs x o.d ++ streamRegs x o.a
  | .eqint _ o => [.e o.a, .e o.b]
  | .eqmrg _ o => [.e o.a, .e o.b]
  | .eqnzCursorForm _ o => [.e o.a]
  | _ => []

/-- The registers that an instruction writes beside the one its D field names: of a segment load's stream
`x` gives the fields. -/
def moreResults (x : Regs) : Instr → List LanternReg
  | .vsetl _ _ => [.vl]
  | .vsett _ _ => [.vl, .vtype]
  | .vldseg _ o => vectorRegs (o.d + 1) (rget x.q o.q).nf
  | .vdrain _ o => .vl :: vectorRegs o.a (o.n1.toNat + 1)
  | .lsetup _ o => let k := o.loop1.toNat; [.loop k, .loop (2 + k), .loop (4 + k)]
  | .eqint _ o => [.v (o.d + 1), .vl]
  | .eqmrg _ o => [.v (o.d + 1), .v (o.d + 2), .m o.n, .m (o.n + 1), .vl]
  | .eqnz _ _ => [.vl]
  | .eqnzCursorForm _ _ => [.vl]
  | _ => []

/-- The D field names no register that the instruction writes: stores. -/
def isStore : Instr → Bool
  | .st _ _ => true
  | .stl _ _ => true
  | .vst _ _ => true
  | .vstseg _ _ => true
  | .vstc _ _ => true
  | .eqsave _ _ => true
  | _ => false

/-- What an instruction computes: its destinations but the streams and cursors that it only moves on. -/
def resultRegs (x : Regs) (i : Instr) (r : Raw) : List LanternReg :=
  (if isStore i then [] else fieldRegs r.d) ++ moreResults x i

/-- Every register that an instruction writes. -/
def destRegs (x : Regs) (i : Instr) (r : Raw) : List LanternReg := resultRegs x i r ++ movedRegs x i

/-- The D register keeps some of what it held: it is a source too (R111, R248, R256). -/
def readsD (i : Instr) (r : Raw) : Bool :=
  match i with
  | .vmacc _ _ => true
  | .vwmacc _ _ => true
  | .vins _ _ => true
  | .vmerge _ _ => false
  | _ => decide (0x60 ≤ r.op.toNat) && decide (r.op.toNat ≤ 0x9F) && r.m.getLsbD 5 && !r.m.getLsbD 4

/-- The registers whose values go into what an instruction computes. -/
def sourceRegs (i : Instr) (r : Raw) : List LanternReg :=
  fieldRegs r.a ++ fieldRegs r.b ++ maskReg r ++ (if readsD i r then fieldRegs r.d else [])

/-! ## The slice table (R141) -/

/-- The tag of an instruction: PC[21:2]. -/
def sliceTag (pc : Word) : Nat := bits pc 2 20

def SliceEntry.names (e : SliceEntry) (side tag : Nat) : Bool := e.side == side && e.tag == tag

/-- The table marks the instruction at a PC of a hart slot. -/
def sliceMarks (s : State) (slot : Nat) (pc : Word) : Bool :=
  (s.pair (pairOf slot)).slices.any fun e => e.names (sideOf slot) (sliceTag pc)

/-- An instruction executes once more: after 256 executions whose results fed no address its entry is
cleared. -/
def countExecution (side tag : Nat) (l : List SliceEntry) : List SliceEntry :=
  l.filterMap fun e =>
    if e.names side tag then (if 256 ≤ e.idle then none else some { e with idle := e.idle + 1 }) else some e

def LanternCopy.bad (c : LanternCopy) (x : LanternReg) : Bool := c.poison.any fun e => e.1 == x

/-- The Lantern holds a result as poison: it left the instruction that made it as poison, or the result lay in
a register that a fork makes poison (R140, R141). -/
def Feed.isHeld (copy : Option LanternCopy) (f : Feed) : Bool :=
  match copy with
  | none => false
  | some c => f.held || f.at_.any c.skipped.contains

/-- A result has fed an address: its entry is set where the Lantern held the result as poison. Of more
than 1024 entries the oldest leaves (DESIGN CHOICE, log entry 55). -/
def feedAddress (side : Nat) (copy : Option LanternCopy) (l : List SliceEntry) (f : Feed) : List SliceEntry :=
  if l.any fun e => e.names side f.tag then l.map fun e => if e.names side f.tag then { e with idle := 0 } else e
  else if f.isHeld copy then l.drop (l.length - 1023) ++ [{ side := side, tag := f.tag }]
  else l

/-- The results that a register carries. -/
def feedsOf (l : List (LanternReg × List Feed)) (x : LanternReg) : List Feed :=
  match l.find? fun e => e.1 == x with
  | some e => e.2
  | none => []

/-- Registers come to carry results. -/
def setFeeds (l : List (LanternReg × List Feed)) (xs : List LanternReg) (t : List Feed) : List (LanternReg × List Feed) :=
  (l.filter fun e => !xs.contains e.1) ++ if t.isEmpty then [] else xs.map fun x => (x, t)

/-- The results as a fork leaves them: those in v0 to v63 are poison in the copy, and the others are not
(R140). -/
def forkFeeds (l : List (LanternReg × List Feed)) : List (LanternReg × List Feed) :=
  l.map fun e => (e.1, e.2.map fun f => { f with at_ := none, held := match e.1 with
    | .v _ => true
    | _ => false })

/-- The registers that give the addresses of a stream walk, with its index stream, or of an Equinox
cursor. -/
def addressRegs (x : Regs) (i : Instr) : List LanternReg :=
  match i with
  | .eqsplt _ o => [.e o.e, .s o.a]
  | _ => movedRegs x i

/-- What an instruction computes is made of its sources: not a value that it loads. -/
def passesFeeds (op : Nat) : Bool := (decide (op ≤ 0x9F) && op != 0x08) || op == 0xA0

/-- What the trailing core sees as it first issues an instruction whose guard is true (R141): the slice table's entries of the
results that feed an address, and the results that the registers then carry. -/
def noteFeeds (s : State) (slot : Nat) (h : Hart) (i : Instr) : State :=
  match i.raw with
  | none => s
  | some r =>
    let op := r.op.toNat
    let makes := isVecInt i op
    if isLamp slot || (h.lantern.feeds.isEmpty && !makes) || h.vstart != 0 || !guardTrue h ((Ctl.parse r).getD {}) then s
    else
      let side := sideOf slot
      let tag := sliceTag h.pc
      let fed := (addressRegs h.regs i).flatMap (feedsOf h.lantern.feeds)
      let p := s.pair (pairOf slot)
      let l := fed.foldl (feedAddress side h.lantern.copy) p.slices
      let l := if makes then countExecution side tag l else l
      let own : List Feed := if makes then [{ tag := tag, at_ := some h.lantern.seq }] else []
      let carried := if passesFeeds op then (own ++ (sourceRegs i r).flatMap (feedsOf h.lantern.feeds)).eraseDups else []
      (s.setPair (pairOf slot) { p with slices := l }).modHart slot fun h =>
        { h with lantern := { h.lantern with feeds := setFeeds h.lantern.feeds (resultRegs h.regs i r) carried } }

end Sys2Proof.Machine
end

