-- ==== Sys2Proof/Machine/Schedule.lean ====
section
/-! DEFINITION. Fetching an instruction (R117, R120, R121) and beginning an agent's turn (log entry 1). -/

namespace Sys2Proof.Machine

/-- Packet addresses that hold bytes of the word at `a`, with the first and last byte in each (R120). -/
def packetsOf (a : Nat) : List (Nat × Nat × Nat) :=
  let b := a / 32 * 32
  if a + 11 < b + 32 then [(b, a, a + 11)] else [(b, a, b + 31), (b + 32, b + 32, a + 11)]

/-- Steps 1 and 2 of R117 for the packets of a word: the physical address of each packet. -/
def fetchPlaces (s : State) (slot : Nat) (h : Hart) (r : List Byte) : List (Nat × Nat × Nat) → Except Denied (List (Nat × Nat × Nat))
  | [] => .ok []
  | (b, lo, hi) :: rest =>
    match translatePage s slot h r lo false with
    | .error d => .error d
    | .ok (pa, _) =>
      match fetchPlaces s slot h r rest with
      | .error d => .error d
      | .ok l => .ok ((pa + b % 65536, lo - b, hi - b) :: l)

/-- Step 3 of R117 for one packet, with the links and pins of a read (R97, R318): one access, of the packet's PA.
The places of the packet's other poisoned bytes stay with it (R120). -/
def fetchPacketRead (s : State) (slot va pa lo hi : Nat) : Except Denied (List Byte × List Nat) :=
  if hostReadFails s (pa + lo) (hi - lo + 1) then .error (.linkPoison (va + hostPoisonAt s (pa + lo) (hi - lo + 1)) pa)
  else match pinnedElsewhere s (pairOfAgent slot) (pa + lo) (hi - lo + 1) with
    | some k => .error (.retry k (pa + lo) (hi - lo + 1))
    | none =>
      match readPoison s slot (pa + lo) (hi - lo + 1) with
      | some b => .error (.trap .poison (BitVec.ofNat 64 (va + (b - pa - lo))))
      | none => .ok (physReadBytes s pa 32, (List.range 32).filter fun k => (readPoison s slot (pa + k) 1).isSome)

def fetchReads (s : State) (slot : Nat) : List (Nat × Nat × Nat) → List (Nat × Nat × Nat) → Except Denied (List Packet)
  | (b, lo, _) :: vs, (pa, o, p) :: ps =>
    match fetchPacketRead s slot lo pa o p with
    | .error d => .error d
    | .ok (bs, bad) =>
      match fetchReads s slot vs ps with
      | .error d => .error d
      | .ok l => .ok ({ va := b, bytes := bs, poison := bad } :: l)
  | _, _ => .ok []

/-- Steps 1 to 3 of R117 on the word at the PC: the packets that hold it. A Lamplighter has no lease
check and no scratch window (R56). -/
def fetch (s : State) (slot : Nat) (h : Hart) : Except Denied (List Packet) :=
  let a := h.pc.toNat
  let r := match hartTask s h with
    | some t => t.record
    | none => []
  match (if isLamp slot then none else (List.range 12).find? fun k => inScratchWindow (a + k)) with
  | some k => .error (.trap .scratch (BitVec.ofNat 64 (a + k)))
  | none =>
    match (if isLamp slot then none else leaseFailure (s.part h.ids.part) r a 12 false) with
    | some bad => .error (.lease (BitVec.ofNat 64 bad))
    | none =>
      match fetchPlaces s slot h r (packetsOf a) with
      | .error d => .error d
      | .ok ps => fetchReads s slot (packetsOf a) ps

/-- A packet that covers an address. -/
def packetAt (l : List Packet) (a : Nat) : Option Packet := l.find? fun p => decide (p.va ≤ a) && decide (a < p.va + 32)

/-- The bytes of the word at `a` in packets that all hold it. -/
def wordIn (l : List Packet) (a : Nat) : Option (List Byte) :=
  match packetAt l a, packetAt l (a + 11) with
  | some _, some _ => some ((List.range 12).map fun k =>
      match packetAt l (a + k) with
      | some p => listGetD p.bytes (a + k - p.va) 0
      | none => 0)
  | _, _ => none

/-- The lowest poisoned byte of the word at `a` in the packets that hold it. -/
def poisonIn (l : List Packet) (a : Nat) : Option Nat :=
  ((List.range 12).find? fun k => match packetAt l (a + k) with
    | some p => p.poison.contains (a + k - p.va)
    | none => false).map fun k => a + k

/-- The word at the PC: from the packets the hart holds, or fetched now (R120). A packet lies in one page,
so steps 1 and 2 of R117 passed for all its bytes when it was fetched; step 3 is each word's own. -/
def fetchWord (s : State) (slot : Nat) (h : Hart) : Except Denied (List Byte) :=
  match wordIn h.packets h.pc.toNat with
  | some w =>
    match poisonIn h.packets h.pc.toNat with
    | some b => .error (.trap .poison (BitVec.ofNat 64 b))
    | none => .ok w
  | none =>
    match fetch s slot h with
    | .error d => .error d
    | .ok l => .ok ((wordIn l h.pc.toNat).getD [])

/-- What the fetch of a word's packets leaves behind, whatever the word says: that of an access to each (R99, R227),
and a packet of host memory that came with poison outside the word is recorded (R97). -/
def rememberFetch (s : State) (slot : Nat) (h : Hart) : State :=
  (packetsOf h.pc.toNat).foldl (fun s e =>
    match translation s slot h.ids.part (e.1 / 65536) with
    | .leaf pte pa =>
      let a := pa + e.1 % 65536
      let s := noteAccess s slot h.ids.part e.1 a 32 pte false
      if isHostPa a && (firstPoison s a 32).isSome then hostLinkError s h.ids.part a else s
    | _ => s) s

/-- Steps 4 to 6 of R117. -/
def decodeFetched (bs : List Byte) : Except Denied Instr :=
  match decodeBytes bs with
  | some (.instr i, _) => .ok i
  | some (.zeroWord, _) => .error (.trap .zeroWord 0)
  | some (.onesWord, _) => .error (.trap .onesWord 0)
  | _ => .error (.trap .illegal 0)

/-- Held packets that the word after the one at `a` still uses. -/
def keepPackets (l : List Packet) (a : Nat) : List Packet :=
  match l with
  | [] => []
  | l => l.filter fun p => decide (p.va < a + 24) && decide (a + 12 < p.va + 32)

/-- What an agent's turn begins with. -/
inductive Begun where
  /-- the turn is over: nothing to issue, an interrupt, or a failed check -/
  | over (s : State)
  /-- the instruction that the agent executes -/
  | instr (s : State) (i : Instr)

/-- An agent may issue. -/
def canIssue (slot : Nat) (h : Hart) : Bool := h.run == .running && (isLamp slot || !h.lantern.forking)

/-- The interrupt a Lamplighter takes at its boundary (R56). -/
def pendingInterrupt (s : State) (slot : Nat) (h : Hart) : Option (BitVec 8) :=
  if isLamp slot && !h.trap.suspended then (s.part h.ids.part).ints.head? else none

/-- LFSTAT holds the failure of a hart's task over a page, found by a running hart (R88, R89). -/
def leaseFaultOpen (s : State) (h : Hart) (page : Nat) : Bool :=
  let r := (s.part h.ids.part).regs
  match s.gang? h.ids.gang with
  | some g => r.lfstat.getLsbD 0 && r.lfstat.getLsbD 3 && bits r.lfstat 4 7 == g.queue && bits r.lfstat 32 32 == g.seq && bits r.lfva 16 39 == page
  | none => false

/-- The failure of a waiting hart is recorded while LFSTAT is free and its page still fails (R87, R89). -/
def recordAgain (s : State) (h : Hart) (page : Nat) (write : Bool) : State :=
  match s.gang? h.ids.gang, walkFailure (walk s h.ids.part page) write with
  | some g, some c => recordLeaseFault s h.ids.part true g.queue g.seq page c
  | _, _ => s

/-- What still keeps a waiting hart from its turn: a pin that stands (R314, R318, R328), or a page for which no
SHOOT has been issued or whose failure stands in LFSTAT (R89). -/
def stillHeld (s : State) (slot : Nat) (h : Hart) : Option State :=
  match h.held with
  | none => none
  | some (.pin k pa n) => if stillPinned s k pa n then some (deny s slot (.retry k pa n)) else none
  | some (.order k pa n) => if stillPinned s k pa n then some (deny s slot (.ordered k pa n)) else none
  | some (.page g w shot) => if shot && !leaseFaultOpen s h g then none else some (recordAgain s h g w)

/-! ## Control state that an image gave poisoned (R390, R392; log entry 53) -/

/-- Words of the header and the PC, which a restored hart consumes as it first issues. -/
def firstWords : List Nat := [0x00, 0x10, 0x28, 0x100]

/-- The trap of a hart whose PC, view, ways or partner an image gave poisoned. -/
def poisonedStart (s : State) (slot : Nat) (h : Hart) : State :=
  takeTrap (s.setHart slot (clearPoison h (RegLoc.controlIn [0x00, 0x10, 0x28]))) slot .poison (BitVec.allOnes 64) h.pc

/-- Loop registers that an instruction consumes as it completes (R207, R208): none in a handler (R209), none
for an ERET, and not those of the loop that an LSETUP arms. -/
def loopWords (h : Hart) (i : Instr) : List Nat :=
  let l := h.regs.loops
  let lo := 0x138 :: (if l.lc0 = 0 then [] else [0x148, 0x158])
  let hi := 0x140 :: (if l.lc1 = 0 then [] else [0x150, 0x160])
  if h.trap.suspended then []
  else match i with
    | .eret _ => []
    | .lsetup _ o => if o.loop1 then lo else hi
    | _ => lo ++ hi

/-- Words of VSTART, VL, VTYPE and the deferral count that an instruction consumes (R239, R242, R244). -/
def lengthWords (i : Instr) (op : Nat) : List Nat :=
  match i with
  | .mpopc _ _ => [0x110]
  | .mfirst _ _ => [0x110]
  | .vsetl _ _ => [0x118]
  | .vsett _ _ => [0x110]
  | .vext _ _ => [0x118]
  | .vins _ _ => [0x118]
  | .vmrank _ _ => [0x110, 0x118]
  | .vdefer _ _ => [0x110, 0x118, 0x11000]
  | .vdrain _ _ => [0x110, 0x118, 0x11000]
  | .vdcount _ _ => [0x11000]
  | .mstage _ _ => [0x108]
  | .mswap _ => []
  | .mstream _ _ => [0x110, 0x118, 0x1B8]
  | .zzero _ _ => []
  | .eqsplt _ _ => []
  | .eqsave _ _ => []
  | .eqload _ _ => []
  | .tresize _ _ => []
  | .tgive _ _ => []
  | .tcopy _ _ => [0x110]
  | .tcast _ _ => []
  | .vlock _ _ => [0x110, 0x118]
  | .vunlock _ _ => [0x110, 0x118]
  | _ =>
    if decide (0x90 ≤ op) && decide (op ≤ 0x93) then [0x110, 0x118]
    else if (decide (0x61 ≤ op) && decide (op ≤ 0xC0) && op != 0xA0) || op == 0xD1 then [0x108, 0x110, 0x118]
    else []

/-- OPs whose X field holds a rounding mode for some FN (R115). -/
def hasRounding (op : Nat) : Bool :=
  (decide (0x20 ≤ op) && decide (op ≤ 0x22)) || (decide (0x68 ≤ op) && decide (op ≤ 0x6B)) || op == 0x93 || op == 0xB0 || op == 0xB1

/-- FCSR, where an instruction takes its rounding mode from it (R115, R167). -/
def roundWords (r : Raw) : List Nat := if hasRounding r.op.toNat && r.x.extractLsb' 4 3 == 7 then [0x120] else []

def LanternReg.isPred : LanternReg → Option PIdx
  | .p i => some i
  | _ => none

/-- An instruction consumes control state that an image gave poisoned: predicates, its guard first, the loop
registers, and where the guard is true what it uses of the rest. -/
def Hart.controlPoisoned (h : Hart) (i : Instr) : Bool :=
  match h.poison with
  | [] => false
  | l =>
    match i.raw with
    | none => false
    | some r =>
      let c := (Ctl.parse r).getD {}
      l.any (RegLoc.ofP c.pred) || l.any (RegLoc.controlIn (loopWords h i)) ||
        (guardTrue h c && (l.any (RegLoc.controlIn (lengthWords i r.op.toNat ++ roundWords r)) ||
          ((fieldRegs r.a ++ fieldRegs r.b).filterMap LanternReg.isPred).any fun p => l.any (RegLoc.ofP p)))

/-! ## What an instruction waits for before it issues -/

/-- OPs whose instructions perform scalar accesses (R315). -/
def scalarAccess (op : Nat) : Bool := op == 0x08 || op == 0x09 || op == 0xD0 || (decide (0xE0 ≤ op) && decide (op ≤ 0xE3))

/-- OPs that go to the vector queue (R130). -/
def entersQueue (op : Nat) : Bool := (decide (0x60 ≤ op) && decide (op ≤ 0xCF)) || op == 0xD1 || op == 0xD2

/-- An earlier FENCE ss, sv or vv of the hart orders an instruction after accesses that have not performed
(R315, R337). -/
def fenced (s : State) (slot : Nat) (h : Hart) (i : Instr) : Bool :=
  match i.raw with
  | none => false
  | some r =>
    (scalarAccess r.op.toNat && !Pending.over s slot [] h.fenceS) || (entersQueue r.op.toNat && !Pending.over s slot [] h.fenceV)

/-- The queues whose stores the hart's fences have left to wait for. -/
def Hart.fencedQueues (h : Hart) : Queues :=
  { scalar := h.fenceS.own != 0 || h.fenceV.own != 0, vector := h.fenceS.ownV != 0 || h.fenceV.ownV != 0 }

/-- The outcomes of the loop bodies that end at an instruction, by the loop-end action (R207) or by a zero trip
(R206). -/
def bodyEnds (h : Hart) (i : Instr) (g : Bool) : List Bool :=
  if h.trap.suspended then []
  else match i with
    | .lsetup _ o =>
      let le := h.pc + sext32 o.off
      if g && h.getS o.a == 0 then (stepOther (armLoop h.regs.loops o.loop1 0 (h.pc + 12) le) (!o.loop1) le (le + 12)).2.2
      else (loopEnd h.regs.loops h.pc (h.pc + 12)).2.2
    | _ => (loopEnd h.regs.loops h.pc (h.pc + 12)).2.2

/-- Instructions for which the Lantern pushes coordinate batches (R146). -/
def takesBatch : Instr → Bool
  | .eqint _ _ => true
  | .eqmrg _ _ => true
  | .eqnz _ _ => true
  | .eqnzCursorForm _ _ => true
  | _ => false

/-- A consuming instruction whose entries are not in the Wick queue (R146, R147). -/
def missesEntry (h : Hart) (i : Instr) : Bool :=
  match i.raw with
  | none => false
  | some r =>
    let op := r.op.toNat
    let g := guardTrue h ((Ctl.parse r).getD {})
    let l := h.lantern
    let own := l.wick.filter fun e => e.seq == l.seq
    let has := fun (f : WickKind → Bool) => own.any fun e => f e.kind
    let branch := op == 0x30 || op == 0x31
    (branch && !has (WickKind.sameKind (.branch false 0))) ||
      (g && (isWalk op || takesBatch i) && l.popped.isNone && !has WickKind.isWalked) ||
      (!(branch && g) && decide ((own.filter fun e => e.kind.sameKind (.loopEnd false)).length < (bodyEnds h i g).length))

/-- The hart waits for the entries of its instruction (R147): the Lantern's count is below the instruction's
and the Lantern is issuing. -/
def awaitsLantern (h : Hart) (i : Instr) : Bool := h.lantern.behind && h.issuing && missesEntry h i

/-- What keeps an instruction that a hart has fetched from issuing: control state that came poisoned, a fence,
or the Lantern. -/
def notIssued (s : State) (slot : Nat) (h : Hart) (i : Instr) : Option State :=
  if h.controlPoisoned i then some (takeTrap s slot .poison (BitVec.allOnes 64) h.pc)
  else if fenced s slot h i then some (boundStorePins h.fencedQueues s slot)
  else if awaitsLantern h i then some (s.setHart slot { h with lantern := { h.lantern with awaits := true } })
  else none

/-- The turn of an agent up to its instruction: what it waits for, poison that its control state was
restored with (log entry 53), an interrupt, then steps 1 to 6 of
R117, what the instruction waits for, and what the slice table sees (R141). EVAL of an interrupt is 0 (log
entry 49). -/
def beginTurn (s : State) (slot : Nat) (budget : Option Nat) : Begun :=
  let s := { s with turn := some slot }
  match s.hart? slot with
  | none => .over s
  | some h =>
    if !canIssue slot h then .over s
    else match stillHeld s slot h with
    | some s => .over s
    | none =>
      if h.marked firstWords then .over (poisonedStart s slot h)
      else match pendingInterrupt s slot h with
      | some c => .over (takeTrap (s.modPart h.ids.part fun p => { p with ints := p.ints.tail }) slot (.interrupt c) 0 h.pc)
      | none =>
        match fetchWord s slot h with
        | .error d => .over (deny s slot d)
        | .ok bs =>
          let s := if (wordIn h.packets h.pc.toNat).isSome then s else rememberFetch s slot h
          match decodeFetched bs with
          | .error d => .over (deny s slot d)
          | .ok i =>
            let h := { h with packets := keepPackets h.packets h.pc.toNat, held := none }
            let s := s.setHart slot h
            match notIssued s slot h i with
            | some s => .over s
            | none => .instr { noteFeeds s slot h i with budget := budget } i

/-- The word that follows at a hart: packets holding `bs` at address `a`. -/
def heldPackets (a : Nat) (bs : List Byte) : List Packet :=
  (packetsOf a).map fun e => { va := e.1, bytes := (List.range 32).map fun k =>
    if a ≤ e.1 + k then listGetD bs (e.1 + k - a) 0 else 0 }

/-- An agent that is next to act, with its hart ready to issue a word placed in its packets. -/
def placeWord (s : State) (bs : List Byte) : State :=
  let h := (s.hart? 0).getD Hart.initial
  { s.setHart 0 { h with packets := heldPackets h.pc.toNat bs, run := .running, held := none, lantern := { h.lantern with forking := false } } with
    agenda := .agent 0 none :: s.agenda }

end Sys2Proof.Machine
end

