-- ==== Sys2Proof/Machine/VecFloat.lean ====
section
/-! DEFINITION. Vector floating point and compares, OP 0x68 to 0x70 (R250 to R254). -/

namespace Sys2Proof.Machine

/-- The mould of R250: sources by TYPE under FZ, one rounding. The operation takes the formats of the
sources' type and the mode, the flush of R166, and the bits of a, b and c. -/
def vecFloat (op : Nat) (c : Ctl) (o : VecFloatBin) (s : State) (readsD : Bool)
    (f : Fmt → Round → Flush → Word → Word → Word → Word × FFlags) : Host.Outcome State Fault Refusal :=
  issue op c s fun s slot h =>
    let w := o.ty.width
    elementwise s slot h w w o.d o.mask (vsrcReads o.b)
      (fun x i => x.elemPoisoned o.a w i || x.vsrcPoisoned o.b w i || (readsD && x.elemPoisoned o.d w i))
      (fun x i => f o.ty.fmt (x.round o.rm) x.flush (elemGet (x.getV o.a) w i) (x.vsrc o.ty o.b i) (elemGet (x.getV o.d) w i))

def execVfadd (c : Ctl) (o : VecFloatBin) (s : State) : Host.Outcome State Fault Refusal :=
  vecFloat 0x68 c o s false fun f r fl a b _ => f.add r fl.output (f.read fl a) (f.read fl b)

def execVfsub (c : Ctl) (o : VecFloatBin) (s : State) : Host.Outcome State Fault Refusal :=
  vecFloat 0x68 c o s false fun f r fl a b _ => f.sub r fl.output (f.read fl a) (f.read fl b)

def execVfmul (c : Ctl) (o : VecFloatBin) (s : State) : Host.Outcome State Fault Refusal :=
  vecFloat 0x68 c o s false fun f r fl a b _ => f.mul r fl.output (f.read fl a) (f.read fl b)

def execVfdiv (c : Ctl) (o : VecFloatBin) (s : State) : Host.Outcome State Fault Refusal :=
  vecFloat 0x68 c o s false fun f r fl a b _ => f.div r fl.output (f.read fl a) (f.read fl b)

/-- The mould of the one-source forms: source and destination widths may differ (R250, R252). -/
def vecUnary (op : Nat) (c : Ctl) (src dst : Ty) (d a : VIdx) (m : Mask) (s : State) (f : Hart → Word → Word × FFlags) :
    Host.Outcome State Fault Refusal :=
  issue op c s fun s slot h =>
    elementwise s slot h (max src.width dst.width) dst.width d m []
      (fun x i => x.elemPoisoned a src.width i)
      (fun x i => f x (elemGet (x.getV a) src.width i))

def execVfsqrt (c : Ctl) (o : VecFloatUn) (s : State) : Host.Outcome State Fault Refusal :=
  vecUnary 0x68 c o.ty o.ty o.d o.a o.mask s fun x a => o.ty.fmt.sqrt (x.round o.rm) x.flush.output (o.ty.fmt.read x.flush a)

def execVfmin (c : Ctl) (o : VecFloatBin) (s : State) : Host.Outcome State Fault Refusal :=
  vecFloat 0x68 c o s false fun f _ fl a b _ => f.minMax false (f.flushBits fl a) (f.flushBits fl b)

def execVfmax (c : Ctl) (o : VecFloatBin) (s : State) : Host.Outcome State Fault Refusal :=
  vecFloat 0x68 c o s false fun f _ fl a b _ => f.minMax true (f.flushBits fl a) (f.flushBits fl b)

def execVfcopys (c : Ctl) (o : VecFloatBin) (s : State) : Host.Outcome State Fault Refusal :=
  vecFloat 0x68 c o s false fun f _ _ a b _ => (f.signCopy (f.sign b) a, 0)

def execVfcopyn (c : Ctl) (o : VecFloatBin) (s : State) : Host.Outcome State Fault Refusal :=
  vecFloat 0x68 c o s false fun f _ _ a b _ => (f.signCopy (!f.sign b) a, 0)

def execVfxsign (c : Ctl) (o : VecFloatBin) (s : State) : Host.Outcome State Fault Refusal :=
  vecFloat 0x68 c o s false fun f _ _ a b _ => (f.signCopy (f.sign a != f.sign b) a, 0)

/-- The four fused forms (R250). -/
def fused (negP negC : Bool) (f : Fmt) (r : Round) (fl : Flush) (a b d : Word) : Word × FFlags :=
  f.fma r fl.output negP negC (f.read fl a) (f.read fl b) (f.read fl d)

def execVfma (c : Ctl) (o : VecFloatBin) (s : State) : Host.Outcome State Fault Refusal :=
  vecFloat 0x69 c o s true (fused false false)

def execVfms (c : Ctl) (o : VecFloatBin) (s : State) : Host.Outcome State Fault Refusal :=
  vecFloat 0x69 c o s true (fused false true)

def execVfnma (c : Ctl) (o : VecFloatBin) (s : State) : Host.Outcome State Fault Refusal :=
  vecFloat 0x69 c o s true (fused true false)

def execVfnms (c : Ctl) (o : VecFloatBin) (s : State) : Host.Outcome State Fault Refusal :=
  vecFloat 0x69 c o s true (fused true true)

/-- The mould of the widening floating forms (R251): narrow a and b, wide c and result. -/
def vecFloatWide (c : Ctl) (o : VecFloatBin) (s : State) (readsD : Bool)
    (f : Fmt → Round → Flush → FVal → FVal → FVal → Word × FFlags) : Host.Outcome State Fault Refusal :=
  issue 0x6A c s fun s slot h =>
    let w := o.ty.width
    let t := o.ty.wide
    let n := o.ty.fmt
    elementwise s slot h t.width t.width o.d o.mask (vsrcReads o.b)
      (fun x i => x.elemPoisoned o.a w i || x.vsrcPoisoned o.b w i || (readsD && x.elemPoisoned o.d t.width i))
      (fun x i => f t.fmt (x.round o.rm) x.flush (n.read x.flush (elemGet (x.getV o.a) w i)) (n.read x.flush (x.vsrc o.ty o.b i))
        (t.fmt.read x.flush (elemGet (x.getV o.d) t.width i)))

def execVfwadd (c : Ctl) (o : VecFloatBin) (s : State) : Host.Outcome State Fault Refusal :=
  vecFloatWide c o s false fun f r fl a b _ => f.add r fl.output a b

def execVfwmul (c : Ctl) (o : VecFloatBin) (s : State) : Host.Outcome State Fault Refusal :=
  vecFloatWide c o s false fun f r fl a b _ => f.mul r fl.output a b

def execVfwma (c : Ctl) (o : VecFloatBin) (s : State) : Host.Outcome State Fault Refusal :=
  vecFloatWide c o s true fun f r fl a b d => f.fma r fl.output false false a b d

/-- VFCVT (R252). -/
def execVfcvt (c : Ctl) (o : VecConvert) (s : State) : Host.Outcome State Fault Refusal :=
  vecUnary 0x6B c o.src o.ty o.d o.a o.mask s fun x a =>
    o.ty.fmt.convert (x.round o.rm) x.flush.output (o.src.fmt.read x.flush a)

/-- VFCVTI (R252, R165). -/
def execVfcvti (c : Ctl) (o : VecConvert) (s : State) : Host.Outcome State Fault Refusal :=
  vecUnary 0x6B c o.src o.ty o.d o.a o.mask s fun x a => FVal.toInt o.ty (x.round o.rm) (o.src.fmt.read x.flush a)

/-- VICVTF (R252, R165). -/
def execVicvtf (c : Ctl) (o : VecConvert) (s : State) : Host.Outcome State Fault Refusal :=
  vecUnary 0x6B c o.src o.ty o.d o.a o.mask s fun x a => o.ty.fmt.ofInt (x.round o.rm) x.flush.output (o.src.int a)

/-- VFCLASS (R253). -/
def execVfclass (c : Ctl) (o : VecUn) (s : State) : Host.Outcome State Fault Refusal :=
  vecUnary 0x6B c o.ty o.ty o.d o.a o.mask s fun x a => (o.ty.fmt.classBits x.flush a, 0)

/-- VCMP (R254). -/
def execVcmp (c : Ctl) (o : VcmpForm) (s : State) : Host.Outcome State Fault Refusal :=
  issue 0x70 c s fun s slot h =>
    let w := o.ty.width
    if !h.widthOk w then trapRes s .vwidth 0
    else unpoisoned s h (vsrcReads o.b)
      (elementLoop s slot h o.mask
        (fun i x =>
          if x.elemPoisoned o.a w i || x.vsrcPoisoned o.b w i then .error poisonTrap
          else
            let r := condOf o.cond o.ty x.flush (elemGet (x.getV o.a) w i) (x.vsrc o.ty o.b i)
            .ok (((x.putBit o.d i r.1).raise r.2).cleanM o.d h.vstart (i + 1) (h.writes o.mask)))
        (fun i x => .ok ((if maskZeroing o.mask then x.putBit o.d i false else x).cleanM o.d h.vstart (i + 1) (h.writes o.mask))))

end Sys2Proof.Machine
end

