-- ==== Sys2Proof/Machine/VecMove.lean ====
section
/-! DEFINITION. Moves, inserts, indices and permutes, OP 0x71, 0x90 and 0x91 (R255 to R259). -/

namespace Sys2Proof.Machine

/-- VMERGE (R255): every element is written, from B where the mask has a 1. -/
def execVmerge (c : Ctl) (o : VmergeForm) (s : State) : Host.Outcome State Fault Refusal :=
  issue 0x71 c s fun s slot h =>
    let w := o.ty.slotWidth
    let from_ := fun i => if maskBit (h.getM o.m) i then o.b else o.a
    elementwise s slot h w w o.d .none [.bits o.m h.vstart h.vl]
      (fun x i => x.elemPoisoned (from_ i) w i)
      (fun x i => (elemGet (x.getV (from_ i)) w i, 0))

/-- VMOV (R255). -/
def execVmov (c : Ctl) (o : VecUn) (s : State) : Host.Outcome State Fault Refusal :=
  issue 0x71 c s fun s slot h =>
    let w := o.ty.slotWidth
    elementwise s slot h w w o.d o.mask []
      (fun x i => x.elemPoisoned o.a w i)
      (fun x i => (elemGet (x.getV o.a) w i, 0))

/-- A value in a byte position that holds two nibbles (R255). -/
def bothNibbles (t : Ty) (x : Word) : Word :=
  if t.isNibble then low 4 x ||| (low 4 x <<< 4) else low t.width x

/-- VSPLAT (R255). -/
def execVsplat (c : Ctl) (o : VsplatForm) (s : State) : Host.Outcome State Fault Refusal :=
  issue 0x71 c s fun s slot h =>
    let w := o.ty.slotWidth
    let v := bothNibbles o.ty (h.ssrc o.ty o.b)
    elementwise s slot h w w o.d o.mask (ssrcReads o.b) (fun _ _ => false) (fun _ _ => (v, 0))

/-- VEXT (R256). -/
def execVext (c : Ctl) (o : VextForm) (s : State) : Host.Outcome State Fault Refusal :=
  issue 0x71 c s fun s slot h =>
    let w := o.ty.width
    let j := (h.usrc o.b).toNat
    if !h.widthOk w then trapRes s .vwidth 0
    else unpoisoned s h (ssrcReads o.b)
      (if o.ty.vlmax ≤ j then doneWith s slot (h.setS o.d 0)
       else if h.elemPoisoned o.a w j then .deny s poisonTrap
       else doneWith s slot (h.setS o.d (o.ty.place (elemGet (h.getV o.a) w j))))

/-- VINS (R256). -/
def execVins (c : Ctl) (o : VinsForm) (s : State) : Host.Outcome State Fault Refusal :=
  issue 0x71 c s fun s slot h =>
    let w := o.ty.width
    let j := (h.usrc o.b).toNat
    if !h.widthOk w then trapRes s .vwidth 0
    else unpoisoned s h (.s o.a :: ssrcReads o.b)
      (if o.ty.vlmax ≤ j then doneWith s slot h
       else doneWith s slot ((h.setV o.d (elemSet (h.getV o.d) w j (h.getS o.a))).cleanV o.d w j (j + 1) fun _ => true))

/-- The active elements as a mask. -/
def Hart.activeBits (h : Hart) : Mask → MReg
  | .none => BitVec.allOnes 1024
  | .on _ m => h.getM m

/-- VMRANK (R257). -/
def execVmrank (c : Ctl) (o : VmrankForm) (s : State) : Host.Outcome State Fault Refusal :=
  issue 0x71 c s fun s slot h =>
    let w := o.ty.width
    wholeElements s slot h w w o.d o.mask [.bits o.a 0 h.vl] (fun _ => false)
      (fun i => some (BitVec.ofNat 64 (maskCount i (h.getM o.a &&& h.activeBits o.mask))))

/-- VID (R257). -/
def execVid (c : Ctl) (o : VidForm) (s : State) : Host.Outcome State Fault Refusal :=
  issue 0x71 c s fun s slot h =>
    let w := o.ty.width
    elementwise s slot h w w o.d o.mask [] (fun _ _ => false) (fun _ i => (BitVec.ofNat 64 i, 0))

/-- Element `j` of a permute's source: zero from VL up (R258). -/
def Hart.elemBelow (h : Hart) (v : VIdx) (w j : Nat) : Word := if j < h.vl then elemGet (h.getV v) w j else 0

/-- That element is poisoned. -/
def Hart.badBelow (h : Hart) (v : VIdx) (w j : Nat) : Bool := decide (j < h.vl) && h.elemPoisoned v w j

/-- VSHUF (R258). -/
def execVshuf (c : Ctl) (o : VshufForm) (s : State) : Host.Outcome State Fault Refusal :=
  issue 0x90 c s fun s slot h =>
    let w := o.ty.slotWidth
    let j := fun i => (elemGet (h.getV o.b) w i).toNat
    wholeElements s slot h w w o.d o.mask []
      (fun i => h.active o.mask i && (h.elemPoisoned o.b w i || h.badBelow o.a w (j i)))
      (fun i => some (h.elemBelow o.a w (j i)))

/-- VSLIDEUP (R258): elements below the offset keep their values even under zeroing. -/
def execVslideup (c : Ctl) (o : VslideForm) (s : State) : Host.Outcome State Fault Refusal :=
  issue 0x90 c s fun s slot h =>
    let w := o.ty.slotWidth
    let off := (h.usrc o.b).toNat
    wholeElements s slot h w w o.d o.mask (ssrcReads o.b)
      (fun i => h.active o.mask i && decide (off ≤ i) && h.badBelow o.a w (i - off))
      (fun i => if off ≤ i then some (h.elemBelow o.a w (i - off)) else none)

/-- VSLIDEDN (R258). -/
def execVslidedn (c : Ctl) (o : VslideForm) (s : State) : Host.Outcome State Fault Refusal :=
  issue 0x90 c s fun s slot h =>
    let w := o.ty.slotWidth
    let off := (h.usrc o.b).toNat
    wholeElements s slot h w w o.d o.mask (ssrcReads o.b)
      (fun i => h.active o.mask i && h.badBelow o.a w (i + off))
      (fun i => some (h.elemBelow o.a w (i + off)))

/-- VCOMPRESS (R259). -/
def execVcompress (c : Ctl) (o : VcompressForm) (s : State) : Host.Outcome State Fault Refusal :=
  issue 0x91 c s fun s slot h =>
    let w := o.ty.slotWidth
    let sel := fun i => maskBit (h.getM o.m) i
    if !h.widthOk w then trapRes s .vwidth 0
    else unpoisoned s h [.bits o.m 0 h.vl]
      (if (List.range h.vl).any fun i => sel i && h.elemPoisoned o.a w i then .deny s poisonTrap
       else
        let src := h.getV o.a
        let r := (List.range h.vl).foldl (fun (r : VReg × Nat) i =>
          if sel i then (elemSet r.1 w r.2 (elemGet src w i), r.2 + 1) else r) (h.getV o.d, 0)
        doneWith s slot (((h.setV o.d r.1).cleanV o.d w 0 r.2 fun _ => true).setVstart 0))

/-- VEXPAND (R259). -/
def execVexpand (c : Ctl) (o : VexpandForm) (s : State) : Host.Outcome State Fault Refusal :=
  issue 0x91 c s fun s slot h =>
    let w := o.ty.slotWidth
    let sel := fun i => maskBit (h.getM o.m) i
    if !h.widthOk w then trapRes s .vwidth 0
    else unpoisoned s h [.bits o.m 0 h.vl]
      (if (List.range (maskCount h.vl (h.getM o.m))).any fun k => h.elemPoisoned o.a w k then .deny s poisonTrap
       else
        let src := h.getV o.a
        let r := (List.range h.vl).foldl (fun (r : VReg × Nat) i =>
          if sel i then (elemSet r.1 w i (elemGet src w r.2), r.2 + 1)
          else if o.zeroing then (elemSet r.1 w i 0, r.2) else r) (h.getV o.d, 0)
        doneWith s slot (((h.setV o.d r.1).cleanV o.d w 0 h.vl fun i => sel i || o.zeroing).setVstart 0))

end Sys2Proof.Machine
end

