-- ==== Sys2Proof/Machine/Lantern.lean ====
section
/-! DEFINITION. The Lantern (R25 to R28, R140 to R153, R230): what it issues, what it pushes into the
Wick queue, its forks and its prefetches. Nothing here changes a register, a byte of memory or a flag
that an agent sees; it changes the Lantern's side of a hart slot, and counters. -/

namespace Sys2Proof.Machine

/-! ## What it reads and writes -/

def guardReg (c : Ctl) : List LanternReg := fieldRegs (pField c.pred)

/-- The loop registers, without which the Lantern knows no body's end (R154). -/
def loopRegs : List LanternReg := (List.range 6).map LanternReg.loop

/-- Sources that the Lantern needs for an address, a branch, a loop count, a request or a binding, for
which it waits where the instruction's guard is true (R142, R154, R245, R298). -/
def lanternNeeds (c : LanternCopy) (i : Instr) (r : Raw) : List LanternReg :=
  let op := r.op.toNat
  let a := fieldRegs r.a
  let b := fieldRegs r.b
  if op = 0x30 ∨ op = 0x31 ∨ op = 0x32 then a
  else if op = 0x08 then a
  else if op = 0x60 then (if r.fn = 0 then .vtype :: b else b)
  else if op = 0xA0 then a ++ b
  else if isWalk op then .vl :: .vstart :: movedRegs c.regs i
  else if op = 0xC0 then movedRegs c.regs i
  else if op = 0xC1 then fieldRegs r.d ++ a
  else if op = 0xC2 then a
  else []

/-- VL, VTYPE and VSTART as sources of what an instruction computes (R204, R240, R242, R294). -/
def lanternVector (i : Instr) (op : Nat) : List LanternReg :=
  match i with
  | .mpopc _ _ => [.vl]
  | .mfirst _ _ => [.vl]
  | _ => if isVecInt i op || op == 0xC0 then [.vl, .vtype, .vstart] else []

/-- An instruction sets VSTART to 0 as it completes (R242, R244, R245). -/
def endsAtZero (i : Instr) (op : Nat) : Bool :=
  match i with
  | .vext _ _ => false
  | .vins _ _ => false
  | .mswap _ => false
  | .zzero _ _ => false
  | _ => (decide (0x60 ≤ op) && decide (op ≤ 0x94)) || isWalk op || (decide (0xB0 ≤ op) && decide (op ≤ 0xB3)) || op == 0xC0 || op == 0xD2

def LanternCopy.spoil (c : LanternCopy) (l : List LanternReg) : LanternCopy :=
  { c with poison := (c.poison.filter fun e => !l.contains e.1) ++ l.map fun x => (x, c.seq + 1) }
def LanternCopy.clear (c : LanternCopy) (l : List LanternReg) : LanternCopy :=
  { c with poison := c.poison.filter fun e => !l.contains e.1 }

/-! ## Execution on the copy -/

/-- The hart as the Lantern sees it: its own registers, and nothing of its own side. -/
def shadowHart (h : Hart) (c : LanternCopy) : Hart :=
  { h with regs := c.regs, lantern := {}, poison := [], arriving := [], packets := [], run := .running }

/-- The instructions that the Lantern executes (R26). -/
def lanternRuns (i : Instr) (s : State) : Option (Host.Outcome State Fault Refusal) :=
  match i with
  | .add c o => some (execAdd c o s)
  | .sub c o => some (execSub c o s)
  | .and_ c o => some (execAnd c o s)
  | .or_ c o => some (execOr c o s)
  | .xor_ c o => some (execXor c o s)
  | .andn c o => some (execAndn c o s)
  | .sll c o => some (execSll c o s)
  | .srl c o => some (execSrl c o s)
  | .sra c o => some (execSra c o s)
  | .min_ c o => some (execMin c o s)
  | .max_ c o => some (execMax c o s)
  | .slt c o => some (execSlt c o s)
  | .mov c o => some (execMov c o s)
  | .mul c o => some (execMul c o s)
  | .mulh c o => some (execMulh c o s)
  | .div c o => some (execDiv c o s)
  | .rem c o => some (execRem c o s)
  | .clz c o => some (execClz c o s)
  | .ctz c o => some (execCtz c o s)
  | .popc c o => some (execPopc c o s)
  | .brev c o => some (execBrev c o s)
  | .bswap c o => some (execBswap c o s)
  | .ext_ c o => some (execExt c o s)
  | .movi c o => some (execMovi c o s)
  | .movhi c o => some (execMovhi c o s)
  | .addpc c o => some (execAddpc c o s)
  | .ld c o => some (execLd c o s)
  | .lda c o => some (execLda c o s)
  | .br c o => some (execBr c o s)
  | .bri c o => some (execBri c o s)
  | .call c o => some (execCall c o s)
  | .calli c o => some (execCalli c o s)
  | .lsetup c o => some (execLsetup c o s)
  | .pcmp c o => some (execPcmp c o s)
  | .pand c o => some (execPand c o s)
  | .por c o => some (execPor c o s)
  | .pxor c o => some (execPxor c o s)
  | .pandn c o => some (execPandn c o s)
  | .pnot c o => some (execPnot c o s)
  | .pmov c o => some (execPmov c o s)
  | .mand c o => some (execMand c o s)
  | .mor c o => some (execMor c o s)
  | .mxor c o => some (execMxor c o s)
  | .mandn c o => some (execMandn c o s)
  | .mnot c o => some (execMnot c o s)
  | .mmov c o => some (execMmov c o s)
  | .mpopc c o => some (execMpopc c o s)
  | .mfirst c o => some (execMfirst c o s)
  | .vsetl c o => some (execVsetl c o s)
  | .vsett c o => some (execVsett c o s)
  | .vadd c o => some (execVadd c o s)
  | .vsub c o => some (execVsub c o s)
  | .vrsub c o => some (execVrsub c o s)
  | .vmin c o => some (execVmin c o s)
  | .vmax c o => some (execVmax c o s)
  | .vabsd c o => some (execVabsd c o s)
  | .vavg c o => some (execVavg c o s)
  | .vmul c o => some (execVmul c o s)
  | .vmulh c o => some (execVmulh c o s)
  | .vmacc c o => some (execVmacc c o s)
  | .vdiv c o => some (execVdiv c o s)
  | .vrem c o => some (execVrem c o s)
  | .vand c o => some (execVand c o s)
  | .vor c o => some (execVor c o s)
  | .vxor c o => some (execVxor c o s)
  | .vsll c o => some (execVsll c o s)
  | .vsrl c o => some (execVsrl c o s)
  | .vsra c o => some (execVsra c o s)
  | .vwadd c o => some (execVwadd c o s)
  | .vwmul c o => some (execVwmul c o s)
  | .vwmacc c o => some (execVwmacc c o s)
  | .vnshr c o => some (execVnshr c o s)
  | .vcmp c o => some (execVcmp c o s)
  | .vmerge c o => some (execVmerge c o s)
  | .vmov c o => some (execVmov c o s)
  | .vsplat c o => some (execVsplat c o s)
  | .vext c o => some (execVext c o s)
  | .vins c o => some (execVins c o s)
  | .vmrank c o => some (execVmrank c o s)
  | .vid c o => some (execVid c o s)
  | .qsetUnit c o => some (execQsetUnit c o s)
  | .qsetStride c o => some (execQsetStride c o s)
  | .qsetSeg c o => some (execQsetSeg c o s)
  | .qsetInd c o => some (execQsetInd c o s)
  | .eqint c o => some (execEqint c o s)
  | .eqmrg c o => some (execEqmrg c o s)
  | .eqnz c o => some (execEqnz c o s)
  | .eqnzCursorForm c o => some (execEqnzCursorForm c o s)
  | .eqsplt c o => some (execEqsplt c o s)
  | .eqsave c o => some (execEqsave c o s)
  | .eqload c o => some (execEqload c o s)
  | _ => none

/-- The registers after an instruction that the Lantern ran on its copy; none where it would trap or
wait, which it drops (R28). Its stores, flags and other effects are discarded (R25, R140). -/
def lanternRegs (s : State) (slot : Nat) (h : Hart) (c : LanternCopy) (i : Instr) : Option Regs :=
  let x := shadowHart h c
  match lanternRuns i { s.setHart slot x with turn := some slot, budget := none } with
  | some (.next t) => match t.hart? slot with
    | some y => if y.instret = x.instret + 1 ∧ y.trap = x.trap then some y.regs else none
    | none => none
  | _ => none

/-- PC and loop registers past an instruction that the copy does not execute; `zero` says that VSTART is 0
after it (R110, R242). -/
def lanternPast (h : Hart) (c : LanternCopy) (zero : Bool) : Regs :=
  let r := ((shadowHart h c).stepLoops c.regs.pc (c.regs.pc + 12)).regs
  if zero then { r with vstart := 0 } else r

/-- The loop outcomes that the instruction's end pushes, one for each body end (R146, R207). -/
def lanternLoop (h : Hart) (c : LanternCopy) : List WickKind :=
  if h.trap.suspended then [] else (loopEnd c.regs.loops c.regs.pc (c.regs.pc + 12)).2.2.map .loopEnd

/-! ## Entries (R144 to R147) -/

/-- Entries that the hart's Lantern may hold: the pair's queue has 1024, and beside a sibling half of them
at most, and only those that the sibling has not taken (R6, R145). -/
def wickShare (s : State) (slot : Nat) : Nat :=
  match s.hart? (siblingOf slot) with
  | some y => min 512 (1024 - wickUsed y.lantern.wick)
  | none => 1024

/-- Entries enter the queue in order, each while there is room for all of it; the others wait. -/
def pushFits (share : Nat) (w : List WickEntry) : List WickEntry → List WickEntry × List WickEntry
  | [] => (w, [])
  | e :: r => if wickUsed w + e.kind.size ≤ share then pushFits share (w ++ [e]) r else (w, e :: r)

/-- The entries that wait are pushed as far as the share has room (R144, R145); those of instructions
that the trailing core has retired are discarded on arrival (R147). -/
def pushPending (share : Nat) (h : Hart) : Hart :=
  match h.lantern.copy with
  | none => h
  | some c =>
    let x := pushFits share h.lantern.wick (c.pending.filter fun e => decide (h.lantern.seq ≤ e.seq))
    { h with lantern := { h.lantern with wick := x.1, copy := some { c with pending := x.2 } } }

/-- The copy moves on past an instruction that pushes these entries. -/
def moveOn (share : Nat) (h : Hart) (c : LanternCopy) (regs : Regs) (ks : List WickKind) : Hart :=
  pushPending share { h with lantern := { h.lantern with
    copy := some { c with regs := regs, seq := c.seq + 1, slipped := false, pending := ks.map fun k => { seq := c.seq, kind := k } } } }

/-- A vector integer instruction's result is left as poison (R141): of those noted before, the counts that the
trailing core has still to reach or that a register carries stay. -/
def LanternCopy.noteSkip (c : LanternCopy) (h : Hart) (i : Instr) (op : Nat) : LanternCopy :=
  if isVecInt i op then
    { c with skipped := (c.skipped.filter fun n => decide (h.lantern.seq ≤ n) || h.lantern.feeds.any fun e => e.2.any fun f => f.at_ == some n) ++ [c.seq] }
  else c

/-- An instruction that the Lantern does not execute makes its destinations poison (R26, R28). Where its guard
is poison, VSTART is known after it only if it is 0 in either case. -/
def skipAsPoison (share : Nat) (h : Hart) (c : LanternCopy) (i : Instr) (op : Nat) (ds : List LanternReg) (guard : Bool) : Hart :=
  let zero := endsAtZero i op
  let c' := if zero then c.clear [.vstart] else if !guard && c.regs.vstart != 0 then c.spoil [.vstart] else c
  moveOn share h ((c'.noteSkip h i op).spoil ds) (lanternPast h c zero) (lanternLoop h c)

/-! ## Walks (R146, R230) -/

/-- A walk: its stream and mask, whether it takes segments, and whether it takes the active elements alone
(R273). -/
structure StreamWalk where
  q : QIdx
  mask : Mask
  segments : Bool := false
  packed : Bool := false
  deriving DecidableEq, Repr

def walkOf : Instr → Option StreamWalk
  | .vld _ o => some { q := o.q, mask := o.mask }
  | .vldseg _ o => some { q := o.q, mask := o.mask, segments := true }
  | .vst _ o => some { q := o.q, mask := o.mask }
  | .vstseg _ o => some { q := o.q, mask := o.mask, segments := true }
  | .vstc _ o => some { q := o.q, mask := o.mask, packed := true }
  | .vamo _ o => some { q := o.q, mask := o.mask }
  | _ => none

/-- The addresses of a walk under a mask: one that reaches past a unit stream's limit is dropped (R274). -/
def StreamWalk.addrs (w : StreamWalk) (s : State) (slot : Nat) (h : Hart) (m : Mask) : List Nat :=
  let st := h.getQ w.q
  let l := if w.packed then packedAddrs h st m
    else gathered s slot h st m (if w.segments then st.nf + 1 else 1) 0
  match st.limit with
  | some n => l.filter fun a => decide (a + st.ety.bytes ≤ n)
  | none => l

/-- The prefetch of the line of an address, where one may be sent (R230); one of a REPL page goes to a home
slice or a replica (R226, R227). -/
def prefetchLine (s : State) (slot : Nat) (h : Hart) (a : Nat) : Option Prefetch :=
  match place s slot h (BitVec.ofNat 64 a) 1 false with
  | .ok (.mem pa e) =>
    if (pteHome e == 0 || pteHome e == 2) && !pteAtom e then
      some { line := pinLineOf pa, repl := if pteRepl e && pteHome e == 0 then some (leafPage e) else none }
    else none
  | _ => none

/-- Prefetches that have not returned. -/
def inFlight (l : List Prefetch) : Nat := (l.filter fun p => !p.filled).length

/-- The prefetches of some addresses, for the gather list or batch of instruction `list`: at most 64 in flight
for each core pair (R230, R151). -/
def addPrefetches (s : State) (slot : Nat) (h : Hart) (list : Option Nat) (l : List Prefetch) (addrs : List Nat) : List Prefetch :=
  let other := match s.hart? (siblingOf slot) with
    | some y => inFlight y.lantern.prefetches
    | none => 0
  addrs.foldl (fun l a => match prefetchLine s slot h a with
    | some n => if (l.any fun p => p.line == n.line) || decide (64 ≤ inFlight l + other) then l else l ++ [{ n with list := list }]
    | none => l) l

/-- The addresses of a walk's index stream (R267). -/
def StreamWalk.indexAddrs (w : StreamWalk) (h : Hart) (m : Mask) : List Nat :=
  let st := h.getQ w.q
  if st.kind = 4 then (h.activeBelow m).map fun i => ((h.getQ st.idx).direct i).toNat else []

/-- A stream register's walk meets an address: a page that the register holds no translation of is translated
and pushed (R99, R146). Beside the translations of the copy stand those pushed. -/
def crossInto (s : State) (slot : Nat) (h : Hart) (q : QIdx) (l : List StreamPage × List StreamPage) (a : Nat) : List StreamPage × List StreamPage :=
  if l.1.any fun t => t.q == q && t.page == a / 65536 then l
  else match place s slot h (BitVec.ofNat 64 a) 1 false with
    | .ok (.mem pa e) =>
      let t : StreamPage := { q := q, page := a / 65536, pte := e, pa := pa / 65536 * 65536 }
      (addPage l.1 t, l.2 ++ [t])
    | _ => l

/-- The translations after a walk, and those that it pushes. -/
def StreamWalk.pages (w : StreamWalk) (s : State) (slot : Nat) (h : Hart) (m : Mask) (held : List StreamPage) (addrs : List Nat) : List StreamPage × List StreamPage :=
  addrs.foldl (crossInto s slot h w.q) ((w.indexAddrs h m).foldl (crossInto s slot h (h.getQ w.q).idx) (held, []))

/-- A walk of a stream: addresses become prefetches and gather lists; under a poison mask every element
counts as active, no list is pushed (R146), and how far a packed stream moves is poison. -/
def lanternWalk (s : State) (slot share : Nat) (h : Hart) (c : LanternCopy) (w : StreamWalk) (badMask : Bool) (results : List LanternReg) : Hart :=
  let x := shadowHart h c
  let m := if badMask then .none else w.mask
  let addrs := w.addrs s slot x m
  let pages := w.pages s slot x m c.pages addrs
  let y := advanceStream { x with regs := lanternPast h c true } w.q (if w.packed then (packedAddrs x (x.getQ w.q) m).length else x.vl)
  let ks := pages.2.map WickKind.translation ++ if badMask then [] else (chunk32 (addrs.length + 1) addrs).map WickKind.gather
  let c' := { c.spoil (if badMask && w.packed then .q w.q :: results else results) with pages := pages.1 }
  let k := moveOn share h c' y.regs (ks ++ lanternLoop h c)
  { k with lantern := { k.lantern with
    prefetches := addPrefetches s slot x (if badMask then none else some c.seq) k.lantern.prefetches addrs } }

/-! ## Coordinates (R146, R149) -/

/-- The addresses of the positions that an Equinox instruction read at a cursor that moved from `b` to `a`:
those it consumed and the one where it stands. Elements of the dense encoding, which EQNZ scans, are `n`
bytes each. -/
def cursorAddrs (n : Nat) (b a : Cursor) : List Nat :=
  let at' := fun p => match curEnc b with
    | 0 => some (b.cbase.toNat + 4 * p)
    | 1 => some (b.cbase.toNat + 8 * (p / 64))
    | 2 => some (b.cbase.toNat + 2 * p)
    | _ => if n = 0 then none else some (b.cbase.toNat + n * p)
  ((List.range (curPos a + 1 - curPos b)).filter fun k => decide (curPos b + k < curEnd b)).filterMap fun k => at' (curPos b + k)

/-- The lines of memory in which addresses lie. -/
def linesAt (s : State) (slot : Nat) (h : Hart) (l : List Nat) : List Nat :=
  (l.filterMap fun va => match place s slot h (BitVec.ofNat 64 va) 1 false with
    | .ok (.mem pa _) => some (pinLineOf pa)
    | _ => none).eraseDups

/-- The lines of the hart's scratch in which addresses lie. -/
def scratchLinesAt (s : State) (slot : Nat) (h : Hart) (l : List Nat) : List Nat :=
  (l.filterMap fun va => match place s slot h (BitVec.ofNat 64 va) 1 false with
    | .ok (.scratch o) => some (o / 128)
    | _ => none).eraseDups

/-- Cursors in the order in which the trailing core checks them, with the element bytes of EQNZ's. -/
def cursorsOf : Instr → List EIdx × Nat
  | .eqint _ o => ([o.a, o.b], 0)
  | .eqmrg _ o => ([o.a, o.b], 0)
  | .eqnzCursorForm _ o => ([o.a], o.ty.bytes)
  | _ => ([], 0)

/-- The addresses that an Equinox instruction read, which left the copy's registers at `r`. -/
def batchAddrs (c : LanternCopy) (i : Instr) (r : Regs) : List Nat :=
  (cursorsOf i).1.flatMap fun e => cursorAddrs (cursorsOf i).2 (rget c.regs.e e) (rget r.e e)

/-- The coordinate batch of an Equinox instruction that left the copy's registers at `r`. -/
def batchOf (s : State) (slot : Nat) (h : Hart) (c : LanternCopy) (id : Nat) (i : Instr) (r : Regs) : WickKind :=
  let es := (cursorsOf i).1
  let x := shadowHart h c
  .coords id (es.map fun e => rget c.regs.e e) (es.map fun e => rget r.e e) r.vl.toNat
    (linesAt s slot x (batchAddrs c i r)) (scratchLinesAt s slot x (batchAddrs c i r))

/-- Entries of a Lantern side, in the queue or waiting. -/
def LanternSide.entries (l : LanternSide) : List WickEntry :=
  l.wick ++ match l.copy with
    | some c => c.pending
    | none => []

/-- The batches that some hart's entries hold. -/
def heldBatches (s : State) : List Nat :=
  s.harts.flatMap fun e => e.2.lantern.entries.filterMap fun x => match x.kind with
    | .coords n _ _ _ _ _ => some n
    | _ => none

/-- The lines of memory and of the scratch that a batch among some entries was read from. -/
def batchLines (l : List WickEntry) (id : Nat) : List Nat × List Nat :=
  (l.findSome? fun x => match x.kind with
    | .coords n _ _ _ ls os => if n = id then some (ls, os) else none
    | _ => none).getD ([], [])

/-- A new batch's lines are watched; those of batches that are gone are not any more (R149). -/
def watchBatch (s : State) (slot id : Nat) : State :=
  match s.hart? slot with
  | none => s
  | some h =>
    match batchLines h.lantern.entries id with
    | ([], []) => s
    | (ls, os) =>
      let held := heldBatches s
      { s.setHart slot { h with watch := (h.watch.filter fun w => held.contains w.1) ++ os.map fun o => (id, o) } with
        watch := (s.watch.filter fun w => held.contains w.1) ++ ls.map fun l => (id, l) }

/-! ## LANTERN_ISSUE (R140) -/

/-- What an executed instruction pushes: a branch outcome, coordinates with their cursors, and the loop
outcomes of its end. -/
def lanternPushes (s : State) (slot : Nat) (h : Hart) (c : LanternCopy) (id : Nat) (i : Instr) (op : Nat) (r : Regs) : List WickKind :=
  match i with
  | .lsetup _ o =>
    if c.regs.getS o.a = 0 then
      let le := c.regs.pc + sext32 o.off
      if h.trap.suspended then []
      else (stepOther (armLoop c.regs.loops o.loop1 0 (c.regs.pc + 12) le) (!o.loop1) le (le + 12)).2.2.map .loopEnd
    else lanternLoop h c
  | _ =>
    if op = 0x30 ∨ op = 0x31 then [.branch true r.pc]
    else if op = 0xC0 then batchOf s slot h c id i r :: lanternLoop h c
    else lanternLoop h c

/-- A load's value in the copy: its reads may be stale (R140). -/
def staleLoad (k : Nat) (i : Instr) (r : Regs) : Regs :=
  match i with
  | .ld _ o => r.setS o.d (o.ty.place (Config.lanternRead k))
  | .lda _ o => r.setS o.d (o.ty.place (Config.lanternRead k))
  | _ => r

/-- Of the vector instructions, the vector integer forms alone are executed, where the slice table marks them
or the instruction steers them so (R26, R27, R141). -/
def sliceAllows (s : State) (slot : Nat) (i : Instr) (op : Nat) (ctl : Ctl) (pc : Word) : Bool :=
  if isVecInt i op then ctl.steer == .lantern || sliceMarks s slot pc
  else !(decide (0x61 ≤ op) && decide (op ≤ 0x71))

/-- VSETL where the Lantern leads by SLIP strips already (R148). -/
def slipHolds (h : Hart) (c : LanternCopy) (op : Nat) (r : Raw) : Bool :=
  op == 0x60 && r.fn == 0 && decide (h.lantern.strips + (h.lslip.extractLsb' 0 7).toNat ≤ c.strips)

def LanternReg.isElements : LanternReg → Bool
  | .v _ => true
  | .m _ => true
  | _ => false

/-- The registers whose poison ends where the Lantern executes an instruction: VSETT leaves a poisoned VL
poisoned, which it only lowers (R246), and one that began above element 0 does not produce the elements
below (R242). -/
def lanternCleans (c : LanternCopy) (i : Instr) (op : Nat) (ds : List LanternReg) : List LanternReg :=
  match i with
  | .vsett _ _ => if c.bad .vl then ds.filter fun x => x != .vl else ds
  | .vmrank _ _ => ds
  | _ => if endsAtZero i op && c.regs.vstart != 0 then ds.filter fun x => !(x.isElements && c.bad x) else ds

/-- The copy after an instruction that the Lantern executed: the poison of its destinations ends, but for
those that stay poison. -/
def LanternCopy.executed (c : LanternCopy) (h : Hart) (i : Instr) (op : Nat) (ds : List LanternReg) : LanternCopy :=
  let clean := lanternCleans c i op ds
  match ds.filter fun x => !clean.contains x with
  | [] => c.clear ds
  | bad => ((c.clear clean).noteSkip h i op).spoil bad

/-- The Lantern waits for a register (R142): `k` numbers the free value of its cycles. It takes the value at once
where the instruction that last wrote it has retired. -/
def waitFor (h : Hart) (k : Nat) (x : LanternReg) : Hart :=
  { h with lantern := { h.lantern with
    copy := h.lantern.copy.map fun c => { c with waiting := some x, wait := k, bound := false }.bind h h.lantern.seq } }

/-- The Lantern meets a decoded instruction; `k` is a free value's index and `id` a new batch number. An LSYNC
whose guard is poison is passed: its register is not made poison and there is no wait, which R143 leaves open
(DESIGN CHOICE, log entry 67). -/
def lanternMeets (s : State) (slot : Nat) (h : Hart) (c : LanternCopy) (i : Instr) (ctl : Ctl) (r : Raw) (k id : Nat) : Hart :=
  let op := r.op.toNat
  let share := wickShare s slot
  let branch := op == 0x30 || op == 0x31
  let ds := destRegs c.regs i r
  let skip := fun (ds : List LanternReg) => skipAsPoison share h c i op ds
  if (0x40 ≤ op ∧ op ≤ 0x4F) ∨ (ctl.steer = .trailing ∧ branch) then
    { h with lantern := { h.lantern with stopped := true } }
  else match loopRegs.find? c.bad with
  | some x => waitFor h k x
  | none =>
    let badGuard := (guardReg ctl).any c.bad
    if ctl.steer = .trailing then skip ds (!badGuard && guardTrue (shadowHart h c) ctl)
    else if badGuard then
      match (if branch || op == 0x32 then guardReg ctl else []) with
      | [] => skip ds false
      | x :: _ => waitFor h k x
    else if !guardTrue (shadowHart h c) ctl then
      moveOn share h (c.clear [.vstart]) (lanternPast h c true) (if branch then .branch false 0 :: lanternLoop h c else lanternLoop h c)
    else if op = 0xD5 then waitFor (skip [.s (sOf r.a)] true) k (.s (sOf r.a))
    else match (lanternNeeds c i r).find? c.bad with
    | some x => waitFor h k x
    | none =>
      if slipHolds h c op r then { h with lantern := { h.lantern with copy := some { c with slipped := true } } }
      else match walkOf i with
        | some w => lanternWalk s slot share h c w ((maskReg r).any c.bad) (resultRegs c.regs i r)
        | none =>
          if !sliceAllows s slot i op ctl c.regs.pc || (sourceRegs i r ++ lanternVector i op).any c.bad then skip ds true
          else match lanternRegs s slot h c i with
            | none => skip ds true
            | some regs =>
              let strips := if op = 0x60 ∧ r.fn = 0 then c.strips + 1 else c.strips
              let c' := { (c.executed h i op ds).clear (if endsAtZero i op then [.vstart] else []) with strips := strips }
              let y := moveOn share h c' (staleLoad k i regs) (lanternPushes s slot h c id i op regs)
              if op = 0xC0 then
                { y with lantern := { y.lantern with prefetches := addPrefetches s slot (shadowHart h c) (some c.seq) y.lantern.prefetches (batchAddrs c i regs) } }
              else y

/-- The Lantern restarts from the trailing core's state once that has passed the instruction at which
it stopped (R144). -/
def lanternRestart (h : Hart) (c : LanternCopy) : Hart :=
  if c.seq < h.lantern.seq then
    { h with lantern := { h.lantern with
      stopped := false
      feeds := forkFeeds h.lantern.feeds
      copy := some { forkCopy h.regs h.lantern.pages with seq := h.lantern.seq, strips := h.lantern.strips } } }
  else h

/-- The Lantern works for the hart: it is forked and on (R148, R150). -/
def lanternOn (slot : Nat) (h : Hart) : Bool :=
  !isLamp slot && h.run != .stopped && h.run != .halting && !h.lantern.forking && !h.lslip.getLsbD 7

/-- The prefetches that a hart sent beyond those of before count at the home slices of their REPL pages (R227,
R230). -/
def countPrefetches (s : State) (slot : Nat) (before : List Prefetch) : State :=
  match s.hart? slot with
  | none => s
  | some h => (h.lantern.prefetches.filter fun p => !before.any fun b => b.line == p.line).foldl (fun s p =>
      match p.repl with
      | some g => countRepl s (dieOf slot) g (p.line * 128) false
      | none => s) s

/-- LANTERN_ISSUE (R140): entries that wait for room go first (R144). A word that fails its checks stops the
Lantern and raises nothing (R28, R144); R144 names steps 4 to 6 of R117, and one that fails steps 1 to 3
stops it as well (DESIGN CHOICE, log entry 34). -/
def execLanternIssue (slot : Nat) (s : State) : Host.Outcome State Fault Refusal :=
  match s.hart? slot with
  | none => .next s
  | some h =>
    match h.lantern.copy with
    | none => .next s
    | some c =>
      if !lanternOn slot h then .next s
      else if !c.pending.isEmpty then .next (s.setHart slot (pushPending (wickShare s slot) h))
      else if c.waiting.isSome || h.slipping c then .next s
      else if h.lantern.stopped then .next (s.setHart slot (lanternRestart h c))
      else
        let stop := { h with lantern := { h.lantern with stopped := true } }
        match fetchWord s slot (shadowHart h c) with
        | .error _ => .next (s.setHart slot stop)
        | .ok bs =>
          match decodeFetched bs with
          | .error _ => .next (s.setHart slot stop)
          | .ok i =>
            match i.raw with
            | none => .next s
            | some r =>
              let (k, s) := s.draw
              let (id, s) := s.newId
              let s := s.setHart slot (lanternMeets s slot h c i ((Ctl.parse r).getD {}) r k id)
              .next (watchBatch (countPrefetches s slot h.lantern.prefetches) slot id)

/-! ## Forks, publication and prefetches -/

/-- LANTERN_FORK_COPY_DONE (R150 step 4): both issue again, and the counts start from 0. -/
def execLanternForkCopyDone (slot : Nat) (s : State) : Host.Outcome State Fault Refusal :=
  .next (s.modHart slot fun h =>
    if h.lantern.forking then
      { h with lantern := { h.lantern with
        forking := false, stopped := false, seq := 0, strips := 0, wick := []
        feeds := forkFeeds h.lantern.feeds
        copy := some (forkCopy h.regs h.lantern.pages) } }
    else h)

/-- LANTERN_PUBLISH (R142): the publication that the copy has taken its value at arrives, which ends the
wait and its cycles (R408). -/
def execLanternPublish (slot : Nat) (s : State) : Host.Outcome State Fault Refusal :=
  match s.hart? slot with
  | none => .next s
  | some h =>
    match h.lantern.copy with
    | none => .next s
    | some c =>
      match (if c.bound then c.waiting else none) with
      | none => .next s
      | some x =>
        let y := { c.clear [x] with waiting := none, bound := false }
        .next (s.setHart slot { h.bump 4 (Config.lanternWait c.wait) with lantern := { h.lantern with copy := some y } })

/-- PREFETCH_FILL (R230, R151): a prefetch returns and fills a cache way; `wasted` marks a line that is
evicted before the trailing core reads it, which counts once. -/
def execPrefetchFill (slot line : Nat) (wasted : Bool) (s : State) : Host.Outcome State Fault Refusal :=
  .next (s.modHart slot fun h =>
    match h.lantern.prefetches.find? fun p => p.line == line with
    | none => h
    | some p =>
      let rest := h.lantern.prefetches.filter fun p => p.line != line
      let keep := if wasted || p.counted then rest else rest ++ [{ p with filled := true }]
      let h := if wasted && !p.counted then h.bump 3 1 else h
      { h with lantern := { h.lantern with prefetches := keep } })

end Sys2Proof.Machine
end

