-- ==== Sys2Proof/Machine/Matrix.lean ====
section
/-! DEFINITION. The matrix pipe, OP 0xB0 to 0xB3: outer products, the stationary planes, and moving
rows and tiles (R275 to R289, R182 to R185). -/

namespace Sys2Proof.Machine

/-! ## Shared checks and poison -/

/-- Step 1 of R280: the tile lies in the hart's share (R18). -/
def tileOk (h : Hart) (k : ZIdx) : Bool := decide (k.toNat < h.ids.zshare)

/-- A cell of width `w` of row `r` overlaps a poisoned word (R392). -/
def Hart.cellPoisoned (h : Hart) (k r w j : Nat) : Bool :=
  match h.poison with
  | [] => false
  | p => p.any fun x => match x with
    | .z k' r' n => k' == k && r' == r && n == j * w / 64
    | _ => false

/-- Words of a row written whole hold no poison. -/
def Hart.cleanRow (h : Hart) (k r w lo n : Nat) (written : Nat → Bool) : Hart :=
  clearPoison h fun x => match x with
    | .z k' r' i => k' == k && r' == r && wordWritten lo n w written i
    | _ => false

/-- Rows VSTART to n − 1, stopping only between rows (R380). -/
def rowLoop (s : State) (slot : Nat) (h : Hart) (n : Nat) (f : Nat → State → Except Denied State) (fin : State → Res) : Res :=
  match eachPos f (n - h.vstart) h.vstart s.budget s with
  | .finished x => fin x
  | .stopped x i => .keep (x.modHart slot fun y => y.setVstart i)
  | .denied x i d => .deny (x.modHart slot fun y => y.setVstart i) d

/-! ## Outer products (R281 to R283) -/

/-- k: products per cell (R281). -/
def perCell : Ty → Nat
  | .bf16 | .f16 => 2
  | .e4m3 | .e5m2 | .i8 | .n8 => 4
  | .i4 | .n4 => 8
  | _ => 1

/-- kv: k in units of VL (R281). -/
def perCellVl (t : Ty) : Nat := if t.isNibble then 4 else (perCell t)

/-- The cell's type (R281). -/
def cellTy : Ty → Ty
  | .f64 => .f64
  | .i8 | .i4 => .i32
  | .n8 | .n4 => .n32
  | _ => .f32

/-- The cell's view: 64 bits for f64. -/
def cellWidth (t : Ty) : Nat := (cellTy t).width

/-- Operand element (i, t): +0 from VL up (R282). -/
def opElem (h : Hart) (ty : Ty) (v : VIdx) (i t : Nat) : Word :=
  let e := i * (perCell ty) + t
  if e < (if ty.isNibble then 2 * h.vl else h.vl) then elemGet (h.getV v) ty.width e else 0

/-- An operand element (i, t) below VL is poisoned. -/
def opPoisoned (h : Hart) (ty : Ty) (v : VIdx) (i : Nat) : Bool :=
  (List.range (perCell ty)).any fun t =>
    let e := i * (perCell ty) + t
    decide (e < (if ty.isNibble then 2 * h.vl else h.vl)) && h.elemPoisoned v ty.width e

/-- The k elements of row i of VA are all ±0 after input flushing (R182). -/
def rowIsZero (h : Hart) (ty : Ty) (v : VIdx) (i : Nat) : Bool :=
  (List.range (perCell ty)).all fun t =>
    let x := opElem h ty v i t
    if ty.isFloat then (ty.fmt.read h.flush x).isZero else x == 0

/-- The exact sum of k products of a cell (R184). -/
def productSum (h : Hart) (ty : Ty) (a b : VIdx) (i j : Nat) (r : Round) : FVal × FFlags :=
  ((List.range (perCell ty)).foldl (fun (s : Acc) t =>
    s.addProduct (ty.fmt.read h.flush (opElem h ty a i t)) (ty.fmt.read h.flush (opElem h ty b j t))) {}).total r

/-- The exact sum of integer products. -/
def intSum (h : Hart) (ty : Ty) (a b : VIdx) (i j : Nat) : Int :=
  (List.range (perCell ty)).foldl (fun s t => s + ty.int (opElem h ty a i t) * ty.int (opElem h ty b j t)) 0

/-- The new cell of an outer product and its flags (R282). -/
def outerCell (h : Hart) (o : MopaForm) (minus : Bool) (i j : Nat) (x : Word) : Word × FFlags :=
  let ct := cellTy o.ty
  if o.ty.isFloat then
    let r := h.round o.rm
    let (v, fl) := productSum h o.ty o.a o.b i j r
    let z := if minus then ct.fmt.sub r h.flush.output (ct.fmt.read h.flush x) v
      else ct.fmt.add r h.flush.output (ct.fmt.read h.flush x) v
    (z.1, fl ||| z.2)
  else
    let p := intSum h o.ty o.a o.b i j
    (ct.narrow o.sat (if minus then ct.int x - p else ct.int x + p), 0)

/-- The column mask of the pair mN, mN + 1 (R281). -/
def columnActive (h : Hart) (m : Mask) (j : Nat) : Bool :=
  match m with
  | .none => true
  | .on _ k => maskBit (h.getM (k + 1)) j

/-- The words of the column mask that an outer product of `n` columns reads hold poison. -/
def columnsPoisoned (h : Hart) (m : Mask) (n : Nat) : Bool :=
  match m with
  | .none => false
  | .on _ k => h.poisoned [.bits (k + 1) 0 n]

/-- A row of an outer product: its active columns below n take the update (R282). -/
def outerRow (h0 : Hart) (o : MopaForm) (minus : Bool) (n i : Nat) (h : Hart) : Except Denied Hart :=
  let k := o.d.toNat
  let row := (if o.half then 128 else 0) + i
  let w := cellWidth o.ty
  let cols := (List.range n).filter fun j => columnActive h0 o.mask j
  if opPoisoned h0 o.ty o.a i then .error poisonTrap
  else if !h0.sz && rowIsZero h0 o.ty o.a i then .ok (h.bump 9 1)
  else if columnsPoisoned h0 o.mask n || cols.any fun j => opPoisoned h0 o.ty o.b j || h.cellPoisoned k row w j then .error poisonTrap
  else
    let r := cols.foldl (fun (r : VReg × FFlags) j =>
      let z := outerCell h0 o minus i j (elemGet r.1 w j)
      (elemSet r.1 w j z.1, r.2 ||| z.2)) (h.row k row, 0)
    .ok (if cols.isEmpty then h else ((h.setRow k row r.1).markDirty k).raise r.2)

/-- MOPA and MOPS (R281 to R283). -/
def outerProduct (c : Ctl) (o : MopaForm) (minus : Bool) (s : State) : Host.Outcome State Fault Refusal :=
  issue 0xB0 c s fun s slot h =>
    if !tileOk h o.d then trapRes s .zrange (o.d.setWidth 64)
    else if !h.widthOk o.ty.slotWidth then trapRes s .vwidth 0
    else
      let n := (h.vl + (perCellVl o.ty) - 1) / (perCellVl o.ty)
      rowLoop s slot h n
        (h.underMask o.mask
          (fun i s => (outerRow h o minus n i (hartAt s slot h)).map fun y => s.setHart slot y)
          fun _ s => .ok s)
        (fun s => .done (s.modHart slot fun y => y.setVstart 0))

def execMopa (c : Ctl) (o : MopaForm) (s : State) : Host.Outcome State Fault Refusal := outerProduct c o false s

def execMops (c : Ctl) (o : MopaForm) (s : State) : Host.Outcome State Fault Refusal := outerProduct c o true s

/-! ## The stationary planes (R279, R284 to R286) -/

def Plane.row (p : Plane) (t : Nat) : BitVec 1024 := tblGetD p.rows t 0
def Plane.setRow (p : Plane) (t : Nat) (x : BitVec 1024) : Plane := { p with rows := tblPut p.rows t x 0 }
/-- W(t, j) (R279). -/
def Plane.weight (p : Plane) (t j : Nat) : Word := ((p.row t).extractLsb' (16 * j) 16).setWidth 64

/-- Poison of plane rows that are written anew. -/
def cleanPlane (h : Hart) (rows : Nat → Bool) : Hart :=
  clearPoison h fun x => match x with
    | .plane shadow r _ => shadow && rows r
    | _ => false

/-- Elements of a row of a unit stream, all read and checked (R269). -/
def rowRead (s : State) (slot : Nat) (h : Hart) (q : Stream) (n : Nat) : Nat → Nat → Except Denied (State × List Nat)
  | 0, _ => .ok (s, [])
  | k + 1, e =>
    match elementRead s slot h (q.direct e) n q.limit with
    | .error d => .error d
    | .ok (s, x) => (rowRead s slot h q n k (e + 1)).map fun r => (r.1, x :: r.2)

/-- A row of elements of `w` bits as one number, element 0 lowest. -/
def packRow (w : Nat) : List Nat → Nat
  | [] => 0
  | x :: r => x % 2 ^ w + 2 ^ w * packRow w r

/-- MSTAGE (R284). -/
def execMstage (c : Ctl) (o : MstageForm) (s : State) : Host.Outcome State Fault Refusal :=
  issue 0xB1 c s fun s slot h =>
    let q := h.getQ o.q
    let k := min (h.usrc o.b).toNat 512
    unpoisoned s h (.q o.q :: ssrcReads o.b)
      (if !streamOk h q .bf16 [1] then trapRes s .stream 0
       else
        rowLoop s slot h k
          (fun t s =>
            match rowRead s slot (hartAt s slot h) q 2 64 (64 * t) with
            | .error d => .error d
            | .ok (s, xs) => .ok (s.modHart slot fun y =>
                cleanPlane { y with shadow := y.shadow.setRow t (BitVec.ofNat 1024 (packRow 16 xs)) } fun r => r == t))
          (fun s => .done (s.modHart slot fun y =>
            let y := cleanPlane { y with shadow := { rows := y.shadow.rows.filter fun e => decide (e.1 < k), kp := BitVec.ofNat 10 k } } fun r => decide (k ≤ r)
            clearPoison ((advanceStream y o.q (64 * k)).setVstart 0) (RegLoc.controlIn [0x1BA]))))

/-- MSWAP (R285). -/
def execMswap (c : Ctl) (s : State) : Host.Outcome State Fault Refusal :=
  issue 0xB1 c s fun s slot h =>
    let flip := fun (x : RegLoc) => match x with
      | .plane b r w => .plane (!b) r w
      | .control 0x1B8 => .control 0x1BA
      | .control 0x1BA => .control 0x1B8
      | x => x
    doneWith s slot { h with live := h.shadow, shadow := h.live, poison := h.poison.map flip }

/-- Steps of the activation elements: groups of 32 below KK (R185). -/
def streamGroups (kk : Nat) : List (List Nat) :=
  (List.range ((kk + 31) / 32)).map fun g => (List.range (min 32 (kk - 32 * g))).map fun u => 32 * g + u

/-- A group is skipped when all its elements are ±0 (R182). -/
def groupSkipped (h : Hart) (v : VIdx) (g : List Nat) : Bool :=
  !h.sz && g.all fun t => (Fmt.bf16.read h.flush (elemGet (h.getV v) 16 t)).isZero

/-- One column of MSTREAM: the groups added in order, each with one rounding (R286). -/
def streamColumn (h : Hart) (r : Round) (v : VIdx) (groups : List (List Nat)) (j : Nat) (x : Word) : Word × FFlags :=
  groups.foldl (fun (z : Word × FFlags) g =>
    let (p, fl) := (g.foldl (fun (s : Acc) t =>
      s.addProduct (Fmt.bf16.read h.flush (elemGet (h.getV v) 16 t)) (Fmt.bf16.read h.flush (h.live.weight t j))) {}).total r
    let y := Fmt.f32.add r h.flush.output (Fmt.f32.read h.flush z.1) p
    (y.1, z.2 ||| fl ||| y.2)) (x, 0)

/-- A weight of the live plane is poisoned. -/
def weightPoisoned (h : Hart) (t j : Nat) : Bool :=
  match h.poison with
  | [] => false
  | p => p.any fun x => match x with
    | .plane shadow r w => !shadow && r == t && w == j / 4
    | _ => false

/-- MSTREAM (R286): a whole instruction. It ignores VSTART and sets it to 0, as the whole instructions of R244 do
(DESIGN CHOICE, log entry 66: neither R286 nor R244 says what becomes of it). -/
def execMstream (c : Ctl) (o : MstreamForm) (s : State) : Host.Outcome State Fault Refusal :=
  issue 0xB1 c s fun s slot h =>
    let k := o.d.toNat
    let r := h.getS o.b
    if !tileOk h o.d then trapRes s .zrange (o.d.setWidth 64)
    else if !h.widthOk 16 then trapRes s .vwidth 0
    else unpoisoned s h (.s o.b :: maskBits 0 64 o.mask)
      (if 255 < r.toNat then trapRes s .zrange r
       else
        let kk := min h.vl h.live.kp.toNat
        let all := streamGroups kk
        let groups := all.filter fun g => !groupSkipped h o.a g
        let cols := (List.range 64).filter fun j => h.active o.mask j
        let cell := fun j => 64 * o.c.toNat + j
        let bad := (List.range kk).any (fun t => h.elemPoisoned o.a 16 t) ||
          (cols.any fun j => !groups.isEmpty && (h.cellPoisoned k r.toNat 32 (cell j) ||
            groups.any fun g => g.any fun t => weightPoisoned h t j))
        if bad then .deny s poisonTrap
        else
          let z := cols.foldl (fun (z : VReg × FFlags) j =>
            let y := streamColumn h (h.round o.rm) o.a groups j (elemGet z.1 32 (cell j))
            (elemSet z.1 32 (cell j) y.1, z.2 ||| y.2)) (h.row k r.toNat, 0)
          let h := h.bump 9 (BitVec.ofNat 64 (all.length - groups.length))
          let h := if groups.isEmpty || cols.isEmpty then h else ((h.setRow k r.toNat z.1).markDirty k).raise z.2
          doneWith s slot (h.setVstart 0))

/-! ## Moving rows and tiles (R287 to R289) -/

/-- Steps 1 to 3 of R280 for a row move; the row is B's value. In this chapter a poisoned source register traps
after the width check and before the row range and STREAM (DESIGN CHOICE, log entry 59: R280 does not place
POISON). -/
def rowChecked (s : State) (h : Hart) (z : ZIdx) (w : Nat) (b : SSrc) (r : Nat → Res) : Res :=
  if !tileOk h z then trapRes s .zrange (z.setWidth 64)
  else if !h.widthOk w then trapRes s .vwidth 0
  else unpoisoned s h (ssrcReads b) (if 255 < (h.usrc b).toNat then trapRes s .zrange (h.usrc b) else r (h.usrc b).toNat)

/-- ZREAD (R287). -/
def execZread (c : Ctl) (o : ZreadForm) (s : State) : Host.Outcome State Fault Refusal :=
  issue 0xB2 c s fun s slot h =>
    let w := o.ty.width
    rowChecked s h o.z w o.b fun r =>
      elementwise s slot h w w o.d o.mask []
        (fun x i => x.cellPoisoned o.z.toNat r w i)
        (fun x i => (elemGet (x.row o.z.toNat r) w i, 0))

/-- Writes a cell of a row. -/
def Hart.putCell (h : Hart) (k r w i : Nat) (x : Word) : Hart := (h.setRow k r (elemSet (h.row k r) w i x)).markDirty k

/-- ZWRITE (R287). -/
def execZwrite (c : Ctl) (o : ZwriteForm) (s : State) : Host.Outcome State Fault Refusal :=
  issue 0xB2 c s fun s slot h =>
    let w := o.ty.width
    let k := o.z.toNat
    rowChecked s h o.z w o.b fun r =>
      elementLoop s slot h o.mask
        (fun i x => if x.elemPoisoned o.a w i then .error poisonTrap
          else .ok ((x.putCell k r w i (elemGet (x.getV o.a) w i)).cleanRow k r w h.vstart (i + 1) (h.writes o.mask)))
        (fun i x => .ok (if maskZeroing o.mask
          then (x.putCell k r w i 0).cleanRow k r w h.vstart (i + 1) (h.writes o.mask) else x))

/-- ZZERO (R288). -/
def execZzero (c : Ctl) (o : ZzeroForm) (s : State) : Host.Outcome State Fault Refusal :=
  issue 0xB2 c s fun s slot h =>
    let k := o.z.toNat
    if !tileOk h o.z then trapRes s .zrange (o.z.setWidth 64)
    else doneWith s slot (clearPoison ((h.zeroTile k).markClean k) fun x => match x with
      | .z k' _ _ => k' == k
      | _ => false)

/-- The checks of the 256 elements of a row to be written (R289). -/
def rowWriteCheck (s : State) (slot : Nat) (h : Hart) (q : Stream) (n : Nat) : Nat → Nat → Except Denied (List (Word × Place))
  | 0, _ => .ok []
  | k + 1, e =>
    match elementWriteCheck s slot h (q.direct e) n q.limit true with
    | .error d => .error d
    | .ok pl => (rowWriteCheck s slot h q n k (e + 1)).map fun r => (q.direct e, pl) :: r

/-- The writes of a row of a tile at the places that its checks gave. -/
def rowWrites (h : Hart) (k i : Nat) (pls : List (Word × Place)) : List CheckedWrite :=
  ((List.range pls.length).zip pls).map fun e => { va := e.2.1, place := e.2.2, bytes := elemBytes 4 (elemGet (h.row k i) 32 e.1) }

/-- Row `i` of a ZSAVE performs, once no pin of the hart's own pair keeps an element that others follow from VA
(R314). -/
def performRow (slot : Nat) (h : Hart) (i : Nat) (r : State × List CheckedWrite) : Except Denied State :=
  match orderedHold r.1 slot true (if i = 255 then r.2.dropLast else r.2) with
  | some d => .error d
  | none => .ok (r.2.foldl (CheckedWrite.perform slot h.ids.part) r.1)

/-- ZSAVE (R289). A poisoned cell of a row traps before the row's memory checks (DESIGN CHOICE, log entry 59: R280 and
R289 do not place it). -/
def execZsave (c : Ctl) (o : ZmemForm) (s : State) : Host.Outcome State Fault Refusal :=
  issue 0xB3 c s fun s slot h =>
    let q := h.getQ o.q
    let k := o.z.toNat
    if !tileOk h o.z then trapRes s .zrange (o.z.setWidth 64)
    else unpoisoned s h [.q o.q]
      (if !streamOk h q o.ty [1] then trapRes s .stream 0
       else
        rowLoop s slot h 256
          (fun i s =>
            if (List.range 256).any fun j => h.cellPoisoned k i 32 j then .error poisonTrap
            else match rowWriteCheck s slot (hartAt s slot h) q 4 256 (256 * i) with
              | .error d => .error d
              | .ok pls => performRow slot h i (s, rowWrites h k i pls))
          (fun s => .done (s.modHart slot fun y => (advanceStream y o.q 65536).setVstart 0)))

/-- ZLOAD (R289). -/
def execZload (c : Ctl) (o : ZmemForm) (s : State) : Host.Outcome State Fault Refusal :=
  issue 0xB3 c s fun s slot h =>
    let q := h.getQ o.q
    let k := o.z.toNat
    if !tileOk h o.z then trapRes s .zrange (o.z.setWidth 64)
    else unpoisoned s h [.q o.q]
      (if !streamOk h q o.ty [1] then trapRes s .stream 0
       else
        rowLoop s slot h 256
          (fun i s =>
            match rowRead s slot (hartAt s slot h) q 4 256 (256 * i) with
            | .error d => .error d
            | .ok (s, xs) => .ok (s.modHart slot fun y =>
                ((y.setRow k i (BitVec.ofNat 8192 (packRow 32 xs))).markDirty k).cleanRow k i 32 0 256 fun _ => true))
          (fun s => .done (s.modHart slot fun y => (advanceStream y o.q 65536).setVstart 0)))

end Sys2Proof.Machine
end

