-- ==== Sys2Proof/Machine/Image.lean ====
section
/-! DEFINITION. Context images, stopping and resuming a gang (R80, R83, R325, R339, R386 to R390,
R427), the dispatch round (R67), and the commands of TCMD (R76, R77). -/

namespace Sys2Proof.Machine

/-! ## Bytes of an image -/

/-- `n` bytes at a PA become zero and clean. -/
def zeroRange (s : State) (a n : Nat) : State :=
  { s with
    mem := s.mem.filter fun c => !(decide (a ≤ c.1) && decide (c.1 < a + n))
    memPoison := match s.memPoison with
      | [] => []
      | l => l.filter fun w => !(decide (a ≤ w) && decide (w < a + n)) }

/-- Bytes into a range that reads zero. -/
def putBytes (s : State) (a : Nat) (bs : List Byte) : State := if bs.all fun b => b == 0 then s else physWrite s a bs

def imageWord (s : State) (a : Nat) : Word := BitVec.ofNat 64 (leNat (physReadBytes s a 8))
def imageNat (s : State) (a n : Nat) : Nat := leNat (physReadBytes s a n)

/-- Where a poisoned word of a hart lies in its image (R388). -/
def RegLoc.offset : RegLoc → Nat
  | .s i => 0x200 + 8 * i
  | .q i w => 0x400 + 32 * i + 8 * w
  | .e i w => 0x600 + 32 * i + 8 * w
  | .m i w => 0x800 + 128 * i + 8 * w
  | .v i w => 0x1000 + 1024 * i + 8 * w
  | .defer k w => 0x12000 + 48 * k + 8 * w
  | .p _ => 0x1B0
  | .control o => o
  | .plane shadow r w => (if shadow then 0x52000 else 0x42000) + 128 * r + 8 * w
  | .z k r w => 0x260000 + 0x40000 * k + 1024 * r + 8 * w

/-- The words of a hart at an offset of its image. Those of the header that a restore uses, of the control block,
USED and the owner bits are control state; p1 to p7 share a word, and so do the two KP, of which the shadow's
counts as offset 0x1BA. -/
def RegLoc.ofOffset (o : Nat) : List RegLoc :=
  if o = 0x1B0 then (List.range 7).map fun i => .p (i + 1)
  else if o = 0x1B8 then [.control 0x1B8, .control 0x1BA]
  else if o = 0 ∨ o = 0x10 ∨ o = 0x28 ∨ (0x100 ≤ o ∧ o < 0x1B0) ∨ o = 0x11000 ∨ (0x62800 ≤ o ∧ o < 0x62840) then [.control o]
  else if o < 0x200 then []
  else if o < 0x400 then [.s ((o - 0x200) / 8)]
  else if o < 0x600 then [.q ((o - 0x400) / 32) ((o - 0x400) % 32 / 8)]
  else if o < 0x680 then [.e ((o - 0x600) / 32) ((o - 0x600) % 32 / 8)]
  else if o < 0x800 then []
  else if o < 0x1000 then [.m ((o - 0x800) / 128) ((o - 0x800) % 128 / 8)]
  else if o < 0x11000 then [.v ((o - 0x1000) / 1024) ((o - 0x1000) % 1024 / 8)]
  else if o < 0x12000 then []
  else if o < 0x42000 then [.defer ((o - 0x12000) / 48) ((o - 0x12000) % 48 / 8)]
  else if o < 0x52000 then [.plane false ((o - 0x42000) / 128) ((o - 0x42000) % 128 / 8)]
  else if o < 0x62000 then [.plane true ((o - 0x52000) / 128) ((o - 0x52000) % 128 / 8)]
  else if o < 0x260000 then []
  else [.z ((o - 0x260000) / 0x40000) ((o - 0x260000) % 0x40000 / 1024) ((o - 0x260000) % 1024 / 8)]

/-- The word of a poisoned place is one that the image holds: of the tiles, those with ZDIRTY set are (R388). -/
def RegLoc.saved (h : Hart) : RegLoc → Bool
  | .z k _ _ => h.zdirty.getLsbD k
  | _ => true

/-! ## Saving (R388) -/

def stopCode : StopKind → Nat
  | .preempted => 0
  | .parked => 1
  | .debug => 2

/-- The header (R388). -/
def headerBytes (g : Gang) (k : StopKind) (h : Hart) (first : Bool) (bars : Tbl Barrier) (partner : Nat) : List Byte :=
  leBytes 4 1 ++ leBytes 1 1 ++ leBytes 1 (if h.priv then 1 else 0) ++ leBytes 1 h.ids.hartid ++ leBytes 1 h.ids.zshare ++
  leBytes 4 g.id ++ leBytes 4 g.gridIdx ++ leBytes 4 g.seq ++ leBytes 1 g.queue ++ leBytes 1 h.ids.ways ++ leBytes 1 g.size ++
  leBytes 1 (stopCode k) ++
  leBytes 8 (if first then bars.foldl (fun x b => x + 2 ^ b.1) 0 else 0) ++
  leBytes 8 (if k = .parked then (g.await.getD 0).toNat else 0) ++ leBytes 1 partner

/-- The control block (R388): offsets 0x100 to 0x1B8. -/
def controlWords (h : Hart) : List Nat :=
  let r := h.regs
  let l := r.loops
  let t := h.trap
  [r.pc.toNat, r.vstart.toNat, r.vl.toNat, r.vtype.toNat, h.fcsr.toNat, h.lslip.toNat, h.zdirty.toNat,
   l.lc0.toNat, l.lc1.toNat, l.lb0.toNat, l.lb1.toNat, l.le0.toNat, l.le1.toNat,
   t.tvec.toNat, t.epc.toNat, t.evstart.toNat, t.ecause.toNat, t.eval.toNat, t.estat.toNat,
   h.cycle.toNat, h.instret.toNat, h.rdisc.toNat,
   ((List.range 8).map fun i => if h.getP (BitVec.ofNat 3 i) then 2 ^ i else 0).foldl (fun a b => a + b) 0,
   h.live.kp.toNat + h.shadow.kp.toNat * 2 ^ 16]

/-- The registers from offset 0x200 to 0x680: s0 to s63, q0 to q15, e0 to e3. -/
def registerWords (h : Hart) : List Nat :=
  ((List.range 64).map fun i => (h.getS (BitVec.ofNat 6 i)).toNat) ++
  ((List.range 16).flatMap fun i => let q := h.getQ (BitVec.ofNat 4 i); [q.base.toNat, q.stride.toNat, q.pos.toNat, q.ctl.toNat]) ++
  ((List.range 4).flatMap fun i => let e := h.getE (BitVec.ofNat 2 i); [e.cbase.toNat, e.cpos.toNat, e.cend.toNat, e.cctl.toNat])

/-- A deferral slot. -/
def DeferSlot.words (d : DeferSlot) : List Nat := [d.index.toNat, d.path.toNat, d.v0.toNat, d.v1.toNat, d.v2.toNat, d.v3.toNat]

/-- A barrier entry. -/
def Barrier.words (b : Barrier) : List Nat :=
  [(if b.phase then 1 else 0) + (if b.broken then 2 else 0) + b.expa.toNat * 2 ^ 8 + b.arr.toNat * 2 ^ 16,
   b.baseb.toNat, b.expb.toNat, b.cred.toNat]

/-- Words of eight bytes. -/
def wordBytes (l : List Nat) : List Byte := l.flatMap (leBytes 8)

/-- The pieces of a hart's image below the tiles: offset and bytes. -/
def imagePieces (g : Gang) (k : StopKind) (h : Hart) (first : Bool) (bars : Tbl Barrier) (partner : Nat) : List (Nat × List Byte) :=
  [(0, headerBytes g k h first bars partner), (0x100, wordBytes (controlWords h)), (0x200, wordBytes (registerWords h))] ++
  ((List.range 16).map fun i => (0x800 + 128 * i, leBytes 128 (h.getM (BitVec.ofNat 4 i)).toNat)) ++
  ((List.range 64).map fun i => (0x1000 + 1024 * i, leBytes 1024 (h.getV (BitVec.ofNat 6 i)).toNat)) ++
  [(0x11000, leBytes 8 h.defer.length)] ++
  (((List.range h.defer.length).zip h.defer).map fun d => (0x12000 + 48 * d.1, wordBytes d.2.words)) ++
  (h.live.rows.map fun r => (0x42000 + 128 * r.1, leBytes 128 r.2.toNat)) ++
  (h.shadow.rows.map fun r => (0x52000 + 128 * r.1, leBytes 128 r.2.toNat)) ++
  (if first then bars.map fun b => (0x62000 + 32 * b.1, wordBytes b.2.words) else []) ++
  [(0x62800, leBytes 64 (h.granules.foldl (fun x e => if e.2.engine then x + 2 ^ e.1 else x) 0))]

/-- Writes one hart's image (R388): reserved bytes zero, scratch of the ways held, dirty tiles. -/
def saveHart (s : State) (base : Nat) (g : Gang) (k : StopKind) (h : Hart) (first : Bool) (bars : Tbl Barrier) (partner : Nat) : State :=
  let s := zeroRange (zeroRange s base 0x80000) (base + 0x80000) (h.ids.ways * wayBytes)
  let s := (imagePieces g k h first bars partner).foldl (fun s p => putBytes s (base + p.1) p.2) s
  let s := h.scratch.foldl (fun s c => physWrite s (base + 0x80000 + c.1) [c.2]) s
  let dirty := (List.range 32).filter fun z => h.zdirty.getLsbD z
  let s := dirty.foldl (fun s z => zeroRange s (base + 0x260000 + 0x40000 * z) 0x40000) s
  let s := (h.tiles.filter fun e => dirty.contains (e.1 / 256)).foldl (fun s e => putBytes s (base + 0x260000 + 1024 * e.1) (leBytes 1024 e.2.toNat)) s
  let s := (h.poison.filter (RegLoc.saved h)).foldl (fun s l => poisonByte s (base + l.offset)) s
  h.scratchPoison.foldl (fun s o => poisonByte s (base + 0x80000 + o)) s

/-- Barriers of a die that a gang owns. -/
def ownedBarriers (s : State) (g : Gang) : Tbl Barrier :=
  (s.barriers.filter fun b => b.1 / 64 == g.die && b.2.owner == .owned g.id).map fun b => (b.1 % 64, b.2.bar)

/-- The words of an image that hold a barrier (R388). -/
def barrierWords (base n : Nat) : List Nat := (List.range 4).map fun k => base + 0x62000 + 32 * n + 8 * k

/-- Barriers that a gang owns and that came poisoned keep their poison in its image (R392). -/
def poisonBarriers (s : State) (g : Gang) (base : Nat) (t : State) : State :=
  ((s.barriers.filter fun b => b.1 / 64 == g.die && b.2.owner == .owned g.id && b.2.poisoned).flatMap fun b => barrierWords base (b.1 % 64)).foldl poisonByte t

/-- HARTID of the gang's hart in the other slot of a pair, or 0xFF (R83). -/
def partnerOf (s : State) (g : Gang) (slot : Nat) : Nat :=
  match s.hart? (siblingOf slot) with
  | some h => if h.ids.gang = g.id then h.ids.hartid else 0xFF
  | none => 0xFF

/-- Steps 3 and 4 of R386: images, slots and barriers of a stopped gang. What R388 gives no place in an image, the
VTYPE that trap entry saved and the hold on the loop actions, stays with the front end's record of the gang, so that a
stopped handler goes on as one that was not (R16; log entries 48 and 54). -/
def saveGang (s : State) (g : Gang) (k : StopKind) : State :=
  let bars := ownedBarriers s g
  let p := s.part g.part
  let low := g.harts.foldl (fun m e => min m e.1) 1000
  let t := g.harts.foldl (fun t e => match s.hart? e.2 with
    | some h =>
      let base := imageBase p (listGetD g.images e.1 0)
      let t := saveHart t base g k h (e.1 == low) bars (partnerOf s g e.2)
      if e.1 == low then poisonBarriers s g base t else t
    | none => t) s
  let t := g.harts.foldl (fun t e => releaseSlot t e.2) t
  let t := bars.foldl (fun t b => t.setBarrier (barKey g.die b.1) { bar := b.2, owner := .reserved g.id }) t
  t.modGang g.id fun x => { x with state := .saved k, bars := bars, traps := g.harts.filterMap (fun e =>
    (s.hart? e.2).map fun h => (e.1, h.trap.evtype, h.trap.suspended)) }

/-- The saved gang may already resume: its child is over (R75), its task was resumed, or debug released
it. -/
def readyOnSave (s : State) (g : Gang) (k : StopKind) : Bool :=
  match k with
  | .parked => awaitOver s g
  | .debug => !g.held
  | .preempted => match s.task? g.part g.queue g.seq with
    | some t => match t.state with
      | .preempted _ => false
      | _ => true
    | none => false

/-- GANG_SAVE (R386): a stopping gang is saved when its transfers and reflected stores are over. -/
def execGangSave (gang : Nat) (s : State) : Host.Outcome State Fault Refusal :=
  match s.gang? gang with
  | none => .next s
  | some g =>
    match g.state with
    | .stopping k =>
      match s.task? g.part g.queue g.seq with
      | none => .next s
      | some t =>
        if t.state.isEnding || gangBusy s g then .next s
        else match imagePinned s g with
          | some (n, a) => .next (noteRetry s n a imageSize)
          | none =>
            let s := settleParked (saveGang s g k) g.part g.queue g.seq
            .next (if readyOnSave s g k then makeReady s g else s)
    | _ => .next s

/-! ## Checks at a restore (R390) -/

def imageView (s : State) (a : Nat) : Nat := imageNat s (a + 5) 1
def imageWays (s : State) (a : Nat) : Nat := imageNat s (a + 0x15) 1
def imagePartner (s : State) (a : Nat) : Nat := imageNat s (a + 0x28) 1

/-- The image of a gang's hart. -/
def imageOf (s : State) (g : Gang) (hartid : Nat) : Nat := imageBase (s.part g.part) (listGetD g.images hartid 0)

/-- IMGVER and the reserved fields of header and control block (R390). Reserved are the bytes and bits that
R388 so names or gives no field in words 0x1B0 and 0x1B8; the upper bits of a register's word are no
reserved field, and its write rule drops them (DESIGN CHOICE, log entry 54: R388 names neither). -/
def imageFormOk (s : State) (a : Nat) : Bool :=
  imageNat s a 4 == 1 && imageNat s (a + 0x29) 215 == 0 && imageNat s (a + 0x1C0) 64 == 0 &&
  imageNat s (a + 0x1B0) 8 < 256 && (let k := imageWord s (a + 0x1B8); bits k 10 6 == 0 && bits k 26 38 == 0)

/-- The checks on one hart's image among those of its gang (R390). -/
def imageHartOk (s : State) (g : Gang) (h : Nat) : Bool :=
  let a := imageOf s g h
  let n := imagePartner s a
  imageFormOk s a && decide (imageView s a ≤ 1) && decide (imageWays s a ≤ 15) &&
  (n == 0xFF || (n != h && (g.harts.any fun e => e.1 == n) &&
    (let b := imageOf s g n
     imagePartner s b == h && decide (imageWays s a + imageWays s b ≤ 15))))

/-- The hart of a gang whose image fails, lowest HARTID first. -/
def badImage (s : State) (g : Gang) : Option Nat :=
  ((List.range 80).filter fun h => g.harts.any fun e => e.1 == h).find? fun h => !imageHartOk s g h

/-! ## Placement of a gang that resumes (R80, R83) -/

/-- Partner pairs, by their lower HARTID, each on the lowest pair with both slots free. Partners whose tiles together
exceed a pair's 32 are never placed (DESIGN CHOICE, log entry 69: R390 does not check them). -/
def takePartners (s : State) (die : Nat) : List (Nat × Nat × Need × Need) → Chosen → List (Nat × Nat) → Option (Chosen × List (Nat × Nat))
  | [], c, got => some (c, got)
  | (a, b, na, nb) :: r, c, got =>
    if 32 < na.tiles + nb.tiles then none
    else match (freePairs s c die).head? with
      | none => none
      | some p => takePartners s die r (c ++ [(2 * p, na), (2 * p + 1, nb)]) (got ++ [(a, 2 * p), (b, 2 * p + 1)])

/-- Each other hart in ascending order takes the first free slot where it fits. -/
def takeAlone (s : State) (die : Nat) : List (Nat × Need) → Chosen → List (Nat × Nat) → Option (List (Nat × Nat))
  | [], _, got => some got
  | (h, n) :: r, c, got =>
    match (slotsOfDie die).find? fun slot => (holder s c slot).isNone && fits s c n slot with
    | none => none
    | some slot => takeAlone s die r (c ++ [(slot, n)]) (got ++ [(h, slot)])

/-- Every barrier number of the gang is free or its own on a die (R339). -/
def barriersAllow (s : State) (g : Gang) (die : Nat) : Bool :=
  g.bars.all fun b => match (s.barrier (barKey die b.1)).owner with
    | .free => true
    | o => heldBy o g.id

/-- Placement on one die. -/
def placeSaved (s : State) (g : Gang) (tiles die : Nat) : Option (List (Nat × Nat)) :=
  if !barriersAllow s g die then none
  else
    let need := fun h => ({ tiles := tiles, ways := imageWays s (imageOf s g h) } : Need)
    let ids := (List.range 80).filter fun h => g.harts.any fun e => e.1 == h
    let partner := fun h => imagePartner s (imageOf s g h)
    let pairs := (ids.filter fun h => partner h != 0xFF && decide (h < partner h)).map fun h => (h, partner h, need h, need (partner h))
    match takePartners s die pairs [] [] with
    | none => none
    | some (c, got) => takeAlone s die ((ids.filter fun h => partner h == 0xFF).map fun h => (h, need h)) c got

/-- The die and slots of a resumption: its last die first (R80), then the others, in ascending order (DESIGN
CHOICE, log entry 62: R80 gives none). -/
def placeResume (s : State) (g : Gang) : Option (Nat × List (Nat × Nat)) :=
  match s.task? g.part g.queue g.seq with
  | none => none
  | some t =>
    let p := s.part g.part
    (g.die :: (diesOf p).filter fun d => d != g.die).findSome? fun d =>
      (placeSaved s g (recZtiles t.record) d).map fun l => (d, l)

/-! ## Restoring -/

def imageStream (s : State) (a : Nat) : Stream :=
  { base := imageWord s a, stride := imageWord s (a + 8), pos := imageWord s (a + 16), ctl := imageWord s (a + 24) }
def imageCursor (s : State) (a : Nat) : Cursor :=
  { cbase := imageWord s a, cpos := imageWord s (a + 8), cend := imageWord s (a + 16), cctl := imageWord s (a + 24) }

/-- The plane rows of an image. -/
def imagePlane (s : State) (a kp : Nat) : Plane :=
  { rows := (List.range 512).filterMap fun t =>
      let x : BitVec 1024 := BitVec.ofNat 1024 (imageNat s (a + 128 * t) 128)
      if x = 0 then none else some (t, x)
    kp := BitVec.ofNat 10 kp }

def imageDefer (s : State) (a : Nat) : DeferSlot :=
  { index := imageWord s a, path := BitVec.ofNat 4 (imageNat s (a + 8) 1), v0 := imageWord s (a + 16), v1 := imageWord s (a + 24),
    v2 := imageWord s (a + 32), v3 := imageWord s (a + 40) }

/-- Registers from an image, each under its write rule (R390). A PC that is not a multiple of 4 stays as it is, and its
word is fetched where it stands (DESIGN CHOICE, log entry 69: R390 checks no PC, and R121 only redirects). -/
def imageRegs (s : State) (a : Nat) : Regs :=
  let p := imageNat s (a + 0x1B0) 1
  { Regs.initial with
    pc := imageWord s (a + 0x100)
    vstart := BitVec.ofNat 11 (imageNat s (a + 0x108) 8)
    s := Vector.ofFn fun i => if i.val = 0 then 0 else imageWord s (a + 0x200 + 8 * i.val)
    v := Vector.ofFn fun i => BitVec.ofNat 8192 (imageNat s (a + 0x1000 + 1024 * i.val) 1024)
    m := Vector.ofFn fun i => if i.val = 0 then BitVec.allOnes 1024 else BitVec.ofNat 1024 (imageNat s (a + 0x800 + 128 * i.val) 128)
    p := Vector.ofFn fun i => i.val == 0 || p / 2 ^ i.val % 2 == 1
    q := Vector.ofFn fun i => imageStream s (a + 0x400 + 32 * i.val)
    e := Vector.ofFn fun i => imageCursor s (a + 0x600 + 32 * i.val) }

/-- Poisoned words of an image (R390, R392). -/
def imagePoison (s : State) (a : Nat) : List RegLoc :=
  (s.memPoison.flatMap fun w => if a ≤ w ∧ w < a + imageSize then RegLoc.ofOffset (w - a) else []).eraseDups

/-- The hart that an image holds, for its place in a gang (R388, R390), with what the front end's record of the gang
adds: the VTYPE that trap entry saved and whether the loops of R209 are suspended (R16; log entries 48 and 54). A KP
above 512 is loaded as it stands, with the rows from 512 up zero (DESIGN CHOICE, log entry 69). -/
def loadHart (s : State) (g : Gang) (t : Task) (hartid : Nat) : Hart :=
  let a := imageOf s g hartid
  let ways := imageWays s a
  let h : Hart := { Hart.initial with
    ids := { part := g.part, gang := g.id, hartid := hartid, gridIdx := g.gridIdx, gsize := g.size, zshare := recZtiles t.record, ways := ways }
    regs := imageRegs s a
    priv := imageView s a == 1
    lslip := lslipOf (imageWord s (a + 0x128))
    rdisc := BitVec.ofNat 32 (imageNat s (a + 0x1A8) 4) }
  let words := [(0x002, 0x118), (0x001, 0x110), (0x000, 0x120), (0x010, 0x138), (0x011, 0x140), (0x012, 0x148), (0x013, 0x150),
    (0x014, 0x158), (0x015, 0x160), (0x020, 0x168), (0x021, 0x170), (0x022, 0x178), (0x023, 0x180), (0x024, 0x188), (0x025, 0x190),
    (0x00D, 0x198), (0x00E, 0x1A0)]
  let h := words.foldl (fun h w => sysWrite h w.1 (imageWord s (a + w.2))) h
  let dirty : BitVec 32 := BitVec.ofNat 32 (imageNat s (a + 0x130) 8 % 2 ^ h.ids.zshare)
  let kp := imageWord s (a + 0x1B8)
  let owners := imageNat s (a + 0x62800) 64
  { h with
    zdirty := dirty
    trap := match g.traps.find? fun x => x.1 == hartid with
      | some x => { h.trap with evtype := x.2.1, suspended := x.2.2 }
      | none => h.trap
    tiles := ((List.range 32).filter fun z => dirty.getLsbD z).flatMap fun z => (List.range 256).filterMap fun r =>
      let x : VReg := BitVec.ofNat 8192 (imageNat s (a + 0x260000 + 0x40000 * z + 1024 * r) 1024)
      if x = 0 then none else some (z * 256 + r, x)
    live := imagePlane s (a + 0x42000) (bits kp 0 10)
    shadow := imagePlane s (a + 0x52000) (bits kp 16 10)
    defer := (List.range (min (imageNat s (a + 0x11000) 8) 4096)).map fun k => imageDefer s (a + 0x12000 + 48 * k)
    scratch := (s.mem.filter fun c => decide (a + 0x80000 ≤ c.1) && decide (c.1 < a + 0x80000 + ways * wayBytes)).map fun c => (c.1 - (a + 0x80000), c.2)
    scratchPoison := (s.memPoison.filter fun w => decide (a + 0x80000 ≤ w) && decide (w < a + 0x80000 + ways * wayBytes)).map fun w => w - (a + 0x80000)
    granules := (List.range (ways * 32)).filterMap fun k => if owners / 2 ^ k % 2 = 1 then some (k, { engine := true }) else none
    poison := (imagePoison s a).filter fun l => match l with
      | .z k _ _ => dirty.getLsbD k
      | .s i => i != 0
      | .m i _ => i != 0
      | .defer k _ => decide (k < imageNat s (a + 0x11000) 8)
      | _ => true }

/-- The barrier state of an image, for the numbers that the front end's record names (R390). -/
def imageBarrier (s : State) (a n : Nat) : Barrier :=
  let w := imageWord s (a + 0x62000 + 32 * n)
  { phase := w.getLsbD 0, broken := w.getLsbD 1, expa := BitVec.ofNat 8 (bits w 8 8), arr := BitVec.ofNat 8 (bits w 16 8)
    baseb := BitVec.ofNat 40 (imageNat s (a + 0x62000 + 32 * n + 8) 8)
    expb := BitVec.ofNat 40 (imageNat s (a + 0x62000 + 32 * n + 16) 8)
    cred := BitVec.ofNat 40 (imageNat s (a + 0x62000 + 32 * n + 24) 8) }

/-- Barriers held for the gang on a die it does not run on (R339, R427). -/
def moveBarriers (s : State) (g : Gang) (die : Nat) : State :=
  s.barriers.foldl (fun s b =>
    if b.1 / 64 ≠ die ∧ heldBy b.2.owner g.id then
      s.setBarrier b.1 { b.2 with owner := if creditedBarrier s (b.1 / 64) (b.1 % 64) then .forwarding g.id else .free }
    else s) s

/-- A gang resumes on slots of a die (R386, R325, R339, R152). -/
def resumeGang (s : State) (g : Gang) (t : Task) (die : Nat) (slots : List (Nat × Nat)) : State :=
  let low := g.harts.foldl (fun m e => min m e.1) 1000
  let harts := slots.map fun e => (e.2, loadHart s g t e.1)
  let bars := g.bars.map fun b => (b.1, ({ bar := imageBarrier s (imageOf s g low) b.1, owner := .owned g.id, poisoned := (barrierWords (imageOf s g low) b.1).any s.memPoison.contains } : BarrierCell))
  let s := harts.foldl (fun s e => takeSlot s e.1 (e.2.startFork 1)) s
  let s := moveBarriers s g die
  let s := bars.foldl (fun s b => s.setBarrier (barKey die b.1) b.2) s
  let s := s.modGang g.id fun g => { g with state := .running, die := die, harts := slots, await := none, bars := [], credits := [], traps := [] }
  let s := s.modPart g.part fun p => { p with ready := p.ready.filter fun x => x != g.id }
  let s := s.modTask g.part g.queue g.seq fun t => { t with state := if t.state = .parked then .running else t.state }
  g.credits.foldl (fun s c => creditBarrier s die c.1 c.2) s

/-- The ready gang is not held back by its task (R77) or by debug. -/
def mayResume (s : State) (g : Gang) : Bool :=
  g.isSaved && !g.held && match s.task? g.part g.queue g.seq with
    | some t => match t.state with
      | .preempted _ => false
      | .ending _ => false
      | _ => true
    | none => false

/-- The first ready gang that can resume now, or whose image fails (R67). -/
def nextReady (s : State) (p : Nat) : Option Gang :=
  ((s.part p).ready.filterMap fun id => s.gang? id).find? fun g =>
    mayResume s g && ((badImage s g).isSome || (placeResume s g).isSome)

/-- The core dies have power and no entry into Autumn is asked for (R409): gangs are dispatched and
resumed. -/
def dispatches (s : State) : Bool := decide (s.sconce.pwr.toNat ≤ 1) && s.sconce.pwrReq != 2

/-- GANG_RESUME (R67, R80, R386, R390); pins on the images' lines are waited out (R318). -/
def execGangResume (p : Nat) (s : State) : Host.Outcome State Fault Refusal :=
  match (if dispatches s then nextReady s p else none) with
  | none => .next s
  | some g =>
    match s.task? g.part g.queue g.seq with
    | none => .next s
    | some t =>
      match imagePinned s g with
      | some (k, a) => .next (noteRetry s k a imageSize)
      | none => match badImage s g with
      | some h => .next (beginEnd s p g.queue g.seq { code := causeImage, gridIdx := BitVec.ofNat 32 g.gridIdx, hartid := BitVec.ofNat 7 h })
      | none => match placeResume s g with
        | some (die, slots) => .next (resumeGang s g t die slots)
        | none => .next s

/-- DISPATCH_ROUND (R67, R79): after every ready gang that can resume, one gang of the chosen queue's
task, of a die that can take it and in an order that the device does not define. -/
def execDispatchRound (p rank pick : Nat) (s : State) : Host.Outcome State Fault Refusal :=
  if !dispatches s || (nextReady s p).isSome then .next s
  else match chooseQueue s p with
    | none => .next s
    | some (n, lv) =>
      match dispatchable s p n with
      | none => .next s
      | some t =>
        if !(placeableRanks s p t).contains rank then .next s
        else match pickGang rank pick t.blocks with
          | none => .next s
          | some (index, left) =>
            let others := (eligible s p).map fun e => e.1
            .next (countRound (dispatchGang s p t rank index left) p n lv others)

/-! ## TCMD (R76, R77) -/

def tcmdResult (s : State) (p : Nat) (r : BitVec 2) : State := s.modRegs p fun x => { x with tcmd := r }

/-- A command on a task: 1 where there is none, 2 where its state does not admit it. -/
def taskCommand (s : State) (p queue seq : Nat) (ok : TaskState → Bool) (f : State → Task → State) : State :=
  match s.task? p queue seq with
  | none => tcmdResult s p 1
  | some t => if ok t.state then tcmdResult (f s t) p 0 else tcmdResult s p 2

/-- States that a PREEMPT acts on (R77). -/
def canPreempt : TaskState → Bool
  | .resident => true
  | .dispatched => true
  | .running => true
  | .parked => true
  | _ => false

/-- The state to come back to, where no gang has executed an instruction (R77). -/
def stateCode : TaskState → Nat
  | .resident => 0
  | _ => 1

/-- A gang waits for another RESUME. -/
def unready (s : State) (g : Gang) : State :=
  s.modPart g.part fun p => { p with ready := p.ready.filter fun x => x != g.id }

/-- PREEMPT (R77, R386). -/
def preemptTask (s : State) (p queue seq : Nat) : State :=
  taskCommand s p queue seq canPreempt fun s t =>
    let s := s.modTask p queue seq fun t => { t with state := .preempted (stateCode t.state) }
    let s := ((gangsOf s t).filter fun g => g.state == .saved .preempted || g.state == .stopping .preempted).foldl unready s
    ((gangsOf s t).filter fun g => g.state == .running).foldl (fun s g => stopGang s g.id .preempted none) s

def isPreempted : TaskState → Bool
  | .preempted _ => true
  | _ => false

/-- The state after a RESUME (R77). -/
def resumedState (s : State) (t : Task) : TaskState :=
  if parkedCondition s t then .parked
  else if t.ran then .running
  else match t.state with
    | .preempted 0 => .resident
    | _ => .dispatched

/-- Gangs in ascending GRIDIDX. -/
def insertGang (l : List Gang) (g : Gang) : List Gang :=
  match l with
  | [] => [g]
  | x :: r => if g.gridIdx < x.gridIdx then g :: x :: r else x :: insertGang r g

/-- RESUME (R77, R67): its pre-empted gangs, those not yet saved among them, become ready in ascending
GRIDIDX. -/
def resumeTask (s : State) (p queue seq : Nat) : State :=
  taskCommand s p queue seq isPreempted fun s t =>
    let s := s.modTask p queue seq fun t => { t with state := resumedState s t }
    (((gangsOf s t).filter fun g => g.state == .saved .preempted || g.state == .stopping .preempted).foldl insertGang []).foldl makeReady s

/-- REVOKE (R77, R87). -/
def revokeTask (s : State) (p queue seq : Nat) : State :=
  taskCommand s p queue seq TaskState.canEnd fun s _ =>
    let s := s.modRegs p fun r =>
      if r.lfstat.getLsbD 0 && bits r.lfstat 4 7 == queue && bits r.lfstat 32 32 == seq then { r with lfstat := withBits r.lfstat 0 1 0 } else r
    beginEnd s p queue seq (EndCause.plain causeRevoked)

/-- PREEMPT (R76). -/
def execPreempt (w : Writer) (p queue seq : Nat) (s : State) : Host.Outcome State Fault Refusal :=
  .next (byWriter s w p fun s => preemptTask s p queue seq)

/-- RESUME (R76). -/
def execResume (w : Writer) (p queue seq : Nat) (s : State) : Host.Outcome State Fault Refusal :=
  .next (byWriter s w p fun s => resumeTask s p queue seq)

/-- REVOKE (R76). -/
def execRevoke (w : Writer) (p queue seq : Nat) (s : State) : Host.Outcome State Fault Refusal :=
  .next (byWriter s w p fun s => revokeTask s p queue seq)

end Sys2Proof.Machine
end

