-- ==== Sys2Proof/Machine/Invalidate.lean ====
section
/-! DEFINITION. Withdrawing translations (R100 to R104), the settle of a migration (R376), format
regions (R172, R173) and the modes of REPL pages (R226, R227). -/

namespace Sys2Proof.Machine

/-! ## INVCMD (R100) -/

def State.modInv (s : State) (p : Nat) (f : InvCmd → InvCmd) : State := s.modRegs p fun r => { r with inv := f r.inv }

/-- A held lease range of the partition overlaps a range (R102, R103). -/
def leaseHeldOver (s : State) (p : Nat) (range : Word) : Bool :=
  s.tasks.any fun t => t.part == p && t.state.holdsLeases &&
    (leasesOf t.record).any fun e => range.getLsbD 63 || rangesMeet range e

/-- A transfer belongs to a partition. -/
def transferOf (s : State) (p : Nat) (t : Transfer) : Bool :=
  match s.gang? t.gang with
  | some g => g.part == p
  | none => false

/-- The memory side of a transfer meets a range. -/
def transferMeets (range : Word) (t : Transfer) : Bool :=
  match t.work with
  | .copy _ rows _ => rows.any fun r => r.segs.any fun g => invCovers range (g.va / 65536)
  | .cast src lines _ _ _ => (pagesOf src (128 * lines)).any (invCovers range)

/-- The Lantern's translations of some pages are withdrawn (R99), and the hart counts the replays that the
withdrawal causes (R101). -/
def withdrawAtHart (covers : Nat → Bool) (k slot : Nat) (h : Hart) : Hart :=
  let keep := fun (e : WickEntry) => match e.kind with
    | .translation t => !covers t.page
    | _ => true
  let pages := fun (l : List StreamPage) => l.filter fun t => !covers t.page
  { h.bump 11 (Config.replays (k + slot)) with lantern := { h.lantern with
    wick := h.lantern.wick.filter keep
    pages := pages h.lantern.pages
    copy := h.lantern.copy.map fun c => { c with pending := c.pending.filter keep, pages := pages c.pages } } }

/-- The front end comes to know the leaves by which some pages are mapped now: the next invalidation finds in
them the HOME of a page that no core has used since (R101; log entry 36). -/
def relearn (s : State) (p : Nat) (pages : List Nat) : State :=
  pages.foldl (fun s g => match walk s p g with
    | .leaf pte pa => remember s { pair := frontPair, part := p, page := g, pte := pte, pa := pa }
    | _ => s) s

/-- Every cached translation of some pages of a partition is withdrawn (R101 step 1): those that core
pairs, engines and the front end hold, and those of the Lantern. -/
def withdraw (s : State) (p : Nat) (covers : Nat → Bool) : State :=
  let (k, s) := s.draw
  let known := ((s.tlb.filter fun t => t.part == p && covers t.page).map fun t => t.page).eraseDups
  relearn { s with
    tlb := s.tlb.filter fun t => !(t.part == p && covers t.page)
    harts := s.harts.map fun e => (if e.2.ids.part = p ∧ !isLamp e.1 then (e.1, withdrawAtHart covers k e.1 e.2) else e) } p known

/-- Every cached translation of a range is withdrawn. -/
def withdrawRange (s : State) (p : Nat) (range : Word) : State := withdraw s p (invCovers range)

/-- The pages of a range that tasks of the partition hold leases on. -/
def leasedPages (s : State) (p : Nat) (range : Word) : List Nat :=
  ((s.tasks.filter fun t => t.part == p && t.state.holdsLeases).flatMap fun t => (leasesOf t.record).flatMap fun e =>
    ((List.range (rangePages e)).map fun k => rangeFirst e + k).filter (invCovers range)).eraseDups

/-- A hart that waits on a page of the range translates it again once its failure is cleared (R89, R104). -/
def Hart.shoot (range : Word) (h : Hart) : Hart :=
  match h.held with
  | some (.page g w _) => if invCovers range g then { h with held := some (.page g w true) } else h
  | _ => h

/-- Harts of a partition that wait on pages of a range. -/
def shootHeld (s : State) (p : Nat) (range : Word) : State :=
  { s with harts := s.harts.map fun e => (if e.2.ids.part = p then (e.1, e.2.shoot range) else e) }

/-- HOME 01 or 10. -/
def pteKept (e : Word) : Bool := pteHome e == 1 || pteHome e == 2

/-- The memory side of a transfer meets a range in a page of HOME 01 or 10. -/
def transferKept (range : Word) (t : Transfer) : Bool :=
  match t.work with
  | .copy _ rows _ => rows.any fun r => r.segs.any fun g => invCovers range (g.va / 65536) && pteKept g.pte
  | .cast _ _ _ _ _ => false

/-- Some page of the range had HOME 01 or 10 under the translation that is withdrawn (R101, R377). -/
def oldHome (s : State) (p : Nat) (range : Word) : Bool :=
  (s.tlb.any fun t => t.part == p && invCovers range t.page && pteKept t.pte) ||
    s.transfers.any fun t => transferOf s p t && transferKept range t

/-- Transfers and stores under a pin that used an entry of the range are what a settle waits for (R376). -/
def markWithdrawn (s : State) (p : Nat) (range : Word) : State :=
  let busy := (s.part p).regs.settling
  { s with
    transfers := s.transfers.map fun t =>
      (if transferOf s p t then { t with withdrawn := transferMeets range t || (busy && t.withdrawn) } else t)
    pairs := s.pairs.map fun e => (e.1, { e.2 with delayed := e.2.delayed.map fun d =>
      (if d.part = p then { d with withdrawn := d.through p range || (busy && d.withdrawn) } else d) }) }

/-- The HOME 01 pages of a partition in a range that pass a test are met anew at their next access (R222). -/
def forgetPages (s : State) (p : Nat) (range : Word) (f : AreaPage → Bool) : State :=
  { s with pairs := s.pairs.map fun e =>
      (e.1, { e.2 with area := e.2.area.filter fun x => !(x.part == p && invCovers range x.va && f x) }) }

/-- A page that the pinned area did not take is tried again after a SHOOT or a DRAIN over it (R222). -/
def retryPages (s : State) (p : Nat) (range : Word) : State := forgetPages s p range fun x => !x.pinned

/-- A SHOOT that is accepted (R101). -/
def startShoot (s : State) (p : Nat) : State :=
  let range := (s.part p).regs.invrange
  let op := if oldHome s p range then InvOp.shootDrain else .shoot
  let s := s.modInv p fun _ => { status := 1, result := 0, op := some op, range := range }
  shootHeld (markWithdrawn (relearn (withdrawRange (retryPages s p range) p range) p (leasedPages s p range)) p range) p range

/-- Translations are marked draining (R102). -/
def beginDrain (s : State) (p : Nat) : State :=
  let range := (s.part p).regs.inv.range
  withdrawRange (retryPages (s.modInv p fun i => { i with status := 1 }) p range) p range

/-- A DRAIN that is accepted: it begins when no held lease overlaps its range (R102). -/
def startDrain (s : State) (p : Nat) : State :=
  let range := (s.part p).regs.invrange
  let s := s.modInv p fun _ => { status := 2, result := 0, op := some .drain, range := range }
  if leaseHeldOver s p range then s else beginDrain s p

/-- A command written to INVCMD (R100). -/
def invCommand (s : State) (p : Nat) (cmd : Nat) : State :=
  let i := (s.part p).regs.inv
  if cmd = 0 then s
  else if i.status = 1 ∨ i.status = 2 then s.modInv p fun i => { i with result := 2 }
  else if i.status = 3 then
    if cmd = 3 then s.modInv p fun i => { i with status := 1, result := 0, op := some .confirm }
    else s.modInv p fun i => { i with result := 1 }
  else if cmd = 1 then startShoot s p
  else if cmd = 2 then startDrain s p
  else s.modInv p fun i => { i with result := 1 }

/-- SHOOT (R101). -/
def execShoot (w : Writer) (p : Nat) (s : State) : Host.Outcome State Fault Refusal :=
  .next (byWriter s w p fun s => invCommand s p 1)

/-- DRAIN (R102). -/
def execDrain (w : Writer) (p : Nat) (s : State) : Host.Outcome State Fault Refusal :=
  .next (byWriter s w p fun s => invCommand s p 2)

/-- CONFIRM (R102). -/
def execConfirm (w : Writer) (p : Nat) (s : State) : Host.Outcome State Fault Refusal :=
  .next (byWriter s w p fun s => invCommand s p 3)

/-- DRAIN_BEGIN (R102). -/
def execDrainBegin (p : Nat) (s : State) : Host.Outcome State Fault Refusal :=
  let i := (s.part p).regs.inv
  if i.status = 2 ∧ !leaseHeldOver s p i.range then .next (beginDrain s p) else .next s

/-- DRAIN_COMPLETE (R102). -/
def execDrainComplete (p : Nat) (s : State) : Host.Outcome State Fault Refusal :=
  let i := (s.part p).regs.inv
  if i.op = some .drain ∧ i.status = 1 then .next (s.modInv p fun i => { i with status := 3 }) else .next s

/-! ## What CONFIRM waits for (R102) -/

/-- A store that the partition made through the range and that a pin keeps from VA: its core pair and range. -/
def pinnedThrough (s : State) (p : Nat) (range : Word) : Option (Nat × Nat × Nat) :=
  (delayedThrough s p range).head?.map fun d => (d.1, d.2.pa, d.2.n)

/-- A multicast over the range has lines that are not yet read. -/
def castUnread (s : State) (p : Nat) (range : Word) : Bool :=
  s.transfers.any fun t => transferOf s p t && transferMeets range t &&
    s.merges.any fun m => m.requests.any fun r => r.transfer == t.id

/-- Stores to host memory of the partition that the host's coherence has not accepted. -/
def hostStoresOpen (s : State) (p : Nat) : Bool := s.hostStores.any fun e => e.part == p

/-- The CONFIRM part is over: the pinned areas release the pages of the range, which are back in HBM, and waiting
accesses retranslate. -/
def endConfirm (s : State) (p : Nat) (range : Word) : State :=
  { shootHeld (forgetPages (s.modInv p fun i => { i with status := 0, op := none }) p range fun _ => true) p range with
    transfers := s.transfers.map fun t => (if transferOf s p t && transferMeets range t then { t with stale := true } else t) }

/-- CONFIRM's work: it waits out pins, casts and the host's coherence, and ends. -/
def confirmStep (s : State) (p : Nat) (range : Word) : State :=
  match pinnedThrough s p range with
  | some (k, pa, n) => settlePins (noteRetry s k pa n)
  | none => if castUnread s p range || hostStoresOpen s p then s else endConfirm s p range

/-- CONFIRM_COMPLETE (R102). -/
def execConfirmComplete (p : Nat) (s : State) : Host.Outcome State Fault Refusal :=
  let i := (s.part p).regs.inv
  if i.op = some .confirm ∧ i.status = 1 then .next (confirmStep s p i.range) else .next s

/-- SHOOT_COMPLETE (R101): at once, or at the end of the CONFIRM part where an old PTE had HOME 01
or 10. -/
def execShootComplete (p : Nat) (s : State) : Host.Outcome State Fault Refusal :=
  let i := (s.part p).regs.inv
  if i.status ≠ 1 then .next s
  else match i.op with
    | some .shoot => .next (s.modInv p fun i => { i with status := 0, op := none })
    | some .shootDrain => .next (confirmStep s p i.range)
    | _ => .next s

/-! ## SSETTLE (R376) -/

/-- A write of SSETTLE. -/
def writeSettle (s : State) (p : Nat) (x : Word) : State :=
  s.modRegs p fun r => if x.getLsbD 0 && r.inv.status == 0 then { r with settling := true } else r

/-- SSETTLE (R376). -/
def execSsettle (w : Writer) (p : Nat) (value : Word) (s : State) : Host.Outcome State Fault Refusal :=
  .next (byWriter s w p fun s => writeSettle s p value)

/-- An access through a withdrawn entry has not performed at DEVICE scope. -/
def unsettled (s : State) (p : Nat) : Bool :=
  (s.transfers.any fun t => t.withdrawn && transferOf s p t) ||
    s.pairs.any fun e => e.2.delayed.any fun d => d.withdrawn && d.part == p

/-- SETTLE_COMPLETE (R376). -/
def execSettleComplete (p : Nat) (s : State) : Host.Outcome State Fault Refusal :=
  if (s.part p).regs.settling && !unsettled s p then .next (s.modRegs p fun r => { r with settling := false }) else .next s

/-! ## Format regions (R172, R173) -/

def State.setFerr (s : State) (p n ferr : Nat) : State :=
  s.modPart p fun x => { x with fmtB := tblPut x.fmtB n (withBits (tblGetD x.fmtB n 0) 32 3 ferr) 0 }

/-- EN of a region is set or cleared. -/
def State.setFmtEn (s : State) (p n : Nat) (en : Bool) : State :=
  s.modPart p fun x => { x with fmtA := tblPut x.fmtA n (withBits (tblGetD x.fmtA n 0) 0 1 en.toNat) 0 }

/-- Two ranges of addresses meet. -/
def spansMeet (a n b m : Nat) : Bool := decide (a < b + m) && decide (b < a + n)

/-- FORM and PLANES are good (R172). -/
def formOk (r : Region) : Bool :=
  (decide (r.form ≤ 3) && r.planes == 0) || (r.form == 4 && decide (2 ≤ r.planes) && decide (r.planes ≤ 8))

/-- The region lies wholly in one stack of the partition. -/
def oneStack (x : Partition) (r : Region) : Bool :=
  inStacks x r.base && !isRawAlias r.base && decide (r.base % 2 ^ 36 + r.len ≤ 2 ^ 36)

/-- The first check of R173 that a region fails, 0 for none. -/
def regionError (s : State) (p : Nat) (r : Region) : Nat :=
  let x := s.part p
  if !formOk r then 1
  else if !oneStack x r then 2
  else if s.regions.any fun o => spansMeet r.base r.len o.base o.len then 3
  else if x.ctxn != 0 && spansMeet r.base r.len (imageBase x 0) (x.ctxn.toNat * imageSize) then 4
  else 0

/-- EN is written from 0 to 1 (R173). -/
def enableRegion (s : State) (p n : Nat) : State :=
  if regionEnabled (s.part p) n then s
  else
    let e := regionError s p (regionOf (s.part p) n)
    (if e = 0 then s.setFmtEn p n true else s).setFerr p n e

/-- EN is written from 1 to 0 (R173). -/
def disableRegion (s : State) (p n : Nat) : State := s.setFmtEn p n false

/-- FORMAT_REGION_ENABLE (R173). -/
def execFormatRegionEnable (w : Writer) (p n : Nat) (s : State) : Host.Outcome State Fault Refusal :=
  .next (if n < 16 then byWriter s w p fun s => enableRegion s p n else s)

/-- FORMAT_REGION_DISABLE (R173). -/
def execFormatRegionDisable (w : Writer) (p n : Nat) (s : State) : Host.Outcome State Fault Refusal :=
  .next (if n < 16 then byWriter s w p fun s => disableRegion s p n else s)

/-! ## REPL pages (R226, R227) -/

/-- The enabled partition that owns the stack of a page PA[51:16]. -/
def ownerOfPage (s : State) (page : Nat) : Option Nat :=
  (s.partitions.find? fun e => e.2.en && inStacks e.2 (page * 65536)).map fun e => e.1

/-- A virtual page of a partition is mapped by a leaf of whatever size whose page begins at PA[51:16]. -/
def mapsTo (s : State) (p page va : Nat) : Bool :=
  (match walk s p va with
    | .leaf e _ => leafPage e == page
    | _ => false) || s.tlb.any fun t => t.part == p && t.page == va && leafPage t.pte == page

/-- A page changes its mode, and the device withdraws its translations by itself (R226, R101). -/
def switchMode (s : State) (p page : Nat) : State :=
  let s := withdraw s p (mapsTo s p page)
  { s with replicated := if s.replicated.contains page then s.replicated.filter fun x => x != page else insertNat s.replicated page }

/-- A write of REPLCTL (R227): EN 0 returns every replicated page of the partition to memory-side mode. -/
def writeReplctl (s : State) (p : Nat) (x : Word) : State :=
  let s := s.modRegs p fun r => { r with replctl := BitVec.ofNat 64 (bits x 0 1 + bits x 4 12 * 16) }
  if x.getLsbD 0 then s
  else (s.replicated.filter fun g => ownerOfPage s g == some p).eraseDups.foldl (fun s g => switchMode s p g) s

/-- REPLCTL (R227). -/
def execReplctl (w : Writer) (p : Nat) (value : Word) (s : State) : Host.Outcome State Fault Refusal :=
  .next (byWriter s w p fun s => writeReplctl s p value)

/-- The thresholds of R227. -/
def entersReplicated (ctl : Word) (rd wr : Nat) : Bool :=
  ctl.getLsbD 0 && decide (16 * max (bits ctl 4 8) 1 ≤ rd) && decide (wr * 2 ^ bits ctl 12 4 ≤ rd)
def leavesReplicated (ctl : Word) (rd wr : Nat) : Bool := decide (rd < wr * 2 ^ (bits ctl 12 4 - 2))

/-- The thresholds are applied to a tracked page (R227). -/
def applyThresholds (s : State) (x : ReplPage) : State :=
  match ownerOfPage s x.page with
  | none => s
  | some p =>
    let ctl := (s.part p).regs.replctl
    let moves := if s.replicated.contains x.page then leavesReplicated ctl x.rd x.wr else entersReplicated ctl x.rd x.wr
    if moves then switchMode s p x.page else s

/-- The accesses of a window that arrived at the home slices: those that the caches of the other dies kept
from them, by page, are taken off. -/
def ReplPage.arrived (x : ReplPage) (keptRd keptWr : PageCounts) : ReplPage :=
  { x with rd := x.rd - tblGetD keptRd x.page 0, wr := x.wr - tblGetD keptWr x.page 0 }

/-- REPL_WINDOW_END (R227): the thresholds are applied to every tracked page, by what arrived at its slices,
and the counts begin again. The pages `gone`, and those that no access named, are tracked no longer: what
caches keep from the slices and which pages a quadrant goes on tracking is the device's (log entry 36). -/
def execReplWindowEnd (gone : List Nat) (keptRd keptWr : PageCounts) (s : State) : Host.Outcome State Fault Refusal :=
  let t := (s.tracked.map fun x => x.arrived keptRd keptWr).foldl applyThresholds s
  .next { t with tracked := (s.tracked.filter fun x => x.rd + x.wr != 0 && !gone.contains x.page).map fun x => { page := x.page } }

end Sys2Proof.Machine
end

