-- ==== Sys2Proof/Machine/Partition.lean ====
section
/-! DEFINITION. Partitions: enabling and disabling one, PCFG, and the runtime of its front end (R56 to
R60, R355, R394, R399). -/

namespace Sys2Proof.Machine

/-! ## Enabling (R58, R59) -/

/-- Another enabled partition shares a die or a stack. -/
def sharesParts (s : State) (p : Nat) : Bool :=
  let x := s.part p
  s.partitions.any fun e => e.1 != p && e.2.en && (e.2.dieSet &&& x.dieSet != 0 || e.2.stackSet &&& x.stackSet != 0)

/-- The context area is good (R58). -/
def contextOk (s : State) (x : Partition) : Bool :=
  let n := x.ctxn.toNat * imageSize
  let a := imageBase x 0
  n == 0 || (rangeInStacks x a n && !touchesDecoded s (storageOf a) n)

/-- The first check of R58 that fails, 0 for none. -/
def partitionError (s : State) (p : Nat) : Nat :=
  let x := s.part p
  if x.dieSet = 0 ∨ x.stackSet = 0 then 1
  else if sharesParts s p then 2
  else if !contextOk s x then 3
  else if x.ctxn.toNat < 80 * (diesOf x).length + 640 then 4
  else 0

/-- Slots, tiles, ways and barriers of some dies are cleared (R59). -/
def clearDies (s : State) (on : Nat → Bool) : State :=
  { s with
    harts := s.harts.filter fun e => !on (dieOf e.1)
    pairs := s.pairs.filter fun e => !on (dieOfPair e.1)
    barriers := s.barriers.filter fun e => !on (e.1 / 64) }

/-- A partition at its enable (R59): PCFG and the format regions stand; the window is at reset. -/
def Partition.enabled (x : Partition) : Partition where
  dieSet := x.dieSet
  stackSet := x.stackSet
  en := true
  ctxbase := x.ctxbase
  ctxn := x.ctxn
  fmtA := x.fmtA
  fmtB := x.fmtB

/-- EN is written from 0 to 1 by the owner (R58, R59); ignored before the firmware has verified (R394) or while a
clearing of all partitions is under way. -/
def enablePartition (s : State) (p : Nat) : State :=
  let x := s.part p
  if x.en || s.sconce.fw != 1 || s.sconce.clearing.isSome then s
  else
    let e := partitionError s p
    if e = 0 then
      clearDies { s.setPart p x.enabled with
        tasks := s.tasks.filter fun t => t.part != p
        gangs := s.gangs.filter fun g => g.part != p
        tlb := s.tlb.filter fun t => t.part != p } fun d => ownsDie x d
    else s.setPart p { x with perr := BitVec.ofNat 3 e }

/-- PARTITION_ENABLE (R58, R59). -/
def execPartitionEnable (m : Master) (p : Nat) (s : State) : Host.Outcome State Fault Refusal :=
  .next (if p < 16 then byOwner s m fun s => enablePartition s p else s)

/-! ## Disabling (R60, R355) -/

/-- The runtime of a partition stops (R56). -/
def haltRuntime (s : State) (p : Nat) : State :=
  stopRuntime s (lampOf (frontDie (s.part p))) p

/-- EN is written from 1 to 0 (R60). -/
def disablePartition (s : State) (p : Nat) : State :=
  let x := s.part p
  if !x.en || x.disabling then s
  else
    let s := s.modPart p fun x => { x with disabling := true, queues := x.queues.map fun q => (q.1, disableQueue q.2) }
    let s := (liveTasks s p).foldl (fun s t => beginEnd s p t.queue t.seq (EndCause.plain causeRevoked)) s
    haltRuntime s p

/-- EN is written 0 by the owner (R60): ignored once the firmware has failed (R394). -/
def writeEnZero (s : State) (p : Nat) : State := if s.sconce.fw = 2 then s else disablePartition s p

/-- PARTITION_DISABLE (R60). -/
def execPartitionDisable (m : Master) (p : Nat) (s : State) : Host.Outcome State Fault Refusal :=
  .next (if p < 16 then byOwner s m fun s => writeEnZero s p else s)

/-- Every task has ended, every die is idle, and the stores in flight are applied or discarded. -/
def partitionIdle (s : State) (p : Nat) : Bool :=
  (liveTasks s p).isEmpty && !(s.gangs.any fun g => g.part == p) && !(s.harts.any fun e => e.2.ids.part == p && ownsDie (s.part p) (dieOf e.1)) &&
    !(s.egress.any fun r => r.part == p && r.fate == .inFlight)

/-- Window entries of a partition become invalid (R355). -/
def dropWindows (s : State) (p : Nat) : State :=
  settleForwarding { s with windows := s.windows.filter fun e => winPart e.2 != p }

/-- HBM is written to zero, and the CXL IDE keys and the pending NONCE are erased; then what asked for it takes effect (R399). -/
def finishClearing (s : State) : State :=
  match s.sconce.clearing with
  | none => s
  | some c =>
    if s.partitions.any fun e => e.2.en then s
    else
      let (k, s) := s.draw
      let s := { s with
        mem := s.mem.filter fun e => isHostPa e.1
        memPoison := s.memPoison.filter isHostPa
        mailbox := { s.mailbox with nonce := 0 }
        sconce := { s.sconce with clearing := none, ideKeys := [] } }
      match c with
      | .halt => { s with sconce := { s.sconce with dbg := 2 } }
      | .provision => { s with sconce := { s.sconce with
          sec := 1
          keys := (List.range 4).filterMap fun i => ((Config.ownerKeys k)[i]?).map fun x => (i, x) } }

/-- The barriers of a partition's dies are at reset again (R59, R328). -/
def clearBarriers (s : State) (p : Nat) : State :=
  { s with barriers := s.barriers.filter fun e => !ownsDie (s.part p) (e.1 / 64) }

/-- PARTITION_DISABLE_COMPLETE (R60, R328, R355). -/
def execPartitionDisableComplete (p : Nat) (s : State) : Host.Outcome State Fault Refusal :=
  if (s.part p).disabling && partitionIdle s p then
    .next (finishClearing (dropWindows (clearBarriers (s.modPart p fun x => { x with en := false, disabling := false }) p) p))
  else .next s

/-- All partitions are disabled, HBM and keys are cleared, and then a change takes effect (R399). -/
def clearAll (s : State) (c : Clearing) : State :=
  let s := { s with sconce := { s.sconce with clearing := some c } }
  finishClearing ((s.partitions.filter fun e => e.2.en).foldl (fun s e => disablePartition s e.1) s)

/-! ## PCFG (R57) -/

/-- A write of a word of PCFGp by the owner. -/
def pcfgWrite (s : State) (p off : Nat) (x : Word) : State :=
  let y := s.part p
  if y.en then (if off = 0 ∧ !x.getLsbD 31 then writeEnZero s p else s)
  else if off = 0 then
    let s := s.setPart p { y with dieSet := x.extractLsb' 0 16, stackSet := x.extractLsb' 16 12, perr := x.extractLsb' 28 3 }
    if x.getLsbD 31 then enablePartition s p else s
  else if off = 8 then s.setPart p { y with ctxbase := x.extractLsb' 16 36 }
  else if off = 16 then s.setPart p { y with ctxn := x.extractLsb' 0 32 }
  else s

def pcfgRead (s : State) (p off : Nat) : Word :=
  let y := s.part p
  if off = 0 then (BitVec.ofBool y.en ++ y.perr ++ y.stackSet ++ y.dieSet).setWidth 64
  else if off = 8 then (y.ctxbase ++ 0#16).setWidth 64
  else if off = 16 then y.ctxn.setWidth 64
  else 0

/-! ## The runtime (R56) -/

/-- The runtime's agent before its first instruction: registers as at reset, in the privileged view. -/
def newRuntime (p : Nat) (pc : Word) : Hart :=
  { Hart.initial with ids := { part := p }, priv := true, regs := { Regs.initial with pc := pc } }

/-- A write of RTENTRY (R56): it starts the runtime, stops it, or sets ADDR. -/
def writeRtentry (s : State) (p : Nat) (x : Word) : State :=
  let y := s.part p
  if y.regs.rtentry.getLsbD 0 then (if x.getLsbD 0 then s else haltRuntime s p)
  else
    let starts := x.getLsbD 0 && y.en && !y.disabling && s.sconce.fw == 1 && decide (s.sconce.pwr.toNat ≤ 1)
    let pc := BitVec.ofNat 64 (bits x 2 53 * 4)
    let s := s.modRegs p fun r => { r with rtentry := if starts then pc ||| 1 else pc }
    if starts then s.setHart (lampOf (frontDie y)) (newRuntime p pc) else s

/-- RUNTIME_START (R56). -/
def execRuntimeStart (w : Writer) (p : Nat) (value : Word) (s : State) : Host.Outcome State Fault Refusal :=
  .next (byWriter s w p fun s => writeRtentry s p (value ||| 1))

/-- RUNTIME_STOP (R56). -/
def execRuntimeStop (w : Writer) (p : Nat) (s : State) : Host.Outcome State Fault Refusal :=
  .next (byWriter s w p fun s => if (s.part p).regs.rtentry.getLsbD 0 then haltRuntime s p else s)

end Sys2Proof.Machine
end

