-- ==== Sys2Proof/Machine/Power.lean ====
section
/-! DEFINITION. The power states (R399, R409) and reset (R411). -/

namespace Sys2Proof.Machine

/-! ## What a loss of power clears (R399) -/

/-- Core-die SRAM is lost: harts, pairs, barriers, and the runtimes of the Lamplighters. -/
def clearCoreDies (s : State) : State :=
  let s := clearDies s fun _ => true
  { s with partitions := s.partitions.map fun e =>
      (e.1, { e.2 with regs := { e.2.regs with rtentry := withBits e.2.regs.rtentry 0 1 0 } }) }

/-- Device memory is lost, and PCFG, queues, format regions and the window table are at reset. -/
def clearDevice (s : State) : State :=
  { clearCoreDies s with
    mem := s.mem.filter fun e => isHostPa e.1
    memPoison := s.memPoison.filter isHostPa
    partitions := []
    tasks := []
    gangs := []
    windows := []
    transfers := []
    merges := []
    deliveries := []
    egress := []
    combining := []
    tlb := []
    watch := []
    routes := []
    tracked := []
    replicated := [] }

def State.modSconce (s : State) (f : Sconce → Sconce) : State := { s with sconce := f s.sconce }

/-- The core dies return from Autumn, cleared as at partition enable (R409). -/
def returnFromAutumn (s : State) : State := (clearCoreDies s).modSconce fun x => { x with pwr := 0, pwrTo := none }

/-- A change of ownership (R51, R52). Callers leave CAND at 0 in STATE 0 and 2, where R51 gives it no value
(DESIGN CHOICE, log entry 72). -/
def setOwner (s : State) (state owner cand : Nat) (bump : Bool) : State :=
  { s with mailbox := { s.mailbox with
      state := BitVec.ofNat 3 state
      owner := BitVec.ofNat 2 owner
      cand := BitVec.ofNat 2 cand
      epoch := if bump then s.mailbox.epoch + 1 else s.mailbox.epoch } }

/-- The reset sequence from step 2 (R409, R411): the device is Unowned, in Summer, with DBG None. -/
def returnFromWinter (s : State) : State :=
  let owned := s.mailbox.state == 2 || s.mailbox.state == 3
  setOwner ((clearDevice s).modSconce fun x => { x with pwr := 0, pwrTo := none, dbg := 0 }) 0 0 0 owned

/-! ## Requests (R409) -/

/-- A request for a power state is refused or stored. -/
def noteRequest (s : State) (req : BitVec 2) (refused : Bool) : State :=
  s.modSconce fun x => { x with pwrReq := req, pwrRefused := refused }

/-- A gang is parked or pre-empted (R400, R409); one that debug alone has stopped is neither. -/
def Gang.isAway (g : Gang) : Bool := g.state == .saved .preempted || g.state == .saved .parked

/-- Every gang of every partition is parked, pre-empted or retired (R400, R409). -/
def gangsAway (s : State) : Bool := s.gangs.all Gang.isAway && !(s.harts.any fun e => !isLamp e.1)

/-- A request for a power state, by the state in force. -/
def requestPower (s : State) (req : BitVec 2) : State :=
  let x := s.sconce
  match req.toNat with
  | 0 =>
    let s := noteRequest s req false
    if x.pwr = 3 then returnFromWinter s
    else s.modSconce fun y => { y with pwrTo := if x.pwr = 0 then none else some 0 }
  | 1 =>
    if 2 ≤ x.pwr.toNat then noteRequest s req true
    else (noteRequest s req false).modSconce fun y => { y with pwrTo := if x.pwr = 1 then none else some 1 }
  | 2 =>
    if x.pwr = 3 then noteRequest s req true
    else (noteRequest s req false).modSconce fun y => { y with pwrTo := none }
  | _ =>
    if s.partitions.any fun e => e.2.en then noteRequest s req true
    else (clearDevice (noteRequest s req false)).modSconce fun y => { y with pwr := 3, pwrTo := none }

/-- SUMMER (R409). -/
def execSummer (m : Master) (s : State) : Host.Outcome State Fault Refusal := .next (byOwner s m fun s => requestPower s 0)
/-- SPRING (R409). -/
def execSpring (m : Master) (s : State) : Host.Outcome State Fault Refusal := .next (byOwner s m fun s => requestPower s 1)
/-- AUTUMN (R409): AUTUMN_ENTRY does the rest. -/
def execAutumn (m : Master) (s : State) : Host.Outcome State Fault Refusal := .next (byOwner s m fun s => requestPower s 2)
/-- WINTER (R409). -/
def execWinter (m : Master) (s : State) : Host.Outcome State Fault Refusal := .next (byOwner s m fun s => requestPower s 3)

/-- AUTUMN_ENTRY (R409): every store has performed in memory; the core dies lose power. -/
def execAutumnEntry (s : State) : Host.Outcome State Fault Refusal :=
  if s.sconce.pwrReq = 2 ∧ !s.sconce.pwrRefused ∧ s.sconce.pwr.toNat ≤ 1 ∧ gangsAway s then
    .next ((clearCoreDies s).modSconce fun x => { x with pwr := 2, pwrTo := none })
  else .next s

/-- POWER_TRANSITION_COMPLETE (R409). -/
def execPowerTransitionComplete (s : State) : Host.Outcome State Fault Refusal :=
  match s.sconce.pwrTo with
  | none => .next s
  | some r =>
    if s.sconce.pwr = 2 then .next (returnFromAutumn s)
    else .next (s.modSconce fun x => { x with pwr := r, pwrTo := none })

/-! ## DEVICE_RESET (R394, R411) -/

/-- An image verifies: the hash of its payload, the signature over its header, and its SVN (R394). -/
def imageVerifies (f : Config.Firmware) : Bool :=
  Config.shake256 f.payload == f.hash && Config.signatureValid Config.firmwareKey f.header f.signature &&
    decide (Config.rollbackCounter ≤ f.svn)

/-- The four firmware images verify against the fused key (R394). -/
def firmwareVerifies : Bool :=
  Config.shake256 Config.firmwareKey == Config.fusedKeyHash && (List.range 4).all fun i => imageVerifies (Config.firmware i)

/-- Sconce after reset: its fused state, its keys and its log stand. -/
def Sconce.afterReset (x : Sconce) (fw : BitVec 2) : Sconce where
  sec := x.sec
  keys := x.keys
  log := x.log
  fw := fw

/-- Step 1 failed (R394, R411): every core die is held in reset, and with it the work of its agents and
front ends; device memory, the window table, PCFG, queues and format regions stand. -/
def holdInReset (s : State) : State :=
  logSconce { clearCoreDies s with
    tasks := []
    gangs := []
    transfers := []
    merges := []
    deliveries := []
    egress := []
    tlb := []
    watch := []
    mailbox := {}
    linkUp := 0
    hostLinks := []
    hostReply := none
    turn := none
    budget := none
    sconce := s.sconce.afterReset 2 } .firmwareFailed

/-- Steps 2 to 4 (R411): host memory and its stores, the straps, and the model's own schedule and counts
stand. -/
def freshDevice (s : State) : State :=
  { State.reset with
    mem := s.mem.filter fun e => isHostPa e.1
    memPoison := s.memPoison.filter isHostPa
    hostStores := s.hostStores
    hostStamp := s.hostStamp
    hostErrors := s.hostErrors
    sconce := s.sconce.afterReset 1
    twoLinks := s.twoLinks
    nextGang := s.nextGang
    nextId := s.nextId
    agenda := s.agenda
    fresh := s.fresh }

/-- The device after reset (R411). -/
def resetDevice (s : State) : State := if firmwareVerifies then freshDevice s else holdInReset s

/-- DEVICE_RESET (R411). -/
def execDeviceReset (s : State) : Host.Outcome State Fault Refusal := .next (resetDevice s)

end Sys2Proof.Machine
end

