-- ==== Sys2Proof/Machine/Security.lean ====
section
/-! DEFINITION. The election (R49 to R53), credentials and keys (R396), debug (R397, R399, R400),
attestation (R398) and the security states (R395, R399). -/

namespace Sys2Proof.Machine

/-! ## Credentials (R51, R396) -/

def areaBytes (t : Tbl Byte) (base n : Nat) : List Byte := (List.range n).map fun k => tblGetD t (base + k) 0

/-- A byte of a master's credential area. -/
def credByte (s : State) (m : Master) (o : Nat) : Byte := tblGetD s.mailbox.cred (4096 * masterCode m + o) 0

/-- The 3309-byte signature of a master's credential. -/
def credSignature (s : State) (m : Master) : List Byte := areaBytes s.mailbox.cred (4096 * masterCode m + 0x10) 3309

/-- The digest that a credential signs (R396). -/
def credDigest (s : State) (m : Master) (purpose level : Nat) : List Byte :=
  Config.shake256 (leBytes 64 s.mailbox.nonce.toNat ++ [BitVec.ofNat 8 (masterCode m)] ++ leBytes 8 s.mailbox.epoch.toNat ++
    [BitVec.ofNat 8 purpose, BitVec.ofNat 8 level])

/-- The credential verifies against an owner key, or needs no signature in Manufacturing (R396). -/
def ownerCredential (s : State) (m : Master) (purpose level : Nat) : Bool :=
  let k := (credByte s m 0).toNat
  (s.sconce.sec == 0 && k == 0xFF) ||
    match tblGet s.sconce.keys k with
    | some key => decide (k < 4) && Config.signatureValid key (credDigest s m purpose level) (credSignature s m)
    | none => false

/-- The credential verifies against the Isdekor debug key (R397). -/
def isdekorCredential (s : State) (m : Master) (level : Nat) : Bool :=
  Config.signatureValid Config.isdekorDebugKey (credDigest s m 2 level) (credSignature s m)

/-- LAST of a master (R51). -/
def setLast (s : State) (m : Master) (r : BitVec 2) : State :=
  { s with mailbox := { s.mailbox with last := tblPut s.mailbox.last (masterCode m) r 0 } }

/-- Sconce writes a fresh NONCE (R52). -/
def freshNonce (s : State) : State :=
  let (k, s) := s.draw
  { s with mailbox := { s.mailbox with nonce := Config.nonce k } }

/-! ## The election (R52) -/

/-- CLAIM (R52). -/
def claim (s : State) (m : Master) : State :=
  if s.mailbox.state = 0 then setLast (setOwner (freshNonce s) 1 0 (masterCode m) false) m 0 else setLast s m 1

/-- RESPOND (R52). -/
def respond (s : State) (m : Master) : State :=
  let x := s.mailbox
  if (x.state = 1 ∨ x.state = 3) ∧ x.cand.toNat = masterCode m then
    if ownerCredential s m 1 0 then setLast (setOwner s 2 (masterCode m) 0 true) m 0
    else
      let s := logSconce s (.credentialInvalid x.cand)
      setLast (if x.state = 1 then setOwner s 0 0 0 false else setOwner s 2 x.owner.toNat 0 false) m 2
  else setLast s m 1

/-- HANDOVER by the owner (R52). -/
def handover (s : State) (m : Master) (target : BitVec 2) : State :=
  let x := s.mailbox
  if x.state = 2 ∧ target ≠ x.owner then setLast (setOwner (freshNonce s) 3 x.owner.toNat target.toNat false) m 0
  else setLast s m 1

/-- RELEASE by the owner (R52). -/
def releaseOwner (s : State) (m : Master) : State :=
  let x := s.mailbox
  if x.state = 2 then setLast (setOwner s 0 0 0 true) m 0
  else if x.state = 3 then logSconce (setLast (setOwner s 2 x.owner.toNat 0 false) m 0) (.handoverReleased x.cand)
  else setLast s m 1

/-- CLAIM (R52). -/
def execClaim (m : Master) (s : State) : Host.Outcome State Fault Refusal := .next (byMaster s m fun s => claim s m)
/-- RESPOND (R52). -/
def execRespond (m : Master) (s : State) : Host.Outcome State Fault Refusal := .next (byMaster s m fun s => respond s m)
/-- HANDOVER (R50, R52). -/
def execHandover (m : Master) (target : BitVec 2) (s : State) : Host.Outcome State Fault Refusal :=
  .next (byOwner s m fun s => handover s m target)
/-- RELEASE (R50, R52). -/
def execRelease (m : Master) (s : State) : Host.Outcome State Fault Refusal := .next (byOwner s m fun s => releaseOwner s m)

/-- RESPOND_TIMEOUT (R52). -/
def execRespondTimeout (s : State) : Host.Outcome State Fault Refusal :=
  let x := s.mailbox
  if x.state = 1 then .next (logSconce (setOwner s 0 0 0 false) (.respondTimeout x.cand))
  else if x.state = 3 then .next (logSconce (setOwner s 2 x.owner.toNat 0 false) (.respondTimeout x.cand))
  else .next s

/-- The owner's link is down: the board management link is not a CXL link of the device, and its event
says so itself. -/
def ownerLinkIsDown (s : State) : Bool :=
  let o := s.mailbox.owner.toNat
  o == 0 || !s.linkUp.getLsbD (o - 1)

/-- OWNER_LINK_DOWN (R52): tasks and partitions go on (R53). -/
def execOwnerLinkDown (s : State) : Host.Outcome State Fault Refusal :=
  let x := s.mailbox
  if !ownerLinkIsDown s then .next s
  else if x.state = 2 then .next (logSconce (setOwner s 0 0 0 true) .ownerLinkDown)
  else if x.state = 3 then .next (setOwner s 0 0 0 true)
  else .next s

/-! ## Debug (R397, R399, R400) -/

/-- Debug lets a gang go: it becomes ready when nothing else holds it (R400). -/
def releaseHold (s : State) (g : Gang) : State :=
  let s := s.modGang g.id fun g => { g with held := false }
  if g.held && g.state == .saved .debug then makeReady s g else s

/-- The level is lowered below Halt: every gang that debug holds goes (R400). -/
def lowerDebug (s : State) (level : BitVec 2) : State :=
  let s := s.modSconce fun x => { x with dbg := level, clearing := if x.clearing = some .halt then none else x.clearing }
  if level = 2 then s else s.gangs.foldl releaseHold s

/-- A debug level takes effect; Halt in Locked clears first (R399). -/
def raiseDebug (s : State) (level : BitVec 2) : State :=
  if s.sconce.sec = 2 ∧ level = 2 then clearAll s .halt else s.modSconce fun x => { x with dbg := level }

/-- The credential that a level needs (R397). -/
def debugCredential (s : State) (m : Master) (level : BitVec 2) : Bool :=
  if s.sconce.sec = 2 ∧ level = 2 then isdekorCredential s m level.toNat else ownerCredential s m 2 level.toNat

/-- A write of DBGREQ (R397): only the owner's requests are admitted, and one for a lower level needs no
credential. -/
def debugRequest (s : State) (m : Master) (level : BitVec 2) : State :=
  if !isOwner s m || level = 3 then setLast s m 1
  else
    let s := freshNonce s
    if level.toNat < s.sconce.dbg.toNat then setLast (lowerDebug s level) m 0
    else if debugCredential s m level then setLast (if level = s.sconce.dbg then s else raiseDebug s level) m 0
    else setLast s m 2

/-- DBGREQ (R397). -/
def execDbgreq (m : Master) (level : BitVec 2) (s : State) : Host.Outcome State Fault Refusal := .next (byMaster s m fun s => debugRequest s m level)

/-- Debug stops a gang with STOP 2, or holds one that is away already (R386, R399, R400). -/
def haltGang (s : State) (g : Gang) : State :=
  let s := if g.state = .running then stopGang s g.id .debug none else s
  s.modGang g.id fun g => { g with held := true }

/-- DEBUG_GANG_HALT (R399): at Halt level, while the core dies have power. -/
def execDebugGangHalt (m : Master) (gang : Nat) (s : State) : Host.Outcome State Fault Refusal :=
  match s.gang? gang with
  | some g =>
    let ending := match s.task? g.part g.queue g.seq with
      | some t => !t.state.canEnd
      | none => true
    .next (byMaster s m fun s => if s.sconce.dbg = 2 ∧ s.sconce.pwr.toNat ≤ 1 ∧ ending = false then haltGang s g else s)
  | none => .next s

/-- DEBUG_GANG_RESUME (R399). -/
def execDebugGangResume (m : Master) (gang : Nat) (s : State) : Host.Outcome State Fault Refusal :=
  match s.gang? gang with
  | some g => .next (byMaster s m fun s => if s.sconce.dbg = 2 then releaseHold s g else s)
  | none => .next s

/-- An event that waits is tried again after what stands on the agenda. -/
def again (s : State) (i : Instr) : State := { s with agenda := s.agenda ++ [.event i] }

/-- DEBUG_MEMORY_WRITE (R399): at Halt level, while HBM has power. A decoded view is read-only. -/
def execDebugMemoryWrite (m : Master) (addr : Nat) (bytes : List Byte) (s : State) : Host.Outcome State Fault Refusal :=
  if !reaches s m || s.sconce.dbg ≠ 2 || s.sconce.pwr = 3 || bytes.isEmpty then .next s
  else if !isDevicePa addr || !isDevicePa (addr + bytes.length - 1) then .fault (.outsideAllMemory addr)
  else if !isRawAlias addr && touchesDecoded s addr bytes.length then .next s
  else match pinnedElsewhere s none addr bytes.length with
    | some k => .next (again (noteRetry s k addr bytes.length) (.debugMemoryWrite m addr bytes))
    | none => .next (physWrite s addr bytes)

/-! ## What the levels let a debugger read, through Sconce (R399)

Reading changes nothing. Above Spring no hart runs, and Observe is Sconce's own log and SECSTATE. -/

/-- Observe of a device that runs work. -/
def observes (s : State) : Bool := decide (1 ≤ s.sconce.dbg.toNat) && decide (s.sconce.pwr.toNat ≤ 1)

/-- Sconce's own log. -/
def debugLog (s : State) : Option (List LogEntry) := if 1 ≤ s.sconce.dbg.toNat then some s.sconce.log else none

/-- A performance counter of a hart slot, by its system register number (R408). -/
def debugCounter (s : State) (slot : Nat) (n : Fin 12) : Option Word :=
  if observes s then (s.hart? slot).map fun h => h.perf[n.val] else none

/-- ERRSTAT and ERRLOC of a partition (R393). -/
def debugErrors (s : State) (p : Nat) : Option (Word × Word) :=
  if observes s then some ((s.part p).regs.errstat, (s.part p).regs.errloc) else none

/-- An event queue of a partition (R405). -/
def debugEvents (s : State) (p n : Nat) : Option EvQueue := if observes s then some ((s.part p).events n) else none

/-- Device memory at Halt level while HBM has power, the images of the context areas among it: its bytes
and whether one is poisoned. A line that a core pair pins gives none until the pin ends (R318). -/
def debugMemory (s : State) (addr n : Nat) : Option (List Byte × Bool) :=
  if s.sconce.dbg = 2 ∧ s.sconce.pwr ≠ 3 ∧ n ≠ 0 ∧ isDevicePa addr ∧ isDevicePa (addr + n - 1) ∧ (pinnedElsewhere s none addr n).isNone then
    some (physReadBytes s addr n, (firstPoison s addr n).isSome)
  else none

/-! ## Security states and keys (R395, R396, R399) -/

/-- SECURITY_STATE_ENTRY (R396, R399): Provisioned from Manufacturing, after its clearing; Locked from
Provisioned, with DBG None. -/
def execSecurityStateEntry (sec : BitVec 2) (s : State) : Host.Outcome State Fault Refusal :=
  if sec = 1 ∧ s.sconce.sec = 0 then .next (clearAll s .provision)
  else if sec = 2 ∧ s.sconce.sec = 1 then .next ((lowerDebug s 0).modSconce fun x => { x with sec := 2 })
  else .next s

/-- OWNER_KEY_REPLACE (R396). -/
def execOwnerKeyReplace (m : Master) (index : BitVec 2) (key : List Byte) (s : State) : Host.Outcome State Fault Refusal :=
  if reaches s m && isOwner s m && s.sconce.sec == 1 && key.length == 1952 then
    .next (s.modSconce fun x => { x with keys := tblSet x.keys index.toNat key })
  else .next s

/-! ## Attestation (R398) -/

/-- ATTREQ: the report of a master is being built. -/
def attestRequest (s : State) (m : Master) : State := s.modSconce fun x => { x with attBusy := insertNat x.attBusy (masterCode m) }

/-- ATTREQ (R398). -/
def execAttreq (m : Master) (s : State) : Host.Outcome State Fault Refusal := .next (byMaster s m fun s => attestRequest s m)

/-- SECSTATE (R395). -/
def secstate (s : State) : Word :=
  (s.sconce.fw ++ s.sconce.pwr ++ s.sconce.dbg ++ s.sconce.sec).setWidth 64

/-- Hash and SVN of firmware image `i` in the report. -/
def firmwareEntry (i : Nat) : List Byte :=
  let f := Config.firmware i
  (List.range 64).map (fun k => f.hash.getD k 0) ++ leBytes 4 f.svn ++ List.replicate 12 0

/-- Bytes 0x000 to 0x2FF of a report. -/
def reportBody (s : State) (m : Master) : List Byte :=
  leBytes 4 1 ++ leBytes 4 0x300 ++ (List.range 16).map Config.serialNumber ++
  [s.sconce.sec.setWidth 8, s.sconce.dbg.setWidth 8, s.sconce.pwr.setWidth 8, s.mailbox.owner.setWidth 8] ++ leBytes 4 0 ++
  leBytes 8 s.mailbox.epoch.toNat ++ leBytes 8 0 ++
  areaBytes s.sconce.attNonce (64 * masterCode m) 64 ++
  (List.range 16).flatMap (fun p => leBytes 8 (pcfgRead s p 0).toNat) ++
  (List.range 4).flatMap firmwareEntry ++ List.replicate 208 0

/-- ATTESTATION_REPORT_READY (R398). -/
def execAttestationReportReady (m : Master) (s : State) : Host.Outcome State Fault Refusal :=
  let k := masterCode m
  if s.sconce.attBusy.contains k then
    let body := reportBody s m
    .next (s.modSconce fun x => { x with
      attBusy := x.attBusy.filter fun i => i != k
      reports := tblSet x.reports k (body ++ Config.deviceSignature body) })
  else .next s

end Sys2Proof.Machine
end

