-- ==== Sys2Proof/Machine/Errors.lean ====
section
/-! DEFINITION. Errors: ERRSTAT and ERRLOC, poison at the place an error strikes, corrected errors, and
failures of the Beacon fabric (R370, R372, R391 to R393). -/

namespace Sys2Proof.Machine

/-- The enabled partition that owns a die, and the one that owns a stack. -/
def ownerOfDie (s : State) (d : Nat) : Option Nat := (s.partitions.find? fun e => e.2.en && ownsDie e.2 d).map fun e => e.1
def ownerOfStack (s : State) (k : Nat) : Option Nat := (s.partitions.find? fun e => e.2.en && ownsStack e.2 k).map fun e => e.1

/-- Where an error is recorded: the partition, SRC and LOC of ERRSTAT. A register, tile or scratch word
has no PA, and its LOC is the core pair; a line that a cache way holds has one. An L2 slice is its die's (R225). What a host holds becomes an
error of the partition that accesses it (R97). -/
def errorRecord (s : State) : ErrorSite → Option Nat × Nat × Nat
  | .scalar slot _ => (ownerOfDie s (dieOf slot), 1, pairOf slot)
  | .vector slot _ _ => (ownerOfDie s (dieOf slot), 1, pairOf slot)
  | .mask slot _ _ => (ownerOfDie s (dieOf slot), 1, pairOf slot)
  | .stream slot _ _ => (ownerOfDie s (dieOf slot), 1, pairOf slot)
  | .cursor slot _ _ => (ownerOfDie s (dieOf slot), 1, pairOf slot)
  | .tile slot _ _ _ => (ownerOfDie s (dieOf slot), 1, pairOf slot)
  | .plane slot _ _ _ => (ownerOfDie s (dieOf slot), 1, pairOf slot)
  | .defer slot _ _ => (ownerOfDie s (dieOf slot), 1, pairOf slot)
  | .scratch slot _ => (ownerOfDie s (dieOf slot), 1, pairOf slot)
  | .cacheWay pair a => (ownerOfDie s (dieOfPair pair), 1, a)
  | .l2 a => (ownerOfDie s (homeDie a), 2, a)
  | .hbm a => (ownerOfStack s (stackOf a), 3, a)
  | .mearil pair => (ownerOfDie s (dieOfPair pair), 4, pair)
  | .beacon k => (ownerOfStack s k, 5, k)
  | .hostPoison a => (none, 6, a)
  | .hostError a => (none, 6, a)

def poisonAt (h : Hart) (l : RegLoc) : Hart := if h.poison.contains l then h else { h with poison := h.poison ++ [l] }

/-- The word that holds the error becomes poisoned (R392): s0 and m0 hold none (R108). A word of a cache way is
poisoned for every reader of its PA (DESIGN CHOICE, log entry 68). A failed Mearil link stays failed (R393); a
host holds a poisoned word, or will answer an access with an error (R97). -/
def strike (s : State) : ErrorSite → State
  | .scalar slot i => s.modHart slot fun h => if i = 0 then h else poisonAt h (.s i.toNat)
  | .vector slot i w => s.modHart slot fun h => if w < 128 then poisonAt h (.v i.toNat w) else h
  | .mask slot i w => s.modHart slot fun h => if w < 16 ∧ i ≠ 0 then poisonAt h (.m i.toNat w) else h
  | .stream slot i w => s.modHart slot fun h => if w < 4 then poisonAt h (.q i.toNat w) else h
  | .cursor slot i w => s.modHart slot fun h => if w < 4 then poisonAt h (.e i.toNat w) else h
  | .tile slot k r w => s.modHart slot fun h => if k.toNat < h.ids.zshare ∧ r < 256 ∧ w < 128 then poisonAt h (.z k.toNat r w) else h
  | .plane slot b r w => s.modHart slot fun h => if r < 512 ∧ w < 16 then poisonAt h (.plane b r w) else h
  | .defer slot i w => s.modHart slot fun h => if i < h.defer.length ∧ w < 6 then poisonAt h (.defer i w) else h
  | .scratch slot o => s.modHart slot fun h => if o < h.ids.ways * wayBytes then h.poisonScratch o else h
  | .cacheWay _ a => if isDevicePa a then poisonByte s a else s
  | .l2 a => if isDevicePa a then poisonByte s a else s
  | .hbm a => if isDevicePa a then poisonByte s a else s
  | .mearil pair => { s with mearilFailed := insertNat s.mearilFailed pair }
  | .beacon _ => s
  | .hostPoison a => if isHostPa a then poisonByte s a else s
  | .hostError a => if isHostPa a then { s with hostErrors := insertNat s.hostErrors (a / 128) } else s

/-- What a host's memory holds, or how it will answer, is no error of the device yet (R97). -/
def atHost : ErrorSite → Bool
  | .hostPoison _ => true
  | .hostError _ => true
  | _ => false

/-- UNCORRECTABLE_ERROR (R392, R393). -/
def execUncorrectableError (e : ErrorSite) (s : State) : Host.Outcome State Fault Refusal :=
  if atHost e then .next (strike s e)
  else
  let (p, src, loc) := errorRecord s e
  let s := logSconce (strike s e) (.uncorrectable src loc)
  .next (match p with
    | some p => recordError s p src loc
    | none => s)

/-- A counter of ERRSTAT counts one more, saturating. -/
def countErrors (s : State) (p lo : Nat) : State :=
  s.modRegs p fun r => { r with errstat := withBits r.errstat lo 16 (satAdd 16 (bits r.errstat lo 16) 1) }

/-- CORRECTED_ERROR (R391, R393): CECNT or RTCNT. -/
def execCorrectedError (e : CorrectedSite) (s : State) : Host.Outcome State Fault Refusal :=
  let (p, lo, unit) := match e with
    | .die d => (ownerOfDie s d, 16, d)
    | .stack k => (ownerOfStack s k, 16, k)
    | .retransmission d => (ownerOfDie s d, 32, d)
  let s := logSconce s (.corrected (lo == 32) unit)
  .next (match p with
    | some p => countErrors s p lo
    | none => s)

/-- A write of ERRSTAT (R393). -/
def writeErrstat (s : State) (p : Nat) (x : Word) : State :=
  s.modRegs p fun r =>
    let e := withBits r.errstat 16 48 0
    if x.getLsbD 0 then { r with errstat := e } else { r with errstat := withBits e 0 1 0, errloc := 0 }

/-- ERRSTAT (R393). -/
def execErrstat (w : Writer) (p : Nat) (value : Word) (s : State) : Host.Outcome State Fault Refusal :=
  .next (byWriter s w p fun s => writeErrstat s p value)

/-- A write of RFLSTAT (R369): any write zeroes COUNT, and VALID written 0 clears VALID alone. -/
def writeRflstat (s : State) (p : Nat) (x : Word) : State :=
  s.modRegs p fun r =>
    let e := withBits r.rflstat 48 16 0
    { r with rflstat := if x.getLsbD 0 then e else withBits e 0 1 0 }

/-- RFLSTAT (R369). -/
def execRflstat (w : Writer) (p : Nat) (value : Word) (s : State) : Host.Outcome State Fault Refusal :=
  .next (byWriter s w p fun s => writeRflstat s p value)

/-- A write of EVQSTATn (R405). -/
def writeEvqstat (s : State) (p n : Nat) (x : Word) : State :=
  s.modPart p fun y => y.setEvents n { y.events n with drop := 0, ien := x.getLsbD 32 }

/-- EVQSTAT (R405). -/
def execEvqstat (w : Writer) (p n : Nat) (value : Word) (s : State) : Host.Outcome State Fault Refusal :=
  .next (if n < 16 then byWriter s w p fun s => writeEvqstat s p n value else s)

/-! ## The fabric (R370, R372) -/

/-- A write of BCNCFG (R370): while EN is 1, only EN is written; bit 15 and the reserved bits are 0. -/
def writeBcncfg (s : State) (x : Word) : State :=
  { s with bcncfg :=
      if bcnEn s.bcncfg then withBits s.bcncfg 31 1 (bits x 31 1)
      else withBits (withBits x 15 1 0) 32 32 0 }

/-- BCNCFG (R370). -/
def execBcncfg (m : Master) (value : Word) (s : State) : Host.Outcome State Fault Refusal :=
  .next (byOwner s m fun s => writeBcncfg s value)

/-- LINK_FAILURE_REPORT (R372): the owner reports a part failed, or repaired. -/
def execLinkFailureReport (w : Writer) (part : FabricPart) (failed : Bool) (s : State) : Host.Outcome State Fault Refusal :=
  match w with
  | .runtime => .next s
  | .master m => .next (byOwner s m fun s =>
    let rest := s.failed.filter fun f => f != part
    { s with failed := if failed then rest ++ [part] else rest })

end Sys2Proof.Machine
end

