-- ==== Sys2Proof/Machine/Window.lean ====
section
/-! DEFINITION. The privileged window of a partition as a map of 8-byte registers (R54, R55, R61, R68,
R76, R88, R90, R98, R100, R172, R227, R369, R376, R385, R393, R405). -/

namespace Sys2Proof.Machine

/-- A register of the window. -/
inductive WinReg where
  | fectl | tcmd | lfstat | lfva | errstat | errloc | ptroot | invrange | invcmd | ssettle | replctl
  | tvecdef | rflstat | rtentry
  | srange (n : Nat)
  | fmtA (n : Nat)
  | fmtB (n : Nat)
  | evqstat (n : Nat)
  /-- register 0 to 4 of queue `n` (R61) -/
  | queue (n reg : Nat)
  deriving DecidableEq, Repr

/-- The register at an offset, if one lies there. -/
def winReg (off : Nat) : Option WinReg :=
  match off with
  | 0x00 => some .fectl
  | 0x10 => some .tcmd
  | 0x20 => some .lfstat
  | 0x28 => some .lfva
  | 0x30 => some .errstat
  | 0x38 => some .errloc
  | 0x40 => some .ptroot
  | 0x48 => some .invrange
  | 0x50 => some .invcmd
  | 0x58 => some .ssettle
  | 0x60 => some .replctl
  | 0x68 => some .tvecdef
  | 0x70 => some .rflstat
  | 0x78 => some .rtentry
  | off =>
    if off % 8 ≠ 0 then none
    else if 0x80 ≤ off ∧ off < 0xC0 then some (.srange ((off - 0x80) / 8))
    else if 0x100 ≤ off ∧ off < 0x200 then some (if off % 16 = 0 then .fmtA ((off - 0x100) / 16) else .fmtB ((off - 0x100) / 16))
    else if 0x200 ≤ off ∧ off < 0x280 then some (.evqstat ((off - 0x200) / 8))
    else if 0x10000 ≤ off ∧ off < 0x60000 ∧ off % 0x1000 ≤ 0x20 then some (.queue ((off - 0x10000) / 0x1000) (off % 0x1000 / 8))
    else none

/-- The register has no field that the privileged view may write. -/
def WinReg.readOnly : WinReg → Bool
  | .lfva => true
  | .errloc => true
  | .queue n r => r == 3 || r == 4 || (r == 2 && decide (64 ≤ n))
  | _ => false

/-- The offset is that of a TAIL, which producers write as a doorbell (R53, R62). -/
def isDoorbell (off : Nat) : Bool :=
  match winReg off with
  | some (.queue _ 2) => true
  | _ => false

/-! ## Reading -/

def evqWord (q : EvQueue) : Word := BitVec.ofNat 64 (q.records.length + q.drop.toNat * 2 ^ 16 + q.ien.toNat * 2 ^ 32)

def queueWord (q : Queue) : Nat → Word
  | 0 => BitVec.ofNat 64 (q.loc.toNat + q.base.toNat * 256)
  | 1 => BitVec.ofNat 64 (q.log2n.toNat + q.en.toNat * 32)
  | 2 => q.tail.setWidth 64
  | 3 => q.head.setWidth 64
  | 4 => BitVec.ofNat 64 (q.qstate.toNat + q.qerr.toNat * 256)
  | _ => 0

/-- The value of a register of the window; fields that are only written read as zero. -/
def winRead (x : Partition) : WinReg → Word
  | .fectl => x.regs.fectl
  | .tcmd => BitVec.ofNat 64 (x.regs.tcmd.toNat * 2 ^ 62)
  | .lfstat => x.regs.lfstat
  | .lfva => x.regs.lfva
  | .errstat => x.regs.errstat
  | .errloc => x.regs.errloc
  | .ptroot => x.regs.ptroot
  | .invrange => x.regs.invrange
  | .invcmd => BitVec.ofNat 64 (x.regs.inv.status.toNat * 256 + x.regs.inv.result.toNat * 1024)
  | .ssettle => BitVec.ofNat 64 (x.regs.settling.toNat * 2)
  | .replctl => x.regs.replctl
  | .tvecdef => x.regs.tvecdef
  | .rflstat => x.regs.rflstat
  | .rtentry => x.regs.rtentry
  | .srange n => tblGetD x.srange n 0
  | .fmtA n => tblGetD x.fmtA n 0
  | .fmtB n => tblGetD x.fmtB n 0
  | .evqstat n => evqWord (x.events n)
  | .queue n r => queueWord (x.queue n) r

/-- An offset of the window: one that names no register reads as zero. -/
def windowRead (s : State) (p off : Nat) : Word :=
  match winReg off with
  | some r => winRead (s.part p) r
  | none => 0

/-! ## Writing -/

/-- PTROOT (R98): ignored while a task is past Queued; no translation survives it (R104). -/
def writePtroot (s : State) (p : Nat) (x : Word) : State :=
  if s.tasks.any fun t => t.part == p && t.state.holdsLeases then s
  else withdraw (s.modRegs p fun r => { r with ptroot := BitVec.ofNat 64 (bits x 0 1 + bits x 16 36 * 65536) }) p fun _ => true

/-- TCMD (R76). -/
def writeTcmd (s : State) (p : Nat) (x : Word) : State :=
  let seq := bits x 0 32
  let queue := bits x 32 7
  match bits x 40 2 with
  | 1 => preemptTask s p queue seq
  | 2 => resumeTask s p queue seq
  | 3 => revokeTask s p queue seq
  | _ => s

/-- FMTnA and FMTnB (R172, R173): while EN is 1, only EN is written. -/
def writeFmtA (s : State) (p n : Nat) (x : Word) : State :=
  if regionEnabled (s.part p) n then (if x.getLsbD 0 then s else disableRegion s p n)
  else
    let s := s.modPart p fun y => { y with fmtA := tblPut y.fmtA n (BitVec.ofNat 64 (bits x 16 36 * 65536)) 0 }
    if x.getLsbD 0 then enableRegion s p n else s

def writeFmtB (s : State) (p n : Nat) (x : Word) : State :=
  if regionEnabled (s.part p) n then s
  else s.modPart p fun y => { y with fmtB := tblPut y.fmtB n (withBits (tblGetD y.fmtB n 0) 0 32 (bits x 0 32)) 0 }

/-- The first two registers and TAIL of a queue (R61 to R64): while EN is 1, only EN is written; LOC of a
device queue stays 0. -/
def writeQueue (n r : Nat) (x : Word) (q : Queue) : Queue :=
  match r with
  | 0 => if q.en then q else { q with loc := x.getLsbD 0 && decide (n < 64), base := x.extractLsb' 8 44 }
  | 1 =>
    if q.en then (if x.getLsbD 5 then q else disableQueue q)
    else
      let q := { q with log2n := x.extractLsb' 0 5 }
      if x.getLsbD 5 then enableQueue q else q
  | 2 => if n < 64 then ringDoorbell q (x.extractLsb' 0 32) else q
  | _ => q

/-- A write of a register of the window by one that may make it. -/
def winWrite (s : State) (p : Nat) (r : WinReg) (x : Word) : State :=
  match r with
  | .fectl => s.modRegs p fun y => { y with fectl := BitVec.ofNat 64 (bits x 0 8) }
  | .tcmd => writeTcmd s p x
  | .lfstat => s.modRegs p (writeLfstat x)
  | .lfva => s
  | .errstat => writeErrstat s p x
  | .errloc => s
  | .ptroot => writePtroot s p x
  | .invrange => s.modRegs p fun y => { y with invrange := x }
  | .invcmd => invCommand s p (bits x 0 2)
  | .ssettle => writeSettle s p x
  | .replctl => writeReplctl s p x
  | .tvecdef => s.modRegs p fun y => { y with tvecdef := BitVec.ofNat 64 (bits x 2 53 * 4) }
  | .rflstat => writeRflstat s p x
  | .rtentry => writeRtentry s p x
  | .srange n => s.modPart p fun y => { y with srange := tblPut y.srange n x 0 }
  | .fmtA n => writeFmtA s p n x
  | .fmtB n => writeFmtB s p n x
  | .evqstat n => writeEvqstat s p n x
  | .queue n r => modQueue s p n (writeQueue n r x)

/-- A write at an offset of the window by a hart of the partition (R211). -/
def windowWrite (s : State) (p off : Nat) (x : Word) : State :=
  match winReg off with
  | some r => winWrite s p r x
  | none => s

/-- A master's write asks for something its rights do not give: a read-only register, or LOC of a
device queue (R55, R61). -/
def masterDenied (r : WinReg) (x : Word) : Bool :=
  r.readOnly || match r with
    | .queue n 0 => decide (64 ≤ n) && x.getLsbD 0
    | _ => false

/-- A write at an offset of the window by the owner (R50, R55). -/
def windowMaster (s : State) (p off : Nat) (x : Word) : State :=
  match winReg off with
  | some r => winWrite (if masterDenied r x then countDiscarded s else s) p r x
  | none => s

end Sys2Proof.Machine
end

