-- ==== Sys2Proof/Machine/HostPort.lean ====
section
/-! DEFINITION. The host port: BAR0 (R47, R50, R51, R55), HDM (R48, R179, R327, R392) and the links
(R44 to R46, R97). -/

namespace Sys2Proof.Machine

/-! ## BAR0 -/

/-- Writes of the 64 KiB of identity and mailbox (R51, R370, R395 to R398, R409). -/
def identityWrite (s : State) (m : Master) (off : Nat) (x : Word) : State :=
  if off = 0x108 then
    match bits x 0 3 with
    | 1 => claim s m
    | 2 => respond s m
    | 3 => byOwner s m fun s => handover s m (x.extractLsb' 3 2)
    | 4 => byOwner s m fun s => releaseOwner s m
    | _ => byOwner s m fun s => s
  else if 0x1000 ≤ off ∧ off < 0x2000 then
    { s with mailbox := { s.mailbox with cred := (List.range 8).foldl (fun t k =>
        tblPut t (4096 * masterCode m + (off - 0x1000) + k) (x.extractLsb' (8 * k) 8) 0) s.mailbox.cred } }
  else if off = 0x400 then byOwner s m fun s => writeBcncfg s x
  else if off = 0x410 then byOwner s m fun s => requestPower s (x.extractLsb' 0 2)
  else if off = 0x28 then debugRequest s m (x.extractLsb' 0 2)
  else if 0x2000 ≤ off ∧ off < 0x2040 then
    s.modSconce fun y => { y with attNonce := (List.range 8).foldl (fun t k =>
        tblPut t (64 * masterCode m + (off - 0x2000) + k) (x.extractLsb' (8 * k) 8) 0) y.attNonce }
  else if off = 0x2040 then (if x = 1 then attestRequest s m else s)
  else if off = 0x20 ∨ off = 0x100 ∨ off = 0x110 ∨ off = 0x120 ∨ off = 0x2048 ∨ (0x200 ≤ off ∧ off < 0x240) ∨ (0x3000 ≤ off ∧ off < 0x4000) then
    countDiscarded s
  else s

/-- A master's write of 8 bytes at an offset of BAR0 (R47, R50). -/
def bar0Write (s : State) (m : Master) (offset : Nat) (x : Word) : State :=
  byMaster s m fun s =>
  let off := offset / 8 * 8
  if 0x1000000 ≤ off ∧ off < 0x2000000 then byOwner s m fun s => windowMaster s ((off - 0x1000000) / 2 ^ 20) (off % 2 ^ 20) x
  else if 0x10000 ≤ off ∧ off < 0x11000 then byOwner s m fun s => pcfgWrite s ((off - 0x10000) / 256) (off % 256) x
  else if off < 0x10000 then identityWrite s m off x
  else s

/-- The write of a register of the window at its BAR0 offset, by a partition's agent in the privileged
view; a doorbell only by its runtime (R53). -/
def runtimeWrite (s : State) (offset : Nat) (x : Word) : State :=
  let off := offset / 8 * 8
  let p := (off - 0x1000000) / 2 ^ 20
  if 0x1000000 ≤ off ∧ off < 0x2000000 then
    if isDoorbell (off % 2 ^ 20) then byRinger s .runtime p fun s => windowWrite s p (off % 2 ^ 20) x
    else byWriter s .runtime p fun s => windowWrite s p (off % 2 ^ 20) x
  else s

/-- REGISTER_WRITE (R55): `offset` is the register's BAR0 offset. -/
def execRegisterWrite (w : Writer) (offset : Nat) (value : Word) (s : State) : Host.Outcome State Fault Refusal :=
  match w with
  | .master m => .next (bar0Write s m offset value)
  | .runtime => .next (runtimeWrite s offset value)

/-- LAST of a master (R51). -/
def lastOf (s : State) (m : Master) : Word := (tblGetD s.mailbox.last (masterCode m) 0).setWidth 64

/-- Reads of the identity and the mailbox; what the manual does not give there is a free value. -/
def identityRead (s : State) (m : Master) (off : Nat) : Word :=
  let x := s.mailbox
  if off = 0x20 then secstate s
  else if off = 0x28 ∨ off = 0x108 ∨ off = 0x2040 ∨ (0x1000 ≤ off ∧ off < 0x2040) then 0
  else if off = 0x100 then BitVec.ofNat 64 (x.state.toNat + x.owner.toNat * 8 + x.cand.toNat * 256 + x.epoch.toNat * 2 ^ 32)
  else if off = 0x110 then lastOf s m
  else if off = 0x120 then x.nownwr.setWidth 64
  else if 0x200 ≤ off ∧ off < 0x240 then x.nonce.extractLsb' (8 * (off - 0x200)) 64
  else if off = 0x400 then s.bcncfg
  else if off = 0x410 then BitVec.ofNat 64 (s.sconce.pwrReq.toNat + s.sconce.pwrRefused.toNat * 4)
  else if off = 0x2048 then BitVec.ofNat 64 (s.sconce.attBusy.contains (masterCode m)).toNat
  else if 0x3000 ≤ off ∧ off < 0x4000 then
    BitVec.ofNat 64 (leNat (((tblGetD s.sconce.reports (masterCode m) []).drop (off - 0x3000)).take 8))
  else Config.identityWord off

/-- A master's read of 8 bytes at an offset of BAR0 (R47, R50): reading changes nothing. -/
def bar0Read (s : State) (m : Master) (offset : Nat) : Word :=
  let off := offset / 8 * 8
  if 0x1000000 ≤ off ∧ off < 0x2000000 then windowRead s ((off - 0x1000000) / 2 ^ 20) (off % 2 ^ 20)
  else if 0x10000 ≤ off ∧ off < 0x11000 then pcfgRead s ((off - 0x10000) / 256) (off % 256)
  else if off < 0x10000 then identityRead s m off
  else 0

/-! ## HDM (R48, R50, R179, R327) -/

/-- The master's link is trained: the board management link carries no CXL.mem. -/
def hdmLink (s : State) (m : Master) : Bool :=
  match m with
  | .management => false
  | .host0 => reaches s .host0
  | .host1 => reaches s .host1

/-- HDM addresses are those of the HBM, without the raw alias (R48, R96). -/
def isHdm (addr n : Nat) : Bool := isDevicePa addr && isDevicePa (addr + n - 1) && decide (addr + n ≤ 2 ^ 51)

/-- A host's access counts for each line of a REPL page, mapped by the partition that owns the line's stack, that it
reaches from outside every die (R225, R227; log entry 36). -/
def countHost (s : State) (addr n : Nat) (write : Bool) : State :=
  (List.range (lineOf (addr + n - 1) + 1 - lineOf addr)).foldl (fun s k =>
    let pa := 128 * (lineOf addr + k)
    match ownerOfStack s (stackOf pa) with
    | some p => countArrival s (leavesAt s p replLeaf pa) pa write
    | none => s) s

/-- HOST_HDM_WRITE (R50, R179, R318, R327): a pinned line is waited out. -/
def execHostHdmWrite (m : Master) (addr : Nat) (bytes : List Byte) (s : State) : Host.Outcome State Fault Refusal :=
  let n := bytes.length
  if !hdmLink s m || n == 0 then .next s
  else if !isHdm addr n then .fault (.outsideAllMemory addr)
  else if !isOwner s m then .next (countDiscarded s)
  else if touchesDecoded s addr n then .next (logSconce s (.hdmWriteIgnored addr))
  else match pinnedElsewhere s none addr n with
    | some k => .next (again (noteRetry s k addr n) (.hostHdmWrite m addr bytes))
    | none => .next (physWrite (countHost s addr n true) addr bytes)

/-- HOST_HDM_READ (R175, R318, R327, R392): poisoned data is answered as poison and logged. In Winter HBM
has no power, and the bytes are free. -/
def execHostHdmRead (m : Master) (addr len : Nat) (s : State) : Host.Outcome State Fault Refusal :=
  if !hdmLink s m || len == 0 then .next s
  else if !isHdm addr len then .fault (.outsideAllMemory addr)
  else if s.sconce.pwr = 3 then
    let (k, s) := s.draw
    .next { s with hostReply := some { master := m, addr := addr, bytes := (List.range len).map (Config.lostByte k), poisoned := false } }
  else match pinnedElsewhere s none addr len with
    | some k => .next (again (noteRetry s k addr len) (.hostHdmRead m addr len))
    | none =>
      let bad := firstPoison s addr len
      let s := countHost s addr len false
      let s := match bad with
        | some a => logSconce s (.poisonRead a)
        | none => s
      .next { s with hostReply := some { master := m, addr := addr, bytes := physReadBytes s addr len, poisoned := bad.isSome } }

/-! ## Links (R44, R46, R97) -/

/-- The rows of the table of R45 by what they support or do not. -/
inductive HostFeature where
  | type2 | cxlIo | cxlCache | cxlMem | rate64 | rate32 | width16 | width8 | width4
  | flit256 | latencyFlit256 | flit68 | hdmDb | hdmD | interleave1 | interleaveMore
  | multiLogical | dynamicCapacity | globalFabricMemory | portRouting
  | ideIo | ideCachemem | ideContainment | ideSkid
  deriving DecidableEq, Repr

/-- The features that the device supports (R45). -/
def HostFeature.supported : HostFeature → Bool
  | .latencyFlit256 | .flit68 | .hdmD | .interleaveMore | .multiLogical | .dynamicCapacity | .globalFabricMemory
  | .portRouting | .ideSkid => false
  | _ => true

/-- What the DVSEC capabilities advertise: nothing that is not supported (R45). Which of the others they name is a
free value (log entry 75). -/
def HostFeature.inDvsec (f : HostFeature) : Bool := f.supported && Config.advertised f.ctorIdx

/-- The widths of a link (R44, R45): all sixteen lanes for link 0 where it is the only one. -/
def linkWidths (s : State) : List Nat := if s.twoLinks then [8, 4] else [16, 8, 4]

/-- What a link comes up as, by the free values of index `k` (R45): two HDM decoders, neither of which
interleaves. -/
def linkAt (s : State) (k : Nat) : HostLink :=
  { rate := if Config.linkFast k then 64 else 32
    width := listGetD (linkWidths s) (Config.linkWidth k % (linkWidths s).length) 8
    decoders := [{ base := Config.hdmBase k 0 }, { base := Config.hdmBase k 1 }] }

/-- A link trains, and Sconce sets its CXL IDE keys (R45). -/
def trainLink (s : State) (link : Bool) : State :=
  let (k, s) := s.draw
  { s with
    linkUp := s.linkUp ||| (if link then 2#2 else 1#2)
    hostLinks := tblSet s.hostLinks link.toNat (linkAt s k)
    sconce := { s.sconce with ideKeys := tblSet s.sconce.ideKeys link.toNat (Config.ideKey k) } }

/-- LINK_TRAINING (R44, R46): link 1 is there only where the straps choose two links. A training that fails on a
link that is up leaves it up: R46 speaks of a link that does not come up (DESIGN CHOICE, log entry 72). -/
def execLinkTraining (link canTrain : Bool) (s : State) : Host.Outcome State Fault Refusal :=
  .next (if link && !s.twoLinks then s else if canTrain then trainLink s link else logSconce s (.linkFailed link))

/-- LINK_DOWN (R97). -/
def execLinkDown (link : Bool) (s : State) : Host.Outcome State Fault Refusal :=
  .next { s with linkUp := s.linkUp &&& (if link then 1#2 else 2#2) }

end Sys2Proof.Machine
end

