-- ==== Sys2Proof/Machine/System.lean ====
section
/-! DEFINITION. System instructions, OP 0x40 to 0x45 (R209 to R217), the end of a YIELD, a packet's
arrival (R120) and the bound of a pin (R319). -/

namespace Sys2Proof.Machine

/-- SYSRD (R211, R55): ILLEGAL for a number that names no register, then PRIV. -/
def execSysrd (c : Ctl) (o : SysrdForm) (s : State) : Host.Outcome State Fault Refusal :=
  issue 0x40 c s fun s slot h =>
    let priv := privileged slot h
    match o.target with
    | .reg n =>
      match sysRights n.toNat priv with
      | none => trapRes s .illegal 0
      | some r =>
        if !r.read then trapRes s .priv 0
        else if isLamp slot && noLampRegister n.toNat then
          let (k, s) := s.draw
          doneWith s slot (h.setS o.d (Config.lampRegister k))
        else if h.marked (controlOffset n.toNat) then .deny s poisonTrap
        else doneWith s slot (h.setS o.d (sysRead s slot h n.toNat))
    | .window off => if !priv then trapRes s .priv 0 else doneWith s slot (h.setS o.d (windowRead s h.ids.part off.toNat))

/-- Registers by whose value a write of another goes: VTYPE for VL, and VL for VTYPE (R216, R239). -/
def writeReads (n : Nat) : List Nat :=
  match n with
  | 0x001 => [0x118]
  | 0x002 => [0x110]
  | _ => []

/-- SYSWR (R211, R55): ILLEGAL for a number that names no register, then PRIV. A doorbell is accepted of
the runtime alone (R53). -/
def execSyswr (c : Ctl) (o : SyswrForm) (s : State) : Host.Outcome State Fault Refusal :=
  issue 0x41 c s fun s slot h =>
    let priv := privileged slot h
    match o.target with
    | .reg n =>
      match sysRights n.toNat priv with
      | none => trapRes s .illegal 0
      | some r =>
        if !r.write then trapRes s .priv 0
        else unpoisoned s h [.s o.a]
          (if isLamp slot && noLampRegister n.toNat then .done s
           else if h.marked (writeReads n.toNat) then .deny s poisonTrap
           else doneWith s slot (clearPoison (sysWrite h n.toNat (h.getS o.a)) (RegLoc.controlIn (controlOffset n.toNat))))
    | .window off =>
      let denied := match winReg off.toNat with
        | some r => r.readOnly
        | none => false
      if !priv || denied then trapRes s .priv 0
      else unpoisoned s h [.s o.a] (.done
        (if isDoorbell off.toNat && !isLamp slot then s else windowWrite s h.ids.part off.toNat (h.getS o.a)))

/-- ERET (R212). -/
def execEret (c : Ctl) (s : State) : Host.Outcome State Fault Refusal :=
  issue 0x42 c s fun s slot h =>
    if !privileged slot h then trapRes s .priv 0
    else if h.marked [0x170, 0x178, 0x190] then .deny s poisonTrap
    else if h.trap.epc.toNat % 4 ≠ 0 then trapRes s .align h.trap.epc
    else .placed (returnFromTrap s slot h)

/-- NOP (R213). -/
def execNop (c : Ctl) (s : State) : Host.Outcome State Fault Refusal := issue 0x43 c s fun s _ _ => .done s

/-- YIELD (R213): the hart issues nothing until YIELD_EXPIRY. -/
def execYield (c : Ctl) (o : YieldForm) (s : State) : Host.Outcome State Fault Refusal :=
  issue 0x43 c s fun s slot h => if o.cycles = 0 then .done s else doneWith s slot { h with run := .yielding }

/-- YIELD_EXPIRY (R213). -/
def execYieldExpiry (slot : Nat) (s : State) : Host.Outcome State Fault Refusal :=
  .next (s.modHart slot fun h => if h.run = .yielding then { h with run := .running } else h)

/-- HALT (R214): the hart stops issuing and its pins end as by a release of kind all (R319); HALT_SLOT_RELEASE does
the rest. -/
def execHalt (c : Ctl) (s : State) : Host.Outcome State Fault Refusal :=
  issue 0x44 c s fun s slot h => .keep (releasePins (boundSiblingPins .both (s.setHart slot { h with run := .halting }) slot) slot)

/-- TRAP (R215). -/
def execTrap (c : Ctl) (o : TrapForm) (s : State) : Host.Outcome State Fault Refusal :=
  issue 0x45 c s fun s _ _ => .trapAfter s .trap (o.code.setWidth 64)

/-- FETCH_PACKET (R117, R120): the packets of the word at the PC arrive and are checked. -/
def execFetchPacket (slot : Nat) (s : State) : Host.Outcome State Fault Refusal :=
  match s.hart? slot with
  | none => .next s
  | some h =>
    if !canIssue slot h || h.held.isSome || (wordIn h.packets h.pc.toNat).isSome then .next s
    else match fetch s slot h with
      | .error d => .next (deny s slot d)
      | .ok l =>
        let s := rememberFetch s slot h
        match decodeFetched ((wordIn l h.pc.toNat).getD []) with
        | .error d => .next (deny s slot d)
        | .ok _ => .next (s.setHart slot { h with packets := l })

/-- PIN_TIMEOUT (R319): the bound of a pin that a RETRY or a waiting release started has passed; the
hart's pins end as by a GANG-scope release of kind all. -/
def execPinTimeout (pair line : Nat) (s : State) : Host.Outcome State Fault Refusal :=
  match (s.pair pair).pins.find? fun q => q.line == line && q.retried && !q.ending.any Pending.whole with
  | some q => .next (releasePins (boundSiblingPins .both s q.slot) q.slot)
  | none => .next s

end Sys2Proof.Machine
end

