-- ==== Sys2Proof/Machine/Advance.lean ====
section
/-! DEFINITION. What acts next (log entry 1): the agenda, then the agents in cyclic order, and after
each round of the agents one of the events that the device can bring about by itself. -/

namespace Sys2Proof.Machine

/-! ## Events that the device can bring about now -/

/-- The Lantern of a hart has something to do (R140, R144): an entry that waited fits now, a stop that the
trailing core has passed, or the next instruction. -/
def lanternReady (s : State) (slot : Nat) (h : Hart) : Bool :=
  match h.lantern.copy with
  | none => false
  | some c => lanternOn slot h &&
    if !c.pending.isEmpty then pushPending (wickShare s slot) h != h
    else c.waiting.isNone && !h.slipping c && (!h.lantern.stopped || decide (c.seq < h.lantern.seq))

/-- Events of a hart's Lantern: it issues, what it waits for arrives, and a prefetch returns. -/
def lanternEvents (s : State) (slot : Nat) (h : Hart) : List Instr :=
  (if lanternReady s slot h then [.lanternIssue slot] else []) ++
  (match h.lantern.copy with
   | some c => if c.bound then [.lanternPublish slot] else []
   | none => []) ++
  ((h.lantern.prefetches.filter fun p => !p.filled).map fun p => .prefetchFill slot p.line false)

/-- Events of the harts. -/
def hartEvents (slot : Nat) (h : Hart) : List Instr :=
  (match h.run with
   | .yielding => [.yieldExpiry slot]
   | .halting => [.haltSlotRelease slot]
   | .barReady => [.barwaitReturn slot]
   | .launching _ _ _ => [.tlaunchCopy slot]
   | _ => []) ++
  (if h.lantern.forking && h.run != .stopped then [.lanternForkCopyDone slot] else []) ++
  (if h.arriving.isEmpty then [] else [.loadDataArrival slot 0])

/-- Events of the engines and the fabric. -/
def fabricEvents (s : State) : List Instr :=
  (s.transfers.map fun t => .transferComplete t.id) ++
  (s.merges.map fun m => .mergeWindowClose m.line) ++
  (s.deliveries.map fun d => .tcastLineDelivery d.id) ++
  (s.egress.filterMap fun r => match r.fate with
    | .inFlight => if r.dev == s.devid then some (.beaconPacketApply (.loopback r.id))
      else if reachable s r.dev r.rwin r.pcls then none else some (.reflectTimeout r.id)
    | _ => some (.reflectionAcknowledgement r.id true 0)) ++
  (if s.hostStores.any (·.atVa s) then [.hostCoherenceAccept] else [])

/-- Events of the gangs and tasks. -/
def taskEvents (s : State) : List Instr :=
  (s.gangs.filterMap fun g => match g.state with
    | .stopping _ => some (.gangSave g.id)
    | _ => none) ++
  (s.tasks.filterMap fun t =>
    if t.state.isEnding then some (.taskEnd t.part t.queue t.seq)
    else if retires t || emptyTurn s t then some (.taskRetire t.part t.queue t.seq)
    else none)

/-- Events of a partition's front end. -/
def partitionEvents (s : State) (p : Nat) (x : Partition) : List Instr :=
  ((List.range 80).filter fun n => mayTake s p n).map (fun n => .takeRecord p n) ++
  ((List.range 80).filter fun n => (oldestQueued s p n).isSome).map (fun n => .residencyWalk p n) ++
  (if (nextReady s p).isSome then [.gangResume p] else []) ++
  (match chooseQueue s p with
   | some (n, _) => match dispatchable s p n with
     | some t => match (placeableRanks s p t).head? with
       | some r => [.dispatchRound p r 0]
       | none => []
     | none => []
   | none => []) ++
  (if x.disabling then [.partitionDisableComplete p] else []) ++
  (if x.regs.settling then [.settleComplete p] else []) ++
  (match x.regs.inv.op with
   | some .shoot => if x.regs.inv.status = 1 then [.shootComplete p] else []
   | some .shootDrain => if x.regs.inv.status = 1 then [.shootComplete p] else []
   | some .drain => if x.regs.inv.status = 2 then [.drainBegin p] else if x.regs.inv.status = 1 then [.drainComplete p] else []
   | some .confirm => if x.regs.inv.status = 1 then [.confirmComplete p] else []
   | none => [])

/-- Events of Sconce: while the firmware is being verified, the reset sequence goes on (R395, R411). -/
def sconceEvents (s : State) : List Instr :=
  (if s.sconce.fw = 0 then [.deviceReset] else []) ++
  (if s.sconce.pwrTo.isSome then [.powerTransitionComplete] else []) ++
  (if s.sconce.pwrReq = 2 ∧ s.sconce.pwr.toNat ≤ 1 then [.autumnEntry] else []) ++
  (s.sconce.attBusy.map fun m => .attestationReportReady (if m = 0 then .management else if m = 1 then .host0 else .host1))

/-- The bounds of pins that a RETRY has started (R319). -/
def pinEvents (s : State) : List Instr :=
  s.pairs.flatMap fun e => (e.2.pins.filter fun q => q.retried && !q.ending.any Pending.whole).map fun q => .pinTimeout e.1 q.line

/-- Every event that may come now. -/
def readyEvents (s : State) : List Instr :=
  s.harts.flatMap (fun e => hartEvents e.1 e.2 ++ lanternEvents s e.1 e.2) ++ fabricEvents s ++ taskEvents s ++
  (s.partitions.filter fun e => e.2.en).flatMap (fun e => partitionEvents s e.1 e.2) ++ sconceEvents s ++ pinEvents s

/-- The event that the device brings about: each in turn. -/
def nextEvent (s : State) : Option Instr :=
  let l := readyEvents s
  if l.isEmpty then none else l[s.tick % l.length]?

/-! ## Turns -/

/-- The first agent from a slot number up that can issue. -/
def agentFrom (s : State) (low : Nat) : Option Nat :=
  (s.harts.find? fun e => decide (low ≤ e.1) && canIssue e.1 e.2).map fun e => e.1

/-- The agent after the one that acted last. -/
def laterAgent (s : State) : Option Nat := agentFrom s (match s.turn with
  | some last => last + 1
  | none => 0)

/-- What acts next, and the state with that turn taken: the head of the agenda; the next agent; after
the last agent an event, with the agents to begin again; nothing on an idle device. -/
def nextTurn (s : State) : Option (Turn × State) :=
  match s.agenda with
  | t :: r => some (t, { s with agenda := r })
  | [] =>
    match laterAgent s with
    | some a => some (.agent a none, s)
    | none =>
      match nextEvent s with
      | some i => some (.event i, { s with turn := none, tick := s.tick + 1 })
      | none => match s.turn with
        | none => none
        | some _ => (agentFrom s 0).map fun a => (.agent a none, s)

end Sys2Proof.Machine
end

