-- ==== Sys2Proof/Machine/ScalarFloat.lean ====
section
/-! DEFINITION. Scalar floating point, OP 0x20 to 0x23 (R199 to R201): FZ is ignored, flags are ORed
into FCSR. -/

namespace Sys2Proof.Machine

/-- The mould of R199: sources a and b, the destination as c, the rounding mode. -/
def floatBin (op : Nat) (c : Ctl) (o : FloatBin) (s : State) (readsD : Bool)
    (f : Fmt → Round → Word → Word → Word → Word × FFlags) : Host.Outcome State Fault Refusal :=
  issue op c s fun s slot h =>
    let lo := low o.ty.width
    let r := f o.ty.fmt (h.round o.rm) (lo (h.getS o.a)) (lo (h.ssrc o.ty o.b)) (lo (h.getS o.d))
    unpoisoned s h ((if readsD then [.s o.d] else []) ++ .s o.a :: ssrcReads o.b)
      (doneWith s slot ((h.setS o.d (low o.ty.width r.1)).raise r.2))

/-- The mould of the one-source forms. -/
def floatUn (op : Nat) (c : Ctl) (t : Ty) (d a : SIdx) (width : Nat) (s : State) (f : Hart → Word → Word × FFlags) :
    Host.Outcome State Fault Refusal :=
  issue op c s fun s slot h =>
    let r := f h (low width (h.getS a))
    unpoisoned s h [.s a] (doneWith s slot ((h.setS d (t.place r.1)).raise r.2))

def execFadd (c : Ctl) (o : FloatBin) (s : State) : Host.Outcome State Fault Refusal :=
  floatBin 0x20 c o s false fun f r a b _ => f.add r false (f.value a) (f.value b)

def execFsub (c : Ctl) (o : FloatBin) (s : State) : Host.Outcome State Fault Refusal :=
  floatBin 0x20 c o s false fun f r a b _ => f.sub r false (f.value a) (f.value b)

def execFmul (c : Ctl) (o : FloatBin) (s : State) : Host.Outcome State Fault Refusal :=
  floatBin 0x20 c o s false fun f r a b _ => f.mul r false (f.value a) (f.value b)

def execFdiv (c : Ctl) (o : FloatBin) (s : State) : Host.Outcome State Fault Refusal :=
  floatBin 0x20 c o s false fun f r a b _ => f.div r false (f.value a) (f.value b)

def execFsqrt (c : Ctl) (o : FloatUn) (s : State) : Host.Outcome State Fault Refusal :=
  floatUn 0x20 c o.ty o.d o.a o.ty.width s fun h a => o.ty.fmt.sqrt (h.round o.rm) false (o.ty.fmt.value a)

def execFmin (c : Ctl) (o : FloatBin) (s : State) : Host.Outcome State Fault Refusal :=
  floatBin 0x20 c o s false fun f _ a b _ => f.minMax false a b

def execFmax (c : Ctl) (o : FloatBin) (s : State) : Host.Outcome State Fault Refusal :=
  floatBin 0x20 c o s false fun f _ a b _ => f.minMax true a b

def execFcopys (c : Ctl) (o : FloatBin) (s : State) : Host.Outcome State Fault Refusal :=
  floatBin 0x20 c o s false fun f _ a b _ => (f.signCopy (f.sign b) a, 0)

def execFcopyn (c : Ctl) (o : FloatBin) (s : State) : Host.Outcome State Fault Refusal :=
  floatBin 0x20 c o s false fun f _ a b _ => (f.signCopy (!f.sign b) a, 0)

def execFxsign (c : Ctl) (o : FloatBin) (s : State) : Host.Outcome State Fault Refusal :=
  floatBin 0x20 c o s false fun f _ a b _ => (f.signCopy (f.sign a != f.sign b) a, 0)

def execFma (c : Ctl) (o : FloatBin) (s : State) : Host.Outcome State Fault Refusal :=
  floatBin 0x21 c o s true fun f r a b d => f.fma r false false false (f.value a) (f.value b) (f.value d)

def execFms (c : Ctl) (o : FloatBin) (s : State) : Host.Outcome State Fault Refusal :=
  floatBin 0x21 c o s true fun f r a b d => f.fma r false false true (f.value a) (f.value b) (f.value d)

def execFnma (c : Ctl) (o : FloatBin) (s : State) : Host.Outcome State Fault Refusal :=
  floatBin 0x21 c o s true fun f r a b d => f.fma r false true false (f.value a) (f.value b) (f.value d)

def execFnms (c : Ctl) (o : FloatBin) (s : State) : Host.Outcome State Fault Refusal :=
  floatBin 0x21 c o s true fun f r a b d => f.fma r false true true (f.value a) (f.value b) (f.value d)

/-- FCVT (R200). -/
def execFcvt (c : Ctl) (o : ConvertForm) (s : State) : Host.Outcome State Fault Refusal :=
  floatUn 0x22 c o.ty o.d o.a o.src.width s fun h a => o.ty.fmt.convert (h.round o.rm) false (o.src.fmt.value a)

/-- FCVTI (R200, R165). -/
def execFcvti (c : Ctl) (o : ConvertForm) (s : State) : Host.Outcome State Fault Refusal :=
  floatUn 0x22 c o.ty o.d o.a o.src.width s fun h a => FVal.toInt o.ty (h.round o.rm) (o.src.fmt.value a)

/-- ICVTF (R200, R165). -/
def execIcvtf (c : Ctl) (o : ConvertForm) (s : State) : Host.Outcome State Fault Refusal :=
  floatUn 0x22 c o.ty o.d o.a o.src.width s fun h a => o.ty.fmt.ofInt (h.round o.rm) false (o.src.int a)

/-- FCLASS (R201). -/
def execFclass (c : Ctl) (o : ScalarUn) (s : State) : Host.Outcome State Fault Refusal :=
  issue 0x23 c s fun s slot h =>
    unpoisoned s h [.s o.a] (doneWith s slot (h.setS o.d (o.ty.fmt.classBits {} (low o.ty.width (h.getS o.a)))))

end Sys2Proof.Machine
end

