-- ==== Sys2Proof/Machine/VecReduce.lean ====
section
/-! DEFINITION. Reductions and the deferral queue, OP 0x92 to 0x94 (R260 to R264, R186 to R188). -/

namespace Sys2Proof.Machine

/-- The mould of both groups of reductions: whole, with the poisoned operands checked. The operation
takes INIT and the active elements. -/
def reduction (op : Nat) (c : Ctl) (t : Ty) (d : SIdx) (a : VIdx) (b : SSrc) (m : Mask) (s : State)
    (f : Hart → Word → List Word → Word × FFlags) : Host.Outcome State Fault Refusal :=
  issue op c s fun s slot h =>
    let w := t.width
    if !h.widthOk w then trapRes s .vwidth 0
    else unpoisoned s h (ssrcReads b ++ maskWhole h m)
      (if (h.activeBelow m).any fun i => h.elemPoisoned a w i then .deny s poisonTrap
       else
        let r := f h (low w (h.ssrc t b)) ((h.activeBelow m).map fun i => elemGet (h.getV a) w i)
        doneWith s slot (((h.setS d (t.place r.1)).raise r.2).setVstart 0))

/-- An integer reduction (R260). -/
def intReduce (c : Ctl) (o : VecReduce) (s : State) (f : Ty → Word → Word → Word) : Host.Outcome State Fault Refusal :=
  reduction 0x92 c o.ty o.d o.a o.b o.mask s fun _ i l => (l.foldl (f o.ty) i, 0)

def execVredsum (c : Ctl) (o : VecReduce) (s : State) : Host.Outcome State Fault Refusal :=
  intReduce c o s fun t x y => low t.width (x + y)

def execVredmin (c : Ctl) (o : VecReduce) (s : State) : Host.Outcome State Fault Refusal :=
  intReduce c o s Ty.lesser

def execVredmax (c : Ctl) (o : VecReduce) (s : State) : Host.Outcome State Fault Refusal :=
  intReduce c o s Ty.greater

def execVredand (c : Ctl) (o : VecReduce) (s : State) : Host.Outcome State Fault Refusal :=
  intReduce c o s fun _ x y => x &&& y

def execVredor (c : Ctl) (o : VecReduce) (s : State) : Host.Outcome State Fault Refusal :=
  intReduce c o s fun _ x y => x ||| y

def execVredxor (c : Ctl) (o : VecReduce) (s : State) : Host.Outcome State Fault Refusal :=
  intReduce c o s fun _ x y => x ^^^ y

/-- One rounded addition of a floating reduction. -/
def reduceAdd (f : Fmt) (r : Round) (fl : Flush) (x y : Word × FFlags) : Word × FFlags :=
  let z := f.add r fl.output (f.read fl x.1) (f.read fl y.1)
  (z.1, x.2 ||| y.2 ||| z.2)

/-- VFREDO (R186, R261). -/
def execVfredo (c : Ctl) (o : VecFloatReduce) (s : State) : Host.Outcome State Fault Refusal :=
  reduction 0x93 c o.ty o.d o.a o.b o.mask s fun h i l =>
    let f := o.ty.fmt
    match l with
    | [] => (f.flushBits h.flush i, 0)
    | l => l.foldl (fun x e => reduceAdd f (h.round o.rm) h.flush x (e, 0)) (i, 0)

/-- One level of the tree of R187: neighbours joined, an absent one passed by. -/
def treeLevel {α : Type} (f : α → α → α) : List (Option α) → List (Option α)
  | a :: b :: r => (match a, b with
      | none, b => b
      | a, none => a
      | some x, some y => some (f x y)) :: treeLevel f r
  | l => l

/-- `n` levels of the tree. -/
def treeSum {α : Type} (f : α → α → α) : Nat → List (Option α) → List (Option α)
  | 0, l => l
  | n + 1, l => treeSum f n (treeLevel f l)

/-- VFREDT (R187, R261): the tree over VLMAX positions. -/
def execVfredt (c : Ctl) (o : VecFloatReduce) (s : State) : Host.Outcome State Fault Refusal :=
  issue 0x93 c s fun s slot h =>
    let w := o.ty.width
    let f := o.ty.fmt
    let add := reduceAdd f (h.round o.rm) h.flush
    let act := h.active o.mask
    if !h.widthOk w then trapRes s .vwidth 0
    else unpoisoned s h (ssrcReads o.b ++ maskWhole h o.mask)
      (if (h.activeBelow o.mask).any fun i => h.elemPoisoned o.a w i then .deny s poisonTrap
       else
        let leaves : List (Option (Word × FFlags)) :=
          (List.range o.ty.vlmax).map fun i => (if decide (i < h.vl) && act i then some (elemGet (h.getV o.a) w i, (0 : FFlags)) else none)
        let init := low w (h.ssrc o.ty o.b)
        let r : Word × FFlags := match treeSum add (Nat.log2 o.ty.vlmax) leaves with
          | some x :: _ => add (init, 0) x
          | _ => (f.flushBits h.flush init, 0)
        doneWith s slot (((h.setS o.d r.1).raise r.2).setVstart 0))

/-- VFREDMIN and VFREDMAX (R162, R261). -/
def reduceMinMax (isMax : Bool) (f : Fmt) (fl : Flush) (i : Word) (l : List Word) : Word × FFlags :=
  match l with
  | [] => (f.flushBits fl i, nvOf (f.value i).isSignalling)
  | l => l.foldl (fun (x : Word × FFlags) e =>
      let z := f.minMax isMax (f.flushBits fl x.1) (f.flushBits fl e)
      (z.1, x.2 ||| z.2)) (i, 0)

def execVfredmin (c : Ctl) (o : VecFloatReduce) (s : State) : Host.Outcome State Fault Refusal :=
  reduction 0x93 c o.ty o.d o.a o.b o.mask s fun h i l => reduceMinMax false o.ty.fmt h.flush i l

def execVfredmax (c : Ctl) (o : VecFloatReduce) (s : State) : Host.Outcome State Fault Refusal :=
  reduction 0x93 c o.ty o.d o.a o.b o.mask s fun h i l => reduceMinMax true o.ty.fmt h.flush i l

/-! ## The deferral queue (R155, R262 to R264) -/

/-- Value `k` of an appended slot: zero from the number of registers up (R262). -/
def deferValue (h : Hart) (o : VdeferForm) (i k : Nat) : Word :=
  if k ≤ o.n1.toNat then elemGet (h.getV (o.a + BitVec.ofNat 6 k)) o.ty.width i else 0

/-- Poisoned words of a slot that was filled from poisoned elements never arise: the read traps. -/
def deferPoisoned (h : Hart) (o : VdeferForm) (i : Nat) : Bool :=
  (List.range (o.n1.toNat + 1)).any fun k => h.elemPoisoned (o.a + BitVec.ofNat 6 k) o.ty.width i

/-- VDEFER (R262): a full queue is no trap. -/
def execVdefer (c : Ctl) (o : VdeferForm) (s : State) : Host.Outcome State Fault Refusal :=
  issue 0x94 c s fun s slot h =>
    let l := h.activeBelow o.mask
    if !h.widthOk o.ty.width then trapRes s .vwidth 0
    else unpoisoned s h (.s o.b :: maskWhole h o.mask)
      (if 4096 < l.length + h.defer.length then doneWith s slot ((h.setS o.d (BitVec.allOnes 64)).setVstart 0)
       else if l.any (deferPoisoned h o) then .deny s poisonTrap
       else
        let new := l.map fun i =>
          { index := h.getS o.b + BitVec.ofNat 64 i, path := o.path
            v0 := deferValue h o i 0, v1 := deferValue h o i 1, v2 := deferValue h o i 2, v3 := deferValue h o i 3 : DeferSlot }
        doneWith s slot (({ h with defer := h.defer ++ new }.setS o.d (BitVec.ofNat 64 l.length)).setVstart 0))

/-- Splits off the first `k` slots of a path, with their positions in the queue. -/
def takePath (path : BitVec 4) : Nat → Nat → List DeferSlot → List (Nat × DeferSlot) × List DeferSlot
  | _, _, [] => ([], [])
  | k, i, x :: r =>
    if k ≠ 0 ∧ x.path = path then
      let (t, l) := takePath path (k - 1) (i + 1) r
      ((i, x) :: t, l)
    else
      let (t, l) := takePath path k (i + 1) r
      (t, x :: l)

def DeferSlot.value (x : DeferSlot) (k : Nat) : Word :=
  match k with
  | 0 => x.v0
  | 1 => x.v1
  | 2 => x.v2
  | _ => x.v3

/-- Poisoned words of the deferral slots after some slots are popped: they move down with their
slots. -/
def shiftDeferPoison (gone : List Nat) (l : List RegLoc) : List RegLoc :=
  l.filterMap fun x => match x with
    | .defer i w => if gone.contains i then none else some (.defer (i - (gone.filter fun g => decide (g < i)).length) w)
    | x => some x

/-- Elements written from popped slots. -/
def drainInto (w : Nat) (f : DeferSlot → Word) (r : VReg) (l : List (Nat × DeferSlot)) : VReg :=
  (l.foldl (fun (p : VReg × Nat) x => (elemSet p.1 w p.2 (f x.2), p.2 + 1)) (r, 0)).1

/-- A popped slot has a poisoned word that the instruction reads: the index (word 0), the path (word 1) or a value
(word 2 + k). -/
def drainPoisoned (h : Hart) (n : Nat) (l : List (Nat × DeferSlot)) : Bool :=
  match h.poison with
  | [] => false
  | p => p.any fun x => match x with
    | .defer i w => (l.any fun e => e.1 == i) && decide (w < 2 + n)
    | _ => false

/-- VDRAIN (R263). -/
def execVdrain (c : Ctl) (o : VdrainForm) (s : State) : Host.Outcome State Fault Refusal :=
  issue 0x94 c s fun s slot h =>
    let w := o.ty.width
    let n := o.n1.toNat + 1
    if !h.widthOk w then trapRes s .vwidth 0
    else
      let (l, rest) := takePath o.path h.vl 0 h.defer
      if drainPoisoned h n l then .deny s poisonTrap
      else
        let h' := { h with defer := rest, poison := shiftDeferPoison (l.map Prod.fst) h.poison }
        let all := fun (_ : Nat) => true
        let h' := (h'.setV o.d (drainInto w (fun x => x.index) (h'.getV o.d) l)).cleanV o.d w 0 l.length all
        let h' := (List.range n).foldl (fun x k =>
          let v := o.a + BitVec.ofNat 6 k
          (x.setV v (drainInto w (fun e => e.value k) (x.getV v) l)).cleanV v w 0 l.length all) h'
        doneWith s slot ((h'.setVl l.length).setVstart 0)

/-- VDCOUNT (R264). -/
def execVdcount (c : Ctl) (o : VdcountForm) (s : State) : Host.Outcome State Fault Refusal :=
  issue 0x94 c s fun s slot h =>
    let n := if o.path.toNat = 16 then h.defer.length
      else (h.defer.filter fun x => x.path.toNat == o.path.toNat).length
    doneWith s slot ((h.setS o.d (BitVec.ofNat 64 n)).setVstart 0)

end Sys2Proof.Machine
end

