-- ==== Sys2Proof/Machine/Dispatch.lean ====
section
/-! DEFINITION. One arm for each instruction and event: a direct call of its meaning. -/

namespace Sys2Proof.Machine

/-- The meaning of an instruction or event. -/
def exec (i : Instr) (s : State) : Host.Outcome State Fault Refusal :=
  match i with
  | .add c o => Sys2Proof.Machine.execAdd c o s
  | .sub c o => Sys2Proof.Machine.execSub c o s
  | .and_ c o => Sys2Proof.Machine.execAnd c o s
  | .or_ c o => Sys2Proof.Machine.execOr c o s
  | .xor_ c o => Sys2Proof.Machine.execXor c o s
  | .andn c o => Sys2Proof.Machine.execAndn c o s
  | .sll c o => Sys2Proof.Machine.execSll c o s
  | .srl c o => Sys2Proof.Machine.execSrl c o s
  | .sra c o => Sys2Proof.Machine.execSra c o s
  | .min_ c o => Sys2Proof.Machine.execMin c o s
  | .max_ c o => Sys2Proof.Machine.execMax c o s
  | .slt c o => Sys2Proof.Machine.execSlt c o s
  | .mov c o => Sys2Proof.Machine.execMov c o s
  | .mul c o => Sys2Proof.Machine.execMul c o s
  | .mulh c o => Sys2Proof.Machine.execMulh c o s
  | .div c o => Sys2Proof.Machine.execDiv c o s
  | .rem c o => Sys2Proof.Machine.execRem c o s
  | .clz c o => Sys2Proof.Machine.execClz c o s
  | .ctz c o => Sys2Proof.Machine.execCtz c o s
  | .popc c o => Sys2Proof.Machine.execPopc c o s
  | .brev c o => Sys2Proof.Machine.execBrev c o s
  | .bswap c o => Sys2Proof.Machine.execBswap c o s
  | .ext_ c o => Sys2Proof.Machine.execExt c o s
  | .movi c o => Sys2Proof.Machine.execMovi c o s
  | .movhi c o => Sys2Proof.Machine.execMovhi c o s
  | .addpc c o => Sys2Proof.Machine.execAddpc c o s
  | .ld c o => Sys2Proof.Machine.execLd c o s
  | .lda c o => Sys2Proof.Machine.execLda c o s
  | .st c o => Sys2Proof.Machine.execSt c o s
  | .stl c o => Sys2Proof.Machine.execStl c o s
  | .fadd c o => Sys2Proof.Machine.execFadd c o s
  | .fsub c o => Sys2Proof.Machine.execFsub c o s
  | .fmul c o => Sys2Proof.Machine.execFmul c o s
  | .fdiv c o => Sys2Proof.Machine.execFdiv c o s
  | .fsqrt c o => Sys2Proof.Machine.execFsqrt c o s
  | .fmin c o => Sys2Proof.Machine.execFmin c o s
  | .fmax c o => Sys2Proof.Machine.execFmax c o s
  | .fcopys c o => Sys2Proof.Machine.execFcopys c o s
  | .fcopyn c o => Sys2Proof.Machine.execFcopyn c o s
  | .fxsign c o => Sys2Proof.Machine.execFxsign c o s
  | .fma c o => Sys2Proof.Machine.execFma c o s
  | .fms c o => Sys2Proof.Machine.execFms c o s
  | .fnma c o => Sys2Proof.Machine.execFnma c o s
  | .fnms c o => Sys2Proof.Machine.execFnms c o s
  | .fcvt c o => Sys2Proof.Machine.execFcvt c o s
  | .fcvti c o => Sys2Proof.Machine.execFcvti c o s
  | .icvtf c o => Sys2Proof.Machine.execIcvtf c o s
  | .fclass c o => Sys2Proof.Machine.execFclass c o s
  | .br c o => Sys2Proof.Machine.execBr c o s
  | .bri c o => Sys2Proof.Machine.execBri c o s
  | .call c o => Sys2Proof.Machine.execCall c o s
  | .calli c o => Sys2Proof.Machine.execCalli c o s
  | .lsetup c o => Sys2Proof.Machine.execLsetup c o s
  | .sysrd c o => Sys2Proof.Machine.execSysrd c o s
  | .syswr c o => Sys2Proof.Machine.execSyswr c o s
  | .eret c => Sys2Proof.Machine.execEret c s
  | .nop c => Sys2Proof.Machine.execNop c s
  | .yield c o => Sys2Proof.Machine.execYield c o s
  | .yieldExpiry slot => Sys2Proof.Machine.execYieldExpiry slot s
  | .halt c => Sys2Proof.Machine.execHalt c s
  | .haltSlotRelease slot => Sys2Proof.Machine.execHaltSlotRelease slot s
  | .trap c o => Sys2Proof.Machine.execTrap c o s
  | .pcmp c o => Sys2Proof.Machine.execPcmp c o s
  | .pand c o => Sys2Proof.Machine.execPand c o s
  | .por c o => Sys2Proof.Machine.execPor c o s
  | .pxor c o => Sys2Proof.Machine.execPxor c o s
  | .pandn c o => Sys2Proof.Machine.execPandn c o s
  | .pnot c o => Sys2Proof.Machine.execPnot c o s
  | .pmov c o => Sys2Proof.Machine.execPmov c o s
  | .mand c o => Sys2Proof.Machine.execMand c o s
  | .mor c o => Sys2Proof.Machine.execMor c o s
  | .mxor c o => Sys2Proof.Machine.execMxor c o s
  | .mandn c o => Sys2Proof.Machine.execMandn c o s
  | .mnot c o => Sys2Proof.Machine.execMnot c o s
  | .mmov c o => Sys2Proof.Machine.execMmov c o s
  | .mpopc c o => Sys2Proof.Machine.execMpopc c o s
  | .mfirst c o => Sys2Proof.Machine.execMfirst c o s
  | .vsetl c o => Sys2Proof.Machine.execVsetl c o s
  | .vsett c o => Sys2Proof.Machine.execVsett c o s
  | .vadd c o => Sys2Proof.Machine.execVadd c o s
  | .vsub c o => Sys2Proof.Machine.execVsub c o s
  | .vrsub c o => Sys2Proof.Machine.execVrsub c o s
  | .vmin c o => Sys2Proof.Machine.execVmin c o s
  | .vmax c o => Sys2Proof.Machine.execVmax c o s
  | .vabsd c o => Sys2Proof.Machine.execVabsd c o s
  | .vavg c o => Sys2Proof.Machine.execVavg c o s
  | .vmul c o => Sys2Proof.Machine.execVmul c o s
  | .vmulh c o => Sys2Proof.Machine.execVmulh c o s
  | .vmacc c o => Sys2Proof.Machine.execVmacc c o s
  | .vdiv c o => Sys2Proof.Machine.execVdiv c o s
  | .vrem c o => Sys2Proof.Machine.execVrem c o s
  | .vand c o => Sys2Proof.Machine.execVand c o s
  | .vor c o => Sys2Proof.Machine.execVor c o s
  | .vxor c o => Sys2Proof.Machine.execVxor c o s
  | .vsll c o => Sys2Proof.Machine.execVsll c o s
  | .vsrl c o => Sys2Proof.Machine.execVsrl c o s
  | .vsra c o => Sys2Proof.Machine.execVsra c o s
  | .vwadd c o => Sys2Proof.Machine.execVwadd c o s
  | .vwmul c o => Sys2Proof.Machine.execVwmul c o s
  | .vwmacc c o => Sys2Proof.Machine.execVwmacc c o s
  | .vnshr c o => Sys2Proof.Machine.execVnshr c o s
  | .vfadd c o => Sys2Proof.Machine.execVfadd c o s
  | .vfsub c o => Sys2Proof.Machine.execVfsub c o s
  | .vfmul c o => Sys2Proof.Machine.execVfmul c o s
  | .vfdiv c o => Sys2Proof.Machine.execVfdiv c o s
  | .vfsqrt c o => Sys2Proof.Machine.execVfsqrt c o s
  | .vfmin c o => Sys2Proof.Machine.execVfmin c o s
  | .vfmax c o => Sys2Proof.Machine.execVfmax c o s
  | .vfcopys c o => Sys2Proof.Machine.execVfcopys c o s
  | .vfcopyn c o => Sys2Proof.Machine.execVfcopyn c o s
  | .vfxsign c o => Sys2Proof.Machine.execVfxsign c o s
  | .vfma c o => Sys2Proof.Machine.execVfma c o s
  | .vfms c o => Sys2Proof.Machine.execVfms c o s
  | .vfnma c o => Sys2Proof.Machine.execVfnma c o s
  | .vfnms c o => Sys2Proof.Machine.execVfnms c o s
  | .vfwadd c o => Sys2Proof.Machine.execVfwadd c o s
  | .vfwmul c o => Sys2Proof.Machine.execVfwmul c o s
  | .vfwma c o => Sys2Proof.Machine.execVfwma c o s
  | .vfcvt c o => Sys2Proof.Machine.execVfcvt c o s
  | .vfcvti c o => Sys2Proof.Machine.execVfcvti c o s
  | .vicvtf c o => Sys2Proof.Machine.execVicvtf c o s
  | .vfclass c o => Sys2Proof.Machine.execVfclass c o s
  | .vcmp c o => Sys2Proof.Machine.execVcmp c o s
  | .vmerge c o => Sys2Proof.Machine.execVmerge c o s
  | .vmov c o => Sys2Proof.Machine.execVmov c o s
  | .vsplat c o => Sys2Proof.Machine.execVsplat c o s
  | .vext c o => Sys2Proof.Machine.execVext c o s
  | .vins c o => Sys2Proof.Machine.execVins c o s
  | .vmrank c o => Sys2Proof.Machine.execVmrank c o s
  | .vid c o => Sys2Proof.Machine.execVid c o s
  | .vshuf c o => Sys2Proof.Machine.execVshuf c o s
  | .vslideup c o => Sys2Proof.Machine.execVslideup c o s
  | .vslidedn c o => Sys2Proof.Machine.execVslidedn c o s
  | .vcompress c o => Sys2Proof.Machine.execVcompress c o s
  | .vexpand c o => Sys2Proof.Machine.execVexpand c o s
  | .vredsum c o => Sys2Proof.Machine.execVredsum c o s
  | .vredmin c o => Sys2Proof.Machine.execVredmin c o s
  | .vredmax c o => Sys2Proof.Machine.execVredmax c o s
  | .vredand c o => Sys2Proof.Machine.execVredand c o s
  | .vredor c o => Sys2Proof.Machine.execVredor c o s
  | .vredxor c o => Sys2Proof.Machine.execVredxor c o s
  | .vfredo c o => Sys2Proof.Machine.execVfredo c o s
  | .vfredt c o => Sys2Proof.Machine.execVfredt c o s
  | .vfredmin c o => Sys2Proof.Machine.execVfredmin c o s
  | .vfredmax c o => Sys2Proof.Machine.execVfredmax c o s
  | .vdefer c o => Sys2Proof.Machine.execVdefer c o s
  | .vdrain c o => Sys2Proof.Machine.execVdrain c o s
  | .vdcount c o => Sys2Proof.Machine.execVdcount c o s
  | .qsetUnit c o => Sys2Proof.Machine.execQsetUnit c o s
  | .qsetStride c o => Sys2Proof.Machine.execQsetStride c o s
  | .qsetSeg c o => Sys2Proof.Machine.execQsetSeg c o s
  | .qsetInd c o => Sys2Proof.Machine.execQsetInd c o s
  | .vld c o => Sys2Proof.Machine.execVld c o s
  | .vldseg c o => Sys2Proof.Machine.execVldseg c o s
  | .vst c o => Sys2Proof.Machine.execVst c o s
  | .vstseg c o => Sys2Proof.Machine.execVstseg c o s
  | .vstc c o => Sys2Proof.Machine.execVstc c o s
  | .loadDataArrival slot group => Sys2Proof.Machine.execLoadDataArrival slot group s
  | .mopa c o => Sys2Proof.Machine.execMopa c o s
  | .mops c o => Sys2Proof.Machine.execMops c o s
  | .mstage c o => Sys2Proof.Machine.execMstage c o s
  | .mswap c => Sys2Proof.Machine.execMswap c s
  | .mstream c o => Sys2Proof.Machine.execMstream c o s
  | .zread c o => Sys2Proof.Machine.execZread c o s
  | .zwrite c o => Sys2Proof.Machine.execZwrite c o s
  | .zzero c o => Sys2Proof.Machine.execZzero c o s
  | .zsave c o => Sys2Proof.Machine.execZsave c o s
  | .zload c o => Sys2Proof.Machine.execZload c o s
  | .eqint c o => Sys2Proof.Machine.execEqint c o s
  | .eqmrg c o => Sys2Proof.Machine.execEqmrg c o s
  | .eqnz c o => Sys2Proof.Machine.execEqnz c o s
  | .eqnzCursorForm c o => Sys2Proof.Machine.execEqnzCursorForm c o s
  | .eqsplt c o => Sys2Proof.Machine.execEqsplt c o s
  | .eqsave c o => Sys2Proof.Machine.execEqsave c o s
  | .eqload c o => Sys2Proof.Machine.execEqload c o s
  | .tresize c o => Sys2Proof.Machine.execTresize c o s
  | .tgive c o => Sys2Proof.Machine.execTgive c o s
  | .tcopy c o => Sys2Proof.Machine.execTcopy c o s
  | .tcast c o => Sys2Proof.Machine.execTcast c o s
  | .transferComplete id => Sys2Proof.Machine.execTransferComplete id s
  | .mergeWindowClose line => Sys2Proof.Machine.execMergeWindowClose line s
  | .tcastLineDelivery id => Sys2Proof.Machine.execTcastLineDelivery id s
  | .amo c o => Sys2Proof.Machine.execAmo c o s
  | .vamo c o => Sys2Proof.Machine.execVamo c o s
  | .vlock c o => Sys2Proof.Machine.execVlock c o s
  | .vunlock c o => Sys2Proof.Machine.execVunlock c o s
  | .fence c o => Sys2Proof.Machine.execFence c o s
  | .barinit c o => Sys2Proof.Machine.execBarinit c o s
  | .bararv c o => Sys2Proof.Machine.execBararv c o s
  | .barexp c o => Sys2Proof.Machine.execBarexp c o s
  | .barwait c o => Sys2Proof.Machine.execBarwait c o s
  | .barwaitReturn slot => Sys2Proof.Machine.execBarwaitReturn slot s
  | .lsync c o => Sys2Proof.Machine.execLsync c o s
  | .tlaunch c o => Sys2Proof.Machine.execTlaunch c o s
  | .tlaunchCopy slot => Sys2Proof.Machine.execTlaunchCopy slot s
  | .twait c o => Sys2Proof.Machine.execTwait c o s
  | .evpop c o => Sys2Proof.Machine.execEvpop c o s
  | .rfence c o => Sys2Proof.Machine.execRfence c o s
  | .wmap c o => Sys2Proof.Machine.execWmap c o s
  | .wunmap c o => Sys2Proof.Machine.execWunmap c o s
  | .fetchPacket slot => Sys2Proof.Machine.execFetchPacket slot s
  | .lanternIssue slot => Sys2Proof.Machine.execLanternIssue slot s
  | .lanternForkCopyDone slot => Sys2Proof.Machine.execLanternForkCopyDone slot s
  | .lanternPublish slot => Sys2Proof.Machine.execLanternPublish slot s
  | .prefetchFill slot line wasted => Sys2Proof.Machine.execPrefetchFill slot line wasted s
  | .pinTimeout pair line => Sys2Proof.Machine.execPinTimeout pair line s
  | .replWindowEnd gone keptRd keptWr => Sys2Proof.Machine.execReplWindowEnd gone keptRd keptWr s
  | .combiningWriteback word => Sys2Proof.Machine.execCombiningWriteback word s
  | .beaconPacketApply pkt => Sys2Proof.Machine.execBeaconPacketApply pkt s
  | .reflectTimeout id => Sys2Proof.Machine.execReflectTimeout id s
  | .linkFailureReport w part failed => Sys2Proof.Machine.execLinkFailureReport w part failed s
  | .doorbell w p n tail => Sys2Proof.Machine.execDoorbell w p n tail s
  | .queueEnable w p n => Sys2Proof.Machine.execQueueEnable w p n s
  | .queueDisable w p n => Sys2Proof.Machine.execQueueDisable w p n s
  | .takeRecord p n => Sys2Proof.Machine.execTakeRecord p n s
  | .residencyWalk p n => Sys2Proof.Machine.execResidencyWalk p n s
  | .lfstat w p value => Sys2Proof.Machine.execLfstat w p value s
  | .dispatchRound p rank pick => Sys2Proof.Machine.execDispatchRound p rank pick s
  | .gangResume p => Sys2Proof.Machine.execGangResume p s
  | .gangSave gang => Sys2Proof.Machine.execGangSave gang s
  | .taskRetire p queue seq => Sys2Proof.Machine.execTaskRetire p queue seq s
  | .taskEnd p queue seq => Sys2Proof.Machine.execTaskEnd p queue seq s
  | .preempt w p queue seq => Sys2Proof.Machine.execPreempt w p queue seq s
  | .resume w p queue seq => Sys2Proof.Machine.execResume w p queue seq s
  | .revoke w p queue seq => Sys2Proof.Machine.execRevoke w p queue seq s
  | .claim m => Sys2Proof.Machine.execClaim m s
  | .respond m => Sys2Proof.Machine.execRespond m s
  | .handover m target => Sys2Proof.Machine.execHandover m target s
  | .release m => Sys2Proof.Machine.execRelease m s
  | .respondTimeout => Sys2Proof.Machine.execRespondTimeout s
  | .ownerLinkDown => Sys2Proof.Machine.execOwnerLinkDown s
  | .partitionEnable m p => Sys2Proof.Machine.execPartitionEnable m p s
  | .partitionDisable m p => Sys2Proof.Machine.execPartitionDisable m p s
  | .partitionDisableComplete p => Sys2Proof.Machine.execPartitionDisableComplete p s
  | .runtimeStart w p value => Sys2Proof.Machine.execRuntimeStart w p value s
  | .runtimeStop w p => Sys2Proof.Machine.execRuntimeStop w p s
  | .shoot w p => Sys2Proof.Machine.execShoot w p s
  | .shootComplete p => Sys2Proof.Machine.execShootComplete p s
  | .drain w p => Sys2Proof.Machine.execDrain w p s
  | .drainBegin p => Sys2Proof.Machine.execDrainBegin p s
  | .drainComplete p => Sys2Proof.Machine.execDrainComplete p s
  | .confirm w p => Sys2Proof.Machine.execConfirm w p s
  | .confirmComplete p => Sys2Proof.Machine.execConfirmComplete p s
  | .ssettle w p value => Sys2Proof.Machine.execSsettle w p value s
  | .settleComplete p => Sys2Proof.Machine.execSettleComplete p s
  | .formatRegionEnable w p n => Sys2Proof.Machine.execFormatRegionEnable w p n s
  | .formatRegionDisable w p n => Sys2Proof.Machine.execFormatRegionDisable w p n s
  | .replctl w p value => Sys2Proof.Machine.execReplctl w p value s
  | .rflstat w p value => Sys2Proof.Machine.execRflstat w p value s
  | .errstat w p value => Sys2Proof.Machine.execErrstat w p value s
  | .evqstat w p n value => Sys2Proof.Machine.execEvqstat w p n value s
  | .bcncfg m value => Sys2Proof.Machine.execBcncfg m value s
  | .summer m => Sys2Proof.Machine.execSummer m s
  | .spring m => Sys2Proof.Machine.execSpring m s
  | .autumn m => Sys2Proof.Machine.execAutumn m s
  | .autumnEntry => Sys2Proof.Machine.execAutumnEntry s
  | .winter m => Sys2Proof.Machine.execWinter m s
  | .dbgreq m level => Sys2Proof.Machine.execDbgreq m level s
  | .debugGangHalt m gang => Sys2Proof.Machine.execDebugGangHalt m gang s
  | .attreq m => Sys2Proof.Machine.execAttreq m s
  | .deviceReset => Sys2Proof.Machine.execDeviceReset s
  | .linkTraining link canTrain => Sys2Proof.Machine.execLinkTraining link canTrain s
  | .hostHdmWrite m addr bytes => Sys2Proof.Machine.execHostHdmWrite m addr bytes s
  | .hostHdmRead m addr len => Sys2Proof.Machine.execHostHdmRead m addr len s
  | .uncorrectableError e => Sys2Proof.Machine.execUncorrectableError e s
  | .correctedError e => Sys2Proof.Machine.execCorrectedError e s
  | .registerWrite w offset value => Sys2Proof.Machine.execRegisterWrite w offset value s
  | .linkDown link => Sys2Proof.Machine.execLinkDown link s
  | .debugGangResume m gang => Sys2Proof.Machine.execDebugGangResume m gang s
  | .debugMemoryWrite m addr bytes => Sys2Proof.Machine.execDebugMemoryWrite m addr bytes s
  | .securityStateEntry sec => Sys2Proof.Machine.execSecurityStateEntry sec s
  | .ownerKeyReplace m index key => Sys2Proof.Machine.execOwnerKeyReplace m index key s
  | .attestationReportReady m => Sys2Proof.Machine.execAttestationReportReady m s
  | .powerTransitionComplete => Sys2Proof.Machine.execPowerTransitionComplete s
  | .reflectionAcknowledgement id applied cause => Sys2Proof.Machine.execReflectionAcknowledgement id applied cause s
  | .hostCoherenceAccept => Sys2Proof.Machine.execHostCoherenceAccept s

end Sys2Proof.Machine
end

