-- ==== Sys2Proof/Machine/Step.lean ====
section
/-! DEFINITION. One step of the machine: the next turn, and the instruction or event it brings. -/

namespace Sys2Proof.Machine

/-- One step: an agent's turn runs the instruction at its PC, an event's turn runs the event, and an
idle device stays as it is. -/
def step (s : State) : Host.Outcome State Fault Refusal :=
  match nextTurn s with
  | none => .next s
  | some (.agent slot budget, s') =>
    match beginTurn s' slot budget with
    | .over s'' => .next s''
    | .instr s'' i => exec i s''
  | some (.event i, s') => exec i s'

/-- The state with an instruction of `nbits` bits `w` where the next step fetches: in the packets that
the hart in slot 0 holds at its PC, with that hart next to act (log entry 11). -/
def State.withFetchWord (s : State) (nbits w : Nat) : State := placeWord s (bytesOfWord (BitVec.ofNat 96 (w % 2 ^ nbits)))

end Sys2Proof.Machine
end

