-- ==== Sys2Proof/Safety.lean ====
section
/-! DEFINITION. What counts as a safe step, when an encoded instruction issues and completes, and what
a statement calls unchanged. -/

namespace Sys2Proof

open Machine

/-- The step answers a next state. -/
def Safe (s : State) : Prop := ∃ t, step s = .next t

/-- The step stops, with a fault or a refusal. -/
def Stops (s : State) : Prop := (∃ f, step s = .fault f) ∨ ∃ r, step s = .refused r

/-! ## An agent that issues -/

/-- The hart `h` in a slot is the agent that executes an instruction of major opcode `op`, which a
Lamplighter has too (R56), and its guard is true (R110). -/
structure Issues (op : Nat) (c : Ctl) (s : State) (slot : Nat) (h : Hart) : Prop where
  turn : s.turn = some slot
  hart : s.hart? slot = some h
  lamp : isLamp slot = true → lampRuns op = true
  guard : guardTrue h c = true

/-- A hart without what every completion moves: the PC and the loop registers, INSTRET and CYCLE, the
performance counters (R408) and the Lantern's side (R140) with the lines of the scratch that its batches were read
from (R149). -/
def Machine.Hart.core (h : Hart) : Hart :=
  { h with regs := { h.regs with pc := 0, loops := {} }, instret := 0, cycle := 0
           perf := Vector.replicate 16 0, lantern := {}, watch := [] }

/-- Loop registers and PC after a completion without a redirect (R207, R209). -/
def Machine.Hart.after (h : Hart) : LoopRegs × Word :=
  if h.trap.suspended then (h.regs.loops, h.pc + 12)
  else
    let r := loopEnd h.regs.loops h.pc (h.pc + 12)
    (r.1, r.2.1)

/-- A state without its harts and without the model's own count of free values, budget and notes of words
overwritten in part. -/
def Machine.State.outside (s : State) : State := { s with harts := [], fresh := 0, budget := none, overwritten := [] }

/-- Everything but the hart of a slot is as it was. -/
def Elsewhere (s : State) (slot : Nat) (t : State) : Prop :=
  (∀ k, k ≠ slot → t.hart? k = s.hart? k) ∧ t.outside = s.outside

/-- `t` is `s` after the hart of a slot, left as `g` by its instruction's own effect, has completed it:
the PC moves on or where a loop's end puts it, INSTRET counts it, and nothing else changes. -/
def CompletedAs (s : State) (slot : Nat) (g : Hart) (t : State) : Prop :=
  (∃ u, t.hart? slot = some u ∧ u.core = g.core ∧ (u.regs.loops, u.pc) = g.after ∧ u.instret = g.instret + 1) ∧
    Elsewhere s slot t

/-- `t` is `s` after a redirect to `target`. -/
def RedirectedAs (s : State) (slot : Nat) (g : Hart) (target : Word) (t : State) : Prop :=
  (∃ u, t.hart? slot = some u ∧ u.core = g.core ∧ u.regs.loops = g.regs.loops ∧ u.pc = target ∧ u.instret = g.instret + 1) ∧
    Elsewhere s slot t

/-- An instruction of an agent completes, with its hart left as `g` by the instruction's own effect and
every other part of the state unchanged (the first instruction of a task makes it Running, R77). -/
def Completes (i : Instr) (s : State) (slot : Nat) (h g : Hart) : Prop :=
  ∃ t, exec i s = .next t ∧ CompletedAs (noteRunning s h) slot g t

/-- An instruction of an agent completes in a state that its effect has made `s'`. -/
def CompletesIn (i : Instr) (s s' : State) (slot : Nat) (g : Hart) : Prop :=
  ∃ t, exec i s = .next t ∧ CompletedAs s' slot g t

/-- A store of the bytes `bs` completes with its hart's registers as they were, in a state `s'` that its
effect has made: in the scratch, whose bytes from the place on are `bs` and whose other bytes stand, with
every byte of memory, where the words overwritten whole are clean (R392) and batches that were read from those
lines are not as they were (R149); elsewhere without a change of the hart. -/
def StoresAs (i : Instr) (s s' : State) (slot : Nat) (h : Hart) (pl : Place) (bs : List Byte) : Prop :=
  ∃ g, s'.hart? slot = some g ∧ CompletesIn i s s' slot g ∧
    match pl with
    | .scratch o =>
      g = { h with scratch := g.scratch, scratchPoison := g.scratchPoison, watch := unwritten h.watch o bs.length } ∧
      (∀ w ∈ g.scratchPoison, w ∈ clearWords h.scratchPoison o bs.length) ∧
      ((∀ e ∈ s.overwritten, e.slot ≠ slot) → g.scratchPoison = clearWords h.scratchPoison o bs.length) ∧
      (∀ b, g.scratchByte b = if o ≤ b ∧ b < o + bs.length then listGetD bs (b - o) 0 else h.scratchByte b) ∧
      s'.mem = s.mem
    | .mem _ _ => g = h

/-- An instruction of an agent at `pc` takes a trap in a state `s'` that its effect so far has made: the next
state is the entry of R384 and nothing else. -/
def TrapsIn (i : Instr) (s s' : State) (slot : Nat) (pc : Word) (c : Trap) (eval : Word) : Prop :=
  ∃ t, exec i s = .next t ∧
    (∀ k, k ≠ slot → t.hart? k = (takeTrap s' slot c eval pc).hart? k) ∧
    (t.hart? slot).map Hart.core = ((takeTrap s' slot c eval pc).hart? slot).map Hart.core ∧
    (t.hart? slot).map Hart.pc = ((takeTrap s' slot c eval pc).hart? slot).map Hart.pc ∧
    t.outside = (takeTrap s' slot c eval pc).outside

/-- An instruction of an agent takes a trap before any effect. -/
def Traps (i : Instr) (s : State) (slot : Nat) (h : Hart) (c : Trap) (eval : Word) : Prop :=
  TrapsIn i s (noteRunning s h) slot h.pc c eval

/-- The pins of the hart of a slot end as by a GANG-scope release of kind all (R319): each that stands in
`t` is ending so, and none stands where the hart had no transfer in flight and nothing that a pin of its
sibling held back. -/
def PinsRelease (s : State) (slot : Nat) (t : State) : Prop :=
  isLamp slot = false →
    (∀ q ∈ (t.pair (pairOf slot)).pins, q.slot = slot → q.ending.any Pending.whole = true) ∧
    ((∀ f ∈ s.transfers, f.slot ≠ slot) → touchedUnderPin .both s slot = false →
      ∀ q ∈ (t.pair (pairOf slot)).pins, q.slot ≠ slot)

/-! ## Vector results -/

/-- A hart without its vector registers, VSTART and FCSR. -/
def Machine.Hart.sansVector (h : Hart) : Hart :=
  { h with regs := { h.regs with v := Vector.replicate 64 0, vstart := 0 }, arriving := [], fcsr := 0 }

/-- `g` is `h` with destination `d` holding the elements `elem` of width `w`, with some flags raised and
VSTART 0: no other vector register and nothing else of the hart has changed. -/
structure VecResult (h g : Hart) (d : VIdx) (w : Nat) (fl : FFlags) (elem : Nat → Word) : Prop where
  elems : ∀ i, i < 8192 / w → elemGet (g.getV d) w i = elem i
  others : ∀ v, v ≠ d → g.getV v = h.getV v
  vstart : g.vstart = 0
  fcsr : g.fcsr = (h.raise fl).fcsr
  rest : g.sansVector = h.sansVector

/-- The element-wise mould of R242, element `i` of the destination: from VSTART to VL, the operation where
the mask is true, 0 where it zeroes, and the old element elsewhere. -/
def Machine.Hart.moulded (h : Hart) (d : VIdx) (w : Nat) (m : Mask) (val : Nat → Word) (i : Nat) : Word :=
  if h.vstart ≤ i ∧ i < h.vl then
    (if h.active m i then low w (val i) else if maskZeroing m then 0 else elemGet (h.getV d) w i)
  else elemGet (h.getV d) w i

/-- The flags of the active elements from VSTART to VL. -/
def Machine.Hart.flagsOf (h : Hart) (m : Mask) (val : Nat → FFlags) : FFlags :=
  ((List.range' h.vstart (h.vl - h.vstart)).filter fun i => h.active m i).foldl (fun f i => f ||| val i) 0

/-- The flags of the first `k` elements from VSTART that are active. -/
def Machine.Hart.flagsUpTo (h : Hart) (m : Mask) (k : Nat) (val : Nat → FFlags) : FFlags :=
  ((List.range' h.vstart k).filter fun i => h.active m i).foldl (fun f i => f ||| val i) 0

/-- An element-wise instruction stops after `k` of its elements (R380, R381): those are written and no other,
the hart stands at its PC with VSTART at the next, and it is not counted. Executed again on the hart as it
stopped, it leaves those elements and performs the rest, so that its destination and its flags are what one
uninterrupted execution gives. -/
def StopsAndResumes (op : Nat) (c : Ctl) (i : Instr) (s : State) (slot : Nat) (h : Hart) (k : Nat) (d : VIdx) (w : Nat) (m : Mask)
    (x : Nat → Word × FFlags) : Prop :=
  let val := fun i => (x i).1
  ∃ u g, exec i s = .next u ∧ u.hart? slot = some g ∧ g.pc = h.pc ∧ g.instret = h.instret ∧ g.vstart = h.vstart + k ∧
    (∀ v, v ≠ d → g.getV v = h.getV v) ∧ g.fcsr = (h.raise (h.flagsUpTo m k fun i => (x i).2)).fcsr ∧
    (∀ i, i < 8192 / w → elemGet (g.getV d) w i =
      if i < h.vstart + k then h.moulded d w m val i else elemGet (h.getV d) w i) ∧
    g.sansVector.core = h.sansVector.core ∧ (∀ j, j ≠ slot → u.hart? j = s.hart? j) ∧ u.mem = s.mem ∧
    ∀ t, Issues op c t slot g → t.budget = none → ∃ g', Completes i t slot g g' ∧ g'.vstart = 0 ∧
      (∀ v, v ≠ d → g'.getV v = h.getV v) ∧ g'.fcsr = (h.raise (h.flagsOf m fun i => (x i).2)).fcsr ∧
      ∀ i, i < 8192 / w → elemGet (g'.getV d) w i = h.moulded d w m val i

/-- The governing width that R240 checks, of each instruction that has one. -/
def Instr.governs : Instr → Option Nat
  | .vadd _ o | .vsub _ o | .vrsub _ o | .vmin _ o | .vmax _ o | .vabsd _ o | .vavg _ o | .vmul _ o | .vmulh _ o | .vmacc _ o
  | .vdiv _ o | .vrem _ o | .vand _ o | .vor _ o | .vxor _ o | .vsll _ o | .vsrl _ o | .vsra _ o => some o.ty.width
  | .vwadd _ o | .vwmul _ o | .vwmacc _ o => some o.ty.wide.width
  | .vnshr _ o => some o.ty.wide.width
  | .vfadd _ o | .vfsub _ o | .vfmul _ o | .vfdiv _ o | .vfmin _ o | .vfmax _ o | .vfcopys _ o | .vfcopyn _ o | .vfxsign _ o
  | .vfma _ o | .vfms _ o | .vfnma _ o | .vfnms _ o => some o.ty.width
  | .vfsqrt _ o => some o.ty.width
  | .vfwadd _ o | .vfwmul _ o | .vfwma _ o => some o.ty.wide.width
  | .vfcvt _ o | .vfcvti _ o | .vicvtf _ o => some (max o.src.width o.ty.width)
  | .vfclass _ o => some o.ty.width
  | .vcmp _ o => some o.ty.width
  | .vmov _ o => some o.ty.slotWidth
  | .vmerge _ o => some o.ty.slotWidth
  | .vsplat _ o => some o.ty.slotWidth
  | .vext _ o => some o.ty.width
  | .vins _ o => some o.ty.width
  | .vmrank _ o => some o.ty.width
  | .vid _ o => some o.ty.width
  | .vshuf _ o => some o.ty.slotWidth
  | .vslideup _ o | .vslidedn _ o => some o.ty.slotWidth
  | .vcompress _ o => some o.ty.slotWidth
  | .vexpand _ o => some o.ty.slotWidth
  | .vredsum _ o | .vredmin _ o | .vredmax _ o | .vredand _ o | .vredor _ o | .vredxor _ o => some o.ty.width
  | .vfredo _ o | .vfredt _ o | .vfredmin _ o | .vfredmax _ o => some o.ty.width
  | .vdefer _ o => some o.ty.width
  | .vdrain _ o => some o.ty.width
  | .vld _ o | .vldseg _ o => some o.ty.slotWidth
  | .vst _ o | .vstseg _ o | .vstc _ o => some o.ty.slotWidth
  | .mopa _ o | .mops _ o => some o.ty.slotWidth
  | .mstream _ _ => some 16
  | .zread _ o => some o.ty.width
  | .zwrite _ o => some o.ty.width
  | .eqint _ _ => some 32
  | .eqmrg _ _ => some 32
  | .eqnzCursorForm _ _ => some 32
  | .eqnz _ o => some o.ty.width
  | .vamo _ o => some o.aty.ty.width
  | .vlock _ _ => some 64
  | .vunlock _ _ => some 64
  | _ => none

/-- The tile operand that R280 checks before the width. -/
def Instr.tile : Instr → Option ZIdx
  | .mopa _ o | .mops _ o => some o.d
  | .mstream _ o => some o.d
  | .zread _ o => some o.z
  | .zwrite _ o => some o.z
  | .zzero _ o => some o.z
  | .zsave _ o | .zload _ o => some o.z
  | _ => none

/-- What loads leave of the state outside their hart: all but the marks of R317 on pins, the translations held
(R99), and what they touched of R222, R227 and R367. -/
def LoadsOnly (u : State) (slot : Nat) (t : State) : Prop :=
  Elsewhere u slot { t with pairs := u.pairs, tlb := u.tlb, combining := u.combining, tracked := u.tracked }

/-- The states `st` at the positions from `a` to `b` of a loop in which every active position performs `f`. -/
def RunsFrom (act : Nat → Bool) (f : Nat → State → Except Denied State) (st : Nat → State) (a b : Nat) : Prop :=
  ∀ i, a ≤ i → i < b → if act i then f i (st i) = .ok (st (i + 1)) else st (i + 1) = st i

/-- `g` is the hart `y` with its stream registers, VSTART and the Lantern's side moved on and nothing
else: what a stream access does to its hart besides its data. -/
def StreamedFrom (y g : Hart) (q : QIdx) (n : Nat) : Prop :=
  g.vstart = 0 ∧ g.regs.q = (advanceStream y q n).regs.q ∧
    { g with regs := { g.regs with q := y.regs.q, vstart := y.regs.vstart }, perf := y.perf, lantern := y.lantern } = y

/-- The stretches of a row of a TCOPY, each with the window offset of its scratch side (R303). -/
def Machine.CopyRow.pieces (r : CopyRow) : List (Nat × Segment) :=
  r.segs.map fun g => (r.scratch + (g.va - r.segs.head?.elim 0 Segment.va), g)

/-- Two stretches of bytes have none in common. -/
def Apart (a m b n : Nat) : Prop := a + m ≤ b ∨ b + n ≤ a

/-! ## Real values of the floating formats -/

/-- The value is the finite number `x` (R157). -/
def FVal.Is (v : FVal) (x : ℝ) : Prop :=
  match v with
  | .zero _ => x = 0
  | .fin n m e => 0 < m ∧ x = (if n then -1 else 1) * (m : ℝ) * (2 : ℝ) ^ e
  | _ => False

/-- The value is the finite or infinite number `x`. -/
def FVal.At (v : FVal) (x : EReal) : Prop :=
  match v with
  | .inf n => x = if n then ⊥ else ⊤
  | v => ∃ y : ℝ, v.Is y ∧ x = (y : EReal)

/-- The multiple `n` of a unit that a mode takes for a magnitude of `w` units (R163); `neg` is the sign. -/
def Round.Takes (r : Round) (neg : Bool) (w : ℝ) (n : ℕ) : Prop :=
  let down := (n : ℝ) ≤ w ∧ w < n + 1
  let up := w ≤ (n : ℝ) ∧ (n : ℝ) < w + 1
  match r with
  | .rne => |w - n| ≤ 1 / 2 ∧ (|w - n| = 1 / 2 → n % 2 = 0)
  | .rmm => (n : ℝ) - 1 / 2 ≤ w ∧ w < n + 1 / 2
  | .rtz => down
  | .rup => if neg then down else up
  | .rdn => if neg then up else down

/-- A mode takes infinity for an overflow (R163). -/
def Round.toInf (r : Round) (neg : Bool) : Bool :=
  match r with
  | .rne => true
  | .rmm => true
  | .rtz => false
  | .rup => !neg
  | .rdn => neg

/-- An E4M3 result of magnitude `v` above 448 overflows (R164). -/
def Round.beyond (r : Round) (neg : Bool) (v : ℝ) : Prop :=
  match r with
  | .rne => 464 < v
  | .rmm => 464 ≤ v
  | .rtz => False
  | .rup => neg = false
  | .rdn => neg = true

/-- `x` is what the exact magnitude `v` gives in a format, rounded once, with its flags (R161, R163, R164,
R166): zero where a tiny result is flushed; for E4M3 above 448 the table of R164; else the multiple of 2^q
that the mode takes, where `q` is the place of the last bit, or the overflow of R163. -/
def Fmt.Rounds (f : Fmt) (r : Round) (flush neg : Bool) (v : ℝ) (x : Word × FFlags) : Prop :=
  let emin : ℤ := 1 - (f.bias : ℤ)
  let last : ℤ := emin - f.fbits
  let tiny := v < (2 : ℝ) ^ emin
  (tiny → flush = true → x = (f.zeroBits neg, FFlags.uf ||| FFlags.nx)) ∧
  (f.special = .e4m3 → 448 < v →
    (r.beyond neg v → x = (f.canonicalNan, FFlags.of ||| FFlags.nx)) ∧ (¬r.beyond neg v → x = (f.maxBits neg, FFlags.nx))) ∧
  (¬(tiny ∧ flush = true) → ¬(f.special = .e4m3 ∧ 448 < v) → ∃ (q : ℤ) (n : ℕ), last ≤ q ∧ v < (2 : ℝ) ^ (q + f.fbits + 1) ∧
    ((2 : ℝ) ^ (q + f.fbits) ≤ v ∨ q = last) ∧ r.Takes neg (v / (2 : ℝ) ^ q) n ∧
    let y := (n : ℝ) * (2 : ℝ) ^ q
    (f.special = .ieee → (2 : ℝ) ^ (f.bias + 1) ≤ y →
      x = (if r.toInf neg then f.make neg (2 ^ f.ebits - 1) 0 else f.maxBits neg, FFlags.of ||| FFlags.nx)) ∧
    (¬(f.special = .ieee ∧ (2 : ℝ) ^ (f.bias + 1) ≤ y) → x.1.toNat < 2 ^ f.width ∧ (n = 0 → f.value x.1 = .zero neg) ∧
      (n ≠ 0 → (f.value x.1).neg = neg ∧ (f.value x.1).Is (if neg then -y else y)) ∧
      (v = y → x.2 = 0) ∧ (v ≠ y → tiny → x.2 = FFlags.uf ||| FFlags.nx) ∧ (v ≠ y → ¬tiny → x.2 = FFlags.nx)))

/-- `x` is what the exact result `v` gives, a zero of sign `z` where it is 0. -/
def Fmt.Gives (f : Fmt) (r : Round) (flush z : Bool) (v : ℝ) (x : Word × FFlags) : Prop :=
  (0 < v → f.Rounds r flush false v x) ∧ (v < 0 → f.Rounds r flush true (-v) x) ∧ (v = 0 → x = (f.zeroBits z, 0))

/-- The sign of a sum that is zero, of terms of the signs `a` and `b`: theirs where both are zeros of one sign,
else that of the mode (R199). -/
def zeroSign (r : Round) (bothZero a b : Bool) : Bool := if bothZero && a == b then a else r == .rdn

/-- One that may write the privileged window of a partition: the owner, or software in the privileged view
of an agent of the partition (R50, R54). -/
def MayWrite (s : State) (w : Writer) (p : Nat) : Prop :=
  match w with
  | .master m => reaches s m = true ∧ isOwner s m = true
  | .runtime => hasPrivileged s p = true

/-- What a write by one that may not make it does: a master's is counted (R50), if its link is
trained (R47). -/
def refusedWrite (s : State) : Writer → State
  | .master m => if reaches s m then countDiscarded s else s
  | .runtime => s

/-- Every byte of physical memory reads as before. -/
def SameBytes (s t : State) : Prop := ∀ a, physRead t a = physRead s a

/-- Every byte outside `n` bytes from `a` reads as before in storage. -/
def SameBytesBut (s t : State) (a n : Nat) : Prop :=
  ∀ b, ¬(a ≤ b ∧ b < a + n) → Memory.read t.mem b = Memory.read s.mem b

end Sys2Proof
end

