-- ==== Sys2Proof/Certificates/Slice0/Obligations.lean ====
section
/-! DEFINITION. The statements about the model, for the provers. -/

section
open Sys2Proof Sys2Proof.Machine

/-! ## Scalar instructions -/

/-- R192: the scalar arithmetic of OP 0x01 and 0x02, both operands at the width of TYPE, the result extended
by R190; the saturating forms by R160. R192 to R195: MOV, the bit-field group and the instructions that form
constants. -/
def Obligations.ScalarIntegerResults : Prop :=
  (∀ (c : Ctl) (o : ScalarBin) (s : State) (slot : Nat) (h : Hart), h.poisoned (.s o.a :: ssrcReads o.b) = false →
    let t := o.ty
    let a := low t.width (h.getS o.a)
    let b := low t.width (h.ssrc t o.b)
    let ends := fun (i : Instr) (x : Word) => Completes i s slot h (h.setS o.d (t.place x))
    (Issues 0x01 c s slot h →
      ends (.add c o) (t.narrow o.sat (t.int a + t.int b)) ∧ ends (.sub c o) (t.narrow o.sat (t.int a - t.int b)) ∧
      ends (.and_ c o) (a &&& b) ∧ ends (.or_ c o) (a ||| b) ∧ ends (.xor_ c o) (a ^^^ b) ∧ ends (.andn c o) (a &&& ~~~b) ∧
      ends (.sll c o) (t.shiftLeft a b) ∧ ends (.srl c o) (t.shiftRight a b) ∧ ends (.sra c o) (t.shiftRightA a b) ∧
      ends (.min_ c o) (t.lesser a b) ∧ ends (.max_ c o) (t.greater a b) ∧
      ends (.slt c o) (if t.int a < t.int b then 1 else 0)) ∧
    (Issues 0x02 c s slot h →
      ends (.mul c o) (t.narrow o.sat (t.int a * t.int b)) ∧ ends (.mulh c o) (t.mulHigh a b) ∧
      ends (.div c o) (t.quot a b) ∧ ends (.rem c o) (t.rest a b))) ∧
  (∀ (c : Ctl) (s : State) (slot : Nat) (h : Hart),
    (∀ o : ScalarUn, h.poisoned [.s o.a] = false →
      let w := o.ty.width
      let a := low w (h.getS o.a)
      let ends := fun (i : Instr) (x : Word) => Completes i s slot h (h.setS o.d (o.ty.place x))
      (Issues 0x01 c s slot h → ends (.mov c o) a) ∧
      (Issues 0x03 c s slot h →
        ends (.clz c o) (BitVec.ofNat 64 (leadingZeros w a)) ∧ ends (.ctz c o) (BitVec.ofNat 64 (trailingZeros w 0 a)) ∧
        ends (.popc c o) (BitVec.ofNat 64 (popCount w a)) ∧ ends (.brev c o) (bitReverse w w a) ∧
        ends (.bswap c o) (byteSwap (w / 8) a))) ∧
    (∀ o : ExtForm, h.poisoned [.s o.a] = false → Issues 0x03 c s slot h →
      let f := (h.getS o.a).extractLsb' o.lo.toNat (o.len1.toNat + 1)
      Completes (.ext_ c o) s slot h (h.setS o.d (if o.ty.isSigned then f.signExtend 64 else f.setWidth 64))) ∧
    (∀ o : MoviForm, Issues 0x04 c s slot h →
      Completes (.movi c o) s slot h (h.setS o.d (if o.ty.isSigned then o.imm.signExtend 64 else o.imm.setWidth 64))) ∧
    (∀ o : MovhiForm, h.poisoned [.s o.a] = false → Issues 0x04 c s slot h →
      Completes (.movhi c o) s slot h (h.setS o.d (o.imm ++ (h.getS o.a).setWidth 32 : BitVec (32 + 32)))) ∧
    (∀ o : AddpcForm, Issues 0x05 c s slot h →
      Completes (.addpc c o) s slot h (h.setS o.d (h.pc + o.imm.signExtend 64))))

/-- What the integer operations of R160, R190, R192 and R193 are: a wrapped result is the exact one modulo
2^w, a saturated one the nearest value of the type, a result is extended as TYPE says, a shift amount counts
modulo w, division truncates, division by zero gives all ones and the dividend, the high half of a product is
the exact product over 2^w rounded down, and the bit counts and reversals are those of their names. R161, R163
to R166, R199: for every floating format, mode and flushing, addition, subtraction, multiplication, the four
forms of the fused multiply-add, division, square root and the conversions give the exact real result rounded
once, with NX, UF, OF and the overflow of its mode; E4M3 has its own overflow; an exact zero has the sign of
IEEE 754-2019. A conversion to an integer rounds by the mode, and answers the nearest end of the range with NV
where that lies outside it. R184, R282: the new cell of MOPA and MOPS is the old one plus or minus the exact
sum of the k products, rounded once, or for integers wrapped or saturated. R185, R286: MSTREAM adds its groups
in order, each with one rounding of the exact sum of its products. R187: VFREDT's tree joins the sums of two
halves, passing an absent one by. The sign of a sum that is exactly zero is the model's reading (log entry
10). -/
def Obligations.IntegerOperationsMean : Prop :=
  ((∀ (t : Ty), t.isFloat = false →
    (∀ x : Int, t.narrow false x = (BitVec.ofInt t.width x).setWidth 64) ∧
    (∀ x : Int, t.minInt ≤ x → x ≤ t.maxInt → t.int (t.narrow true x) = x) ∧
    (∀ x : Int, x < t.minInt → t.int (t.narrow true x) = t.minInt) ∧
    (∀ x : Int, t.maxInt < x → t.int (t.narrow true x) = t.maxInt) ∧
    (∀ x : Word, t.int (t.place x) = t.int x ∧
      (t.isSigned = true → (t.place x).toInt = t.int x) ∧ (t.isSigned = false → ((t.place x).toNat : Int) = t.int x)) ∧
    (∀ a b : Word, low t.width b ≠ 0 →
      t.quot a b = t.narrow false (Int.tdiv (t.int a) (t.int b)) ∧ t.rest a b = t.narrow false (Int.tmod (t.int a) (t.int b))) ∧
    (∀ a b : Word, low t.width b = 0 → t.quot a b = low t.width (BitVec.allOnes 64) ∧ t.rest a b = low t.width a) ∧
    (∀ a b : Word, t.int (t.lesser a b) = min (t.int a) (t.int b) ∧ t.int (t.greater a b) = max (t.int a) (t.int b)) ∧
    (∀ a b : Word, t.int (t.mulHigh a b) = t.int a * t.int b / 2 ^ t.width) ∧
    (∀ (a b : Word) (i : Nat), i < t.width →
      let n := b.toNat % t.width
      (t.shiftLeft a b).getLsbD i = (decide (n ≤ i) && a.getLsbD (i - n)) ∧
      (t.shiftRight a b).getLsbD i = (decide (i + n < t.width) && a.getLsbD (i + n)) ∧
      (t.shiftRightA a b).getLsbD i = a.getLsbD (min (i + n) (t.width - 1)))) ∧
  ∀ (w : Nat) (x : Word), w ≤ 64 →
    (leadingZeros w x ≤ w ∧ (∀ i, w ≤ i + leadingZeros w x → i < w → x.getLsbD i = false) ∧
      (leadingZeros w x < w → x.getLsbD (w - 1 - leadingZeros w x) = true)) ∧
    (trailingZeros w 0 x ≤ w ∧ (∀ i, i < trailingZeros w 0 x → x.getLsbD i = false) ∧
      (trailingZeros w 0 x < w → x.getLsbD (trailingZeros w 0 x) = true)) ∧
    popCount w x = (List.range w).countP (fun i => x.getLsbD i) ∧
    (∀ i, (bitReverse w w x).getLsbD i = (decide (i < w) && x.getLsbD (w - 1 - i))) ∧
    ∀ n j k, n ≤ 8 → k < 8 →
      (byteSwap n x).getLsbD (8 * j + k) = (decide (j < n) && x.getLsbD (8 * (n - 1 - j) + k))) ∧
  (∀ (t : Ty) (r : Round) (fo : Bool), let f := t.fmt
    (∀ (a b : FVal) (x y : ℝ), a.Is x → b.Is y →
      let prod := a.neg != b.neg
      f.Gives r fo (zeroSign r (a.isZero && b.isZero) a.neg b.neg) (x + y) (f.add r fo a b) ∧
      f.Gives r fo (zeroSign r (a.isZero && b.isZero) a.neg (!b.neg)) (x - y) (f.sub r fo a b) ∧
      f.Gives r fo prod (x * y) (f.mul r fo a b) ∧ (y ≠ 0 → f.Gives r fo prod (x / y) (f.div r fo a b)) ∧
      ∀ (c : FVal) (z : ℝ), c.Is z → ∀ np nc : Bool,
        f.Gives r fo (zeroSign r ((a.isZero || b.isZero) && c.isZero) (prod != np) (c.neg != nc))
          ((if np then -(x * y) else x * y) + if nc then -z else z) (f.fma r fo np nc a b c)) ∧
    (∀ (a : FVal) (x : ℝ), a.Is x → f.Gives r fo a.neg x (f.convert r fo a) ∧ (0 ≤ x → f.Gives r fo a.neg (Real.sqrt x) (f.sqrt r fo a)) ∧
      ∀ u : Ty, u.isFloat = false → ∃ n : ℕ, r.Takes a.neg |x| n ∧ let k : Int := if a.neg then -(n : Int) else n
        (u.minInt ≤ k → k ≤ u.maxInt → (x = k → FVal.toInt u r a = (wrap u.width k, 0)) ∧ (x ≠ k → FVal.toInt u r a = (wrap u.width k, FFlags.nx))) ∧
        (k < u.minInt → FVal.toInt u r a = (wrap u.width u.minInt, FFlags.nv)) ∧
        (u.maxInt < k → FVal.toInt u r a = (wrap u.width u.maxInt, FFlags.nv))) ∧
    ∀ k : Int, f.Gives r fo false (k : ℝ) (f.ofInt r fo k)) ∧
  ((∀ (h : Hart) (o : MopaForm) (minus : Bool) (i j : Nat) (cell : Word),
    let k := perCell o.ty
    let ct := cellTy o.ty
    let got := outerCell h o minus i j cell
    (o.ty.isFloat = true → ∀ (a b : Nat → ℝ) (c : ℝ),
      (∀ t, t < k → (o.ty.fmt.read h.flush (opElem h o.ty o.a i t)).Is (a t) ∧ (o.ty.fmt.read h.flush (opElem h o.ty o.b j t)).Is (b t)) →
      (ct.fmt.read h.flush cell).Is c →
      let p := Finset.sum (Finset.range k) fun t => a t * b t
      ∃ z, ct.fmt.Gives (h.round o.rm) h.flush.output z (if minus then c - p else c + p) got) ∧
    (o.ty.isFloat = false →
      let p := Finset.sum (Finset.range k) fun t => o.ty.int (opElem h o.ty o.a i t) * o.ty.int (opElem h o.ty o.b j t)
      let x := if minus then ct.int cell - p else ct.int cell + p
      got = (wrap ct.width (if o.sat then max ct.minInt (min x ct.maxInt) else x), 0))) ∧
  (∀ (h : Hart) (r : Round) (v : VIdx) (j : Nat) (cell : Word),
    streamColumn h r v [] j cell = (cell, 0) ∧
    (∀ g l, let x := streamColumn h r v [g] j cell
      let y := streamColumn h r v l j x.1
      streamColumn h r v (g :: l) j cell = (y.1, x.2 ||| y.2)) ∧
    ∀ (g : List Nat) (a b : Nat → ℝ) (c : ℝ),
      (∀ t ∈ g, (Fmt.bf16.read h.flush (elemGet (h.getV v) 16 t)).Is (a t) ∧ (Fmt.bf16.read h.flush (h.live.weight t j)).Is (b t)) →
      (Fmt.f32.read h.flush cell).Is c →
      ∃ z, Fmt.f32.Gives r h.flush.output z (c + (g.map fun t => a t * b t).sum) (streamColumn h r v [g] j cell)) ∧
  (∀ (t : Ty) (r : Round) (fl : Flush) (x y : Word) (p q : FFlags), let z := reduceAdd t.fmt r fl (x, 0) (y, 0)
    reduceAdd t.fmt r fl (x, p) (y, q) = (z.1, p ||| q ||| z.2) ∧
      ∀ a b : ℝ, (t.fmt.read fl x).Is a → (t.fmt.read fl y).Is b → ∃ s, t.fmt.Gives r fl.output s (a + b) z) ∧
  (∀ (f : Word × FFlags → Word × FFlags → Word × FFlags) (n : Nat) (l m : List (Option (Word × FFlags))), l.length = 2 ^ n → m.length = 2 ^ n →
    ∃ x y, treeSum f n l = [x] ∧ treeSum f n m = [y] ∧
      treeSum f (n + 1) (l ++ m) = [match x, y with
        | none, y => y
        | x, none => x
        | some x, some y => some (f x y)]))

/-- R199, R200 and R201: scalar floating point; the flags are ORed into FCSR. R157, R158: what the patterns of
each format stand for, and its canonical NaN. R161: NaN sources, ∞ − ∞, 0 × ∞, 0 ÷ 0, ∞ ÷ ∞, the root of a
negative value, a finite value divided by zero, and infinities as sources. R162: the minimum and maximum.
R165: NaN and infinities to integers. R201, R202: the classes and the comparisons. R199: the sign copies. -/
def Obligations.ScalarFloatResults : Prop :=
  (∀ (c : Ctl) (s : State) (slot : Nat) (h : Hart),
    (∀ o : FloatBin, h.poisoned (.s o.a :: ssrcReads o.b) = false →
      let f := o.ty.fmt
      let r := h.round o.rm
      let a := low o.ty.width (h.getS o.a)
      let b := low o.ty.width (h.ssrc o.ty o.b)
      let v := f.value
      let ends := fun (i : Instr) (x : Word × FFlags) => Completes i s slot h ((h.setS o.d (low o.ty.width x.1)).raise x.2)
      (Issues 0x20 c s slot h →
        ends (.fadd c o) (f.add r false (v a) (v b)) ∧ ends (.fsub c o) (f.sub r false (v a) (v b)) ∧
        ends (.fmul c o) (f.mul r false (v a) (v b)) ∧ ends (.fdiv c o) (f.div r false (v a) (v b)) ∧
        ends (.fmin c o) (f.minMax false a b) ∧ ends (.fmax c o) (f.minMax true a b) ∧
        ends (.fcopys c o) (f.signCopy (f.sign b) a, 0) ∧ ends (.fcopyn c o) (f.signCopy (!f.sign b) a, 0) ∧
        ends (.fxsign c o) (f.signCopy (f.sign a != f.sign b) a, 0)) ∧
      (Issues 0x21 c s slot h → h.poisoned [.s o.d] = false →
        let d := low o.ty.width (h.getS o.d)
        ends (.fma c o) (f.fma r false false false (v a) (v b) (v d)) ∧
        ends (.fms c o) (f.fma r false false true (v a) (v b) (v d)) ∧
        ends (.fnma c o) (f.fma r false true false (v a) (v b) (v d)) ∧
        ends (.fnms c o) (f.fma r false true true (v a) (v b) (v d)))) ∧
    (∀ o : FloatUn, h.poisoned [.s o.a] = false → Issues 0x20 c s slot h →
      let x := o.ty.fmt.sqrt (h.round o.rm) false (o.ty.fmt.value (low o.ty.width (h.getS o.a)))
      Completes (.fsqrt c o) s slot h ((h.setS o.d (o.ty.place x.1)).raise x.2)) ∧
    (∀ o : ConvertForm, h.poisoned [.s o.a] = false → Issues 0x22 c s slot h →
      let a := low o.src.width (h.getS o.a)
      let ends := fun (i : Instr) (x : Word × FFlags) => Completes i s slot h ((h.setS o.d (o.ty.place x.1)).raise x.2)
      ends (.fcvt c o) (o.ty.fmt.convert (h.round o.rm) false (o.src.fmt.value a)) ∧
      ends (.fcvti c o) (FVal.toInt o.ty (h.round o.rm) (o.src.fmt.value a)) ∧
      ends (.icvtf c o) (o.ty.fmt.ofInt (h.round o.rm) false (o.src.int a))) ∧
    (∀ o : ScalarUn, h.poisoned [.s o.a] = false → Issues 0x23 c s slot h →
      Completes (.fclass c o) s slot h (h.setS o.d (o.ty.fmt.classBits {} (low o.ty.width (h.getS o.a)))))) ∧
  (∀ (t : Ty) (r : Round) (fo : Bool), let f := t.fmt
    let top := 2 ^ f.ebits - 1
    let nan := fun (fl : FFlags) => (f.canonicalNan, fl)
    (∀ (s : Bool) (e m : Nat), e ≤ top → m < 2 ^ f.fbits → let v := f.value (f.make s e m)
      (e = 0 → m = 0 → v = .zero s) ∧ (e = 0 → m ≠ 0 → v = .fin s m (1 - (f.bias : Int) - f.fbits)) ∧
      (e ≠ 0 → e < top ∨ (f.special = .e4m3 ∧ m < 2 ^ f.fbits - 1) → v = .fin s (2 ^ f.fbits + m) ((e : Int) - f.bias - f.fbits)) ∧
      (e = top → f.special = .ieee → (m = 0 → v = .inf s) ∧ (m ≠ 0 → v = .nan (m < 2 ^ (f.fbits - 1)))) ∧
      (e = top → f.special = .e4m3 → m = 2 ^ f.fbits - 1 → v = .nan false)) ∧
    (∀ a b c : FVal, let sig := fun (l : List FVal) => nvOf (l.any FVal.isSignalling)
      (a.isNan = true ∨ b.isNan = true → f.add r fo a b = nan (sig [a, b]) ∧ f.sub r fo a b = nan (sig [a, b]) ∧
        f.mul r fo a b = nan (sig [a, b]) ∧ f.div r fo a b = nan (sig [a, b])) ∧
      (a.isNan = true → f.sqrt r fo a = nan (sig [a]) ∧ f.convert r fo a = nan (sig [a]) ∧ ∀ u, FVal.toInt u r a = (0, FFlags.nv)) ∧
      ∀ np nc : Bool,
        (a.isNan = true ∨ b.isNan = true → f.fma r fo np nc a b c = nan (sig [a, b, c])) ∧
        ((∃ i z, (a = .inf i ∧ b = .zero z) ∨ (a = .zero z ∧ b = .inf i)) → f.fma r fo np nc a b c = nan FFlags.nv) ∧
        (c.isNan = true → a.isNan = false → b.isNan = false → ¬(∃ i z, (a = .inf i ∧ b = .zero z) ∨ (a = .zero z ∧ b = .inf i)) →
          f.fma r fo np nc a b c = nan (sig [c]))) ∧
    (∀ i j z : Bool,
      f.add r fo (.inf i) (.inf j) = (if i = j then f.infBits i else nan FFlags.nv) ∧
      f.sub r fo (.inf i) (.inf j) = (if i = j then nan FFlags.nv else f.infBits i) ∧
      f.mul r fo (.inf i) (.zero z) = nan FFlags.nv ∧ f.mul r fo (.zero z) (.inf i) = nan FFlags.nv ∧
      f.mul r fo (.inf i) (.inf j) = f.infBits (i != j) ∧
      f.div r fo (.inf i) (.inf j) = nan FFlags.nv ∧ f.div r fo (.zero i) (.zero j) = nan FFlags.nv ∧
      f.sqrt r fo (.inf true) = nan FFlags.nv ∧ f.sqrt r fo (.inf false) = f.infBits false ∧ f.sqrt r fo (.zero z) = (f.zeroBits z, 0) ∧
      f.convert r fo (.inf i) = f.infBits i ∧
      (∀ u : Ty, FVal.toInt u r (.inf i) = (wrap u.width (if i then u.minInt else u.maxInt), FFlags.nv)) ∧
      f.infBits i = (if f.special = .e4m3 then nan FFlags.nv else (f.make i top 0, 0)) ∧
      ∀ (b : FVal) (y : ℝ), b.Is y →
        f.add r fo (.inf i) b = f.infBits i ∧ f.add r fo b (.inf i) = f.infBits i ∧
        f.sub r fo (.inf i) b = f.infBits i ∧ f.sub r fo b (.inf i) = f.infBits (!i) ∧
        f.div r fo (.inf i) b = f.infBits (i != b.neg) ∧ f.div r fo b (.inf i) = (f.zeroBits (b.neg != i), 0) ∧
        (y ≠ 0 → f.mul r fo (.inf i) b = f.infBits (i != b.neg) ∧ f.mul r fo b (.inf i) = f.infBits (b.neg != i) ∧
          f.div r fo b (.zero z) = ((f.infBits (b.neg != z)).1, (f.infBits (b.neg != z)).2 ||| FFlags.dz)) ∧
        (y < 0 → f.sqrt r fo b = nan FFlags.nv)) ∧
    (∀ (a b : FVal) (x y : EReal), a.At x → b.At y →
      (((FVal.compare .eq a b).1 = true ↔ x = y) ∧ ((FVal.compare .ne a b).1 = true ↔ x ≠ y) ∧ ((FVal.compare .lt a b).1 = true ↔ x < y) ∧
        ((FVal.compare .ge a b).1 = true ↔ y ≤ x) ∧ (FVal.compare .un a b).1 = false) ∧ ∀ c, (FVal.compare c a b).2 = 0) ∧
    (∀ a b : FVal, a.isNan = true ∨ b.isNan = true → let q := nvOf (a.isSignalling || b.isSignalling)
      FVal.compare .eq a b = (false, q) ∧ FVal.compare .ne a b = (true, q) ∧ FVal.compare .un a b = (true, q) ∧
      FVal.compare .lt a b = (false, FFlags.nv) ∧ FVal.compare .ge a b = (false, FFlags.nv)) ∧
    (∀ (x y : Word) (isMax : Bool), let a := f.value x
      let b := f.value y
      let q := nvOf (a.isSignalling || b.isSignalling)
      let m := f.minMax isMax x y
      (a.isNan = true → b.isNan = true → m = nan q) ∧
      (a.isNan = true → b.isNan = false → m = (low f.width y, q)) ∧ (a.isNan = false → b.isNan = true → m = (low f.width x, q)) ∧
      (∀ u v : EReal, a.At u → b.At v → (u < v → m = (low f.width (if isMax then y else x), 0)) ∧
        (v < u → m = (low f.width (if isMax then x else y), 0))) ∧
      (a = .zero true → b = .zero false → m = (low f.width (if isMax then y else x), 0)) ∧
      (a = .zero false → b = .zero true → m = (low f.width (if isMax then x else y), 0)) ∧ (low f.width x = low f.width y → m.1 = low f.width x ∨ a.isNan = true)) ∧
    (∀ (fl : Flush) (x : Word), let v := f.value x
      let c := fun k => f.classBits fl x = BitVec.ofNat 64 (2 ^ k)
      let sub := f.isSubnormal x
      (∀ s, v = .inf s → c (if s then 0 else 7)) ∧ (∀ s, v = .zero s → c (if s then 3 else 4)) ∧ (∀ s, v = .nan s → c (if s then 8 else 9)) ∧
      (∀ s m e, v = .fin s m e → (sub = false → c (if s then 1 else 6)) ∧ (sub = true → fl.input = false → c (if s then 2 else 5)) ∧
        (sub = true → fl.input = true → c (if s then 3 else 4)))) ∧
    (∀ (s : Bool) (x : Word) (i : Nat), i < 64 →
      (f.signCopy s x).getLsbD i = if i + 1 = f.width then s else decide (i + 1 < f.width) && x.getLsbD i))

/-- R202 to R204: predicates and mask registers. R202, R254: what a condition of PCMP and VCMP is. Integer
types compare as signed or unsigned numbers by TYPE and raise no flag; floating types compare the values that
are read under FZ, by the table of R202. -/
def Obligations.PredicateAndMaskResults : Prop :=
  (∀ (c : Ctl) (s : State) (slot : Nat) (h : Hart),
    (∀ o : PcmpForm, h.poisoned (.s o.a :: ssrcReads o.b) = false → Issues 0x50 c s slot h →
      let x := condOf o.cond o.ty Flush.off (h.getS o.a) (h.ssrc o.ty o.b)
      Completes (.pcmp c o) s slot h ((h.setP o.d x.1).raise x.2)) ∧
    (Issues 0x51 c s slot h →
      (∀ o : PredBin,
        Completes (.pand c o) s slot h (h.setP o.d (h.getP o.a && h.getP o.b)) ∧
        Completes (.por c o) s slot h (h.setP o.d (h.getP o.a || h.getP o.b)) ∧
        Completes (.pxor c o) s slot h (h.setP o.d (h.getP o.a != h.getP o.b)) ∧
        Completes (.pandn c o) s slot h (h.setP o.d (h.getP o.a && !h.getP o.b))) ∧
      ∀ o : PredUn,
        Completes (.pnot c o) s slot h (h.setP o.d (!h.getP o.a)) ∧ Completes (.pmov c o) s slot h (h.setP o.d (h.getP o.a))) ∧
    (Issues 0x52 c s slot h →
      (∀ o : MaskBin, h.poisoned [.m o.a, .m o.b] = false →
        Completes (.mand c o) s slot h (h.setM o.d (h.getM o.a &&& h.getM o.b)) ∧
        Completes (.mor c o) s slot h (h.setM o.d (h.getM o.a ||| h.getM o.b)) ∧
        Completes (.mxor c o) s slot h (h.setM o.d (h.getM o.a ^^^ h.getM o.b)) ∧
        Completes (.mandn c o) s slot h (h.setM o.d (h.getM o.a &&& ~~~h.getM o.b))) ∧
      ∀ o : MaskUn, h.poisoned [.m o.a] = false →
        Completes (.mnot c o) s slot h (h.setM o.d (~~~h.getM o.a)) ∧ Completes (.mmov c o) s slot h (h.setM o.d (h.getM o.a))) ∧
    (Issues 0x53 c s slot h → ∀ o : MaskRead, h.poisoned [.bits o.a 0 h.vl] = false →
      Completes (.mpopc c o) s slot h
        (h.setS o.d (BitVec.ofNat 64 ((List.range h.vl).countP fun i => (h.getM o.a).getLsbD i))) ∧
      Completes (.mfirst c o) s slot h
        (h.setS o.d (match (List.range h.vl).find? fun i => (h.getM o.a).getLsbD i with
          | some i => BitVec.ofNat 64 i
          | none => BitVec.allOnes 64)))) ∧
  (∀ (t : Ty) (fl : Flush) (a b : Word),
    (t.isFloat = false →
      let number := fun (x : Word) => let y := x.setWidth t.width
        if t.isSigned then y.toInt else (y.toNat : Int)
      let x := number a
      let y := number b
      condOf .eq t fl a b = (decide (x = y), 0) ∧ condOf .ne t fl a b = (decide (x ≠ y), 0) ∧
      condOf .lt t fl a b = (decide (x < y), 0) ∧ condOf .ge t fl a b = (decide (y ≤ x), 0)) ∧
    (t.isFloat = true → ∀ c, condOf c t fl a b = FVal.compare c (t.fmt.read fl (low t.width a)) (t.fmt.read fl (low t.width b))))

/-- R205, R208: branches and calls to an aligned target redirect; the link is written, and a branch out of an
armed loop's body ends it, unless a handler runs (R209). R121, R205: a redirect to a misaligned target traps
ALIGN with the target and changes no register. -/
def Obligations.BranchesRedirectOrTrap : Prop :=
  (∀ (c : Ctl) (s : State) (slot : Nat) (h : Hart),
    let goes := fun (i : Instr) (g : Hart) (target : Word) => ∃ t, exec i s = .next t ∧
      RedirectedAs (noteRunning s h) slot (branchOut g h.pc target) target t
    (Issues 0x30 c s slot h →
      (∀ o : BrForm, let target := h.pc + o.off.signExtend 64
        target.toNat % 4 = 0 → goes (.br c o) h target) ∧
      (∀ o : BriForm, h.poisoned [.s o.a] = false → let target := h.getS o.a + o.off.signExtend 64
        target.toNat % 4 = 0 → goes (.bri c o) h target)) ∧
    (Issues 0x31 c s slot h →
      (∀ o : CallForm, let target := h.pc + o.off.signExtend 64
        target.toNat % 4 = 0 → goes (.call c o) (h.setS o.d (h.pc + 12)) target) ∧
      (∀ o : CalliForm, h.poisoned [.s o.a] = false → let target := h.getS o.a + o.off.signExtend 64
        target.toNat % 4 = 0 → goes (.calli c o) (h.setS o.d (h.pc + 12)) target))) ∧
  (∀ (c : Ctl) (s : State) (slot : Nat) (h : Hart),
    (∀ o : BrForm, Issues 0x30 c s slot h → (h.pc + o.off.signExtend 64).toNat % 4 ≠ 0 →
      Traps (.br c o) s slot h .align (h.pc + o.off.signExtend 64)) ∧
    (∀ o : CallForm, Issues 0x31 c s slot h → (h.pc + o.off.signExtend 64).toNat % 4 ≠ 0 →
      Traps (.call c o) s slot h .align (h.pc + o.off.signExtend 64)) ∧
    (∀ o : BriForm, Issues 0x30 c s slot h → h.poisoned [.s o.a] = false → (h.getS o.a + o.off.signExtend 64).toNat % 4 ≠ 0 →
      Traps (.bri c o) s slot h .align (h.getS o.a + o.off.signExtend 64)) ∧
    (∀ o : CalliForm, Issues 0x31 c s slot h → h.poisoned [.s o.a] = false → (h.getS o.a + o.off.signExtend 64).toNat % 4 ≠ 0 →
      Traps (.calli c o) s slot h .align (h.getS o.a + o.off.signExtend 64)))

/-- R206: LSETUP arms its loop; on a zero trip it goes past the loop's end, where the other loop may end or go
round, with no handler running; while one runs no loop steps (R209). The registers of its loop, which it
writes, hold no poison any more (R392). R207: an instruction at le1 goes round loop 1 while its count is more
than 1 and ends it at 1; then, unless loop 1 went round, the same for loop 0; elsewhere the PC moves past the
instruction. It is what every completion without a redirect does while no handler runs, and so the NOP's. -/
def Obligations.HardwareLoopsRun : Prop :=
  (∀ (c : Ctl) (o : LsetupForm) (s : State) (slot : Nat) (h : Hart), Issues 0x32 c s slot h → h.poisoned [.s o.a] = false →
    let n := h.getS o.a
    let le := h.pc + o.off.signExtend 64
    let l := armLoop h.regs.loops o.loop1 n (h.pc + 12) le
    let written := fun (r : LoopRegs) => clearPoison { h with regs := { h.regs with loops := r } } (RegLoc.controlIn (loopOffsets o.loop1))
    (n ≠ 0 → Completes (.lsetup c o) s slot h (written l)) ∧
    (n = 0 → h.trap.suspended = true →
      ∃ t, exec (.lsetup c o) s = .next t ∧ RedirectedAs (noteRunning s h) slot (written l) (le + 12) t) ∧
    (n = 0 → h.trap.suspended = false →
      let r := stepOther l (!o.loop1) le (le + 12)
      ∃ t, exec (.lsetup c o) s = .next t ∧
        RedirectedAs (noteRunning s h) slot (written r.1) r.2.1 t)) ∧
  ((∀ (c : Ctl) (s : State) (slot : Nat) (h : Hart), Issues 0x43 c s slot h → h.trap.suspended = false →
    ∃ t u, exec (.nop c) s = .next t ∧ t.hart? slot = some u ∧
      u.regs.loops = (loopEnd h.regs.loops h.pc (h.pc + 12)).1 ∧ u.pc = (loopEnd h.regs.loops h.pc (h.pc + 12)).2.1) ∧
  ∀ (r : LoopRegs) (x next : Word),
    (r.lc1 ≠ 0 → x = r.le1 → 1 < r.lc1.toNat →
      (loopEnd r x next).1 = { r with lc1 := r.lc1 - 1 } ∧ (loopEnd r x next).2.1 = r.lb1) ∧
    (∀ q : LoopRegs, (r.lc1 = 1 ∧ x = r.le1 ∧ q = { r with lc1 := 0 }) ∨ ((r.lc1 = 0 ∨ x ≠ r.le1) ∧ q = r) →
      (q.lc0 ≠ 0 → x = q.le0 → 1 < q.lc0.toNat →
        (loopEnd r x next).1 = { q with lc0 := q.lc0 - 1 } ∧ (loopEnd r x next).2.1 = q.lb0) ∧
      (q.lc0 = 1 → x = q.le0 → (loopEnd r x next).1 = { q with lc0 := 0 } ∧ (loopEnd r x next).2.1 = next) ∧
      ((q.lc0 = 0 ∨ x ≠ q.le0) → (loopEnd r x next).1 = q ∧ (loopEnd r x next).2.1 = next)))

/-- R196, R197: an aligned LD or LDA whose line may be read writes the value that stands there, extended by
TYPE: from the hart's scratch, or from memory, whose bytes stay as they are: only the marks of R317 on stores
under a pin, the translation used (R99; log entry 22) and what it touched of R222, R227 and R367 are noted. A
misaligned one traps ALIGN. -/
def Obligations.LoadsComplete : Prop :=
  ∀ (c : Ctl) (o : LoadForm) (s : State) (slot : Nat) (h : Hart), Issues 0x08 c s slot h → h.poisoned [.s o.a] = false →
    let ea := h.getS o.a + o.off.signExtend 64
    let n := o.ty.bytes
    let u := noteRunning s h
    (∀ va k s' bs, load u slot h va k = .ok (s', bs) → s'.mem = s.mem ∧ s'.harts = s.harts) ∧
    let ends := fun (i : Instr) =>
      (ea.toNat % n ≠ 0 → Traps i s slot h .align ea) ∧
      (ea.toNat % n = 0 →
        (∀ off, place u slot h ea n false = .ok (.scratch off) → poisonedIn h.scratchPoison off n = none →
          Completes i s slot h (h.setS o.d (o.ty.place (BitVec.ofNat 64 (leNat (h.readScratch off n)))))) ∧
        ∀ pa pte, place u slot h ea n false = .ok (.mem pa pte) → hostReadFails u pa n = false →
          pinnedElsewhere u (pairOfAgent slot) pa n = none → readPoison u slot pa n = none →
          let v := noteAccess (markPinRead u slot pa n) slot h.ids.part ea.toNat pa n pte false
          v.mem = s.mem ∧
          CompletesIn i s v slot (h.setS o.d (o.ty.place (BitVec.ofNat 64 (leNat (physReadBytes u pa n))))))
    ends (.ld c o) ∧ ends (.lda c o)

/-- R196, R197, R309: an aligned ST whose place may be written puts the low bytes of its source there, in
little-endian order, and completes with its registers as they were: in the scratch it writes those bytes and
no other byte of the machine; in memory performStore writes them (StoresWriteOnlyTheirBytes says which bytes
those are). The same for an STL at CORE scope that pins its line (R318). An STL at a wider scope, or one that
would pin a 65th line (R319), ends the pins of its hart as it completes, and waits, with its pins' siblings'
bound begun, while something of the scalar pipe's is held back from VA (R314, R316, R317; log entry 38). A
misaligned access traps ALIGN. -/
def Obligations.StoresComplete : Prop :=
  ∀ (c : Ctl) (o : StoreForm) (s : State) (slot : Nat) (h : Hart), Issues 0x09 c s slot h →
    h.poisoned [.s o.a, .s o.b] = false →
    let ea := h.getS o.a + o.off.signExtend 64
    let n := o.ty.bytes
    let u := noteRunning s h
    let bs := leBytes n (h.getS o.b).toNat
    (ea.toNat % n ≠ 0 → Traps (.st c o) s slot h .align ea ∧ Traps (.stl c o) s slot h .align ea) ∧
    (ea.toNat % n = 0 → ∀ pl, checkStore u slot h ea n true = .ok pl →
      StoresAs (.st c o) s (performStore u slot false h.ids.part pl ea bs) slot h pl bs ∧
      (o.scope = .core → ∀ v, corePin u slot pl = some v →
        StoresAs (.stl c o) s (performStore v slot false h.ids.part pl ea bs) slot h pl bs) ∧
      (o.scope ≠ .core ∨ corePin u slot pl = none →
        (∀ v, releaseHeld u slot .ofScalar (widerScope o.scope) = some v →
          ∃ t, exec (.stl c o) s = .next t ∧ t.hart? slot = some h ∧ Elsewhere v slot t) ∧
        (releaseHeld u slot .ofScalar (widerScope o.scope) = none →
          StoresAs (.stl c o) s (endPins (performStore u slot false h.ids.part pl ea bs) slot) slot h pl bs)))

/-! ## System instructions, traps and the step -/

/-- R110: the guard is true when its predicate is what its negation bit asks for, and the guard (!p0) is
malformed. An encoded instruction whose guard is false has no effect on any register, flag, tile, byte of
memory or engine; it sets VSTART to 0, counts in INSTRET and passes to the next instruction. -/
def Obligations.FalseGuardHasNoEffect : Prop :=
  (∀ (h : Hart) (c : Ctl), guardTrue h c = if c.neg = true then !h.getP c.pred else h.getP c.pred) ∧
  (∀ w : BitVec 96, w.extractLsb' 78 4 = 0b1000#4 → decodeWord w = none) ∧
  (∀ (w : BitVec 96) (i : Instr) (c : Ctl), decodeWord w = some i → Ctl.parse (Raw.unpack w) = some c →
    c.neg = w.getLsbD 81 ∧ c.pred = w.extractLsb' 78 3) ∧
  ∀ (i : Instr) (r : Raw) (c : Ctl) (s : State) (slot : Nat) (h : Hart), i.raw = some r → Ctl.parse r = some c →
    s.turn = some slot → s.hart? slot = some h → (isLamp slot = true → lampRuns r.op.toNat = true) →
    guardTrue h c = false →
    ∃ t, exec i s = .next t ∧ CompletedAs (noteRunning s h) slot (h.setVstart 0) t

/-- R211, R55, R216: SYSRD of a register that its view may read, and of a register of the privileged window in
the privileged view; one that an image gave poisoned traps POISON (R382, R392). What a Lamplighter reads from
a register that it has not is open, and so a free value (log entry 26, the model's choice). R211, R55, R216:
SYSWR of a register that its view may write, and of a register of the privileged window in the privileged
view; a doorbell is accepted of a runtime alone (R53). A register that is written holds no poison any more
(R392). By the model's choice a write of a register that a Lamplighter has not changes nothing (log entry 26),
a SYSWR of the loop registers decides its own end check, and one of INSTRET counts itself (log entry 42).
R211, R55: a number that names no register traps ILLEGAL; an access that its view may not make, and any access
of the privileged window in the kernel view, traps PRIV. -/
def Obligations.SystemRegisterAccess : Prop :=
  (∀ (c : Ctl) (d : SIdx) (s : State) (slot : Nat) (h : Hart), Issues 0x40 c s slot h →
    (∀ (n : BitVec 12) (r : Rights), sysRights n.toNat (privileged slot h) = some r → r.read = true →
      (isLamp slot = false ∨ noLampRegister n.toNat = false →
        (h.marked (controlOffset n.toNat) = false →
          Completes (.sysrd c { d := d, target := .reg n }) s slot h (h.setS d (sysRead s slot h n.toNat))) ∧
        (h.marked (controlOffset n.toNat) = true →
          Traps (.sysrd c { d := d, target := .reg n }) s slot h .poison (BitVec.allOnes 64))) ∧
      (isLamp slot = true → noLampRegister n.toNat = true →
        ∃ x, Completes (.sysrd c { d := d, target := .reg n }) s slot h (h.setS d x))) ∧
    (∀ off : BitVec 20, privileged slot h = true →
      Completes (.sysrd c { d := d, target := .window off }) s slot h (h.setS d (windowRead s h.ids.part off.toNat)))) ∧
  (∀ (c : Ctl) (a : SIdx) (s : State) (slot : Nat) (h : Hart), Issues 0x41 c s slot h → h.poisoned [.s a] = false →
    (∀ (n : BitVec 12) (r : Rights), sysRights n.toNat (privileged slot h) = some r → r.write = true →
      h.marked (writeReads n.toNat) = false →
      Completes (.syswr c { a := a, target := .reg n }) s slot h
        (if isLamp slot = true ∧ noLampRegister n.toNat = true then h
         else clearPoison (sysWrite h n.toNat (h.getS a)) (RegLoc.controlIn (controlOffset n.toNat)))) ∧
    (∀ off : BitVec 20, privileged slot h = true → (∀ r, winReg off.toNat = some r → r.readOnly = false) →
      let u := if isDoorbell off.toNat = true ∧ isLamp slot = false then noteRunning s h
        else windowWrite (noteRunning s h) h.ids.part off.toNat (h.getS a)
      ∃ t, exec (.syswr c { a := a, target := .window off }) s = .next t ∧
        ∀ g, u.hart? slot = some g → CompletedAs u slot g t)) ∧
  (∀ (c : Ctl) (x : SIdx) (s : State) (slot : Nat) (h : Hart),
    (Issues 0x40 c s slot h →
      (∀ n : BitVec 12, sysRights n.toNat (privileged slot h) = none → Traps (.sysrd c { d := x, target := .reg n }) s slot h .illegal 0) ∧
      (∀ (n : BitVec 12) (r : Rights), sysRights n.toNat (privileged slot h) = some r → r.read = false →
        Traps (.sysrd c { d := x, target := .reg n }) s slot h .priv 0) ∧
      (∀ off : BitVec 20, privileged slot h = false → Traps (.sysrd c { d := x, target := .window off }) s slot h .priv 0)) ∧
    (Issues 0x41 c s slot h →
      (∀ n : BitVec 12, sysRights n.toNat (privileged slot h) = none → Traps (.syswr c { a := x, target := .reg n }) s slot h .illegal 0) ∧
      (∀ (n : BitVec 12) (r : Rights), sysRights n.toNat (privileged slot h) = some r → r.write = false →
        Traps (.syswr c { a := x, target := .reg n }) s slot h .priv 0) ∧
      (∀ off : BitVec 20, privileged slot h = false ∨ (∃ r, winReg off.toNat = some r ∧ r.readOnly = true) →
        Traps (.syswr c { a := x, target := .window off }) s slot h .priv 0)))

/-- R216, R167, R148, R209, R239, R276: what a SYSRD returns after a SYSWR of the same register, field by
field, on a hart. A write of VL compares the whole word with VLMAX (log entry 56); a write of VTYPE lets VL
fall to the new VLMAX; a write of ZDIRTY keeps the bits of the hart's share, and zeroes the rows of a tile
whose bit it clears. -/
def Obligations.SystemRegistersReadBack : Prop :=
  ∀ (s : State) (slot : Nat) (h : Hart) (x : Word),
    let back := fun n => sysRead s slot (sysWrite h n x) n
    (back 0x000 = (if 4 < (x &&& 7).toNat then x &&& 0xF8 else x &&& 0xFF)) ∧
    ((back 0x001).toNat = min x.toNat (vlmaxOf h.etypeCode)) ∧
    (back 0x002 = x &&& 0x7F ∧
      (sysWrite h 0x002 x).vl = min h.vl (vlmaxOf (x.extractLsb' 0 4))) ∧
    (h.ids.zshare ≤ 32 → back 0x007 = BitVec.ofNat 64 (x.toNat % 2 ^ h.ids.zshare)) ∧
    (∀ k r, k < 32 → r < 256 → (sysWrite h 0x007 x).row k r =
      if h.zdirty.getLsbD k = true ∧ (decide (k < h.ids.zshare) && x.getLsbD k) = false then 0 else h.row k r) ∧
    (back 0x003 = x &&& 0x7FF) ∧
    (back 0x004 = (x &&& 0x80) ||| BitVec.ofNat 64 (max 1 (min 64 (x.toNat % 128)))) ∧
    (∀ n, n = 0x00D ∨ n = 0x00E ∨ n = 0x010 ∨ n = 0x011 ∨ n = 0x021 ∨ n = 0x022 ∨ n = 0x024 → back n = x) ∧
    (∀ n, n = 0x012 ∨ n = 0x013 ∨ n = 0x014 ∨ n = 0x015 ∨ n = 0x020 → back n = x &&& ~~~3#64) ∧
    (back 0x023 = x &&& 0xFF) ∧ (back 0x025 = x &&& 1) ∧
    (∀ n, 0x100 ≤ n → n ≤ 0x10B → back n = x) ∧ (∀ n, 0x10C ≤ n → n ≤ 0x17F → back n = 0)

/-- R212: ERET in the privileged view, to an aligned EPC, restores the PC, VSTART and the view, and VTYPE as
trap entry saved it (R239; log entry 48), with VL at most its VLMAX, and lifts the suspension of R209; nothing
else of the hart changes but INSTRET, CYCLE, a poison mark of VSTART, which it writes (R392), and what the
fork of its Lantern moves (R152). R212, R121: ERET in the kernel view traps PRIV; in the privileged view, one
of the registers it restores from that an image gave poisoned traps POISON (R392), and an EPC that is not
aligned traps ALIGN at the ERET. -/
def Obligations.EretRestoresOrTraps : Prop :=
  (∀ (c : Ctl) (s : State) (slot : Nat) (h : Hart), Issues 0x42 c s slot h → privileged slot h = true →
    h.marked [0x170, 0x178, 0x190] = false → h.trap.epc.toNat % 4 = 0 →
    let r := { h.regs with vstart := h.trap.evstart.setWidth 11, vtype := h.trap.evtype }
    let w := { r with vl := BitVec.ofNat 12 (min h.vl (vlmaxOf (h.trap.evtype.extractLsb' 0 4))) }
    let g := { h with regs := w, priv := isLamp slot || h.trap.estat.getLsbD 0, trap := { h.trap with suspended := false } }
    ∃ t u, exec (.eret c) s = .next t ∧ t.hart? slot = some u ∧ u.pc = h.trap.epc ∧ u.regs.loops = h.regs.loops ∧
      u.instret = h.instret + 1 ∧
      u.core = (clearPoison g (RegLoc.controlIn [0x108])).core ∧
      Elsewhere (noteRunning s h) slot t) ∧
  (∀ (c : Ctl) (s : State) (slot : Nat) (h : Hart), Issues 0x42 c s slot h →
    (privileged slot h = false → Traps (.eret c) s slot h .priv 0) ∧
    (privileged slot h = true → h.marked [0x170, 0x178, 0x190] = true → Traps (.eret c) s slot h .poison (BitVec.allOnes 64)) ∧
    (privileged slot h = true → h.marked [0x170, 0x178, 0x190] = false → h.trap.epc.toNat % 4 ≠ 0 → Traps (.eret c) s slot h .align h.trap.epc))

/-- R213, R214: NOP has no effect; YIELD of some cycles stops issue until YIELD_EXPIRY; HALT stops issue for
good with the PC kept and without a count in INSTRET (log entry 33), and its pins end as by a release of kind
all (R319; log entry 38); HALT_SLOT_RELEASE gives the slot up once no transfer, reflected store or reduction
of the gang is in flight (R306, R365) and no pin holds the hart back. -/
def Obligations.WaitsAndHalt : Prop :=
  ∀ (c : Ctl) (s : State) (slot : Nat) (h : Hart),
    (Issues 0x43 c s slot h →
      Completes (.nop c) s slot h h ∧
      ∀ o : YieldForm, Completes (.yield c o) s slot h (if o.cycles = 0 then h else { h with run := .yielding })) ∧
    (s.hart? slot = some h →
      exec (.yieldExpiry slot) s = .next (s.setHart slot (if h.run = .yielding then { h with run := .running } else h))) ∧
    (Issues 0x44 c s slot h →
      ∃ t, exec (.halt c) s = .next t ∧ t.hart? slot = some { h with run := .halting } ∧
        (∀ k, k ≠ slot → t.hart? k = s.hart? k) ∧ t.mem = s.mem ∧ PinsRelease s slot t) ∧
    (∀ g, s.hart? slot = some h → h.run = .halting → isLamp slot = false → s.gang? h.ids.gang = some g →
      ((gangSends s g || hartPinned s slot) = false → ∃ t, exec (.haltSlotRelease slot) s = .next t ∧ t.hart? slot = none ∧
        t.mem = s.mem ∧ ∀ k, k ≠ slot → t.hart? k = s.hart? k) ∧
      ((gangSends s g || hartPinned s slot) = true → exec (.haltSlotRelease slot) s = .next s))

/-- R384: trap entry of a hart in the kernel view with a handler: the PC, VSTART, VTYPE (R239), cause, EVAL
and the view are saved, the hart enters the privileged view at TVEC with VSTART 0, R207 and R208 are
suspended, its share of the Wick and its Lantern copy go, its line pins end as by a release (R319; log entry
38), and no other register, no flag and no memory changes. R384, R402: a trap in the privileged view, or with
no handler, ends the task with cause UNHANDLED and the trap's code: its task is then ending; the trap
registers hold what the entry saved. R56: a trap on a Lamplighter enters its own TVEC with the PC, VSTART,
VTYPE (R239), cause, EVAL and view saved, and ends no task; where its TVEC is 0 the runtime stops, the cause
is logged, and RUN reads 0. R215, R384: TRAP completes, loop-end action and all, and then enters its handler
with the PC that follows in EPC, cause 0x14 in ECAUSE and its code in EVAL. R382: the codes of the trap
causes. -/
def Obligations.TrapsEnterOrEndTheTask : Prop :=
  (∀ (s : State) (slot : Nat) (h : Hart) (cause : Trap) (eval epc : Word), s.hart? slot = some h → isLamp slot = false →
    h.priv = false → h.trap.tvec ≠ 0 →
    ∃ u, (takeTrap s slot cause eval epc).hart? slot = some u ∧
      u.regs = { h.regs with pc := h.trap.tvec, vstart := 0 } ∧ u.priv = true ∧
      u.trap = { tvec := h.trap.tvec, epc := epc, evstart := h.regs.vstart.setWidth 64, ecause := cause.code.setWidth 64,
                 eval := eval, estat := 0, evtype := h.regs.vtype, suspended := true } ∧
      u.fcsr = h.fcsr ∧ u.tiles = h.tiles ∧ u.scratch = h.scratch ∧ u.instret = h.instret ∧
      u.lantern.copy = none ∧ u.lantern.wick = [] ∧
      PinsRelease s slot (takeTrap s slot cause eval epc) ∧
      (∀ k, k ≠ slot → (takeTrap s slot cause eval epc).hart? k = s.hart? k) ∧
      (takeTrap s slot cause eval epc).mem = s.mem ∧ (takeTrap s slot cause eval epc).tasks = s.tasks) ∧
  (∀ (s : State) (slot : Nat) (h : Hart) (g : Gang) (k : Task) (cause : Trap) (eval epc : Word),
    s.hart? slot = some h → isLamp slot = false → h.priv = true ∨ h.trap.tvec = 0 → s.gang? h.ids.gang = some g →
    s.task? g.part g.queue g.seq = some k → k.state.canEnd = true →
    ((takeTrap s slot cause eval epc).hart? slot).map Hart.trap =
      some { tvec := h.trap.tvec, epc := epc, evstart := h.regs.vstart.setWidth 64, ecause := cause.code.setWidth 64
             eval := eval, estat := (BitVec.ofBool h.priv).setWidth 64, evtype := h.regs.vtype, suspended := true } ∧
    ∃ k', (takeTrap s slot cause eval epc).task? g.part g.queue g.seq = some k' ∧ k'.state = .ending k.state.holdsLeases ∧
      k'.cause = some { code := 0x43, tcode := cause.code, gridIdx := BitVec.ofNat 32 g.gridIdx,
                        hartid := BitVec.ofNat 7 h.ids.hartid, eval := eval }) ∧
  (∀ (s : State) (slot : Nat) (h : Hart) (cause : Trap) (eval epc : Word), s.hart? slot = some h → isLamp slot = true →
    let t := takeTrap s slot cause eval epc
    (∀ k, k ≠ slot → t.hart? k = s.hart? k) ∧ t.mem = s.mem ∧ t.tasks = s.tasks ∧
    (h.trap.tvec ≠ 0 → ∃ u, t.hart? slot = some u ∧ u.regs = { h.regs with pc := h.trap.tvec, vstart := 0 } ∧ u.priv = h.priv ∧
      u.trap = { tvec := h.trap.tvec, epc := epc, evstart := h.regs.vstart.setWidth 64, ecause := cause.code.setWidth 64,
                 eval := eval, estat := (BitVec.ofBool h.priv).setWidth 64, evtype := h.regs.vtype, suspended := true } ∧
      u.run = .running ∧ t.partitions = s.partitions) ∧
    (h.trap.tvec = 0 → t.hart? slot = none ∧ (t.part h.ids.part).regs.rtentry.getLsbD 0 = false ∧
      t.sconce.log = s.sconce.log ++ [.runtimeStopped (slot - 1280) cause.code])) ∧
  (∀ (c : Ctl) (o : TrapForm) (s : State) (slot : Nat) (h : Hart), Issues 0x45 c s slot h → isLamp slot = false →
    h.priv = false → h.trap.tvec ≠ 0 →
    ∃ t u, exec (.trap c o) s = .next t ∧ t.hart? slot = some u ∧ u.pc = h.trap.tvec ∧ u.priv = true ∧
      u.trap = { h.trap with epc := h.after.2, evstart := h.regs.vstart.setWidth 64, ecause := 0x14,
                             eval := o.code.setWidth 64, estat := 0, evtype := h.regs.vtype, suspended := true } ∧
      u.regs = { h.regs with pc := h.trap.tvec, loops := h.after.1, vstart := 0 } ∧ u.instret = h.instret + 1 ∧
      (∀ k, k ≠ slot → t.hart? k = s.hart? k) ∧ t.mem = s.mem) ∧
  ([Trap.illegal, .zeroWord, .onesWord, .priv, .align, .page, .poison, .scratch, .owner, .fmtWrite, .vwidth, .zrange,
    .stream, .bufEnd, .cursor, .unsorted, .barOver, .barBusy, .window, .trap].map Trap.code =
    (List.range 20).map fun k => BitVec.ofNat 8 (k + 1))

/-- R117: a step of an agent's turn runs the instruction that the word at its PC decodes to, where nothing
holds the hart back: no wait, no control state that an image gave poisoned (R392), no earlier fence (R315,
R337), no entry of its Lantern (R147). The word comes from the packets that the hart holds or, with its
packets' checks passed, from memory. The packets that the next word does not need are dropped (R120; log entry
46), what the slice table sees (R141; log entry 55) moves no register and no memory, the turn goes to the
agent that nextTurn names (log entry 1) and its budget is set (log entry 3). -/
def Obligations.StepRunsTheDecodedInstruction : Prop :=
  (∀ (s s' : State) (slot : Nat) (budget : Option Nat) (h : Hart) (bs : List Byte) (i : Instr),
    nextTurn s = some (.agent slot budget, s') → s'.hart? slot = some h → canIssue slot h = true → h.held = none →
    h.marked firstWords = false → pendingInterrupt s' slot h = none →
    let u := { s' with turn := some slot }
    fetchWord u slot h = .ok bs → decodeBytes bs = some (.instr i, []) →
    let v := if (wordIn h.packets h.pc.toNat).isSome then u else rememberFetch u slot h
    let g := { h with packets := keepPackets h.packets h.pc.toNat, held := none }
    let w := v.setHart slot g
    (notIssued w slot g i = none → step s = exec i { noteFeeds w slot g i with budget := budget }) ∧
    (h.controlPoisoned i = true → step s = .next (takeTrap w slot .poison (BitVec.allOnes 64) h.pc)) ∧
    (h.controlPoisoned i = false → fenced w slot g i = true → step s = .next (boundStorePins g.fencedQueues w slot)) ∧
    (h.controlPoisoned i = false → fenced w slot g i = false → awaitsLantern h i = true →
      step s = .next (w.setHart slot { g with lantern := { g.lantern with awaits := true } }))) ∧
  (∀ (w : State) (slot : Nat) (g : Hart) (i : Instr), g.poison = [] → g.fenceS = {} → g.fenceV = {} →
    g.issuing = false ∨ g.lantern.behind = false ∨ missesEntry g i = false → notIssued w slot g i = none) ∧
  (∀ (u : State) (slot : Nat) (h : Hart) (bs : List Byte),
    wordIn h.packets h.pc.toNat = some bs → poisonIn h.packets h.pc.toNat = none → fetchWord u slot h = .ok bs) ∧
  (∀ (u : State) (slot : Nat) (h : Hart) (pg : Nat) (e : Word),
    let a := h.pc.toNat
    let r := match hartTask u h with
      | some k => k.record
      | none => []
    let x := pg + a % 65536
    wordIn h.packets a = none → a % 32 ≤ 20 →
    (isLamp slot = false → (∀ k, k < 12 → inScratchWindow (a + k) = false) ∧ leaseFailure (u.part h.ids.part) r a 12 false = none) →
    translatePage u slot h r a false = .ok (pg, e) → hostReadFails u x 12 = false →
    pinnedElsewhere u (pairOfAgent slot) x 12 = none → readPoison u slot x 12 = none →
    fetchWord u slot h = .ok (physReadBytes u x 12)) ∧
  ∀ (s : State) (slot : Nat) (h : Hart) (i : Instr), s.hart? slot = some h →
    let t := noteFeeds s slot h i
    (∃ f, t.hart? slot = some { h with lantern := { h.lantern with feeds := f } }) ∧
    (∀ k, k ≠ slot → t.hart? k = s.hart? k) ∧ (∀ k, (t.pair k).pins = (s.pair k).pins) ∧
    { t with harts := [], pairs := [] } = { s with harts := [], pairs := [] }

/-- R117 steps 4 to 6: a word of zeros, a word of ones and a malformed word trap at the hart that fetched
them; a fetch from memory leaves its translations behind (R99). The step runs an event that stands at the head
of the agenda (log entry 1). -/
def Obligations.StepMeetsBadWordsAndEvents : Prop :=
  (∀ (s s' : State) (slot : Nat) (budget : Option Nat) (h : Hart) (bs rest : List Byte),
    nextTurn s = some (.agent slot budget, s') → s'.hart? slot = some h → canIssue slot h = true → h.held = none →
    h.marked firstWords = false → pendingInterrupt s' slot h = none →
    let u := { s' with turn := some slot }
    fetchWord u slot h = .ok bs →
    let v := if (wordIn h.packets h.pc.toNat).isSome then u else rememberFetch u slot h
    (decodeBytes bs = some (.zeroWord, rest) → step s = .next (takeTrap v slot .zeroWord 0 h.pc)) ∧
    (decodeBytes bs = some (.onesWord, rest) → step s = .next (takeTrap v slot .onesWord 0 h.pc)) ∧
    (decodeBytes bs = some (.malformed, rest) → step s = .next (takeTrap v slot .illegal 0 h.pc))) ∧
  (∀ (s : State) (i : Instr) (rest : List Turn), s.agenda = .event i :: rest → step s = exec i { s with agenda := rest })

/-- R106, R117, R118: the word of every well-formed encoded instruction decodes to that instruction, with
every operand at every value its encoding admits. R118: a word that decodes is the encoding of the well-formed
instruction it decodes to, so that no two words decode to one instruction and every reserved bit is refused.
-/
def Obligations.EncodingRoundTrip : Prop :=
  (∀ (i : Instr) (w : BitVec 96), i.wf = true → encode i = some w → decodeWord w = some i ∧ decode w = .instr i ∧
    decodeBytes (bytesOfWord w) = some (.instr i, [])) ∧
  (∀ (w : BitVec 96) (i : Instr), decodeWord w = some i → i.wf = true ∧ encode i = some w)

/-- The words that the spec writes out field by field in its worked encodings decode to the instructions it
gives for them; the same branch with the guard (!p0) decodes to none (R110). -/
def Obligations.WrittenWordsDecode : Prop :=
  -- (p2) vfma.f32 v8, v2, v3, m4.z
  decodeWord 0x6900921090F4007900000000 = some (.vfma { pred := 2 } { ty := .f32, rm := .dyn, d := 8, a := 2, b := .vec 3, mask := .on true 4 }) ∧
  -- add s5, s5, 16
  decodeWord 0x010001417FC0000000000010 = some (.add {} { ty := .i64, sat := false, d := 5, a := 5, b := .imm 16 }) ∧
  -- (!p1) br -36, and the same word with the guard 0b1000
  decodeWord 0x3002400000000000FFFFFFDC = some (.br { neg := true, pred := 1 } { off := 0xFFFFFFDC }) ∧
  decodeWord 0x3002000000000000FFFFFFDC = none ∧
  -- lsetup lc0, s5, +60
  decodeWord 0x32000001400000000000003C = some (.lsetup {} { loop1 := false, a := 5, off := 60 }) ∧
  -- sysrd s8, lc0
  decodeWord 0x400002000000000000000010 = some (.sysrd {} { d := 8, target := .reg 0x10 }) ∧
  -- vstc.f32 q1, v2, m1.m
  decodeWord 0xA300002650A1000900000000 = some (.vstc {} { ty := .f32, u := false, q := 1, b := 2, mask := .on false 1 }) ∧
  -- mopa.bf16 z3, v4, v5, m2.m
  decodeWord 0xB00030D11162000B00000000 =
    some (.mopa {} { ty := .bf16, rm := .rne, sat := false, half := false, d := 3, a := 4, b := 5, mask := .on false 2 }) ∧
  -- amo.add.n64.dev s5, s4, s6, 16
  decodeWord 0xD00001410180008300000010 =
    some (.amo {} { aop := .add, aty := .n64, scope := .device, d := 5, a := 4, b := 6, off := 16 }) ∧
  -- (p1) tcopy q3, q2, 64, b1
  decodeWord 0xC90066E68000000000820040 = some (.tcopy { pred := 1 } { d := 3, a := 2, len := 64, bar := 1, ben := true }) ∧
  -- wmap s5, s4, 12
  decodeWord 0xE30001413FC000000000000C = some (.wmap {} { d := 5, a := 4, b := .imm 12 })

/-! ## Vector instructions -/

/-- R247: element-wise integer arithmetic of OP 0x61 to 0x63 by the mould of R242, from VSTART to VL, on a
hart whose VTYPE has the instruction's width (R240); no integer instruction raises a flag. -/
def Obligations.VectorIntegerResults : Prop :=
  ∀ (c : Ctl) (o : VecBin) (s : State) (slot : Nat) (h : Hart), h.poison = [] → s.budget = none → h.widthOk o.ty.width = true →
    let t := o.ty
    let a := fun i => elemGet (h.getV o.a) t.width i
    let b := fun i => h.vsrc t o.b i
    let d := fun i => elemGet (h.getV o.d) t.width i
    let ends := fun (i : Instr) (val : Nat → Word) =>
      ∃ g, Completes i s slot h g ∧ VecResult h g o.d t.width 0 (h.moulded o.d t.width o.mask val)
    (Issues 0x61 c s slot h →
      ends (.vadd c o) (fun i => t.narrow o.sat (t.int (a i) + t.int (b i))) ∧
      ends (.vsub c o) (fun i => t.narrow o.sat (t.int (a i) - t.int (b i))) ∧
      ends (.vrsub c o) (fun i => t.narrow o.sat (t.int (b i) - t.int (a i))) ∧
      ends (.vmin c o) (fun i => t.lesser (a i) (b i)) ∧ ends (.vmax c o) (fun i => t.greater (a i) (b i)) ∧
      ends (.vabsd c o) (fun i => t.narrow false ((t.int (a i) - t.int (b i)).natAbs : Int)) ∧
      ends (.vavg c o) (fun i => t.narrow false (Int.fdiv (t.int (a i) + t.int (b i) + 1) 2))) ∧
    (Issues 0x62 c s slot h →
      ends (.vmul c o) (fun i => t.narrow o.sat (t.int (a i) * t.int (b i))) ∧
      ends (.vmulh c o) (fun i => t.mulHigh (a i) (b i)) ∧
      ends (.vmacc c o) (fun i => t.narrow o.sat (t.int (d i) + t.int (a i) * t.int (b i))) ∧
      ends (.vdiv c o) (fun i => t.quot (a i) (b i)) ∧ ends (.vrem c o) (fun i => t.rest (a i) (b i))) ∧
    (Issues 0x63 c s slot h →
      ends (.vand c o) (fun i => a i &&& b i) ∧ ends (.vor c o) (fun i => a i ||| b i) ∧ ends (.vxor c o) (fun i => a i ^^^ b i) ∧
      ends (.vsll c o) (fun i => t.shiftLeft (a i) (b i)) ∧ ends (.vsrl c o) (fun i => t.shiftRight (a i) (b i)) ∧
      ends (.vsra c o) (fun i => t.shiftRightA (a i) (b i)))

/-- R248, R249: the widening and narrowing integer forms that are well formed, on a hart whose VTYPE has the
wide width. R249: the rounded shift is the nearest integer to a ÷ 2^n with ties to even, and the floor when
rounding down. -/
def Obligations.VectorWidthChangingResults : Prop :=
  (∀ (c : Ctl) (s : State) (slot : Nat) (h : Hart), Issues 0x64 c s slot h → h.poison = [] → s.budget = none →
    (∀ o : VecBin, (Instr.vwmacc c o).wf = true → h.widthOk o.ty.wide.width = true →
      let n := o.ty
      let t := o.ty.wide
      let a := fun i => n.int (elemGet (h.getV o.a) n.width i)
      let b := fun i => n.int (h.vsrc n o.b i)
      let d := fun i => t.int (elemGet (h.getV o.d) t.width i)
      let ends := fun (i : Instr) (val : Nat → Int) => ∃ g, Completes i s slot h g ∧
        VecResult h g o.d t.width 0 (h.moulded o.d t.width o.mask fun i => t.narrow o.sat (val i))
      ((Instr.vwadd c o).wf = true → ends (.vwadd c o) (fun i => a i + b i)) ∧
      ((Instr.vwmul c o).wf = true → ends (.vwmul c o) (fun i => a i * b i)) ∧
      ends (.vwmacc c o) (fun i => d i + a i * b i)) ∧
    (∀ o : VecNarrow, (Instr.vnshr c o).wf = true → h.widthOk o.ty.wide.width = true →
      let n := o.ty
      let t := o.ty.wide
      ∃ g, Completes (.vnshr c o) s slot h g ∧
        VecResult h g o.d n.width 0 (h.moulded o.d n.width o.mask fun i =>
          n.narrow o.sat (shiftRounded (o.rm == .rdn) (t.int (elemGet (h.getV o.a) t.width i)) ((h.vsrc t o.b i).toNat % t.width))))) ∧
  (∀ (a : Int) (n : Nat),
    (shiftRounded true a n = Int.fdiv a (2 ^ n)) ∧
    (let q := shiftRounded false a n
     2 * (a - q * 2 ^ n) ≤ 2 ^ n ∧ -(2 ^ n) ≤ 2 * (a - q * 2 ^ n) ∧
      (2 * (a - q * 2 ^ n) = 2 ^ n ∨ 2 * (a - q * 2 ^ n) = -(2 ^ n) → q % 2 = 0)))

/-- R250: element-wise floating point of OP 0x68 and 0x69: sources read under FZ (R166), one rounding, the
flags of the active elements raised. -/
def Obligations.VectorFloatResults : Prop :=
  ∀ (c : Ctl) (s : State) (slot : Nat) (h : Hart), h.poison = [] → s.budget = none →
    (∀ o : VecFloatBin, h.widthOk o.ty.width = true →
      let f := o.ty.fmt
      let w := o.ty.width
      let r := h.round o.rm
      let fl := h.flush
      let a := fun i => elemGet (h.getV o.a) w i
      let b := fun i => h.vsrc o.ty o.b i
      let d := fun i => elemGet (h.getV o.d) w i
      let v := f.read fl
      let ends := fun (i : Instr) (x : Nat → Word × FFlags) => ∃ g, Completes i s slot h g ∧
        VecResult h g o.d w (h.flagsOf o.mask fun i => (x i).2) (h.moulded o.d w o.mask fun i => (x i).1)
      (Issues 0x68 c s slot h →
        ends (.vfadd c o) (fun i => f.add r fl.output (v (a i)) (v (b i))) ∧
        ends (.vfsub c o) (fun i => f.sub r fl.output (v (a i)) (v (b i))) ∧
        ends (.vfmul c o) (fun i => f.mul r fl.output (v (a i)) (v (b i))) ∧
        ends (.vfdiv c o) (fun i => f.div r fl.output (v (a i)) (v (b i))) ∧
        ends (.vfmin c o) (fun i => f.minMax false (f.flushBits fl (a i)) (f.flushBits fl (b i))) ∧
        ends (.vfmax c o) (fun i => f.minMax true (f.flushBits fl (a i)) (f.flushBits fl (b i))) ∧
        ends (.vfcopys c o) (fun i => (f.signCopy (f.sign (b i)) (a i), 0)) ∧
        ends (.vfcopyn c o) (fun i => (f.signCopy (!f.sign (b i)) (a i), 0)) ∧
        ends (.vfxsign c o) (fun i => (f.signCopy (f.sign (a i) != f.sign (b i)) (a i), 0))) ∧
      (Issues 0x69 c s slot h →
        ends (.vfma c o) (fun i => f.fma r fl.output false false (v (a i)) (v (b i)) (v (d i))) ∧
        ends (.vfms c o) (fun i => f.fma r fl.output false true (v (a i)) (v (b i)) (v (d i))) ∧
        ends (.vfnma c o) (fun i => f.fma r fl.output true false (v (a i)) (v (b i)) (v (d i))) ∧
        ends (.vfnms c o) (fun i => f.fma r fl.output true true (v (a i)) (v (b i)) (v (d i))))) ∧
    (∀ o : VecFloatUn, h.widthOk o.ty.width = true → Issues 0x68 c s slot h →
      let x := fun i => o.ty.fmt.sqrt (h.round o.rm) h.flush.output (o.ty.fmt.read h.flush (elemGet (h.getV o.a) o.ty.width i))
      ∃ g, Completes (.vfsqrt c o) s slot h g ∧
        VecResult h g o.d o.ty.width (h.flagsOf o.mask fun i => (x i).2) (h.moulded o.d o.ty.width o.mask fun i => (x i).1))

/-- R251, R252, R253: the widening floating forms, the conversions and VFCLASS, where well formed. -/
def Obligations.VectorConversionResults : Prop :=
  ∀ (c : Ctl) (s : State) (slot : Nat) (h : Hart), h.poison = [] → s.budget = none →
    (∀ o : VecFloatBin, Issues 0x6A c s slot h → (Instr.vfwma c o).wf = true → h.widthOk o.ty.wide.width = true →
      let n := o.ty
      let t := o.ty.wide
      let r := h.round o.rm
      let fl := h.flush
      let a := fun i => n.fmt.read fl (elemGet (h.getV o.a) n.width i)
      let b := fun i => n.fmt.read fl (h.vsrc n o.b i)
      let d := fun i => t.fmt.read fl (elemGet (h.getV o.d) t.width i)
      let ends := fun (i : Instr) (x : Nat → Word × FFlags) => ∃ g, Completes i s slot h g ∧
        VecResult h g o.d t.width (h.flagsOf o.mask fun i => (x i).2) (h.moulded o.d t.width o.mask fun i => (x i).1)
      ends (.vfwadd c o) (fun i => t.fmt.add r fl.output (a i) (b i)) ∧
      ends (.vfwmul c o) (fun i => t.fmt.mul r fl.output (a i) (b i)) ∧
      ends (.vfwma c o) (fun i => t.fmt.fma r fl.output false false (a i) (b i) (d i))) ∧
    (∀ o : VecConvert, Issues 0x6B c s slot h → h.widthOk (max o.src.width o.ty.width) = true →
      let a := fun i => elemGet (h.getV o.a) o.src.width i
      let ends := fun (i : Instr) (x : Nat → Word × FFlags) => i.wf = true → ∃ g, Completes i s slot h g ∧
        VecResult h g o.d o.ty.width (h.flagsOf o.mask fun i => (x i).2) (h.moulded o.d o.ty.width o.mask fun i => (x i).1)
      ends (.vfcvt c o) (fun i => o.ty.fmt.convert (h.round o.rm) h.flush.output (o.src.fmt.read h.flush (a i))) ∧
      ends (.vfcvti c o) (fun i => FVal.toInt o.ty (h.round o.rm) (o.src.fmt.read h.flush (a i))) ∧
      ends (.vicvtf c o) (fun i => o.ty.fmt.ofInt (h.round o.rm) h.flush.output (o.src.int (a i)))) ∧
    (∀ o : VecUn, Issues 0x6B c s slot h → h.widthOk o.ty.width = true →
      ∃ g, Completes (.vfclass c o) s slot h g ∧ VecResult h g o.d o.ty.width 0 (h.moulded o.d o.ty.width o.mask fun i =>
        o.ty.fmt.classBits h.flush (elemGet (h.getV o.a) o.ty.width i)))

/-- R254: VCMP writes one bit of its destination mask for each element from VSTART to VL, and no other bit; m0
keeps its ones (R108). R245, R246, R239: VSETL sets VL to the lesser of its operand and VLMAX; VSETT writes
VTYPE, cuts VL to the new VLMAX and returns it; both set VSTART to 0. What they write whole holds no poison
any more (R392). -/
def Obligations.VectorCompareAndSettingResults : Prop :=
  (∀ (c : Ctl) (o : VcmpForm) (s : State) (slot : Nat) (h : Hart), Issues 0x70 c s slot h → h.poison = [] → s.budget = none →
    h.widthOk o.ty.width = true →
    let x := fun i => condOf o.cond o.ty h.flush (elemGet (h.getV o.a) o.ty.width i) (h.vsrc o.ty o.b i)
    ∃ g, Completes (.vcmp c o) s slot h g ∧
      (∀ i, i < 1024 → (g.getM o.d).getLsbD i =
        (if o.d = 0 then true
         else if h.vstart ≤ i ∧ i < h.vl then
           (if h.active o.mask i then (x i).1 else !maskZeroing o.mask && (h.getM o.d).getLsbD i)
         else (h.getM o.d).getLsbD i)) ∧
      (∀ m, m ≠ o.d → g.getM m = h.getM m) ∧ g.fcsr = (h.raise (h.flagsOf o.mask fun i => (x i).2)).fcsr ∧ g.vstart = 0 ∧
      { g with regs := { g.regs with m := h.regs.m, vstart := h.regs.vstart }, fcsr := h.fcsr } = h) ∧
  (∀ (c : Ctl) (o : SetForm) (s : State) (slot : Nat) (h : Hart), Issues 0x60 c s slot h → h.poisoned (ssrcReads o.b) = false →
    let n := min (h.usrc o.b).toNat (vlmaxOf h.etypeCode)
    let v : BitVec 7 := (h.usrc o.b).setWidth 7
    let m := vlmaxOf (v.setWidth 4)
    Completes (.vsetl c o) s slot h
      (clearPoison ({ h with regs := { h.regs with vl := BitVec.ofNat 12 n, vstart := 0 } }.setS o.d (BitVec.ofNat 64 n))
        (RegLoc.controlIn [0x108, 0x110])) ∧
    Completes (.vsett c o) s slot h
      (clearPoison ({ h with regs := { h.regs with vtype := v, vl := BitVec.ofNat 12 (min h.vl m), vstart := 0 } }.setS o.d (BitVec.ofNat 64 m))
        (RegLoc.controlIn [0x108, 0x118])))

/-- R255, R257: merges, moves, splats and element numbers. R257 to R259, R244: the whole instructions that
permute, on every element below VL whatever VSTART is. -/
def Obligations.VectorMoveAndPermuteResults : Prop :=
  (∀ (c : Ctl) (s : State) (slot : Nat) (h : Hart), Issues 0x71 c s slot h → h.poison = [] → s.budget = none →
    let ends := fun (i : Instr) (d : VIdx) (w : Nat) (m : Mask) (val : Nat → Word) =>
      h.widthOk w = true → ∃ g, Completes i s slot h g ∧ VecResult h g d w 0 (h.moulded d w m val)
    (∀ o : VmergeForm, ends (.vmerge c o) o.d o.ty.slotWidth .none fun i =>
      if (h.getM o.m).getLsbD i then elemGet (h.getV o.b) o.ty.slotWidth i else elemGet (h.getV o.a) o.ty.slotWidth i) ∧
    (∀ o : VecUn, ends (.vmov c o) o.d o.ty.slotWidth o.mask fun i => elemGet (h.getV o.a) o.ty.slotWidth i) ∧
    (∀ o : VsplatForm, ends (.vsplat c o) o.d o.ty.slotWidth o.mask fun _ =>
      if o.ty.isNibble then low 4 (h.ssrc o.ty o.b) ||| (low 4 (h.ssrc o.ty o.b) <<< 4) else low o.ty.width (h.ssrc o.ty o.b)) ∧
    (∀ o : VidForm, ends (.vid c o) o.d o.ty.width o.mask fun i => BitVec.ofNat 64 i) ∧
    (∀ o : VextForm, h.widthOk o.ty.width = true →
      let j := (h.usrc o.b).toNat
      Completes (.vext c o) s slot h (h.setS o.d
        (if o.ty.vlmax ≤ j then 0 else o.ty.place (elemGet (h.getV o.a) o.ty.width j)))) ∧
    (∀ o : VinsForm, h.widthOk o.ty.width = true →
      let j := (h.usrc o.b).toNat
      Completes (.vins c o) s slot h
        (if o.ty.vlmax ≤ j then h else h.setV o.d (elemSet (h.getV o.d) o.ty.width j (h.getS o.a))))) ∧
  (∀ (c : Ctl) (s : State) (slot : Nat) (h : Hart), h.poison = [] →
    let below := fun (v : VIdx) (w j : Nat) => if j < h.vl then elemGet (h.getV v) w j else 0
    let ends := fun (i : Instr) (d : VIdx) (w : Nat) (elem : Nat → Word) =>
      h.widthOk w = true → ∃ g, Completes i s slot h g ∧ VecResult h g d w 0 elem
    let whole := fun (d : VIdx) (w : Nat) (m : Mask) (val : Nat → Word) (i : Nat) =>
      if i < h.vl then (if h.active m i then low w (val i) else if maskZeroing m then 0 else elemGet (h.getV d) w i)
      else elemGet (h.getV d) w i
    (Issues 0x71 c s slot h → ∀ o : VmrankForm, ends (.vmrank c o) o.d o.ty.width (whole o.d o.ty.width o.mask fun i =>
      BitVec.ofNat 64 ((List.range i).countP fun k => (h.getM o.a).getLsbD k && h.active o.mask k))) ∧
    (Issues 0x90 c s slot h →
      (∀ o : VshufForm, ends (.vshuf c o) o.d o.ty.slotWidth (whole o.d o.ty.slotWidth o.mask fun i =>
        below o.a o.ty.slotWidth (elemGet (h.getV o.b) o.ty.slotWidth i).toNat)) ∧
      (∀ o : VslideForm, let off := (h.usrc o.b).toNat
        ends (.vslideup c o) o.d o.ty.slotWidth (fun i =>
          if i < off then elemGet (h.getV o.d) o.ty.slotWidth i
          else whole o.d o.ty.slotWidth o.mask (fun i => below o.a o.ty.slotWidth (i - off)) i) ∧
        ends (.vslidedn c o) o.d o.ty.slotWidth (whole o.d o.ty.slotWidth o.mask fun i => below o.a o.ty.slotWidth (i + off)))) ∧
    (Issues 0x91 c s slot h →
      (∀ o : VcompressForm, let w := o.ty.slotWidth
        ends (.vcompress c o) o.d w fun i =>
          match ((List.range h.vl).filter fun k => (h.getM o.m).getLsbD k)[i]? with
          | some k => elemGet (h.getV o.a) w k
          | none => elemGet (h.getV o.d) w i) ∧
      (∀ o : VexpandForm, let w := o.ty.slotWidth
        ends (.vexpand c o) o.d w fun i =>
          if i < h.vl ∧ (h.getM o.m).getLsbD i then
            elemGet (h.getV o.a) w ((List.range i).countP fun k => (h.getM o.m).getLsbD k)
          else if i < h.vl ∧ o.zeroing then 0 else elemGet (h.getV o.d) w i)))

/-- R260, R261, R186, R187: reductions over the active elements below VL; they set VSTART to 0. -/
def Obligations.ReductionResults : Prop :=
  ∀ (c : Ctl) (s : State) (slot : Nat) (h : Hart), h.poison = [] →
    (∀ o : VecReduce, Issues 0x92 c s slot h → h.widthOk o.ty.width = true →
      let t := o.ty
      let init := low t.width (h.ssrc t o.b)
      let l := (h.activeBelow o.mask).map fun i => elemGet (h.getV o.a) t.width i
      let ends := fun (i : Instr) (x : Word) => Completes i s slot h ((h.setS o.d (t.place x)).setVstart 0)
      ends (.vredsum c o) (t.narrow false (t.int init + (l.map t.int).sum)) ∧
      ends (.vredmin c o) (l.foldl t.lesser init) ∧ ends (.vredmax c o) (l.foldl t.greater init) ∧
      ends (.vredand c o) (l.foldl (fun x y => x &&& y) init) ∧ ends (.vredor c o) (l.foldl (fun x y => x ||| y) init) ∧
      ends (.vredxor c o) (l.foldl (fun x y => x ^^^ y) init)) ∧
    (∀ o : VecFloatReduce, Issues 0x93 c s slot h → h.widthOk o.ty.width = true →
      let f := o.ty.fmt
      let w := o.ty.width
      let init := low w (h.ssrc o.ty o.b)
      let l := (h.activeBelow o.mask).map fun i => elemGet (h.getV o.a) w i
      let add := reduceAdd f (h.round o.rm) h.flush
      let ends := fun (i : Instr) (x : Word × FFlags) => Completes i s slot h (((h.setS o.d (o.ty.place x.1)).raise x.2).setVstart 0)
      (l = [] → ends (.vfredo c o) (f.flushBits h.flush init, 0)) ∧
      (l ≠ [] → ends (.vfredo c o) (l.foldl (fun x e => add x (e, 0)) (init, 0))) ∧
      ends (.vfredmin c o) (reduceMinMax false f h.flush init l) ∧ ends (.vfredmax c o) (reduceMinMax true f h.flush init l) ∧
      (let leaves : List (Option (Word × FFlags)) := (List.range o.ty.vlmax).map fun i =>
        if i < h.vl ∧ h.active o.mask i then some (elemGet (h.getV o.a) w i, 0) else none
       let x : Word × FFlags := match (treeSum add (Nat.log2 o.ty.vlmax) leaves)[0]? with
         | some (some x) => add (init, 0) x
         | _ => (f.flushBits h.flush init, 0)
       Completes (.vfredt c o) s slot h (((h.setS o.d x.1).raise x.2).setVstart 0)))

/-- R262 to R264, R155: the deferral queue. VDEFER appends the active elements, or appends nothing and returns
all ones when they do not fit; VDRAIN pops the oldest slots of a path, as many as VL allows, and sets VL to
their number; VDCOUNT counts. -/
def Obligations.DeferralResults : Prop :=
  ∀ (c : Ctl) (s : State) (slot : Nat) (h : Hart), Issues 0x94 c s slot h → h.poison = [] →
    (∀ o : VdeferForm, h.widthOk o.ty.width = true →
      let l := h.activeBelow o.mask
      let value := fun i k => if k ≤ o.n1.toNat then elemGet (h.getV (o.a + BitVec.ofNat 6 k)) o.ty.width i else 0
      let new := l.map fun i => ({ index := h.getS o.b + BitVec.ofNat 64 i, path := o.path
                                   v0 := value i 0, v1 := value i 1, v2 := value i 2, v3 := value i 3 } : DeferSlot)
      (l.length + h.defer.length ≤ 4096 → Completes (.vdefer c o) s slot h
        (({ h with defer := h.defer ++ new }.setS o.d (BitVec.ofNat 64 l.length)).setVstart 0)) ∧
      (4096 < l.length + h.defer.length → Completes (.vdefer c o) s slot h ((h.setS o.d (BitVec.allOnes 64)).setVstart 0))) ∧
    (∀ o : VdrainForm, (Instr.vdrain c o).wf = true → h.widthOk o.ty.width = true →
      let w := o.ty.width
      let mine := h.defer.filter fun x => x.path == o.path
      let l := mine.take h.vl
      let drained := fun (g : Hart) (v : VIdx) (f : DeferSlot → Word) => ∀ i, i < 8192 / w → elemGet (g.getV v) w i =
        match l[i]? with
        | some x => low w (f x)
        | none => elemGet (h.getV v) w i
      ∃ g, Completes (.vdrain c o) s slot h g ∧ g.vl = l.length ∧ g.vstart = 0 ∧
        (g.defer.filter fun x => x.path == o.path) = mine.drop h.vl ∧
        (g.defer.filter fun x => x.path != o.path) = (h.defer.filter fun x => x.path != o.path) ∧ g.defer.Sublist h.defer ∧
        drained g o.d (fun x => x.index) ∧
        (∀ k, k ≤ o.n1.toNat → drained g (o.a + BitVec.ofNat 6 k) fun x => x.value k) ∧
        (∀ v, v ≠ o.d → (∀ k, k ≤ o.n1.toNat → v ≠ o.a + BitVec.ofNat 6 k) → g.getV v = h.getV v) ∧
        { g with defer := h.defer, regs := { g.regs with v := h.regs.v, vl := h.regs.vl, vstart := h.regs.vstart }, arriving := h.arriving } = h) ∧
    (∀ o : VdcountForm, (Instr.vdcount c o).wf = true →
      Completes (.vdcount c o) s slot h ((h.setS o.d (BitVec.ofNat 64
        (if o.path = 16 then h.defer.length else (h.defer.filter fun x => x.path.setWidth 5 == o.path).length))).setVstart 0))

/-- R240: every instruction that has a governing width, on a hart whose VTYPE has another width, traps VWIDTH
and performs nothing, whatever its mask; where it names a tile, once that tile lies in the share (R280). That
VWIDTH comes before a STREAM check of OP 0xA1 to 0xA3 is the model's reading (log entry 43: R280 orders the
two for OP 0xB0 to 0xB3 alone), and that it comes before a POISON trap the model's choice (log entry 59). R18,
R280: a matrix instruction on a tile outside the hart's share, or a row above 255, traps ZRANGE with the tile
or the row, and changes no tile. -/
def Obligations.WidthAndTileChecksTrap : Prop :=
  (∀ (i : Instr) (r : Raw) (c : Ctl) (s : State) (slot : Nat) (h : Hart) (w : Nat), i.raw = some r → Ctl.parse r = some c →
    Issues r.op.toNat c s slot h → i.governs = some w → h.widthOk w = false → (∀ z, i.tile = some z → tileOk h z = true) →
    Traps i s slot h .vwidth 0) ∧
  (∀ (c : Ctl) (s : State) (slot : Nat) (h : Hart),
    (∀ o : MopaForm, Issues 0xB0 c s slot h → tileOk h o.d = false →
      Traps (.mopa c o) s slot h .zrange (o.d.setWidth 64) ∧ Traps (.mops c o) s slot h .zrange (o.d.setWidth 64)) ∧
    (∀ o : MstreamForm, Issues 0xB1 c s slot h → tileOk h o.d = false → Traps (.mstream c o) s slot h .zrange (o.d.setWidth 64)) ∧
    (∀ o : MstreamForm, Issues 0xB1 c s slot h → tileOk h o.d = true → h.widthOk 16 = true →
      h.poisoned (.s o.b :: maskBits 0 64 o.mask) = false → 255 < (h.getS o.b).toNat → Traps (.mstream c o) s slot h .zrange (h.getS o.b)) ∧
    (Issues 0xB2 c s slot h →
      (∀ o : ZzeroForm, tileOk h o.z = false → Traps (.zzero c o) s slot h .zrange (o.z.setWidth 64)) ∧
      (∀ o : ZreadForm, tileOk h o.z = false → Traps (.zread c o) s slot h .zrange (o.z.setWidth 64)) ∧
      (∀ o : ZwriteForm, tileOk h o.z = false → Traps (.zwrite c o) s slot h .zrange (o.z.setWidth 64)) ∧
      (∀ o : ZreadForm, tileOk h o.z = true → h.widthOk o.ty.width = true → h.poisoned (ssrcReads o.b) = false →
        255 < (h.usrc o.b).toNat → Traps (.zread c o) s slot h .zrange (h.usrc o.b)) ∧
      (∀ o : ZwriteForm, tileOk h o.z = true → h.widthOk o.ty.width = true → h.poisoned (ssrcReads o.b) = false →
        255 < (h.usrc o.b).toNat → Traps (.zwrite c o) s slot h .zrange (h.usrc o.b))) ∧
    (∀ o : ZmemForm, Issues 0xB3 c s slot h → tileOk h o.z = false →
      Traps (.zsave c o) s slot h .zrange (o.z.setWidth 64) ∧ Traps (.zload c o) s slot h .zrange (o.z.setWidth 64)))

/-- R380, R381, R242: an element-wise instruction of OP 0x61 to 0x71 that is stopped after `k` of its elements
has written those elements and no other, stands at its PC with VSTART at the next element, and is not counted;
executed again it leaves what it has written, performs the rest, and ends as one uninterrupted execution does,
with the same flags. -/
def Obligations.StoppedElementsResume : Prop :=
  ∀ (c : Ctl) (s : State) (slot : Nat) (h : Hart) (k : Nat), h.poison = [] → s.budget = some k → k < h.vl - h.vstart →
    h.vstart + k < 2048 →
    let ends := fun (op gw : Nat) (i : Instr) (d : VIdx) (w : Nat) (m : Mask) (x : Nat → Word × FFlags) =>
      Issues op c s slot h → i.wf = true → h.widthOk gw = true → StopsAndResumes op c i s slot h k d w m x
    let plain := fun (val : Nat → Word) (i : Nat) => ((val i, 0) : Word × FFlags)
    (∀ o : VecBin,
      let t := o.ty
      let a := fun i => elemGet (h.getV o.a) t.width i
      let b := fun i => h.vsrc t o.b i
      let d := fun i => elemGet (h.getV o.d) t.width i
      let same := fun (op : Nat) (i : Instr) (val : Nat → Word) => ends op t.width i o.d t.width o.mask (plain val)
      same 0x61 (.vadd c o) (fun i => t.narrow o.sat (t.int (a i) + t.int (b i))) ∧
      same 0x61 (.vsub c o) (fun i => t.narrow o.sat (t.int (a i) - t.int (b i))) ∧
      same 0x61 (.vrsub c o) (fun i => t.narrow o.sat (t.int (b i) - t.int (a i))) ∧
      same 0x61 (.vmin c o) (fun i => t.lesser (a i) (b i)) ∧ same 0x61 (.vmax c o) (fun i => t.greater (a i) (b i)) ∧
      same 0x61 (.vabsd c o) (fun i => t.narrow false ((t.int (a i) - t.int (b i)).natAbs : Int)) ∧
      same 0x61 (.vavg c o) (fun i => t.narrow false (Int.fdiv (t.int (a i) + t.int (b i) + 1) 2)) ∧
      same 0x62 (.vmul c o) (fun i => t.narrow o.sat (t.int (a i) * t.int (b i))) ∧
      same 0x62 (.vmulh c o) (fun i => t.mulHigh (a i) (b i)) ∧
      same 0x62 (.vmacc c o) (fun i => t.narrow o.sat (t.int (d i) + t.int (a i) * t.int (b i))) ∧
      same 0x62 (.vdiv c o) (fun i => t.quot (a i) (b i)) ∧ same 0x62 (.vrem c o) (fun i => t.rest (a i) (b i)) ∧
      same 0x63 (.vand c o) (fun i => a i &&& b i) ∧ same 0x63 (.vor c o) (fun i => a i ||| b i) ∧
      same 0x63 (.vxor c o) (fun i => a i ^^^ b i) ∧ same 0x63 (.vsll c o) (fun i => t.shiftLeft (a i) (b i)) ∧
      same 0x63 (.vsrl c o) (fun i => t.shiftRight (a i) (b i)) ∧ same 0x63 (.vsra c o) (fun i => t.shiftRightA (a i) (b i)) ∧
      let u := t.wide
      let e := fun i => u.int (elemGet (h.getV o.d) u.width i)
      let wide := fun (i : Instr) (val : Nat → Int) => ends 0x64 u.width i o.d u.width o.mask (plain fun i => u.narrow o.sat (val i))
      wide (.vwadd c o) (fun i => t.int (a i) + t.int (b i)) ∧ wide (.vwmul c o) (fun i => t.int (a i) * t.int (b i)) ∧
      wide (.vwmacc c o) (fun i => e i + t.int (a i) * t.int (b i))) ∧
    (∀ o : VecNarrow,
      let n := o.ty
      let t := o.ty.wide
      ends 0x64 t.width (.vnshr c o) o.d n.width o.mask (plain fun i =>
        n.narrow o.sat (shiftRounded (o.rm == .rdn) (t.int (elemGet (h.getV o.a) t.width i)) ((h.vsrc t o.b i).toNat % t.width)))) ∧
    (∀ o : VecFloatBin,
      let n := o.ty
      let f := n.fmt
      let r := h.round o.rm
      let fl := h.flush
      let x := fun i => elemGet (h.getV o.a) n.width i
      let y := fun i => h.vsrc n o.b i
      let a := fun i => f.read fl (x i)
      let b := fun i => f.read fl (y i)
      let d := fun i => f.read fl (elemGet (h.getV o.d) n.width i)
      let same := fun (op : Nat) (i : Instr) (x : Nat → Word × FFlags) => ends op n.width i o.d n.width o.mask x
      same 0x68 (.vfadd c o) (fun i => f.add r fl.output (a i) (b i)) ∧
      same 0x68 (.vfsub c o) (fun i => f.sub r fl.output (a i) (b i)) ∧
      same 0x68 (.vfmul c o) (fun i => f.mul r fl.output (a i) (b i)) ∧
      same 0x68 (.vfdiv c o) (fun i => f.div r fl.output (a i) (b i)) ∧
      same 0x68 (.vfmin c o) (fun i => f.minMax false (f.flushBits fl (x i)) (f.flushBits fl (y i))) ∧
      same 0x68 (.vfmax c o) (fun i => f.minMax true (f.flushBits fl (x i)) (f.flushBits fl (y i))) ∧
      same 0x68 (.vfcopys c o) (fun i => (f.signCopy (f.sign (y i)) (x i), 0)) ∧
      same 0x68 (.vfcopyn c o) (fun i => (f.signCopy (!f.sign (y i)) (x i), 0)) ∧
      same 0x68 (.vfxsign c o) (fun i => (f.signCopy (f.sign (x i) != f.sign (y i)) (x i), 0)) ∧
      same 0x69 (.vfma c o) (fun i => f.fma r fl.output false false (a i) (b i) (d i)) ∧
      same 0x69 (.vfms c o) (fun i => f.fma r fl.output false true (a i) (b i) (d i)) ∧
      same 0x69 (.vfnma c o) (fun i => f.fma r fl.output true false (a i) (b i) (d i)) ∧
      same 0x69 (.vfnms c o) (fun i => f.fma r fl.output true true (a i) (b i) (d i)) ∧
      let t := n.wide
      let e := fun i => t.fmt.read fl (elemGet (h.getV o.d) t.width i)
      let wide := fun (i : Instr) (x : Nat → Word × FFlags) => ends 0x6A t.width i o.d t.width o.mask x
      wide (.vfwadd c o) (fun i => t.fmt.add r fl.output (a i) (b i)) ∧ wide (.vfwmul c o) (fun i => t.fmt.mul r fl.output (a i) (b i)) ∧
      wide (.vfwma c o) (fun i => t.fmt.fma r fl.output false false (a i) (b i) (e i))) ∧
    (∀ o : VecFloatUn, ends 0x68 o.ty.width (.vfsqrt c o) o.d o.ty.width o.mask fun i =>
      o.ty.fmt.sqrt (h.round o.rm) h.flush.output (o.ty.fmt.read h.flush (elemGet (h.getV o.a) o.ty.width i))) ∧
    (∀ o : VecConvert,
      let a := fun i => elemGet (h.getV o.a) o.src.width i
      let turns := fun (i : Instr) (x : Nat → Word × FFlags) => ends 0x6B (max o.src.width o.ty.width) i o.d o.ty.width o.mask x
      turns (.vfcvt c o) (fun i => o.ty.fmt.convert (h.round o.rm) h.flush.output (o.src.fmt.read h.flush (a i))) ∧
      turns (.vfcvti c o) (fun i => FVal.toInt o.ty (h.round o.rm) (o.src.fmt.read h.flush (a i))) ∧
      turns (.vicvtf c o) (fun i => o.ty.fmt.ofInt (h.round o.rm) h.flush.output (o.src.int (a i)))) ∧
    (∀ o : VecUn,
      ends 0x6B o.ty.width (.vfclass c o) o.d o.ty.width o.mask
        (plain fun i => o.ty.fmt.classBits h.flush (elemGet (h.getV o.a) o.ty.width i)) ∧
      ends 0x71 o.ty.slotWidth (.vmov c o) o.d o.ty.slotWidth o.mask (plain fun i => elemGet (h.getV o.a) o.ty.slotWidth i)) ∧
    (∀ o : VmergeForm, ends 0x71 o.ty.slotWidth (.vmerge c o) o.d o.ty.slotWidth .none (plain fun i =>
      if (h.getM o.m).getLsbD i then elemGet (h.getV o.b) o.ty.slotWidth i else elemGet (h.getV o.a) o.ty.slotWidth i)) ∧
    (∀ o : VsplatForm, ends 0x71 o.ty.slotWidth (.vsplat c o) o.d o.ty.slotWidth o.mask (plain fun _ =>
      if o.ty.isNibble then low 4 (h.ssrc o.ty o.b) ||| (low 4 (h.ssrc o.ty o.b) <<< 4) else low o.ty.width (h.ssrc o.ty o.b))) ∧
    (∀ o : VidForm, ends 0x71 o.ty.width (.vid c o) o.d o.ty.width o.mask (plain fun i => BitVec.ofNat 64 i)) ∧
    (∀ o : VcmpForm, Issues 0x70 c s slot h → h.widthOk o.ty.width = true →
      let x := fun i => condOf o.cond o.ty h.flush (elemGet (h.getV o.a) o.ty.width i) (h.vsrc o.ty o.b i)
      let upTo := fun (n : Nat) (g : Hart) => (∀ i, i < 1024 → (g.getM o.d).getLsbD i =
          (if o.d = 0 then true
           else if h.vstart ≤ i ∧ i < n then
             (if h.active o.mask i then (x i).1 else !maskZeroing o.mask && (h.getM o.d).getLsbD i)
           else (h.getM o.d).getLsbD i)) ∧
        ∀ m, m ≠ o.d → g.getM m = h.getM m
      ∃ u g, exec (.vcmp c o) s = .next u ∧ u.hart? slot = some g ∧ g.pc = h.pc ∧ g.instret = h.instret ∧ g.vstart = h.vstart + k ∧
        upTo (h.vstart + k) g ∧ g.fcsr = (h.raise (h.flagsUpTo o.mask k fun i => (x i).2)).fcsr ∧
        (∀ j, j ≠ slot → u.hart? j = s.hart? j) ∧ u.mem = s.mem ∧
        ∀ t, Issues 0x70 c t slot g → t.budget = none → ∃ g', Completes (.vcmp c o) t slot g g' ∧ g'.vstart = 0 ∧ upTo h.vl g' ∧
          g'.fcsr = (h.raise (h.flagsOf o.mask fun i => (x i).2)).fcsr)

/-! ## Streams and stores -/

/-- R265, R266: the bindings of a stream register; QSET.ind of a stream that is no integer unit or stride
stream traps STREAM (R267). -/
def Obligations.StreamBindings : Prop :=
  ∀ (c : Ctl) (s : State) (slot : Nat) (h : Hart), Issues 0xA0 c s slot h →
    (∀ o : QsetForm, h.poisoned [.s o.a, .s o.b] = false →
      Completes (.qsetUnit c o) s slot h (h.setQ o.q
        { base := h.getS o.a, stride := h.getS o.b, pos := 0, ctl := BitVec.ofNat 64 (1 + 8 * o.ty.code.toNat) }) ∧
      Completes (.qsetStride c o) s slot h (h.setQ o.q
        { base := h.getS o.a, stride := h.getS o.b, pos := 0, ctl := BitVec.ofNat 64 (2 + 8 * o.ty.code.toNat) })) ∧
    (∀ o : QsetSegForm, h.poisoned (.s o.a :: if o.b = 0 then [] else [.s o.b]) = false →
      Completes (.qsetSeg c o) s slot h (h.setQ o.q
        { base := h.getS o.a
          stride := if o.b = 0 then BitVec.ofNat 64 (o.f.toNat * o.ty.bytes) else h.getS o.b
          pos := 0
          ctl := BitVec.ofNat 64 (3 + 8 * o.ty.code.toNat + 128 * (o.f.toNat - 1)) })) ∧
    (∀ o : QsetIndForm, h.poisoned [.s o.a, .q o.b] = false →
      ((h.getQ o.b).isIndex = true → Completes (.qsetInd c o) s slot h (h.setQ o.q
        { base := h.getS o.a, stride := 0, pos := 0, ctl := BitVec.ofNat 64 (4 + 8 * o.ty.code.toNat + 1024 * o.b.toNat) })) ∧
      ((h.getQ o.b).isIndex = false → Traps (.qsetInd c o) s slot h .stream 0))

/-- R267 to R270, R272, R229: a VLD or VLDSEG whose active elements can all be read holds what stands at their
addresses in its destination, and in every register of a segment, from VSTART to VL; QPOS advances by VL;
memory is as it was, and of the rest of the machine only what loads note may change: marks on stores under a
pin (R317), translations held (R99; log entry 22), HOME 01 pages met (R222), combining windows (R367) and
counts of replicated pages (R227). LOAD_DATA_ARRIVAL changes no value that a register reads. -/
def Obligations.VectorLoadsComplete : Prop :=
  ∀ (c : Ctl) (o : VloadForm) (s : State) (slot : Nat) (h : Hart), Issues 0xA1 c s slot h → h.poison = [] → s.budget = none →
    h.widthOk o.ty.slotWidth = true →
    let q := h.getQ o.q
    let w := o.ty.slotWidth
    let u := noteRunning s h
    (∀ x : Nat → Nat, streamOk h q o.ty [1, 2, 4] = true →
      (∀ i, h.vstart ≤ i → i < h.vl → h.active o.mask i = true → ∃ s1 a s2, streamAddr u slot h q i = .ok (s1, a) ∧
        elementRead s1 slot h a o.ty.bytes q.limit = .ok (s2, x i)) →
      ∃ s' g, CompletesIn (.vld c o) s s' slot g ∧ LoadsOnly u slot s' ∧
        (∀ i, i < 8192 / w → elemGet (g.getV o.d) w i = h.moulded o.d w o.mask (fun i => BitVec.ofNat 64 (x i)) i) ∧
        (∀ v, v ≠ o.d → g.getV v = h.getV v) ∧
        StreamedFrom h { g with regs := { g.regs with v := h.regs.v }, arriving := h.arriving } o.q h.vl) ∧
    (∀ x : Nat → Nat → Nat, streamOk h q o.ty [3] = true → o.d.toNat + q.nf ≤ 63 →
      (∀ i k, h.vstart ≤ i → i < h.vl → h.active o.mask i = true → k ≤ q.nf →
        ∃ s2, elementRead u slot h (q.direct i + BitVec.ofNat 64 (k * o.ty.bytes)) o.ty.bytes none = .ok (s2, x i k)) →
      ∃ s' g, CompletesIn (.vldseg c o) s s' slot g ∧ LoadsOnly u slot s' ∧
        (∀ i k, i < 8192 / w → k ≤ q.nf → elemGet (g.getV (o.d + BitVec.ofNat 6 k)) w i =
          h.moulded (o.d + BitVec.ofNat 6 k) w o.mask (fun i => BitVec.ofNat 64 (x i k)) i) ∧
        (∀ v, (∀ k, k ≤ q.nf → v ≠ o.d + BitVec.ofNat 6 k) → g.getV v = h.getV v) ∧
        StreamedFrom h { g with regs := { g.regs with v := h.regs.v }, arriving := h.arriving } o.q h.vl) ∧
    (∀ group, s.hart? slot = some h → ∃ g, exec (.loadDataArrival slot group) s = .next (s.setHart slot g) ∧
      (∀ v, g.getV v = h.getV v) ∧ { g with regs := { g.regs with v := h.regs.v }, arriving := h.arriving } = h)

/-- R267 to R273: a VST, VSTSEG or VSTC whose active elements can be written one after the other, each in the
state that the ones before it leave (an ordered one that others follow once no pin of its own pair keeps it
from VA, R314), completes in the state that the last one leaves, and QPOS advances; the gather lists of the
Lantern are popped first (R147, R149; log entry 34). The unordered forms are stated where no two active
elements have one address; otherwise which of the two remains is open (R271). -/
def Obligations.VectorStoresComplete : Prop :=
  ∀ (c : Ctl) (o : VstoreForm) (s : State) (slot : Nat) (h : Hart) (st : Nat → State), h.poison = [] → s.budget = none →
    h.widthOk o.ty.slotWidth = true →
    let q := h.getQ o.q
    let n := o.ty.bytes
    let el := fun v i => elemGet (h.getV v) o.ty.slotWidth i
    let u := { noteRunning s h with fresh := s.fresh + 1 }
    let popped := fun fields => u.modHart slot fun y => y.popGather u slot (gathered u slot h q o.mask fields 0)
    let v := noteRunning s h
    let lower := fun i j => h.vstart ≤ j ∧ j < i ∧ i < h.vl ∧ h.active o.mask i = true ∧ h.active o.mask j = true
    (Issues 0xA2 c s slot h → streamOk h q o.ty [1, 2, 4] = true → st h.vstart = popped 1 →
      (o.u = true → ∀ i j a b s1 s2, lower i j → streamAddr u slot h q j = .ok (s1, b) →
        streamAddr u slot h q i = .ok (s2, a) → a ≠ b) →
      RunsFrom (h.active o.mask) (fun i s => (streamAddr s slot (hartAt s slot h) q i).bind fun r =>
        storeElem r.1 slot h o.mask (!o.u) i r.2 n q.limit (el o.b i)) st h.vstart (max h.vstart h.vl) →
      ∃ y g, (st (max h.vstart h.vl)).hart? slot = some y ∧ StreamedFrom y g o.q h.vl ∧
        CompletesIn (.vst c o) s ((st (max h.vstart h.vl)).setHart slot g) slot g) ∧
    (Issues 0xA2 c s slot h → streamOk h q o.ty [3] = true → o.b.toNat + q.nf ≤ 63 → st h.vstart = popped (q.nf + 1) →
      (o.u = true → ∀ i j k k', lower i j → k ≤ q.nf → k' ≤ q.nf → q.direct i + BitVec.ofNat 64 (k * n) ≠ q.direct j + BitVec.ofNat 64 (k' * n)) →
      RunsFrom (h.active o.mask) (fun i s => (segmentCheck s slot (hartAt s slot h) (q.direct i) n (q.nf + 1) 0).bind fun pls =>
        performElement slot h o.mask (!o.u) i (s, ((segmentRegs o.b q.nf).zip pls).map fun e =>
          { va := e.2.1, place := e.2.2, bytes := elemBytes n (el e.1 i) }))
        st h.vstart (max h.vstart h.vl) →
      ∃ y g, (st (max h.vstart h.vl)).hart? slot = some y ∧ StreamedFrom y g o.q h.vl ∧
        CompletesIn (.vstseg c o) s ((st (max h.vstart h.vl)).setHart slot g) slot g) ∧
    (Issues 0xA3 c s slot h → streamOk h q o.ty [1] = true →
      st h.vstart = (v.modHart slot fun y => y.popGather v slot (packedAddrs h q o.mask)) →
      RunsFrom (h.active o.mask) (fun i s => (storeElem s slot h o.mask true i (((hartAt s slot h).getQ o.q).direct 0) n q.limit (el o.b i)).map
        fun s => s.modHart slot fun y => advanceStream y o.q 1) st h.vstart (max h.vstart h.vl) →
      ∃ y g, (st (max h.vstart h.vl)).hart? slot = some y ∧ g.vstart = 0 ∧
        { g with regs := { g.regs with vstart := y.regs.vstart }, perf := y.perf, lantern := y.lantern } = y ∧
        CompletesIn (.vstc c o) s ((st (max h.vstart h.vl)).setHart slot g) slot g)

/-- R197, R269, R356, R358, R97: where a store goes. A checked store of device memory outside a transmit
window writes its bytes at its physical address and no other byte of memory; one of host memory writes them
over its link, where it waits for the host's coherence (R310), or over a failed link writes nothing and is
recorded in ERRSTAT; one in the scratch window writes scratch bytes of its hart and no memory; one in a
transmit window sends on every path of its entry, and writes the page's local bytes, at VA at once, with LB 1
alone. -/
def Obligations.StoresWriteOnlyTheirBytes : Prop :=
  ∀ (s : State) (slot part : Nat) (vec : Bool) (va : Word) (bs : List Byte),
    let writes := fun (pa : Nat) (t : State) =>
      SameBytesBut s t (storageOf pa) bs.length ∧ ∀ k (hk : k < bs.length), Memory.read t.mem (storageOf pa + k) = bs[k]
    (∀ pa pte, pteWtype pte ≠ 1 → isHostPa pa = false →
      let t := performStore s slot vec part (.mem pa pte) va bs
      writes pa t ∧ t.harts = s.harts ∧ t.egress = s.egress ∧ t.hostStores = s.hostStores) ∧
    (∀ pa pte, pteWtype pte ≠ 1 → isHostPa pa = true →
      let t := performStore s slot vec part (.mem pa pte) va bs
      let r := (s.part part).regs
      t.harts = s.harts ∧ t.egress = s.egress ∧
      (hostWriteFails s pa bs.length = false → writes pa t ∧ t.hostStamp = s.hostStamp + 1 ∧
        ∃ e, t.hostStores = s.hostStores ++ [e] ∧ e.slot = slot ∧ e.vec = vec ∧ e.transfer = none ∧ e.pa = pa ∧ e.n = bs.length ∧
          e.stamp = s.hostStamp) ∧
      (hostWriteFails s pa bs.length = true → t.mem = s.mem ∧ t.hostStores = s.hostStores ∧
        bits (t.part part).regs.errstat 48 16 = min (bits r.errstat 48 16 + 1) 65535 ∧
        (r.errstat.getLsbD 0 = false → (t.part part).regs.errstat.getLsbD 0 = true ∧ bits (t.part part).regs.errstat 1 3 = 6 ∧
          (t.part part).regs.errloc = BitVec.ofNat 64 (pa % 2 ^ 52)))) ∧
    (∀ off h, s.hart? slot = some h →
      let t := performStore s slot vec part (.scratch off) va bs
      t.mem = s.mem ∧ t.egress = s.egress ∧ (∀ k, k ≠ slot → t.hart? k = s.hart? k) ∧ ∃ g, t.hart? slot = some g ∧
        (∀ k (hk : k < bs.length), g.scratchByte (off + k) = bs[k]) ∧
        (∀ b, (b < off ∨ off + bs.length ≤ b) → g.scratchByte b = h.scratchByte b) ∧ g.regs = h.regs) ∧
    (∀ pa pte w, pteWtype pte = 1 → s.window (pteAux pte) = some w →
      let t := performStore s slot vec part (.mem pa pte) va bs
      t.harts = s.harts ∧ t.egress.length = s.egress.length + winNdest w ∧ (winLb w = false → t.mem = s.mem) ∧
      (winLb w = true → isHostPa pa = false → writes pa t ∧ ∀ k, (t.pair k).delayed = (s.pair k).delayed))

/-! ## The matrix pipe and Equinox -/

/-- R281 to R283, R182, R184: MOPA and MOPS add to, or take from, each cell of an active row and column the
exact sum of its products with one rounding; a row whose elements of VA are all zero is passed over unless SZ
is set; every other cell keeps its value. -/
def Obligations.OuterProductResults : Prop :=
  ∀ (c : Ctl) (o : MopaForm) (s : State) (slot : Nat) (h : Hart) (minus : Bool), Issues 0xB0 c s slot h → h.poison = [] →
    s.budget = none → tileOk h o.d = true → h.widthOk o.ty.slotWidth = true →
    let k := o.d.toNat
    let w := cellWidth o.ty
    let n := (h.vl + perCellVl o.ty - 1) / perCellVl o.ty
    let base := if o.half then 128 else 0
    let rows := (List.range n).filter fun i => decide (h.vstart ≤ i) && h.active o.mask i && !(!h.sz && rowIsZero h o.ty o.a i)
    let cols := (List.range n).filter fun j => columnActive h o.mask j
    let old := fun i j => elemGet (h.row k (base + i)) w j
    let new := fun i j => outerCell h o minus i j (old i j)
    ∃ g, Completes (if minus then .mops c o else .mopa c o) s slot h g ∧ g.vstart = 0 ∧
      (∀ i j, i ∈ rows → j < 8192 / w → elemGet (g.row k (base + i)) w j = if j ∈ cols then low w (new i j).1 else old i j) ∧
      (∀ k' r, (∀ i ∈ rows, k' * 256 + r ≠ k * 256 + (base + i)) → g.row k' r = h.row k' r) ∧
      g.zdirty = (if rows = [] ∨ cols = [] then h.zdirty else h.zdirty ||| 1#32 <<< k) ∧
      g.fcsr = (h.raise ((rows.flatMap fun i => cols.map fun j => (new i j).2).foldl (fun a b => a ||| b) 0)).fcsr ∧
      { g with regs := { g.regs with vstart := h.regs.vstart }, tiles := h.tiles, zdirty := h.zdirty, fcsr := h.fcsr, perf := h.perf } = h

/-- R284 to R286, R279, R185: MSTAGE fills the shadow plane from a unit stream of BF16, MSWAP exchanges the
planes, and MSTREAM adds to 64 cells of a row the products of the activations with the live plane, group by
group of 32. -/
def Obligations.StationaryPlaneResults : Prop :=
  ∀ (c : Ctl) (s : State) (slot : Nat) (h : Hart), Issues 0xB1 c s slot h → h.poison = [] → s.budget = none →
    (∀ (o : MstageForm) (x : Nat → Nat → Nat),
      let q := h.getQ o.q
      let n := min (h.usrc o.b).toNat 512
      let u := noteRunning s h
      streamOk h q .bf16 [1] = true →
      (∀ t e, h.vstart ≤ t → t < n → e < 64 → ∃ s2, elementRead u slot h (q.direct (64 * t + e)) 2 q.limit = .ok (s2, x t e)) →
      ∃ s' g, CompletesIn (.mstage c o) s s' slot g ∧ LoadsOnly u slot s' ∧
        g.shadow.kp = BitVec.ofNat 10 n ∧ g.live = h.live ∧ g.vstart = 0 ∧
        (∀ t j, t < 512 → j < 64 → g.shadow.weight t j =
          if n ≤ t then 0 else if t < h.vstart then h.shadow.weight t j else BitVec.ofNat 64 (x t j % 2 ^ 16)) ∧
        StreamedFrom h { g with shadow := h.shadow } o.q (64 * n)) ∧
    Completes (.mswap c) s slot h { h with live := h.shadow, shadow := h.live } ∧
    (∀ o : MstreamForm, tileOk h o.d = true → h.widthOk 16 = true → (h.getS o.b).toNat ≤ 255 →
      let k := o.d.toNat
      let r := (h.getS o.b).toNat
      let groups := (streamGroups (min h.vl h.live.kp.toNat)).filter fun g => !groupSkipped h o.a g
      let on := fun j => h.active o.mask j && !groups.isEmpty
      let old := fun j => elemGet (h.row k r) 32 (64 * o.c.toNat + j)
      let new := fun j => streamColumn h (h.round o.rm) o.a groups j (old j)
      ∃ g, Completes (.mstream c o) s slot h g ∧ g.vstart = 0 ∧
        (∀ j, j < 64 → elemGet (g.row k r) 32 (64 * o.c.toNat + j) = if on j then low 32 (new j).1 else old j) ∧
        (∀ m, m < 256 → (m < 64 * o.c.toNat ∨ 64 * o.c.toNat + 64 ≤ m) → elemGet (g.row k r) 32 m = elemGet (h.row k r) 32 m) ∧
        (∀ k' r', k' * 256 + r' ≠ k * 256 + r → g.row k' r' = h.row k' r') ∧
        g.zdirty = (if (List.range 64).any on then h.zdirty ||| 1#32 <<< k else h.zdirty) ∧
        g.fcsr = (h.raise ((((List.range 64).filter on).map fun j => (new j).2).foldl (fun a b => a ||| b) 0)).fcsr ∧
        { g with regs := { g.regs with vstart := h.regs.vstart }, tiles := h.tiles, zdirty := h.zdirty, fcsr := h.fcsr, perf := h.perf } = h)

/-- R287 to R289, R276: rows and tiles moved to and from vectors and memory, and tiles zeroed. -/
def Obligations.TileMovesComplete : Prop :=
  ∀ (c : Ctl) (s : State) (slot : Nat) (h : Hart), h.poison = [] → s.budget = none →
    (Issues 0xB2 c s slot h →
      (∀ o : ZreadForm, tileOk h o.z = true → h.widthOk o.ty.width = true → (h.usrc o.b).toNat ≤ 255 →
        ∃ g, Completes (.zread c o) s slot h g ∧ VecResult h g o.d o.ty.width 0
          (h.moulded o.d o.ty.width o.mask fun i => elemGet (h.row o.z.toNat (h.usrc o.b).toNat) o.ty.width i)) ∧
      (∀ o : ZwriteForm, tileOk h o.z = true → h.widthOk o.ty.width = true → (h.usrc o.b).toNat ≤ 255 →
        let k := o.z.toNat
        let r := (h.usrc o.b).toNat
        let w := o.ty.width
        let written := fun i => decide (h.vstart ≤ i) && decide (i < h.vl) && h.writes o.mask i
        ∃ g, Completes (.zwrite c o) s slot h g ∧ g.vstart = 0 ∧
          (∀ i, i < 8192 / w → elemGet (g.row k r) w i =
            if written i then (if h.active o.mask i then elemGet (h.getV o.a) w i else 0) else elemGet (h.row k r) w i) ∧
          (∀ k' r', k' * 256 + r' ≠ k * 256 + r → g.row k' r' = h.row k' r') ∧
          g.zdirty = (if (List.range h.vl).any written then h.zdirty ||| 1#32 <<< k else h.zdirty) ∧
          { g with regs := { g.regs with vstart := h.regs.vstart }, tiles := h.tiles, zdirty := h.zdirty } = h) ∧
      (∀ o : ZzeroForm, tileOk h o.z = true → ∃ g, Completes (.zzero c o) s slot h g ∧
        (∀ k r, r < 256 → g.row k r = if k = o.z.toNat then 0 else h.row k r) ∧ g.zdirty = h.zdirty &&& ~~~(1#32 <<< o.z.toNat) ∧
        { g with tiles := h.tiles, zdirty := h.zdirty } = h)) ∧
    (Issues 0xB3 c s slot h → ∀ o : ZmemForm, tileOk h o.z = true → streamOk h (h.getQ o.q) o.ty [1] = true →
      let q := h.getQ o.q
      let u := noteRunning s h
      (∀ st : Nat → State, st h.vstart = u →
        RunsFrom (fun _ => true) (fun i s => (rowWriteCheck s slot (hartAt s slot h) q 4 256 (256 * i)).bind fun pls =>
          performRow slot h i (s, rowWrites h o.z.toNat i pls))
          st h.vstart (max h.vstart 256) →
        ∃ y g, (st (max h.vstart 256)).hart? slot = some y ∧ StreamedFrom y g o.q 65536 ∧
          CompletesIn (.zsave c o) s ((st (max h.vstart 256)).setHart slot g) slot g) ∧
      (∀ x : Nat → Nat → Nat,
        (∀ i j, h.vstart ≤ i → i < 256 → j < 256 → ∃ s2, elementRead u slot h (q.direct (256 * i + j)) 4 q.limit = .ok (s2, x i j)) →
        ∃ s' g, CompletesIn (.zload c o) s s' slot g ∧ LoadsOnly u slot s' ∧
          (∀ i j, h.vstart ≤ i → i < 256 → j < 256 → elemGet (g.row o.z.toNat i) 32 j = BitVec.ofNat 64 (x i j % 2 ^ 32)) ∧
          (∀ k r, (∀ i, h.vstart ≤ i → i < 256 → k * 256 + r ≠ o.z.toNat * 256 + i) → g.row k r = h.row k r) ∧
          g.zdirty = (if h.vstart < 256 then h.zdirty ||| 1#32 <<< o.z.toNat else h.zdirty) ∧ StreamedFrom h { g with tiles := h.tiles, zdirty := h.zdirty } o.q 65536))

/-- R294 to R297: EQINT, EQMRG and the cursor form of EQNZ take positions one by one until nothing is left or
VL lanes are full, and then set VL to the lanes written and VSTART to 0; the states of the positions are those
of one step each, after the Lantern's batch is popped (R147, R149; log entry 34). The vector form of EQNZ
writes the numbers of its non-zero elements above its base and sets VL to their count. -/
def Obligations.EquinoxLoopsComplete : Prop :=
  ∀ (c : Ctl) (s : State) (slot : Nat) (h : Hart), Issues 0xC0 c s slot h → h.poison = [] → s.budget = none →
    let u := noteRunning s h
    let loop := fun (i : Instr) (es : List EIdx) (step : State × Nat → Except Denied (Option (State × Nat))) =>
      ∀ (st : Nat → State × Nat) (n : Nat), st 0 = (popCoords u slot h es, h.vstart) → n < fuelOf h es →
        (∀ k, k < n → step (st k) = .ok (some (st (k + 1)))) → step (st n) = .ok none →
        ∃ y g, (st n).1.hart? slot = some y ∧ g.vl = min (st n).2 h.vl ∧ g.vstart = 0 ∧
          { g with regs := { g.regs with vl := y.regs.vl, vstart := y.regs.vstart }, perf := y.perf, lantern := y.lantern } = y ∧
          CompletesIn i s ((st n).1.setHart slot g) slot g
    (∀ o : EqintForm, h.widthOk 32 = true → cursorOk h o.a [0, 1, 2, 3] = true → cursorOk h o.b [0, 1, 2, 3] = true →
      loop (.eqint c o) [o.a, o.b] (eqintStep slot o h.vl h)) ∧
    (∀ o : EqmrgForm, h.widthOk 32 = true → cursorOk h o.a [0, 1, 2, 3] = true → cursorOk h o.b [0, 1, 2, 3] = true →
      loop (.eqmrg c o) [o.a, o.b] (eqmrgStep slot o h.vl h)) ∧
    (∀ o : EqnzCursorForm, h.widthOk 32 = true → cursorOk h o.a [3] = true →
      loop (.eqnzCursorForm c o) [o.a] (eqnzStep slot o h.vl h)) ∧
    (∀ o : EqnzForm, h.widthOk o.ty.width = true →
      let w := o.ty.width
      let hits := (h.activeBelow o.mask).filter fun i => !scanZero h o.ty (elemGet (h.getV o.a) w i)
      let nv := o.ty.isFloat && (h.activeBelow o.mask).any fun i => (o.ty.fmt.value (elemGet (h.getV o.a) w i)).isSignalling
      ∃ g, Completes (.eqnz c o) s slot h g ∧ g.vl = hits.length ∧ g.vstart = 0 ∧
        (∀ k, k < 256 → elemGet (g.getV o.d) 32 k = match hits[k]? with
          | some i => low 32 (h.usrc o.b + BitVec.ofNat 64 i)
          | none => elemGet (h.getV o.d) 32 k) ∧
        (∀ v, v ≠ o.d → g.getV v = h.getV v) ∧ g.fcsr = (h.raise (nvOf nv)).fcsr ∧
        g.sansVector = Hart.sansVector { h with regs := { h.regs with vl := g.regs.vl } })

/-- R295, R292: EQINT on two dense cursors, which read no memory, writes the positions that both hold, from
the first of them and as many as there are lanes, to each of its two registers, and sets VL to their number.
R296: one lane of EQMRG: where only one cursor is left, or its coordinate is the lesser, that cursor's
position, NONE in the place of the other's, its coordinate and its origin tag, and it alone advances; where
the coordinates are equal, both positions, both tags, and both advance. R297: one position of EQNZ's cursor
form: a non-zero value's position takes the next lane, a zero takes none, and the cursor moves on by one.
R293, R298: EQSAVE and EQLOAD move the four words of a cursor to and from 32 aligned bytes: EQSAVE performs a
store of them and leaves its registers, EQLOAD writes its cursor alone, and traps CURSOR with every cursor
unchanged on words that break the conditions of R293. EQSPLT gives each hart of the gang its share of a row,
or the whole of it to one hart, and traps CURSOR on another encoding, on a row that ends before it starts or
beyond 2^32 - 1, with the cursor unchanged. A misaligned address traps ALIGN. -/
def Obligations.CursorsIntersectAndMove : Prop :=
  (∀ (c : Ctl) (o : EqintForm) (s : State) (slot : Nat) (h : Hart), Issues 0xC0 c s slot h → h.poison = [] → s.budget = none →
    h.widthOk 32 = true → o.a ≠ o.b → o.d.toNat ≤ 62 → cursorBad (h.getE o.a) = false → cursorBad (h.getE o.b) = false →
    curEnc (h.getE o.a) = 3 → curEnc (h.getE o.b) = 3 → h.vstart = 0 → h.vl ≤ 256 →
    let lo := max (curPos (h.getE o.a)) (curPos (h.getE o.b))
    let hi := min (curEnd (h.getE o.a)) (curEnd (h.getE o.b))
    let n := min (hi - lo) h.vl
    ∃ g, Completes (.eqint c o) s slot h g ∧ g.vl = n ∧
      ∀ k, k < n → elemGet (g.getV o.d) 32 k = BitVec.ofNat 64 (lo + k) ∧ elemGet (g.getV (o.d + 1)) 32 k = BitVec.ofNat 64 (lo + k)) ∧
  ((∀ (slot lim cnt : Nat) (o : EqmrgForm) (s s1 s2 : State) (h h0 : Hart) (pa pb : Option Peek), s.hart? slot = some h → cnt < lim →
    o.a ≠ o.b → settle s slot h o.a = .ok (s1, pa) → settle s1 slot h o.b = .ok (s2, pb) →
    let lane := fun (x y k : Nat) (ta tb : Bool) => ∃ g t, eqmrgStep slot o lim h0 (s, cnt) = .ok (some (t, cnt + 1)) ∧
      t = s2.setHart slot g ∧
      (∀ i, i < 256 → elemGet (g.getV o.d) 32 i = (if i = cnt then BitVec.ofNat 64 (x % 2 ^ 32) else elemGet (h.getV o.d) 32 i) ∧
        elemGet (g.getV (o.d + 1)) 32 i = (if i = cnt then BitVec.ofNat 64 (y % 2 ^ 32) else elemGet (h.getV (o.d + 1)) 32 i) ∧
        elemGet (g.getV (o.d + 2)) 32 i = if i = cnt then BitVec.ofNat 64 (k % 2 ^ 32) else elemGet (h.getV (o.d + 2)) 32 i) ∧
      (∀ i, i < 1024 → (o.n ≠ 0 → (g.getM o.n).getLsbD i = if i = cnt then ta else (h.getM o.n).getLsbD i) ∧
        (o.n + 1 ≠ 0 → (g.getM (o.n + 1)).getLsbD i = if i = cnt then tb else (h.getM (o.n + 1)).getLsbD i)) ∧
      (∀ v, v ≠ o.d → v ≠ o.d + 1 → v ≠ o.d + 2 → g.getV v = h.getV v) ∧ (∀ m, m ≠ o.n → m ≠ o.n + 1 → g.getM m = h.getM m) ∧
      g.getE o.a = (if ta then advanceCursor (h.getE o.a) k else h.getE o.a) ∧
      g.getE o.b = (if tb then advanceCursor (h.getE o.b) k else h.getE o.b) ∧ (∀ e, e ≠ o.a → e ≠ o.b → g.getE e = h.getE e) ∧
      { g with regs := { g.regs with v := h.regs.v, m := h.regs.m, e := h.regs.e }, poison := h.poison, arriving := h.arriving
               lantern := h.lantern } = h
    (∀ a ra, pa = some (.present a ra) → pb = none ∨ (∃ b rb, pb = some (.present b rb) ∧ a < b) → lane ra 0xFFFFFFFF a true false) ∧
    (∀ b rb, pb = some (.present b rb) → pa = none ∨ (∃ a ra, pa = some (.present a ra) ∧ b < a) → lane 0xFFFFFFFF rb b false true) ∧
    (∀ a ra rb, pa = some (.present a ra) → pb = some (.present a rb) → lane ra rb a true true) ∧
    (pa = none → pb = none → eqmrgStep slot o lim h0 (s, cnt) = .ok none)) ∧
  (∀ (slot lim cnt : Nat) (o : EqnzCursorForm) (s s1 : State) (h h0 : Hart) (v : Nat), s.hart? slot = some h → cnt < lim →
    let c := h.getE o.a
    exhausted c = false → curEnc c = 3 → elementRead s slot h (c.cbase + BitVec.ofNat 64 (curPos c * o.ty.bytes)) o.ty.bytes none = .ok (s1, v) →
    let hit := !scanZero h o.ty (BitVec.ofNat 64 v)
    ∃ g, eqnzStep slot o lim h0 (s, cnt) = .ok (some (s1.setHart slot g, cnt + if hit then 1 else 0)) ∧
      curPos (g.getE o.a) = curPos c + 1 ∧ curAux (g.getE o.a) = curAux c ∧
      { g.getE o.a with cpos := c.cpos } = c ∧ (∀ e, e ≠ o.a → g.getE e = h.getE e) ∧
      (∀ i, i < 256 → elemGet (g.getV o.d) 32 i = if hit ∧ i = cnt then BitVec.ofNat 64 (curPos c) else elemGet (h.getV o.d) 32 i) ∧
      (∀ x, x ≠ o.d → g.getV x = h.getV x) ∧
      { g with regs := { g.regs with v := h.regs.v, e := h.regs.e }, poison := h.poison, arriving := h.arriving
               lantern := h.lantern } = h)) ∧
  (∀ (c : Ctl) (s : State) (slot : Nat) (h : Hart), h.poison = [] →
    let u := noteRunning s h
    (Issues 0xC2 c s slot h → ∀ o : CursorMemForm,
      let ea := h.getS o.a + o.off.signExtend 64
      (ea.toNat % 32 ≠ 0 → Traps (.eqsave c o) s slot h .align ea ∧ Traps (.eqload c o) s slot h .align ea) ∧
      (ea.toNat % 32 = 0 →
        (∀ pl, checkStore u slot h ea 32 true = .ok pl →
          StoresAs (.eqsave c o) s (performStore u slot true h.ids.part pl ea (cursorBytes (h.getE o.e))) slot h pl (cursorBytes (h.getE o.e))) ∧
        (∀ (s' : State) (x : Cursor), load u slot h ea 32 = .ok (s', cursorBytes x) →
          (cursorBad x = false → CompletesIn (.eqload c o) s s' slot (h.setE o.e x)) ∧
          (cursorBad x = true → TrapsIn (.eqload c o) s s' slot h.pc .cursor (o.e.setWidth 64) ∧
            ∀ t g, exec (.eqload c o) s = .next t → t.hart? slot = some g → g.regs.e = h.regs.e)))) ∧
    (Issues 0xC1 c s slot h → ∀ o : EqspltForm,
      (cursorOk h o.e [0, 3] = false → Traps (.eqsplt c o) s slot h .cursor (o.e.setWidth 64)) ∧
      (cursorOk h o.e [0, 3] = true → ∀ (s1 s2 : State) (x y : Nat),
        let at_ := BitVec.ofNat 64 (curRows (h.getE o.e)) + h.getS o.a * 8
        elementRead u slot h at_ 8 none = .ok (s1, x) → elementRead s1 slot h (at_ + 8) 8 none = .ok (s2, y) →
        let len := y - x
        let n := h.ids.hartid
        let m := h.ids.gsize
        let split := decide ((h.ssrc .i64 o.b).toNat < len)
        let mine := decide (n = (h.getS o.a).toNat % m)
        (x ≤ y → y < 2 ^ 32 → ∃ g, CompletesIn (.eqsplt c o) s s2 slot g ∧
          curPos (g.getE o.e) = (if split then x + len * n / m else if mine then x else y) % 2 ^ 32 ∧
          (g.getE o.e).cend = BitVec.ofNat 64 (if split then x + len * (n + 1) / m else y) ∧
          (g.getE o.e).cctl.getLsbD 5 = split ∧ (g.getE o.e).cctl.getLsbD 6 = false ∧ curAux (g.getE o.e) = 0 ∧
          (∀ b, b ≠ 5 → b ≠ 6 → (g.getE o.e).cctl.getLsbD b = (h.getE o.e).cctl.getLsbD b) ∧
          (g.getE o.e).cbase = (h.getE o.e).cbase ∧ (∀ e, e ≠ o.e → g.getE e = h.getE e) ∧
          { g with regs := { g.regs with e := h.regs.e } } = h) ∧
        (y < x ∨ 2 ^ 32 ≤ y → TrapsIn (.eqsplt c o) s s2 slot h.pc .cursor (o.e.setWidth 64) ∧
          ∀ t g, exec (.eqsplt c o) s = .next t → t.hart? slot = some g → g.regs.e = h.regs.e))))

/-! ## The tile buffer and the copy engine -/

/-- R301, R302, R217, R220: TRESIZE keeps the scratch of the hart's first ways, brings the ways that come as
zero, and answers the count before; TGIVE gives the host's granules of its range to the engine. Each traps
where the rules say, POISON where an owner bit that it reads came poisoned (R392; log entry 53). -/
def Obligations.ScratchWaysAndGranules : Prop :=
  ∀ (c : Ctl) (s : State) (slot : Nat) (h : Hart), Issues 0xC8 c s slot h →
    let u := noteRunning s h
    (∀ o : TresizeForm, h.poisoned (ssrcReads o.b) = false →
      let n := (h.usrc o.b).toNat
      let p := u.pair (pairOf slot)
      let other := p.ways (1 - sideOf slot)
      (15 < n ∨ 15 < n + other → Traps (.tresize c o) s slot h .scratch 0) ∧
      let bad := h.ownersPoisoned (n * (wayBytes / granuleBytes)) 479
      (n ≤ 15 → n + other ≤ 15 → bad = true → Traps (.tresize c o) s slot h .poison (BitVec.allOnes 64)) ∧
      (n ≤ 15 → n + other ≤ 15 → bad = false → ∀ k, busyGranule h n = some k →
        Traps (.tresize c o) s slot h .owner (BitVec.ofNat 64 (scratchBase + k * granuleBytes))) ∧
      (n ≤ 15 → n + other ≤ 15 → bad = false → busyGranule h n = none → ∃ g,
        CompletesIn (.tresize c o) s ((u.setPair (pairOf slot) (p.setWays (sideOf slot) n)).setHart slot g) slot g ∧
        g.ids = { h.ids with ways := n } ∧ (o.d ≠ 0 → g.getS o.d = BitVec.ofNat 64 h.ids.ways) ∧
        (∀ r, r ≠ o.d → g.getS r = h.getS r) ∧
        (∀ b, g.scratchByte b = if b < min n h.ids.ways * wayBytes then h.scratchByte b else 0) ∧
        (∀ w, w ∈ g.scratchPoison ↔ w ∈ h.scratchPoison ∧ w < min n h.ids.ways * wayBytes) ∧
        (∀ x, g.granule x = if x < min n h.ids.ways * (wayBytes / granuleBytes) then h.granule x else {}) ∧
        { g with regs := { g.regs with s := h.regs.s }, ids := h.ids, scratch := h.scratch, scratchPoison := h.scratchPoison
                 granules := h.granules, poison := h.poison, watch := h.watch } = h)) ∧
    (∀ o : TgiveForm, h.poisoned (.s o.a :: ssrcReads o.b) = false →
      let va := (h.getS o.a).toNat
      let n := (h.usrc o.b).toNat
      let lim := scratchBase + h.ids.ways * wayBytes
      (va % granuleBytes ≠ 0 ∨ n % granuleBytes ≠ 0 → Traps (.tgive c o) s slot h .align (h.getS o.a)) ∧
      (va % granuleBytes = 0 → n = 0 → Completes (.tgive c o) s slot h h) ∧
      (va % granuleBytes = 0 → n % granuleBytes = 0 → n ≠ 0 →
        (va < scratchBase → Traps (.tgive c o) s slot h .scratch (h.getS o.a)) ∧
        (scratchBase ≤ va → lim < va + n → Traps (.tgive c o) s slot h .scratch (BitVec.ofNat 64 (max va lim))) ∧
        let bad := h.ownersPoisoned ((va - scratchBase) / granuleBytes) ((va - scratchBase) / granuleBytes + n / granuleBytes - 1)
        (scratchBase ≤ va → va + n ≤ lim → bad = true → Traps (.tgive c o) s slot h .poison (BitVec.allOnes 64)) ∧
        (scratchBase ≤ va → va + n ≤ lim → bad = false → ∃ g, Completes (.tgive c o) s slot h g ∧ { g with granules := h.granules } = h ∧
          ∀ x, g.granule x = if (va - scratchBase) / granuleBytes ≤ x ∧ x < (va - scratchBase) / granuleBytes + n / granuleBytes ∧
            (h.granule x).engine = false then { engine := true, count := 0 } else h.granule x)))

/-- R303, R220: a TCOPY whose rows all pass starts one transfer and completes, its streams advanced and the
counts of its granules raised; with VL 0 it starts none; where a granule has fifteen transfers in flight it
waits. Its rows for transmit windows enter the egress as it starts (log entry 40), so that the transfer holds
them as sent, and a pin on the local bytes of such a window makes it wait. A stream of another kind traps
STREAM. R305, R303: TRANSFER_COMPLETE moves every byte of every row of a TCOPY, over its pages, to its place
and no other byte, for rows whose stretches, each in one page, are apart at the destination (R303 leaves their
order open); the transfer is gone and its counts are lowered. Nothing is written in a decoded view, which is
read-only (R179): a destination that has become one since TCOPY issued takes no byte, which is the model's
reading (log entry 40). A page that drains, or a pinned line, makes it wait with nothing moved. A TCAST
completes with its last delivery and not before. That the bytes are read as the transfer completes is the
model's choice (log entry 40; R321 allows earlier reads). -/
def Obligations.CopiesStartAndComplete : Prop :=
  (∀ (c : Ctl) (o : TcopyForm) (s : State) (slot : Nat) (h : Hart), Issues 0xC9 c s slot h →
    h.poisoned (streamReads h o.a ++ streamReads h o.d) = false →
    (copyStreamOk h (h.getQ o.a) = false ∨ copyStreamOk h (h.getQ o.d) = false → Traps (.tcopy c o) s slot h .stream 0) ∧
    (copyStreamOk h (h.getQ o.a) = true → copyStreamOk h (h.getQ o.d) = true →
    let len := o.len.toNat
    (h.vl = 0 → Completes (.tcopy c o) s slot h h) ∧
    (∀ e v, h.vl ≠ 0 → copyRows slot h (h.getQ o.d) (h.getQ o.a) len h.vl 0 none (noteRunning s h) = .error (.trap e v) →
      Traps (.tcopy c o) s slot h e v) ∧
    (∀ (s' : State) (side : Bool) (rows : List CopyRow), h.vl ≠ 0 →
      copyRows slot h (h.getQ o.d) (h.getQ o.a) len h.vl 0 none (noteRunning s h) = .ok (s', some side, rows) →
      let gs := (rows.flatMap fun r => coveredGranules r.scratch len).eraseDups
      (h.countFull gs = true → ∃ t, exec (.tcopy c o) s = .next t ∧ t.hart? slot = some h ∧ t.transfers = s.transfers ∧ t.mem = s.mem) ∧
      (∀ k p, h.countFull gs = false → side = true → sentPinned (noteRunning s h) slot rows = some (k, p) →
        ∃ t, exec (.tcopy c o) s = .next t ∧ t.transfers = s.transfers ∧ t.mem = s.mem ∧ t.egress = s.egress ∧
          ∃ g, t.hart? slot = some g ∧ g.regs = h.regs ∧ g.granules = h.granules ∧ g.held = some (.pin k p.pa p.len)) ∧
      (h.countFull gs = false → (side = true → sentPinned (noteRunning s h) slot rows = none) → ∃ y g,
        let u := s'.newId.2
        let s2 := rememberRows (if side then sendRows u slot s'.nextId h rows else u) slot h.ids.part rows
        s2.hart? slot = some y ∧
        ((∀ r ∈ rows, ∀ p ∈ r.segs, side = true → pteWtype p.pte ≠ 1) → { y with lantern := h.lantern } = h ∧ s2.mem = s.mem ∧ s2.egress = s.egress) ∧
        CompletesIn (.tcopy c o) s (State.setHart { s2 with
          transfers := s2.transfers ++ [{ id := s'.nextId, slot := slot, gang := h.ids.gang
                                          work := .copy side (if side then rows.map CopyRow.markSent else rows) gs
                                          bar := if o.ben then some o.bar else none, bytes := h.vl * len }] } slot g) slot g ∧
        g.regs = (advanceStream (advanceStream y o.a h.vl) o.d h.vl).regs ∧
        (∀ x, g.granule x = if x ∈ gs then { y.granule x with count := (y.granule x).count + 1 } else y.granule x) ∧
        { g with regs := y.regs, granules := y.granules, poison := y.poison, lantern := y.lantern, perf := y.perf } = y)))) ∧
  (∀ (s : State) (id : Nat) (t : Transfer), s.transfers.find? (fun x => x.id == id) = some t →
    let rest := s.transfers.filter fun y => y.id != id
    let lowered := fun (gs : List Nat) (h y : Hart) => ∀ x, y.granule x =
      if x ∈ gs then (if 1 < (h.granule x).count then { h.granule x with count := (h.granule x).count - 1 } else {}) else h.granule x
    (∀ src n dest dests left, t.work = .cast src n dest dests left →
      (left ≠ 0 → exec (.transferComplete id) s = .next s) ∧
      (left = 0 → ∃ x, exec (.transferComplete id) s = .next x ∧ x.mem = s.mem ∧ x.transfers = rest ∧
        ((dests.map CastDest.slot).Nodup → ∀ d ∈ dests, d.granules.Nodup → ∀ h, s.hart? d.slot = some h → isLamp d.slot = false →
          ∃ y, x.hart? d.slot = some y ∧ lowered d.granules h y))) ∧
    (∀ toMem rows gs h, t.work = .copy toMem rows gs → s.hart? t.slot = some h → isLamp t.slot = false → t.stale = false →
      let pieces := rows.flatMap CopyRow.pieces
      (∀ p ∈ pieces, p.2.sent = false ∧ pteWtype p.2.pte ≠ 1 ∧ isHostPa p.2.pa = false ∧ p.2.pa % 65536 + p.2.len ≤ 65536) →
      let drains := fun (p : Nat × Segment) => draining (s.part h.ids.part) (p.2.va / 65536) = true
      ((∃ p ∈ pieces, drains p) → ∃ x, exec (.transferComplete id) s = .next x ∧ x.mem = s.mem ∧ x.harts = s.harts ∧
        x.transfers = s.transfers ∧ (endingPins s = [] → x = s)) ∧
      ((∀ p ∈ pieces, ¬drains p) → (∃ p ∈ pieces, (pinnedElsewhere s none p.2.pa p.2.len).isSome = true) →
        ∃ x, exec (.transferComplete id) s = .next x ∧ x.mem = s.mem ∧ x.harts = s.harts ∧ x.transfers = s.transfers) ∧
      ((∀ p ∈ pieces, ¬drains p ∧ pinnedElsewhere s none p.2.pa p.2.len = none) → ∃ x, exec (.transferComplete id) s = .next x ∧
        x.transfers = rest ∧
        (gs.Nodup → ∃ y, x.hart? t.slot = some y ∧ lowered gs h y) ∧
        (toMem = true → (∀ b, (∀ p ∈ pieces, ¬(storageOf p.2.pa ≤ b ∧ b < storageOf p.2.pa + p.2.len)) →
            Memory.read x.mem b = Memory.read s.mem b) ∧
          (∀ b, (decodedRegion s b).isSome = true →
            (∀ p ∈ pieces, isRawAlias p.2.pa = true → ¬(storageOf p.2.pa ≤ b ∧ b < storageOf p.2.pa + p.2.len)) →
            Memory.read x.mem b = Memory.read s.mem b) ∧
          (pieces.Pairwise (fun p q => Apart (storageOf p.2.pa) p.2.len (storageOf q.2.pa) q.2.len) →
            ∀ p ∈ pieces, isDecoded s p.2.pa p.2.len = false → ∀ k, k < p.2.len → Memory.read x.mem (storageOf p.2.pa + k) = h.scratchByte (p.1 + k))) ∧
        (toMem = false → x.mem = s.mem ∧ ∃ y, x.hart? t.slot = some y ∧
          (∀ b, (∀ p ∈ pieces, ¬(p.1 ≤ b ∧ b < p.1 + p.2.len)) → y.scratchByte b = h.scratchByte b) ∧
          (pieces.Pairwise (fun p q => Apart p.1 p.2.len q.1 q.2.len) →
            ∀ p ∈ pieces, ∀ k, k < p.2.len → y.scratchByte (p.1 + k) = physRead s (p.2.pa + k))))))

/-- R304, R233, R322: a TCAST answers the granules that its destinations refused, raises the counts of those
that accepted, starts one transfer, and its line requests enter the merge windows of their lines: that of a
line joins the open window or opens one, and a line that a core pair's pinned area serves is read unmerged for
each destination. A HOME 01 page comes into that area when an access first meets it, if the pair has three
cache ways and room (R222). MERGE_WINDOW_CLOSE acts on the line's first window that has closed and waits for
no pin, else on its open one: it reads the line once, or takes what a read that waited bound at the end of its
pin, and sends it to every destination that takes it; a pinned line makes an open window wait, closed. R232: a
delivery writes the line to one destination's scratch. -/
def Obligations.MulticastsDeliver : Prop :=
  (∀ (c : Ctl) (o : TcastForm) (s : State) (slot : Nat) (h : Hart), Issues 0xC9 c s slot h →
    h.poisoned [.s o.a, .s o.b, .bits o.m 0 h.ids.gsize] = false →
    let u := noteRunning s h
    let src := (h.getS o.a).toNat
    let dva := (h.getS o.b).toNat
    let n := o.lines.toNat
    let dest := dva - scratchBase
    let gs := coveredGranules dest (128 * n)
    let all : List CastDest := ((List.range h.ids.gsize).filter fun k => (h.getM o.m).getLsbD k).map fun k =>
      (slotOfHart u h.ids.gang k).elim { slot := slot, granules := [] } fun d => { slot := d, granules := acceptedGranules u d gs }
    let dests := all.filter fun d => !d.granules.isEmpty
    let left := ((List.range n).map fun i => (dests.filter fun d => d.takes dest i).length).foldl (fun a b => a + b) 0
    src % 128 = 0 → dva % 128 = 0 → touchesWindow src (128 * n) = false → scratchBase ≤ dva →
    dva + 128 * n ≤ scratchBase + 15 * wayBytes → ∀ segs, memorySide u slot h src (128 * n) false = .ok segs →
    (∀ d ∈ dests, ∀ y, u.hart? d.slot = some y → y.countFull d.granules = false) →
    let line := fun (p : Segment) i => lineOf (p.pa + (src + 128 * i - p.va))
    ∃ t y, exec (.tcast c o) s = .next t ∧ t.hart? slot = some y ∧
      ((dests.map CastDest.slot).Nodup → ∀ d ∈ dests, ∀ z, u.hart? d.slot = some z → ∃ z', t.hart? d.slot = some z' ∧
        ∀ x, z'.granule x = if x ∈ d.granules then { z.granule x with count := (z.granule x).count + 1 } else z.granule x) ∧
      (∀ w ∈ s.merges, ∃ w' ∈ t.merges, w'.line = w.line ∧ w'.closed = w.closed ∧ w.requests <+: w'.requests) ∧
      (∀ i, i < n → ∀ p, segs.find? (fun p => decide (p.va ≤ src + 128 * i) && decide (src + 128 * i < p.va + p.len)) = some p →
        (inPinnedArea t h.ids.part (src + 128 * i) p.pte = false → (∃ d ∈ dests, d.takes dest i = true) →
          ∃ w ∈ t.merges, w.line = line p i ∧ w.closed = false ∧ { transfer := s.nextId, index := i : CastRequest } ∈ w.requests) ∧
        (inPinnedArea t h.ids.part (src + 128 * i) p.pte = true → ∀ d ∈ dests, d.takes dest i = true →
          { line := line p i, closed := true, requests := [{ transfer := s.nextId, index := i, only := some d.slot }] : MergeWindow } ∈ t.merges)) ∧
      (o.d ≠ 0 → y.getS o.d = BitVec.ofNat 64 ((all.map fun d => gs.length - d.granules.length).foldl (fun a b => a + b) 0)) ∧
      (y.regs.loops, y.pc) = h.after ∧ y.instret = h.instret + 1 ∧ t.mem = s.mem ∧
      t.transfers = s.transfers ++ [{ id := s.nextId, slot := slot, gang := h.ids.gang, work := .cast src n dest dests left
                                      bar := if o.ben then some o.bar else none, bytes := 128 * left }]) ∧
  (∀ (s : State) (part va pa : Nat) (pte : Word), pteHome pte = 1 →
    let p := s.pair (pteAux pte % 1024)
    let held := ((p.area.filter AreaPage.pinned).map AreaPage.page).eraseDups
    ((∃ x ∈ p.area, x.part = part ∧ x.va = va / 65536) → meetPage s part va pa pte = s) ∧
    ((∀ x ∈ p.area, ¬(x.part = part ∧ x.va = va / 65536)) →
      (inPinnedArea (meetPage s part va pa pte) part va pte = true ↔ 3 ≤ p.cacheWays ∧ (pa / 65536 ∈ held ∨ held.length < 4)))) ∧
  (∀ (l : List MergeWindow) (line : Nat) (pinned : Bool),
    let free := fun (v : MergeWindow) => v.closed = true ∧ (v.bound.isSome = true ∨ pinned = false)
    (∀ w, nextWindow l line pinned = some w → w ∈ l ∧ w.line = line ∧ (w.closed = false ∨ free w) ∧
      ((∃ v ∈ l, v.line = line ∧ free v) → w.closed = true)) ∧
    (nextWindow l line pinned = none → ∀ v ∈ l, v.line = line → v.closed = true ∧ v.bound = none ∧ pinned = true) ∧
    ∀ w ∈ l, ∃ a b, l = a ++ w :: b ∧ closeMerge l w = a ++ { w with closed := true } :: b) ∧
  (∀ (s : State) (line : Nat), let pin := pinnedElsewhere s none (line * 128) 128
    (nextWindow s.merges line pin.isSome = none → ∃ t, exec (.mergeWindowClose line) s = .next t ∧ t.mem = s.mem ∧ t.deliveries = s.deliveries ∧
      t.merges = s.merges) ∧
    ∀ w, nextWindow s.merges line pin.isSome = some w →
    (∀ k, w.bound = none → pin = some k → ∃ t, exec (.mergeWindowClose line) s = .next t ∧
      t.mem = s.mem ∧ t.deliveries = s.deliveries ∧ t.merges = closeMerge s.merges w) ∧
    (w.bound.isSome = true ∨ pin = none → ∃ t new, exec (.mergeWindowClose line) s = .next t ∧ t.mem = s.mem ∧
      t.merges = s.merges.erase w ∧ t.deliveries = s.deliveries ++ new ∧
      (∀ b, w.bound = some b → ∀ d ∈ new, d.bytes = b.1 ∧ d.poison = b.2) ∧
      (w.bound = none → isHostPa (line * 128) = false → ∀ d ∈ new, d.bytes = physReadBytes s (line * 128) 128) ∧
      ∀ q ∈ w.requests, ∀ src n dest dests left,
        (s.transfers.find? fun t => t.id == q.transfer).map Transfer.work = some (.cast src n dest dests left) →
        ∀ d ∈ dests, d.takes dest q.index = true → q.only = none ∨ q.only = some d.slot →
          ∃ x ∈ new, x.transfer = q.transfer ∧ x.slot = d.slot ∧ x.offset = dest + 128 * q.index)) ∧
  (∀ (s : State) (id : Nat) (d : Delivery) (h : Hart), s.deliveries.find? (fun d => d.id == id) = some d → s.hart? d.slot = some h →
    ∃ t g, exec (.tcastLineDelivery id) s = .next t ∧ t.hart? d.slot = some g ∧ t.mem = s.mem ∧
      (t.deliveries = s.deliveries.filter fun x => x.id != id) ∧
      (t.transfers = s.transfers.map fun t => if t.id = d.transfer then t.delivered else t) ∧
      (∀ k (hk : k < d.bytes.length), g.scratchByte (d.offset + k) = d.bytes[k]) ∧
      (∀ b, b < d.offset ∨ d.offset + d.bytes.length ≤ b → g.scratchByte b = h.scratchByte b) ∧
      ∀ k, k ≠ d.slot → t.hart? k = s.hart? k)

/-! ## Atomics, locks, fences and barriers -/

/-- R330, R331, R357, R316: a misaligned AMO traps ALIGN; one that passes its checks writes its destination
and completes, releasing at its scope, once nothing holds its release back; on a transmit window it is sent
and answers 0. Its operation reads the old value and writes the new one and no other byte, and raises no flag;
an f32 sum is rounded once to nearest with its subnormals kept (R188), and a NaN is the canonical one. R332,
R333: a VAMO whose active elements all pass their checks, one after another, performs them, in the order of
its elements or, where two name one address, in an order that stays open, and completes; an inactive element
is zeroed or kept. It releases at its scope unless all its elements are on transmit windows, where none is a
release (R357), and waits while that release is held back: that it releases and waits as a whole, and not
element by element, is the model's reading (log entry 39). -/
def Obligations.AtomicsComplete : Prop :=
  ((∀ (c : Ctl) (o : AmoForm) (s : State) (slot : Nat) (h : Hart), Issues 0xD0 c s slot h →
    h.poisoned ([.s o.a, .s o.b] ++ (if o.aop = .cas then [.s o.d] else [])) = false →
    let u := noteRunning s h
    let t := o.aty.ty
    let ea := h.getS o.a + o.off.signExtend 64
    (ea.toNat % t.bytes ≠ 0 → Traps (.amo c o) s slot h .align ea) ∧
    (ea.toNat % t.bytes = 0 → ∀ pl, atomicCheck u slot h ea t.bytes (canReflect o.aop) = .ok pl →
    let r := performAtomic u slot false h.ids.part pl ea o.aop o.aty (h.getS o.b) (h.getS o.d)
    let v := if pl.reflects then r.1 else releaseAt r.1 slot o.scope
    (pl.reflects = true ∨ releaseHeld u slot .ofScalar o.scope = none → ∃ y, v.hart? slot = some y ∧ y.regs = h.regs ∧ y.fcsr = h.fcsr ∧
      (pl.reflects = true → r.2 = 0) ∧
      CompletesIn (.amo c o) s (v.setHart slot (y.setS o.d (t.place r.2))) slot (y.setS o.d (t.place r.2))) ∧
    (pl.reflects = false → ∀ s', releaseHeld u slot .ofScalar o.scope = some s' →
      ∃ x, exec (.amo c o) s = .next x ∧ x.hart? slot = some h ∧ x.mem = s.mem))) ∧
  (∀ (s : State) (slot part pa : Nat) (vec : Bool) (pte va : Word) (op : Aop) (ty : AType) (b cmp : Word), pteWtype pte ≠ 1 → isHostPa pa = false →
    let n := ty.ty.bytes
    let old := BitVec.ofNat 64 (leNat (physReadBytes s pa n))
    let r := performAtomic s slot vec part (.mem pa pte) va op ty b cmp
    r.2 = old ∧ (atomicNew op ty old b cmp = none → r.1.mem = s.mem) ∧
    ∀ x, atomicNew op ty old b cmp = some x → SameBytesBut s r.1 (storageOf pa) n ∧
      ∀ k (hk : k < (leBytes n x.toNat).length), Memory.read r.1.mem (storageOf pa + k) = (leBytes n x.toNat)[k]) ∧
  (∀ old b cmp : Word, ∃ x, atomicNew .add .f32 old b cmp = some x ∧
    ((Fmt.f32.value old).isNan = true ∨ (Fmt.f32.value b).isNan = true → x = Fmt.f32.canonicalNan) ∧
    ∀ y z : ℝ, (Fmt.f32.value old).Is y → (Fmt.f32.value b).Is z → ∃ fl,
      Fmt.f32.Gives .rne false (zeroSign .rne ((Fmt.f32.value old).isZero && (Fmt.f32.value b).isZero) (Fmt.f32.sign old) (Fmt.f32.sign b))
        (y + z) (x, fl)) ∧
  (∀ (ty : AType) (old b cmp : Word), ty ≠ .f32 →
    let t := ty.ty
    let w := t.width
    atomicNew .add ty old b cmp = some (low w (old + b)) ∧ atomicNew .and ty old b cmp = some (low w (old &&& b)) ∧
    atomicNew .or ty old b cmp = some (low w (old ||| b)) ∧ atomicNew .xor ty old b cmp = some (low w (old ^^^ b)) ∧
    (atomicNew .min ty old b cmp).map t.int = some (min (t.int old) (t.int b)) ∧
    (atomicNew .max ty old b cmp).map t.int = some (max (t.int old) (t.int b)) ∧
    atomicNew .swap ty old b cmp = some (low w b) ∧
    atomicNew .cas ty old b cmp = if low w old = low w cmp then some (low w b) else none)) ∧
  (∀ (c : Ctl) (o : VamoForm) (s : State) (slot : Nat) (h : Hart), Issues 0xD1 c s slot h → h.poison = [] → s.budget = none →
    let q := h.getQ o.q
    let t := o.aty.ty
    let w := t.width
    let u := (noteRunning s h).modHart slot fun y => y.popGather (noteRunning s h) slot (gathered (noteRunning s h) slot h q o.mask 1 0)
    let live := fun i => decide (h.vstart ≤ i) && decide (i < h.vl) && h.active o.mask i
    h.widthOk w = true → [1, 2, 4].contains q.kind = true → q.ety.slotWidth = w → (q.kind = 4 → (h.getQ q.idx).isIndex = true) →
    ∀ (st : Nat → State) (a : Nat → Word) (pl : Nat → Place), st h.vstart = u →
    (∀ i, h.vstart ≤ i → i < h.vl → if live i = true then streamAddr (st i) slot h q i = .ok (st (i + 1), a i) ∧
      elementCheck (a i) t.bytes q.limit = .ok () ∧ atomicCheck (st (i + 1)) slot h (a i) t.bytes (canReflect o.aop) = .ok (pl i)
      else st (i + 1) = st i) →
    let es := ((List.range' h.vstart (h.vl - h.vstart)).filter fun i => h.active o.mask i).map fun i =>
      ({ index := i, va := a i, place := pl i, value := h.vsrc t o.b i, cmp := elemGet (h.getV o.d) w i } : AtomicElem)
    let sent := es.all fun e => e.place.reflects
    let s1 := st (max h.vstart h.vl)
    (sent = false → ∀ s', releaseHeld s1 slot .ofVector o.scope = some s' → ∃ x y, exec (.vamo c o) s = .next x ∧ x.mem = s.mem ∧
      x.hart? slot = some y ∧ y.regs = h.regs) ∧
    (sent = true ∨ releaseHeld s1 slot .ofVector o.scope = none → ∃ y g,
      (let z := (elementOrder s1.fresh es).foldl (performElem slot h o) s1.draw.2
       let v := if sent then z else releaseAt z slot o.scope
       v.hart? slot = some y ∧ CompletesIn (.vamo c o) s (v.setHart slot g) slot g) ∧
      (∀ i, i < 8192 / w → elemGet (g.getV o.d) w i =
        if h.vstart ≤ i ∧ i < h.vl ∧ h.active o.mask i = false ∧ maskZeroing o.mask = true then 0 else elemGet (y.getV o.d) w i) ∧
      (∀ x, x ≠ o.d → g.getV x = h.getV x) ∧
      StreamedFrom y { g with regs := { g.regs with v := y.regs.v }, arriving := y.arriving } o.q h.vl))

/-- R334 to R336: VLOCK takes each free lock of its distinct addresses in ascending order and marks the
elements whose locks the hart then holds; VUNLOCK frees those that the hart holds and counts the others. R337,
R315, R364: a FENCE of kind ss, sv or vv completes at once, and leaves a marker for its hart's later accesses
where what it orders has not performed; one of kind vs or all waits for that. It orders its hart's transfers
where its kind says so (vs, vv and all), and ends its hart's pins at a scope beyond CORE once it takes effect.
At SYSTEM scope it waits for the hart's stores of the queues its kind names that the host has not accepted.
RFENCE waits for its hart's reflected stores, answers RDISC and clears it. What else a FENCE orders, stores of
those queues under the sibling's pins, is the model's reading (log entry 38), and so is that RFENCE waits for
the hart's transfers (log entry 35). -/
def Obligations.LocksAndFencesComplete : Prop :=
  ((∀ (c : Ctl) (s : State) (slot : Nat) (h : Hart), Issues 0xD2 c s slot h → h.poison = [] → h.widthOk 64 = true →
    let u := noteRunning s h
    (∀ (o : VlockForm) l, lockPlaces u slot h o.a (h.activeBelow o.mask) = .ok l →
      let r := (distinctLocks l).foldl (takeLock slot h) (u, [])
      ∃ y g, r.1.hart? slot = some y ∧ CompletesIn (.vlock c o) s (r.1.setHart slot g) slot g ∧ g.vstart = 0 ∧
        (o.d ≠ 0 → ∀ i, i < 1024 → (g.getM o.d).getLsbD i = if i < h.vl then r.2.contains i else (h.getM o.d).getLsbD i) ∧
        (∀ m, m ≠ o.d → g.getM m = h.getM m) ∧
        { g with regs := { g.regs with m := y.regs.m, vstart := y.regs.vstart } } = y) ∧
    (∀ (o : VunlockForm) l, lockPlaces u slot h o.a (h.activeBelow o.mask) = .ok l → releaseHeld u slot .both o.scope = none →
      let r := (distinctLocks l).foldl (freeLock slot h) (u, 0, false)
      let v := if r.2.2 then releaseAt r.1 slot o.scope else r.1
      ∃ y g, v.hart? slot = some y ∧ g = (y.setS o.d (BitVec.ofNat 64 r.2.1)).setVstart 0 ∧
        CompletesIn (.vunlock c o) s (v.setHart slot g) slot g)) ∧
  (∀ (s : State) (slot i pa : Nat) (h : Hart) (a pte : Word) (taken : List Nat) (cnt : Nat) (any : Bool), isHostPa pa = false →
    let old := BitVec.ofNat 64 (leNat (physReadBytes s pa 8))
    let word := fun (t : State) => leNat ((List.range 8).map fun k => Memory.read t.mem (storageOf pa + k))
    let r := takeLock slot h (s, taken) (i, a, .mem pa pte)
    let f := freeLock slot h (s, cnt, any) (i, a, .mem pa pte)
    (old = 0 → r.2 = i :: taken ∧ SameBytesBut s r.1 (storageOf pa) 8 ∧ word r.1 = (lockValue h).toNat) ∧
    (old ≠ 0 → old = lockValue h → r.2 = i :: taken ∧ r.1.mem = s.mem) ∧
    (old ≠ 0 → old ≠ lockValue h → r.2 = taken ∧ r.1.mem = s.mem) ∧
    (old = lockValue h → f.2 = (cnt, true) ∧ SameBytesBut s f.1 (storageOf pa) 8 ∧ word f.1 = 0) ∧
    (old ≠ lockValue h → f.2 = (cnt + 1, any) ∧ f.1.mem = s.mem))) ∧
  ((∀ (c : Ctl) (o : FenceForm) (s : State) (slot : Nat) (h : Hart), Issues 0xD3 c s slot h →
    let u := noteRunning s h
    let w := fenceOrders u slot o
    let stalls := o.kind = .vs ∨ o.kind = .all
    let queues := FenceKind.queues o.kind
    (w.over u slot [] = true → CompletesIn (.fence c o) s (fencePins u slot o.scope w) slot h) ∧
    (w.over u slot [] = false → stalls → ∃ t, exec (.fence c o) s = .next t ∧ t.hart? slot = some h ∧ t.mem = s.mem) ∧
    (w.over u slot [] = false → ¬stalls → ∃ t g, exec (.fence c o) s = .next t ∧ t.hart? slot = some g ∧ t.mem = s.mem ∧
      g.core = (h.markFence o.kind w).core ∧ (g.regs.loops, g.pc) = h.after ∧ g.instret = h.instret + 1) ∧
    (let waits := (o.kind = .vs ∨ o.kind = .vv ∨ o.kind = .all) ∧ ∃ f ∈ s.transfers, f.slot = slot
     let sys := o.scope = .system ∧ ∃ e ∈ u.hostStores, e.stamp < u.hostStamp ∧ queues.has e.vec = true ∧ e.isOf u slot = true
     (waits → w.over u slot [] = false) ∧ (sys → w.over u slot [] = false) ∧
     (¬waits → ¬sys → o.scope = .core ∨ anyDelayed (heldStore queues) u slot = false → w.over u slot [] = true))) ∧
  (∀ (c : Ctl) (o : RfenceForm) (s : State) (slot : Nat) (h : Hart), Issues 0xE2 c s slot h → h.marked [0x1A8] = false →
    let u := noteRunning s h
    let busy := (s.egress.any fun r => r.slot == slot) || s.transfers.any fun t => t.slot == slot
    let g := { h.setS o.d (h.rdisc.setWidth 64) with rdisc := 0 }
    (busy = false → releaseHeld u slot .both .system = none → CompletesIn (.rfence c o) s ((endPins u slot).setHart slot g) slot g) ∧
    (busy = true ∨ (releaseHeld u slot .both .system).isSome = true →
      ∃ t, exec (.rfence c o) s = .next t ∧ t.hart? slot = some h ∧ t.mem = s.mem)))

/-- R323, R324: the completion test: equal arrivals and credits flip the phase, start the counts afresh and
release the waiting harts; an excess of credits breaks the barrier and its waiting harts trap BAROVER;
otherwise the barrier waits. Where one of those traps finds no handler and ends the task, the harts that this
stops before their own trap (R403) take none. R339 to R343, R324: BARINIT claims a free barrier or sets up its
gang's own; BARARV counts one arrival and answers the phase before; BAREXP adds to the bytes expected; BARWAIT
returns once the phase is not the one it names; each traps BARBUSY on a barrier that the gang does not own,
BAROVER where the rules say, and POISON where the barrier's words came poisoned (R392; log entry 53). R346:
LSYNC does nothing to the trailing hart. -/
def Obligations.BarriersComplete : Prop :=
  (∀ (s : State) (die n : Nat) (cell : BarrierCell),
    let b := cell.bar
    let t := settleBarrier s die n cell
    (b.arr = b.expa → b.cred = b.expb →
      t.barrier (barKey die n) = { cell with bar := { b with phase := !b.phase, arr := 0, cred := 0, expb := b.baseb } } ∧
      ∀ w ∈ waitersOn s die n, ∃ g, t.hart? w = some g ∧ g.run = .barReady) ∧
    (b.arr = b.expa → b.expb.toNat < b.cred.toNat →
      t.barrier (barKey die n) = { cell with bar := { b with broken := true } } ∧
      ∀ w ∈ waitersOn s die n, waitsOn s n w = true → isLamp w = false → ∃ g, t.hart? w = some g ∧
        (g.trap.ecause = 0x11 ∨ g.run = .stopped) ∧
        ((∀ x ∈ waitersOn s die n, isLamp x = false → ∀ y, s.hart? x = some y → y.priv = false ∧ y.trap.tvec ≠ 0) → g.trap.ecause = 0x11)) ∧
    (b.arr ≠ b.expa ∨ b.cred.toNat < b.expb.toNat → t = s.setBarrier (barKey die n) cell)) ∧
  ((∀ (c : Ctl) (s : State) (slot : Nat) (h : Hart), Issues 0xD4 c s slot h → h.run = .running →
    let u := noteRunning s h
    let die := dieOf slot
    let cell := fun (n : BarIdx) => u.barrier (barKey die n.toNat)
    let mine := fun (n : BarIdx) => (cell n).owner = .owned h.ids.gang
    (∀ o : BarinitForm, h.poisoned [.s o.a, .s o.b] = false →
      let a := (h.getS o.a).toNat
      let bytes := BitVec.ofNat 40 (min (h.getS o.b).toNat (2 ^ 40 - 1))
      let fresh : BarrierCell := { bar := { expa := BitVec.ofNat 8 (max 1 (min a 255)), baseb := bytes, expb := bytes }
                                   owner := .owned h.ids.gang }
      (¬mine o.n → (cell o.n).owner ≠ .free → Traps (.barinit c o) s slot h .barBusy (o.n.setWidth 64)) ∧
      (mine o.n ∨ (cell o.n).owner = .free → releaseHeld u slot .both .gang = none →
        let v := (endPins u slot).setBarrier (barKey die o.n.toNat) fresh
        (waitersOn u die o.n.toNat = [] → CompletesIn (.barinit c o) s v slot h) ∧
        ∃ t, exec (.barinit c o) s = .next t ∧ t.barrier (barKey die o.n.toNat) = fresh ∧ t.mem = s.mem ∧
          ∀ w ∈ waitersOn u die o.n.toNat, waitsOn u o.n.toNat w = true → isLamp w = false → ∃ g, t.hart? w = some g ∧
            (g.trap.ecause = 0x11 ∨ g.run = .stopped) ∧
            ((∀ x ∈ waitersOn u die o.n.toNat, isLamp x = false → ∀ y, u.hart? x = some y → y.priv = false ∧ y.trap.tvec ≠ 0) →
              g.trap.ecause = 0x11))) ∧
    (∀ o : BararvForm, let b := (cell o.n).bar
      (¬mine o.n → Traps (.bararv c o) s slot h .barBusy (o.n.setWidth 64)) ∧
      (mine o.n → (cell o.n).poisoned = true → Traps (.bararv c o) s slot h .poison (BitVec.allOnes 64)) ∧
      (mine o.n → (cell o.n).poisoned = false → releaseHeld u slot .both .gang = none →
        (b.broken = true → ∃ t g, exec (.bararv c o) s = .next t ∧ t.hart? slot = some g ∧ g.trap.ecause = 0x11) ∧
        (b.broken = false → b.arr.toNat < b.expa.toNat →
          let v := settleBarrier (endPins u slot) die o.n.toNat { cell o.n with bar := { b with arr := b.arr + 1 } }
          ∃ y g, v.hart? slot = some y ∧ (slot ∉ waitersOn u die o.n.toNat → y.regs = h.regs) ∧
            g = y.setS o.d ((BitVec.ofBool b.phase).setWidth 64) ∧ CompletesIn (.bararv c o) s (v.setHart slot g) slot g) ∧
        (b.broken = false → b.expa.toNat ≤ b.arr.toNat → ∃ t g, exec (.bararv c o) s = .next t ∧ t.hart? slot = some g ∧
          (g.trap.ecause = 0x11 ∨ g.run = .stopped) ∧ (waitersOn u die o.n.toNat = [] → g.trap.ecause = 0x11) ∧
          (t.barrier (barKey die o.n.toNat)).bar.broken = true))) ∧
    (∀ o : BarForm, h.poisoned [.s o.a] = false → let b := (cell o.n).bar
      (¬mine o.n → Traps (.barexp c o) s slot h .barBusy (o.n.setWidth 64) ∧ Traps (.barwait c o) s slot h .barBusy (o.n.setWidth 64)) ∧
      (mine o.n → (cell o.n).poisoned = true → Traps (.barexp c o) s slot h .poison (BitVec.allOnes 64) ∧
        Traps (.barwait c o) s slot h .poison (BitVec.allOnes 64)) ∧
      (mine o.n → (cell o.n).poisoned = false → b.broken = true → Completes (.barexp c o) s slot h h ∧ Traps (.barwait c o) s slot h .barOver (o.n.setWidth 64)) ∧
      (mine o.n → (cell o.n).poisoned = false → b.broken = false →
        (let v := settleBarrier u die o.n.toNat { cell o.n with bar := { b with
            expb := BitVec.ofNat 40 (min (b.expb.toNat + (h.getS o.a).toNat) (2 ^ 40 - 1)) } }
         ∃ y, v.hart? slot = some y ∧ CompletesIn (.barexp c o) s v slot y) ∧
        (b.phase ≠ (h.getS o.a).getLsbD 0 → Completes (.barwait c o) s slot h h) ∧
        (b.phase = (h.getS o.a).getLsbD 0 → ∃ t, exec (.barwait c o) s = .next t ∧
          t.hart? slot = some { h with run := .barWait o.n b.phase } ∧ t.outside = u.outside)))) ∧
  (∀ (s : State) (slot : Nat) (h : Hart), s.hart? slot = some h → h.run = .barReady →
    ∃ t, exec (.barwaitReturn slot) s = .next t ∧ CompletedAs s slot { h with run := .running } t) ∧
  (∀ (c : Ctl) (o : LsyncForm) (s : State) (slot : Nat) (h : Hart), Issues 0xD5 c s slot h → Completes (.lsync c o) s slot h h))

/-! ## Tasks, events and windows -/

/-- R347, R70, R71: TLAUNCH of a misaligned record traps ALIGN; else it checks its record, and TLAUNCH_COPY
reads it and answers the status: 3 for a queue that is not there or not enabled, 2 for a launcher at depth 8,
1 for a full queue, and else the handle of the record that it has copied, one level deeper, to the ring; it
waits while what that read has read is not at VA (R317). R348, R72, R73: TWAIT answers a finished child's
status at once and parks its gang for one that is not. R350, R405, R54: EVPOP traps PRIV in the kernel view;
it answers all ones for an empty event queue; else it writes the oldest record's 32 bytes, takes it off the
queue and answers how many are left. -/
def Obligations.LaunchesWaitsAndEvents : Prop :=
  ((∀ (c : Ctl) (s : State) (slot : Nat) (h : Hart), Issues 0xE0 c s slot h →
    let u := noteRunning s h
    (∀ (o : TlaunchForm), h.poisoned (.s o.a :: ssrcReads o.b) = false →
      ((h.getS o.a).toNat % 256 ≠ 0 → Traps (.tlaunch c o) s slot h .align (h.getS o.a)) ∧
      ∀ (s1 : State) (bs : List Byte), (h.getS o.a).toNat % 256 = 0 → load u slot h (h.getS o.a) 256 = .ok (s1, bs) →
        ∃ t g, exec (.tlaunch c o) s = .next t ∧ t.hart? slot = some g ∧ t.mem = s.mem ∧ (∀ k, k ≠ slot → t.hart? k = s.hart? k) ∧
          (releaseHeld s1 slot .both .device = none →
            g = { h with run := .launching o.d (h.usrc o.b).toNat (h.getS o.a), lantern := g.lantern }) ∧
          ((releaseHeld s1 slot .both .device).isSome = true → g = h)) ∧
    (∀ o : TwaitForm, h.poisoned [.s o.a] = false →
      let child := (hartTask u h).bind fun t => namedChild t (h.getS o.a)
      (child = none → Completes (.twait c o) s slot h (h.setS o.d 0xFF00000000000000)) ∧
      (∀ x y, child = some x → x.status = some y → Completes (.twait c o) s slot h (h.setS o.d y)) ∧
      (∀ x g, child = some x → x.status = none → u.gang? h.ids.gang = some g → g.isSaved = false →
        ∃ t g', exec (.twait c o) s = .next t ∧ t.gang? h.ids.gang = some g' ∧ g'.state = .stopping .parked ∧
          g'.await = some (h.getS o.a) ∧ t.mem = s.mem ∧
          ∀ e ∈ g.harts, ∀ y, s.hart? e.2 = some y → ∃ y', t.hart? e.2 = some y' ∧ y'.run = y.stopWhole.run ∧ y'.regs = y.regs))) ∧
  (∀ (s0 s : State) (slot : Nat) (h : Hart) (d : SIdx) (j : Nat) (va : Word) (record : List Byte) (t : Task),
    s0.hart? slot = some h → h.run = .launching d j va → load s0 slot h va 256 = .ok (s, record) → hartTask s h = some t →
    let n := 64 + j
    let q := (s.part h.ids.part).queue n
    let ends := fun (s' : State) (x : Word) => ∃ v, exec (.tlaunchCopy slot) s0 = .next v ∧
      CompletedAs s' slot { h.setS d x with run := .running } v
    (∀ v, releaseHeld s slot .both .device = some v → exec (.tlaunchCopy slot) s0 = .next v) ∧
    (releaseHeld s slot .both .device = none →
    (15 < j ∨ q.en = false → ends (endPins s slot) (launchStatus 0 0 3)) ∧
    (j ≤ 15 → q.en = true → recNest t.record = 8 → ends (endPins s slot) (launchStatus 0 0 2)) ∧
    (j ≤ 15 → q.en = true → recNest t.record ≠ 8 → q.backlog = q.size → ends (endPins s slot) (launchStatus 0 0 1)) ∧
    (j ≤ 15 → q.en = true → recNest t.record ≠ 8 → q.backlog ≠ q.size → ∀ pa, ringSlot s q q.tail.toNat = some pa →
      pinnedElsewhere s (pairOfAgent slot) pa 256 = none →
      ∃ s' t', ends s' (launchStatus q.tail.toNat n 0) ∧ (s'.part h.ids.part).queue n = { q with tail := q.tail + 1 } ∧
        s'.mem = (if isDecoded s pa 256 then s.mem
          else Memory.writeBytes s.mem (storageOf pa) (withNest record (recNest t.record + 1))) ∧
        s'.task? t.part t.queue t.seq = some t' ∧ t'.children = t.children ++ [{ queue := n, seq := q.tail.toNat }])))) ∧
  (∀ (c : Ctl) (o : EvpopForm) (s : State) (slot : Nat) (h : Hart), Issues 0xE1 c s slot h →
    let u := noteRunning s h
    let va := h.getS o.a
    let q := (u.part h.ids.part).events o.n.toNat
    (privileged slot h = false → Traps (.evpop c o) s slot h .priv 0) ∧
    (privileged slot h = true → h.poisoned [.s o.a] = false →
      (q.records = [] → Completes (.evpop c o) s slot h (h.setS o.d (BitVec.allOnes 64))) ∧
      (q.records ≠ [] → va.toNat % 32 ≠ 0 → Traps (.evpop c o) s slot h .align va) ∧
      (∀ r rest pl, q.records = r :: rest → va.toNat % 32 = 0 → checkStore u slot h va 32 true = .ok pl →
        ∃ t y, exec (.evpop c o) s = .next t ∧ t.hart? slot = some y ∧ (o.d ≠ 0 → y.getS o.d = BitVec.ofNat 64 rest.length) ∧
          (y.regs.loops, y.pc) = h.after ∧ y.instret = h.instret + 1 ∧
          ((t.part h.ids.part).events o.n.toNat).records = rest ∧
          (∀ pa pte, pl = .mem pa pte → pteWtype pte ≠ 1 → isHostPa pa = false → pa % 32 = 0 →
            SameBytesBut s t (storageOf pa) 32 ∧ ∀ j, j < 32 →
              Memory.read t.mem (storageOf pa + j) = listGetD ([r.w0, r.w1, r.w2, r.w3].flatMap fun x => leBytes 8 x.toNat) j 0))))

/-- R353, R354: WMAP installs the entry it reads under the number it names, and WUNMAP removes one; either
waits for the packets sent under the old entry; status 4 is for a number above 4095, 1 for an entry of another
partition, 2 for an image whose fields break the table of R353 and 3 for a receive window that leaves its
partition's stacks or credits a barrier of a die that is not its partition's; in the kernel view both trap
PRIV, and WMAP of a misaligned entry traps ALIGN. -/
def Obligations.WindowsMap : Prop :=
  (∀ (s : State) (part w : Nat), foreignEntry s part w = true ↔ ∃ e, s.window w = some e ∧ (e.extractLsb' 8 4).toNat ≠ part) ∧
  (∀ e : BitVec 512, let n := (e.extractLsb' 16 4).toNat
    (winValid e = true ↔ e.getLsbD 0 = true) ∧ winPart e = (e.extractLsb' 8 4).toNat ∧
    (imageOk e = true ↔
      e.extractLsb' 5 3 = 0 ∧ e.extractLsb' 12 4 = 0 ∧ e.extractLsb' 20 44 = 0 ∧ e.extractLsb' 152 40 = 0 ∧
      ((e.extractLsb' 1 2 = 1 ∧ e.extractLsb' 103 25 = 0 ∧ e.extractLsb' 192 64 = 0 ∧ 1 ≤ n ∧ n ≤ 8 ∧
          ∀ k, k < 8 → if k < n then e.extractLsb' (284 + 32 * k) 4 = 0 else e.extractLsb' (256 + 32 * k) 32 = 0) ∨
        (e.extractLsb' 1 2 = 2 ∧ e.extractLsb' 3 2 = 0 ∧ n = 0 ∧ e.extractLsb' 100 28 = 0 ∧ e.extractLsb' 203 53 = 0 ∧
          e.extractLsb' 256 256 = 0))) ∧
    ∀ p : Partition, let start := (e.extractLsb' 64 36).toNat * 65536
      (receiveOk p e = true ↔ (e.extractLsb' 1 2 = 2 →
        (∀ a, start ≤ a → a < start + ((e.extractLsb' 128 24).toNat + 1) * 65536 → inStacks p a = true) ∧
        (e.getLsbD 202 = true → ownsDie p (e.extractLsb' 198 4).toNat = true)))) ∧
  ∀ (c : Ctl) (s : State) (slot : Nat) (h : Hart), Issues 0xE3 c s slot h →
    let u := noteRunning s h
    let part := h.ids.part
    let answers := fun (i : Instr) (s' : State) (d : SIdx) (x : Word) => CompletesIn i s (s'.setHart slot (h.setS d x)) slot (h.setS d x)
    let replaces := fun (i : Instr) (d : SIdx) (w : Nat) (e : Option (BitVec 512)) =>
      ∃ t, exec i s = .next t ∧ t.window w = e ∧ (∀ k, k ≠ w → t.window k = s.window k) ∧ t.mem = s.mem ∧
        (sentUnder s w = [] → ∃ g, t.hart? slot = some g ∧ g.getS d = 0 ∧ (g.regs.loops, g.pc) = h.after ∧ g.instret = h.instret + 1) ∧
        (sentUnder s w ≠ [] → ∃ g, t.hart? slot = some g ∧ { g with lantern := h.lantern } = { h with run := .mapping d (sentUnder s w) })
    (∀ o : WmapForm,
      (privileged slot h = false → Traps (.wmap c o) s slot h .priv 0) ∧
      (privileged slot h = true → h.poisoned (.s o.a :: ssrcReads o.b) = false → (h.getS o.a).toNat % 64 ≠ 0 →
        Traps (.wmap c o) s slot h .align (h.getS o.a)) ∧
      (privileged slot h = true → h.poisoned (.s o.a :: ssrcReads o.b) = false → (h.getS o.a).toNat % 64 = 0 →
        ∀ s1 bs, load u slot h (h.getS o.a) 64 = .ok (s1, bs) →
        let e := BitVec.ofNat 512 (leNat bs)
        let w := (h.usrc o.b).toNat
        (4095 < w → answers (.wmap c o) s1 o.d 4) ∧
        (w ≤ 4095 → foreignEntry s part w = true → answers (.wmap c o) s1 o.d 1) ∧
        (w ≤ 4095 → foreignEntry s part w = false → winValid e = false → replaces (.wmap c o) o.d w none) ∧
        (w ≤ 4095 → foreignEntry s part w = false → winValid e = true →
          (winPart e ≠ part → answers (.wmap c o) s1 o.d 1) ∧
          (winPart e = part → imageOk e = false → answers (.wmap c o) s1 o.d 2) ∧
          (winPart e = part → imageOk e = true → receiveOk (s.part part) e = false → answers (.wmap c o) s1 o.d 3) ∧
          (winPart e = part → imageOk e = true → receiveOk (s.part part) e = true → replaces (.wmap c o) o.d w (some e))))) ∧
    (∀ o : WunmapForm, let w := (h.usrc o.b).toNat
      (privileged slot h = false → Traps (.wunmap c o) s slot h .priv 0) ∧
      (privileged slot h = true → h.poisoned (ssrcReads o.b) = false →
        (4095 < w → answers (.wunmap c o) u o.d 4) ∧
        (w ≤ 4095 → foreignEntry s part w = true → answers (.wunmap c o) u o.d 1) ∧
        (w ≤ 4095 → foreignEntry s part w = false → replaces (.wunmap c o) o.d w none)))

/-- R359, R361, R362: a store that comes to a receive window writes its bytes at the entry's address and no
other byte of memory; one that runs over the window's end is discarded with cause 2 and writes none; the
packets of one path are taken in order. R361, R367: a reduction applies its operation to the word there, which
then holds the result, and no other byte changes; its word enters the stack's combining window where the
receive page has ATOM set, and the window stands else. R374, R375, R364: a packet that times out, or that the
other device reports discarded, counts in its hart's RDISC and is gone. R367: writing back an entry of a
combining window changes no byte. -/
def Obligations.PacketsLandOrAreDiscarded : Prop :=
  (∀ (s : State) (id : Nat) (r : Reflected) (e : BitVec 512) (bs : List Byte) (bad : List Nat),
    s.egress.find? (fun r => r.id == id) = some r → r.dev = s.devid → r.payload = .store bs bad →
    s.window r.rwin.toNat = some e → winKind e = 2 →
    let pa := winRpa e + r.offset
    (headOfPath s r = false → exec (.beaconPacketApply (.loopback id)) s = .next s) ∧
    (headOfPath s r = true → winSize e < r.offset + bs.length → ∃ t, exec (.beaconPacketApply (.loopback id)) s = .next t ∧ t.mem = s.mem ∧
      ∀ x ∈ t.egress, x.id = id → x.fate = .discarded 2) ∧
    (headOfPath s r = true → r.offset + bs.length ≤ winSize e → isRawAlias pa = true ∨ touchesDecoded s pa bs.length = false →
      pinnedElsewhere s none pa bs.length = none →
      ∃ t, exec (.beaconPacketApply (.loopback id)) s = .next t ∧ SameBytesBut s t (storageOf pa) bs.length ∧
        (∀ k (hk : k < bs.length), Memory.read t.mem (storageOf pa + k) = bs[k]) ∧ ∀ x ∈ t.egress, x.id = id → x.fate = .applied)) ∧
  (∀ (s : State) (source : BitVec 16) (rwin : BitVec 12) (offset : Nat) (e : BitVec 512) (bs : List Byte) (bad : List Nat),
    let i := Instr.beaconPacketApply (.foreign source rwin offset (.store bs bad))
    let pa := winRpa e + offset
    (bcnEn s.bcncfg = false → exec i s = .next s) ∧
    (bcnEn s.bcncfg = true → s.window rwin.toNat = some e → winKind e = 2 → offset + bs.length ≤ winSize e →
      isRawAlias pa = true ∨ touchesDecoded s pa bs.length = false → pinnedElsewhere s none pa bs.length = none →
      ∃ t, exec i s = .next t ∧ SameBytesBut s t (storageOf pa) bs.length ∧ t.egress = s.egress ∧
        ∀ k (hk : k < bs.length), Memory.read t.mem (storageOf pa + k) = bs[k])) ∧
  (∀ (s : State) (e : BitVec 512) (rwin : BitVec 12) (offset : Nat) (op : Aop) (ty : AType) (x : Word) (i : Instr),
    let pa := winRpa e + offset
    let n := ty.ty.bytes
    let old := BitVec.ofNat 64 (leNat (physReadBytes s pa n))
    (∃ id r, i = .beaconPacketApply (.loopback id) ∧ s.egress.find? (fun r => r.id == id) = some r ∧ r.dev = s.devid ∧
        r.payload = .reduce op ty x ∧ r.rwin = rwin ∧ r.offset = offset ∧ headOfPath s r = true) ∨
      (∃ source, i = .beaconPacketApply (.foreign source rwin offset (.reduce op ty x)) ∧ bcnEn s.bcncfg = true) →
    s.window rwin.toNat = some e → winKind e = 2 → offset + n ≤ winSize e → isRawAlias pa = true ∨ touchesDecoded s pa n = false →
    pinnedElsewhere s none pa n = none → pa % n = 0 →
    ∃ t, exec i s = .next t ∧
      (∀ y, atomicNew op ty old x 0 = some y → SameBytesBut s t (storageOf pa) n ∧
        ∀ k (hk : k < (leBytes n y.toNat).length), Memory.read t.mem (storageOf pa + k) = (leBytes n y.toNat)[k]) ∧
      ((receiveLeaves s (winPart e) rwin.toNat pa).any pteAtom = true → storageOf pa / 8 * 8 ∈ t.combining) ∧
      ((receiveLeaves s (winPart e) rwin.toNat pa).any pteAtom = false → t.combining = s.combining)) ∧
  (∀ (s : State) (id : Nat) (r : Reflected), s.egress.find? (fun r => r.id == id) = some r →
    let gone := fun (i : Instr) (discards : Bool) => ∃ t, exec i s = .next t ∧ t.mem = s.mem ∧ (t.egress = s.egress.filter fun x => x.id != id) ∧
      ∀ h, s.hart? r.slot = some h → ∃ g, t.hart? r.slot = some g ∧
        g.rdisc = if discards then BitVec.ofNat 32 (min (h.rdisc.toNat + 1) (2 ^ 32 - 1)) else h.rdisc
    (r.fate = .inFlight → gone (.reflectTimeout id) true) ∧
    (∀ a c, r.fate ≠ .inFlight → gone (.reflectionAcknowledgement id a c) false) ∧
    (r.fate = .inFlight → r.dev ≠ s.devid → headOfPath s r = true → reachable s r.dev r.rwin r.pcls = true →
      (∀ c, gone (.reflectionAcknowledgement id true c) false) ∧
      ∀ c, c = 1 ∨ c = 2 ∨ c = 3 → gone (.reflectionAcknowledgement id false c) true)) ∧
  (∀ (s : State) (word : Nat), ∃ t, exec (.combiningWriteback word) s = .next t ∧ SameBytes s t ∧ word ∉ t.combining ∧
    ∀ w, w ≠ word → (w ∈ t.combining ↔ w ∈ s.combining))

/-- R117, R120: FETCH_PACKET brings the packets of the word at an agent's PC when every check passes, and
takes the trap of the first check that fails: ZEROWORD and ONESWORD among them, and ILLEGAL for a word that is
no instruction. The translations it used are held (R99). R150, R142, R230: a finished fork copy holds the
trailing core's registers with every vector register poison; a published register no longer waits, is no
poison and holds the value that the copy has bound for it, and is not published before; a prefetch that has
returned is no longer in flight. R319: at the bound of a pin every pin of its hart begins to end as by a
release of kind all, and is gone where nothing holds such a release back. -/
def Obligations.PacketsAreFetchedAndForked : Prop :=
  (∀ (s : State) (slot : Nat) (h : Hart), s.hart? slot = some h → canIssue slot h = true → h.held = none →
    wordIn h.packets h.pc.toNat = none →
    (∀ l bs i rest, fetch s slot h = .ok l → wordIn l h.pc.toNat = some bs → decodeBytes bs = some (.instr i, rest) →
      exec (.fetchPacket slot) s = .next ((rememberFetch s slot h).setHart slot { h with packets := l })) ∧
    (∀ t v, fetch s slot h = .error (.trap t v) → exec (.fetchPacket slot) s = .next (takeTrap s slot t v h.pc)) ∧
    (∀ v, fetch s slot h = .error (.lease v) → exec (.fetchPacket slot) s = .next (endTaskOf s h causeLease 0 v)) ∧
    (∀ l bs rest, fetch s slot h = .ok l → wordIn l h.pc.toNat = some bs → decodeBytes bs = some (.zeroWord, rest) →
      exec (.fetchPacket slot) s = .next (takeTrap (rememberFetch s slot h) slot .zeroWord 0 h.pc)) ∧
    (∀ l bs rest, fetch s slot h = .ok l → wordIn l h.pc.toNat = some bs → decodeBytes bs = some (.onesWord, rest) →
      exec (.fetchPacket slot) s = .next (takeTrap (rememberFetch s slot h) slot .onesWord 0 h.pc)) ∧
    (∀ l bs rest, fetch s slot h = .ok l → wordIn l h.pc.toNat = some bs → decodeBytes bs = some (.malformed, rest) →
      exec (.fetchPacket slot) s = .next (takeTrap (rememberFetch s slot h) slot .illegal 0 h.pc))) ∧
  (∀ (s : State) (slot : Nat) (h : Hart), s.hart? slot = some h →
    (h.lantern.forking = true → ∃ t g c, exec (.lanternForkCopyDone slot) s = .next t ∧ t.hart? slot = some g ∧
      g.lantern.forking = false ∧ g.lantern.copy = some c ∧ c.regs = h.regs ∧ g.lantern.wick = [] ∧ g.lantern.seq = 0 ∧
      ∀ v : VIdx, (LanternReg.v v, 0) ∈ c.poison) ∧
    (∀ c x, h.lantern.copy = some c → c.waiting = some x →
      (c.bound = true → ∃ t g c', exec (.lanternPublish slot) s = .next t ∧ t.hart? slot = some g ∧ g.lantern.copy = some c' ∧
        c'.waiting = none ∧ c'.regs = c.regs ∧ ∀ k, (x, k) ∉ c'.poison) ∧
      (c.bound = false → exec (.lanternPublish slot) s = .next s)) ∧
    (∀ line wasted, ∃ t g, exec (.prefetchFill slot line wasted) s = .next t ∧ t.hart? slot = some g ∧
      ∀ x ∈ g.lantern.prefetches, x.line = line → x.filled = true ∧ wasted = false) ∧
    (∀ line q, (s.pair (pairOf slot)).pins.find? (fun q => q.line == line && q.retried && !q.ending.any Pending.whole) = some q →
      q.slot = slot → isLamp slot = false → ∃ t, exec (.pinTimeout (pairOf slot) line) s = .next t ∧ t.mem = s.mem ∧ t.harts = s.harts ∧
        PinsRelease s slot t))

/-- R25, R28, R140: what the Lantern does changes no architectural state: no register, flag, tile or byte of
memory, no other hart and nothing of the device; only the Lantern's own side of its hart and that hart's
performance counters move, with the lines of its batches that are watched in memory and in the hart's scratch
(R149), the counts of the REPL pages that its prefetches read (R227) and the model's count of numbers given
out. -/
def Obligations.LanternChangesNothingElse : Prop :=
  ∀ (s : State) (slot : Nat) (i : Instr), (i = .lanternIssue slot ∨ i = .lanternForkCopyDone slot ∨ i = .lanternPublish slot ∨
      ∃ line wasted, i = .prefetchFill slot line wasted) →
    ∃ t, exec i s = .next t ∧ (∀ k, k ≠ slot → t.hart? k = s.hart? k) ∧
      { t with watch := s.watch, nextId := s.nextId, tracked := s.tracked }.outside = s.outside ∧
      ∀ h, s.hart? slot = some h → ∃ g, t.hart? slot = some g ∧ { g with lantern := h.lantern, perf := h.perf, watch := h.watch } = h

/-! ## The front end -/

/-- R51, R52: the election. CLAIM of an unowned device makes its master the candidate; a valid RESPOND makes
it the owner with EPOCH counted on, an invalid one, or its timeout, leaves the device to the owner before, or
to none; HANDOVER names a candidate, RELEASE gives the device up, and the loss of the owner's link does. Every
other command answers LAST 1 and changes nothing else; none of a host whose link is not trained arrives (R47).
R50, R51, R54: a write to the ownership mailbox's commands, to a privileged window or to a device-wide control
by one that may not make it has no effect but the count of a master's discarded writes; a master whose link is
not trained has none at all (R47). R53: a doorbell is not taken from software in the privileged view that is
not the partition's runtime. -/
def Obligations.OwnershipIsDecidedAndGuards : Prop :=
  (∀ (s : State) (m : Master),
    let x := s.mailbox
    let k := masterCode m
    let ends := fun (i : Instr) (st owner cand : Nat) (bump : Bool) => ∃ t, exec i s = .next t ∧ t.mailbox.state.toNat = st ∧
      t.mailbox.owner.toNat = owner ∧ t.mailbox.cand.toNat = cand ∧ t.mailbox.epoch = (if bump then x.epoch + 1 else x.epoch) ∧
      t.mailbox.nownwr = x.nownwr ∧ t.mem = s.mem ∧ t.tasks = s.tasks ∧ t.partitions = s.partitions ∧ t.harts = s.harts
    let answers := fun (i : Instr) (r : BitVec 2) => ∃ t, exec i s = .next t ∧ tblGetD t.mailbox.last k 0 = r
    let refuses := fun (i : Instr) => ∃ t, exec i s = .next t ∧ tblGetD t.mailbox.last k 0 = 1 ∧
      t = { s with mailbox := { x with last := t.mailbox.last } }
    (reaches s m = false → exec (.claim m) s = .next s ∧ exec (.respond m) s = .next s) ∧
    (reaches s m = true →
    (x.state = 0 → ends (.claim m) 1 0 k false ∧ answers (.claim m) 0) ∧
    (x.state ≠ 0 → refuses (.claim m)) ∧
    (x.state = 1 ∨ x.state = 3 → x.cand.toNat = k →
      (ownerCredential s m 1 0 = true → ends (.respond m) 2 k 0 true ∧ answers (.respond m) 0) ∧
      (ownerCredential s m 1 0 = false → answers (.respond m) 2 ∧ (x.state = 1 → ends (.respond m) 0 0 0 false) ∧
        (x.state = 3 → ends (.respond m) 2 x.owner.toNat 0 false))) ∧
    (¬(x.state = 1 ∨ x.state = 3) ∨ x.cand.toNat ≠ k → refuses (.respond m)) ∧
    (isOwner s m = true →
      (∀ c : BitVec 2, (x.state = 2 → c ≠ x.owner → ends (.handover m c) 3 x.owner.toNat c.toNat false ∧ answers (.handover m c) 0) ∧
        (x.state ≠ 2 ∨ c = x.owner → refuses (.handover m c))) ∧
      (x.state = 2 → ends (.release m) 0 0 0 true ∧ answers (.release m) 0) ∧
      (x.state = 3 → ends (.release m) 2 x.owner.toNat 0 false ∧ answers (.release m) 0))) ∧
    (x.state = 1 → ends .respondTimeout 0 0 0 false) ∧ (x.state = 3 → ends .respondTimeout 2 x.owner.toNat 0 false) ∧
    (x.state ≠ 1 → x.state ≠ 3 → exec .respondTimeout s = .next s) ∧
    (ownerLinkIsDown s = true → x.state = 2 ∨ x.state = 3 → ends .ownerLinkDown 0 0 0 true)) ∧
  (∀ (s : State),
    (∀ (w : Writer) (p : Nat) (i : Instr), ¬MayWrite s w p →
      ((∃ n tail, n < 64 ∧ i = .doorbell w p n tail) ∨ (∃ n, n < 80 ∧ (i = .queueEnable w p n ∨ i = .queueDisable w p n)) ∨
       (∃ n, n < 16 ∧ (i = .formatRegionEnable w p n ∨ i = .formatRegionDisable w p n)) ∨ (∃ n v, n < 16 ∧ i = .evqstat w p n v) ∨
       (∃ v, i = .lfstat w p v ∨ i = .errstat w p v ∨ i = .rflstat w p v ∨ i = .replctl w p v ∨ i = .ssettle w p v ∨ i = .runtimeStart w p v) ∨
       (∃ q n, i = .preempt w p q n ∨ i = .resume w p q n ∨ i = .revoke w p q n) ∨
       i = .shoot w p ∨ i = .drain w p ∨ i = .confirm w p ∨ i = .runtimeStop w p) →
      exec i s = .next (refusedWrite s w)) ∧
    (∀ (m : Master) (i : Instr), isOwner s m = false →
      ((∃ p, p < 16 ∧ (i = .partitionEnable m p ∨ i = .partitionDisable m p)) ∨ (∃ x, i = .handover m x) ∨ i = .release m ∨
       i = .summer m ∨ i = .spring m ∨ i = .autumn m ∨ i = .winter m ∨ (∃ x, i = .bcncfg m x) ∨
       (∃ f b, i = .linkFailureReport (.master m) f b) ∨
       ∃ x : Word, (bits x 0 3 = 0 ∨ 5 ≤ bits x 0 3) ∧ i = .registerWrite (.master m) 0x108 x) →
      exec i s = .next (refusedWrite s (.master m))) ∧
    (∀ p n tail, n < 64 → hasRuntime s p = false → exec (.doorbell .runtime p n tail) s = .next s))

/-- R61 to R64: QUEUE_ENABLE and QUEUE_DISABLE set the state of a queue, of a partition that is not enabled or
that is being disabled too (the model's choice, log entry 60); a DOORBELL moves TAIL forward by no more
records than the ring holds, and any other value fails the queue with error 1, after which the records from
the old TAIL on are not taken (R63); a device queue takes none. That a failed queue goes on to accept a TAIL
within the bounds, that its first error sets where the taking ends, and that QERR stands while EN is 0 are the
model's choices (log entry 41). R65, R38, R41: TAKE_RECORD takes the record at HEAD as a Queued task and moves
HEAD on by one; a record that fails validation begins to end with cause BADREC. R86 to R88: RESIDENCY_WALK
makes the oldest Queued task Resident when every page of its leases walks, and else records the first page
that does not; an entry of a page table on a pinned line is waited out (R318, R326). In Autumn and Winter,
when the front end has no power, neither does anything (R59, R409; log entry 27). -/
def Obligations.QueuesDoorbellsAndRecords : Prop :=
  (∀ (s : State) (w : Writer) (p n : Nat), MayWrite s w p →
    let q := (s.part p).queue n
    let leaves := fun (i : Instr) (r : Queue) => ∃ t, exec i s = .next t ∧ (t.part p).queue n = r ∧ t.mem = s.mem ∧ t.tasks = s.tasks ∧
      ∀ k, k ≠ n → (t.part p).queue k = (s.part p).queue k
    (n < 80 →
      (q.en = false → q.backlog ≤ q.size → leaves (.queueEnable w p n) { q with en := true, qstate := 1, qerr := 0, upTo := none }) ∧
      (q.en = false → q.size < q.backlog → leaves (.queueEnable w p n) { q with en := true, qstate := 2, qerr := 1, upTo := some q.head }) ∧
      (q.en = true → leaves (.queueEnable w p n) q ∧ leaves (.queueDisable w p n) { q with en := false, qstate := 0, upTo := none }) ∧
      (q.en = false → leaves (.queueDisable w p n) q)) ∧
    (∀ tail, n < 64 → (w = .runtime → hasRuntime s p = true) →
      (q.en = false → leaves (.doorbell w p n tail) { q with tail := tail }) ∧
      (q.en = true → (tail - q.head).toNat ≤ q.size → (tail - q.tail).toNat ≤ q.size →
        leaves (.doorbell w p n tail) { q with tail := tail }) ∧
      (q.en = true → q.size < (tail - q.head).toNat ∨ q.size < (tail - q.tail).toNat →
        leaves (.doorbell w p n tail) { q with qstate := 2, qerr := 1, upTo := some (q.upTo.getD q.tail) })) ∧
    (∀ tail m, 64 ≤ n → exec (.doorbell (.master m) p n tail) s = .next (refusedWrite s (.master m)))) ∧
  ((∀ (s : State) (p n : Nat) (r : List Byte), mayTake s p n = true → readRing s p n = .got r →
    let q := (s.part p).queue n
    ∃ t k, exec (.takeRecord p n) s = .next t ∧ t.tasks = s.tasks ++ [k] ∧ k.part = p ∧ k.queue = n ∧ k.seq = q.head.toNat ∧ k.record = r ∧
      (t.part p).queue n = { q with head := q.head + 1 } ∧ t.mem = s.mem ∧
      k.sigOk = (recSigAddr r == 0 || signalValid (s.part p) r) ∧
      (recordOk (s.part p) n r = true → k.state = .queued ∧ k.cause = none) ∧
      (recordOk (s.part p) n r = false → k.state = .ending false ∧ k.cause = some { code := 0x41 })) ∧
  (∀ (s : State) (p n : Nat), 2 ≤ s.sconce.pwr.toNat → exec (.takeRecord p n) s = .next s ∧ exec (.residencyWalk p n) s = .next s) ∧
  (∀ (s : State) (p n : Nat) (t : Task), oldestQueued s p n = some t → s.task? p n t.seq = some t → s.sconce.pwr.toNat ≤ 1 →
    barrierSatisfied s t = true → drainHolds (s.part p) t.record = false → walkHeld (s.part p) t = false →
    let found := walkLeases s p ((leasesOf t.record).drop t.walk.1) t.walk.1 t.walk.2
    (found = none → ∃ x t', exec (.residencyWalk p n) s = .next x ∧ x.task? p n t.seq = some t' ∧ t'.state = .resident ∧
      t'.blocks = splitGrid (s.part p) t.record ∧ x.mem = s.mem) ∧
    (∀ e k page j pa, found = some (e, k, page, .pinned j pa) → ∃ x t', exec (.residencyWalk p n) s = .next x ∧
      x.task? p n t.seq = some t' ∧ t'.state = .queued ∧ t'.walk = (e, k) ∧ (x.part p).regs = (s.part p).regs ∧ x.mem = s.mem) ∧
    (∀ e k page c, found = some (e, k, page, .fails c) → ∃ x t', exec (.residencyWalk p n) s = .next x ∧ x.task? p n t.seq = some t' ∧
      t'.state = .queued ∧ t'.walk = (e, k) ∧
      ((s.part p).regs.lfstat.getLsbD 0 = false →
        (x.part p).regs.lfstat = BitVec.ofNat 64 (1 + c * 2 + n * 16 + t.seq * 2 ^ 32) ∧
        (x.part p).regs.lfva = BitVec.ofNat 64 (page % 2 ^ 39 * 65536)))))

/-- R67, R79, R17, R82: a DISPATCH_ROUND places one gang of the chosen queue's task: each of its harts takes
its slot at the task's entry with every register, flag and table as R17 gives it: scalar, vector, mask,
predicate, stream and cursor registers, VL, VTYPE, VSTART, FCSR, the loop registers, LSLIP, tiles, planes, the
deferral queue, scratch and granules, the counters, the trap registers and the kernel view. R17 asks of GANGID
only that it tells the gangs apart; that it counts them in the order of their dispatch is the model's choice
(log entry 9). R386, R388, R390, R80: GANG_SAVE of a gang that nothing holds up frees its slots; GANG_RESUME
puts a ready gang back on the slots found for it, or ends its task with cause IMAGE where an image fails; each
waits while a pinned line covers an image (R318). The order of the dies that are tried after the last one is
the model's choice (log entry 62). A saved gang keeps with each hart the VTYPE at its last trap and whether
its hardware loops are held, which its image has no place for, and the hart has them again as it resumes
(R16): the model's reading (log entries 48 and 54). -/
def Obligations.GangsArePlacedSavedAndResumed : Prop :=
  (∀ (s : State) (p rank pick n lv index : Nat) (t : Task) (left : List GangRun) (slots : List (Nat × Nat)),
    dispatches s = true → nextReady s p = none → chooseQueue s p = some (n, lv) → dispatchable s p n = some t →
    rank ∈ placeableRanks s p t → pickGang rank pick t.blocks = some (index, left) →
    let die := listGetD (diesOf (s.part p)) rank 0
    placeGang s die (recGang t.record) { tiles := recZtiles t.record, ways := recSways t.record } = some slots →
    (slots.map Prod.snd).Nodup →
    ∃ x g, exec (.dispatchRound p rank pick) s = .next x ∧ x.gangs = s.gangs ++ [g] ∧ g.id = s.nextGang ∧ x.nextGang = s.nextGang + 1 ∧
      g.gridIdx = index ∧ g.die = die ∧ g.size = recGang t.record ∧ g.harts = slots ∧ g.state = .running ∧ x.mem = s.mem ∧
      ∀ e ∈ slots, ∃ h, x.hart? e.2 = some h ∧ h.pc = recEntry t.record ∧ h.getS 1 = recArgs t.record ∧ h.ids.hartid = e.1 ∧
        h.ids.gang = s.nextGang ∧ h.ids.zshare = recZtiles t.record ∧ h.ids.ways = recSways t.record ∧ h.priv = false ∧ h.run = .running ∧
        h.ids.part = p ∧ h.ids.gridIdx = index ∧ h.ids.gsize = recGang t.record ∧
        h.trap = { tvec := (s.part p).regs.tvecdef } ∧ (∀ r : SIdx, r ≠ 1 → h.getS r = 0) ∧ (∀ r : VIdx, h.getV r = 0) ∧
        (∀ r : MIdx, h.getM r = if r = 0 then BitVec.allOnes 1024 else 0) ∧ (∀ r : PIdx, h.getP r = decide (r = 0)) ∧
        (∀ r : QIdx, h.getQ r = {}) ∧ (∀ r : EIdx, rget h.regs.e r = {}) ∧ h.vl = 0 ∧ h.regs.vtype = 0x09 ∧ h.vstart = 0 ∧ h.fcsr = 0 ∧
        h.regs.loops = {} ∧ h.lslip = 16 ∧ h.tiles = [] ∧ h.zdirty = 0 ∧ h.live = {} ∧ h.shadow = {} ∧ h.defer = [] ∧
        (∀ b, h.scratchByte b = 0) ∧ (∀ k, h.granule k = {}) ∧ h.poison = [] ∧ h.scratchPoison = [] ∧ h.cycle = 0 ∧ h.instret = 0 ∧
        (∀ k, rget h.perf k = 0) ∧ h.rdisc = 0) ∧
  ((∀ (s : State) (gang : Nat) (g : Gang) (k : StopKind) (t : Task), s.gang? gang = some g → g.state = .stopping k →
    s.task? g.part g.queue g.seq = some t → t.state.isEnding = false → gangBusy s g = false →
    (∀ n a, imagePinned s g = some (n, a) → ∃ x, exec (.gangSave gang) s = .next x ∧ x.mem = s.mem ∧ x.harts = s.harts ∧ x.gangs = s.gangs) ∧
    (imagePinned s g = none → ∃ x g', exec (.gangSave gang) s = .next x ∧ x.gang? gang = some g' ∧ g'.state = .saved k ∧ g'.harts = g.harts ∧
      ∀ e ∈ g.harts, x.hart? e.2 = none ∧ ∀ h, s.hart? e.2 = some h → (e.1, h.trap.evtype, h.trap.suspended) ∈ g'.traps)) ∧
  (∀ (s : State) (p : Nat) (g : Gang) (t : Task), dispatches s = true → nextReady s p = some g → s.task? g.part g.queue g.seq = some t →
    (∀ n a, imagePinned s g = some (n, a) → ∃ x, exec (.gangResume p) s = .next x ∧ x.mem = s.mem ∧ x.harts = s.harts ∧ x.gangs = s.gangs) ∧
    (∀ die slots, imagePinned s g = none → badImage s g = none → placeResume s g = some (die, slots) → ∃ x g', exec (.gangResume p) s = .next x ∧
      x.gang? g.id = some g' ∧ g'.state = .running ∧ g'.die = die ∧ g'.harts = slots ∧ ∀ e ∈ slots, isLamp e.2 = false → ∃ h, x.hart? e.2 = some h ∧
        ((slots.map Prod.snd).Nodup → ∀ y, g.traps.find? (fun y => y.1 == e.1) = some y → h.trap.evtype = y.2.1 ∧ h.trap.suspended = y.2.2)) ∧
    (∀ n, imagePinned s g = none → badImage s g = some n → g.part = p → t.state.canEnd = true → ∃ x t', exec (.gangResume p) s = .next x ∧
      x.task? g.part g.queue g.seq = some t' ∧ t'.state = .ending t.state.holdsLeases ∧
      t'.cause = some { code := 0x44, gridIdx := BitVec.ofNat 32 g.gridIdx, hartid := BitVec.ofNat 7 n })))

/-- R401, R403 to R406, R316: a task that retires or ends is Retired or Ended, its event record on the event
queue it names, and its signal written where its record asks for one: SIGVAL, or for a task that ends bit 63
and its cause, as a release at SYSTEM scope, which waits for the stores of its harts that the host has not
accepted; where SIGADDR was bad as the record was taken, or no writable page serves it, the event record says
that it was not made. That a signal into the decoded view of a format is not made either is the model's
reading (log entry 41: R404 does not name it, and R179 gives a signal no outcome). The signal waits out a pin
and, while that pin stands, does not walk again (R318, R328). A task that ends leaves no gang. A task of an
empty grid is Dispatched first (R24). Without power neither is done (R409; log entry 27). R76, R77: the
commands of TCMD: 1 for a task that is not there, 2 for one whose state does not admit the command, and 0 with
the task's new state else. -/
def Obligations.TasksRetireEndAndObey : Prop :=
  (∀ (s : State) (p q n : Nat) (t : Task), s.task? p q n = some t → s.sconce.pwr.toNat ≤ 1 →
    let posted := fun (x : State) (c : EndCause) (fail : Bool) => recEvq t.record < 16 →
      ((s.part p).events (recEvq t.record)).records.length < 256 →
      ((x.part p).events (recEvq t.record)).records = ((s.part p).events (recEvq t.record)).records ++
        [{ w0 := recTag t.record, w1 := BitVec.ofNat 64 (t.seq % 2 ^ 32 + t.queue % 128 * 2 ^ 32 + if fail then 2 ^ 39 else 0)
           w2 := 0#9 ++ c.hartid ++ c.gridIdx ++ c.tcode ++ c.code, w3 := c.eval }]
    let va := (recSigAddr t.record).toNat
    let ends := fun (i : Instr) (st : TaskState) (fail : Bool) (P : State → Prop) => ∃ x t', exec i s = .next x ∧
      x.task? p q n = some t' ∧ t'.state = st ∧ t'.sigFail = fail ∧ P x
    let wait := fun (i : Instr) (u : State) => ∃ x t', exec i s = .next x ∧ x.mem = u.mem ∧ x.task? p q n = some t' ∧ t'.state.finished = false
    let unserved := fun (u : State) => t.sigOk = false ∨ (signalHeld u t = false ∧ signalPinned u t = none ∧ draining (u.part p) (va / 65536) = false ∧
      (walk u p (va / 65536) = .noLeaf ∨ walk u p (va / 65536) = .malformed ∨ ∃ e base, walk u p (va / 65536) = .leaf e base ∧
        (pteWritable e = false ∨ (isRawAlias (base + va % 65536) = false ∧ touchesDecoded u (base + va % 65536) 8 = true))))
    let signals := fun (i : Instr) (u : State) (st : TaskState) (c : EndCause) (y : Word) (P : State → Prop) =>
      (va = 0 → ends i st false fun x => x.mem = u.mem ∧ posted x c false ∧ P x) ∧
      (va ≠ 0 → t.sigOk = true → (signalHeld u t = true ∨ signalPinned u t ≠ none ∨ draining (u.part p) (va / 65536) = true) → wait i u) ∧
      (va ≠ 0 → unserved u → ends i st true fun x => x.mem = u.mem ∧ posted x c true ∧ P x) ∧
      (va ≠ 0 → t.sigOk = true → signalHeld u t = false → signalPinned u t = none → draining (u.part p) (va / 65536) = false →
        ∀ k a, walk u p (va / 65536) = .pinned k a → wait i u) ∧
      ∀ e base, let pa := base + va % 65536
        va ≠ 0 → t.sigOk = true → signalHeld u t = false → signalPinned u t = none → draining (u.part p) (va / 65536) = false →
        walk u p (va / 65536) = .leaf e base → pteWritable e = true → pteWtype e ≠ 1 → isHostPa pa = false →
        (isRawAlias pa = true ∨ touchesDecoded u pa 8 = false) →
        (∀ k, pinnedElsewhere u none pa 8 = some k → wait i u) ∧
        (pinnedElsewhere u none pa 8 = none → ends i st false fun x => SameBytesBut u x (storageOf pa) 8 ∧
          leNat ((List.range 8).map fun k => Memory.read x.mem (storageOf pa + k)) = y.toNat ∧ posted x c false ∧ P x)
    let c := t.cause.getD { code := 0 }
    let u := (gangsOf s t).foldl endGang s
    (emptyTurn s t = true → ∃ x t', exec (.taskRetire p q n) s = .next x ∧ x.task? p q n = some t' ∧ t'.state = .dispatched ∧ x.mem = s.mem) ∧
    (retires t = true → signals (.taskRetire p q n) s .retired c (recSigVal t.record) fun _ => True) ∧
    (t.state.isEnding = true → (gangsOf s t).any (gangBusy s) = false →
      ((gangsOf s t).filter Gang.isSaved).findSome? (imagePinned s) = none →
      ((gangsOf s t).any Gang.isSaved = false → u.mem = s.mem) ∧
      signals (.taskEnd p q n) u .ended c (0x8000000000000000 ||| c.code.setWidth 64)
        fun x => ∀ g ∈ x.gangs, ¬(g.part = p ∧ g.queue = q ∧ g.seq = n))) ∧
  (∀ (s : State) (w : Writer) (p q n : Nat), MayWrite s w p →
    let answers := fun (i : Instr) (r : BitVec 2) => ∃ x, exec i s = .next x ∧ (x.part p).regs.tcmd = r ∧ x.mem = s.mem
    (s.task? p q n = none → answers (.preempt w p q n) 1 ∧ answers (.resume w p q n) 1 ∧ answers (.revoke w p q n) 1) ∧
    (∀ t, s.task? p q n = some t →
      let reaches := fun (i : Instr) (st : TaskState) => ∃ x t', exec i s = .next x ∧ (x.part p).regs.tcmd = 0 ∧ x.mem = s.mem ∧
        x.task? p q n = some t' ∧ t'.state = st
      (canPreempt t.state = false → answers (.preempt w p q n) 2) ∧
      (canPreempt t.state = true → reaches (.preempt w p q n) (.preempted (stateCode t.state))) ∧
      (isPreempted t.state = false → answers (.resume w p q n) 2) ∧
      (isPreempted t.state = true → reaches (.resume w p q n) (resumedState s t)) ∧
      (t.state.canEnd = false → answers (.revoke w p q n) 2) ∧
      (t.state.canEnd = true → reaches (.revoke w p q n) (.ending t.state.holdsLeases) ∧
        ∃ x t', exec (.revoke w p q n) s = .next x ∧ x.task? p q n = some t' ∧ t'.cause = some { code := 0x42 })))

/-- R57 to R60: PARTITION_ENABLE of good parts enables the partition with its window at reset and its dies
empty, and of others stores PERR; PARTITION_DISABLE closes its queues; neither is taken once the firmware has
failed (R394); PARTITION_DISABLE_COMPLETE of an idle one clears EN, drops its windows and leaves the barriers
of its dies as at reset (R328). R56: RUNTIME_START starts the runtime at its address in the privileged view on
the first die of the partition, and RUNTIME_STOP stops it. R172, R173: FORMAT_REGION_ENABLE of a good region
sets EN with FERR 0, and of another sets FERR to the first check that fails and leaves EN 0;
FORMAT_REGION_DISABLE clears EN. R226, R227: REPLCTL keeps its fields, and with EN 0 returns the partition's
pages to memory-side mode; REPL_WINDOW_END moves each tracked page between its modes at the thresholds, by the
accesses that arrived at its slices, and no other, withdrawing the held translations of one that moves (R101);
its counts begin again. Which pages stay tracked, what caches kept from the slices, and that the front end
keeps the leaf of a page whose translations are withdrawn are log entry 36. -/
def Obligations.PartitionsRuntimesAndRegions : Prop :=
  (∀ (s : State) (p : Nat), let x := s.part p
    (∀ m, p < 16 → reaches s m = true → isOwner s m = true →
      (x.en = false → s.sconce.fw = 1 → s.sconce.clearing = none →
        (partitionError s p = 0 → ∃ t, exec (.partitionEnable m p) s = .next t ∧ (t.part p).en = true ∧ (t.part p).regs = {} ∧
          (t.part p).dieSet = x.dieSet ∧ (t.part p).stackSet = x.stackSet ∧ t.mem = s.mem ∧
          ∀ k, ownsDie x (dieOf k) = true → t.hart? k = none) ∧
        (partitionError s p ≠ 0 → ∃ t, exec (.partitionEnable m p) s = .next t ∧ (t.part p).en = false ∧
          (t.part p).perr = BitVec.ofNat 3 (partitionError s p) ∧ t.harts = s.harts)) ∧
      (x.en = true → exec (.partitionEnable m p) s = .next s) ∧
      (s.sconce.fw = 2 → exec (.partitionEnable m p) s = .next s ∧ exec (.partitionDisable m p) s = .next s) ∧
      (x.en = true → x.disabling = false → s.sconce.fw ≠ 2 → ∃ t, exec (.partitionDisable m p) s = .next t ∧ (t.part p).disabling = true ∧ t.mem = s.mem ∧
        ∀ n, ((t.part p).queue n).en = false)) ∧
    (x.disabling = true → partitionIdle s p = true → ∃ t, exec (.partitionDisableComplete p) s = .next t ∧ (t.part p).en = false ∧
      (t.part p).disabling = false ∧ (∀ e ∈ t.windows, winPart e.2 ≠ p) ∧
      ∀ d n, n < 64 → ownsDie x d = true → t.barrier (barKey d n) = {}) ∧
    (∀ w value, MayWrite s w p → x.regs.rtentry.getLsbD 0 = false → x.en = true → x.disabling = false → s.sconce.fw = 1 →
      s.sconce.pwr.toNat ≤ 1 →
      ∃ t h, exec (.runtimeStart w p value) s = .next t ∧ t.hart? (lampOf (frontDie x)) = some h ∧ h.pc = value &&& 0x7FFFFFFFFFFFFC ∧
        h.priv = true ∧ h.run = .running ∧ h.ids.part = p ∧ (t.part p).regs.rtentry.getLsbD 0 = true) ∧
    (∀ w, MayWrite s w p → x.regs.rtentry.getLsbD 0 = true → ∃ t, exec (.runtimeStop w p) s = .next t ∧
      t.hart? (lampOf (frontDie x)) = none ∧ (t.part p).regs.rtentry.getLsbD 0 = false)) ∧
  (∀ (s : State) (p : Nat),
    (∀ w n, MayWrite s w p → n < 16 →
      let a := fun (t : State) => tblGetD (t.part p).fmtA n 0
      let b := fun (t : State) => tblGetD (t.part p).fmtB n 0
      let e := regionError s p (regionOf (s.part p) n)
      (regionEnabled (s.part p) n = false → e = 0 → ∃ t, exec (.formatRegionEnable w p n) s = .next t ∧ (a t).getLsbD 0 = true ∧
        bits (b t) 32 3 = 0 ∧ t.mem = s.mem) ∧
      (regionEnabled (s.part p) n = false → e ≠ 0 → ∃ t, exec (.formatRegionEnable w p n) s = .next t ∧ (a t).getLsbD 0 = false ∧
        bits (b t) 32 3 = e ∧ t.mem = s.mem) ∧
      ∃ t, exec (.formatRegionDisable w p n) s = .next t ∧ (a t).getLsbD 0 = false ∧ b t = b s ∧ t.mem = s.mem) ∧
    (∀ w value, MayWrite s w p → ∃ t, exec (.replctl w p value) s = .next t ∧ (t.part p).regs.replctl = value &&& 0xFFF1 ∧
      t.mem = s.mem ∧ (value.getLsbD 0 = true → t.replicated = s.replicated) ∧
      (value.getLsbD 0 = false → ∀ g, g ∈ t.replicated ↔ g ∈ s.replicated ∧ ownerOfPage s g ≠ some p)) ∧
    (∀ gone keptRd keptWr, ∃ t, exec (.replWindowEnd gone keptRd keptWr) s = .next t ∧ t.mem = s.mem ∧
      t.tracked = (s.tracked.filter fun x => x.rd + x.wr != 0 && !gone.contains x.page).map (fun x => { page := x.page }) ∧
      (∀ g, (∀ x ∈ s.tracked, x.page ≠ g) → (g ∈ t.replicated ↔ g ∈ s.replicated)) ∧
      ∀ x ∈ s.tracked, (s.tracked.filter fun y => y.page == x.page).length = 1 →
        (ownerOfPage s x.page = none → (x.page ∈ t.replicated ↔ x.page ∈ s.replicated)) ∧
        (ownerOfPage s x.page = some p → let ctl := (s.part p).regs.replctl
          let rd := x.rd - tblGetD keptRd x.page 0
          let wr := x.wr - tblGetD keptWr x.page 0
          (x.page ∉ s.replicated → (x.page ∈ t.replicated ↔ entersReplicated ctl rd wr = true)) ∧
          (x.page ∈ s.replicated → (x.page ∉ t.replicated ↔ leavesReplicated ctl rd wr = true)) ∧
          ((x.page ∈ t.replicated ↔ x.page ∈ s.replicated) ∨ ∀ e ∈ t.tlb, e.part = p → leafPage e.pte = x.page → e.pair = frontPair))))

/-- R100 to R102, R376, R377: the commands of INVCMD by STATUS, with RESULT 2 for a command while one runs and
1 for one out of order; a SHOOT withdraws the translations that are held of its range, and runs DRAIN and
CONFIRM where one of them has HOME 01 or 10; how SHOOT, DRAIN, CONFIRM and a settle end. That the old HOME is
read from the translations that are held is log entry 20, that the front end alone then holds the leaf of a
page that was known or leased is log entry 36, and what CONFIRM and SSETTLE wait for, pins, multicasts and
host stores, is log entries 20 and 21. -/
def Obligations.InvalidationsRun : Prop :=
  ∀ (s : State) (p : Nat), let i := (s.part p).regs.inv
    let range := (s.part p).regs.invrange
    let inv := fun (t : State) => (t.part p).regs.inv
    (∀ w, MayWrite s w p →
      (∀ e, e = Instr.shoot w p ∨ e = Instr.drain w p ∨ e = Instr.confirm w p → i.status = 1 ∨ i.status = 2 →
        ∃ t, exec e s = .next t ∧ inv t = { i with result := 2 } ∧ t.mem = s.mem) ∧
      (i.status = 3 →
        (∃ t, exec (.confirm w p) s = .next t ∧ (inv t).status = 1 ∧ (inv t).result = 0 ∧ (inv t).range = i.range) ∧
        ∀ e, e = Instr.shoot w p ∨ e = Instr.drain w p → ∃ t, exec e s = .next t ∧ inv t = { i with result := 1 } ∧ t.mem = s.mem) ∧
      (i.status = 0 →
        (∃ t, exec (.shoot w p) s = .next t ∧ (inv t).status = 1 ∧ (inv t).result = 0 ∧ (inv t).range = range ∧ t.mem = s.mem ∧
          (inv t).op = some (if oldHome s p range then .shootDrain else .shoot) ∧
          ∀ e ∈ t.tlb, e.part = p → invCovers range e.page = true → e.pair = frontPair ∧ walk s p e.page = .leaf e.pte e.pa) ∧
        (∃ t, exec (.drain w p) s = .next t ∧ (inv t).status = (if leaseHeldOver s p range then 2 else 1) ∧ (inv t).result = 0 ∧
          (inv t).range = range ∧ t.mem = s.mem) ∧
        ∃ t, exec (.confirm w p) s = .next t ∧ inv t = { i with result := 1 } ∧ t.mem = s.mem) ∧
      (∀ value : Word, value.getLsbD 0 = true → i.status = 0 →
        ∃ t, exec (.ssettle w p value) s = .next t ∧ (t.part p).regs.settling = true ∧ t.mem = s.mem)) ∧
    (i.status = 2 → leaseHeldOver s p i.range = false → ∃ t, exec (.drainBegin p) s = .next t ∧ (inv t).status = 1 ∧ t.mem = s.mem) ∧
    (i.op = some .drain → i.status = 1 → ∃ t, exec (.drainComplete p) s = .next t ∧ (inv t).status = 3 ∧ t.mem = s.mem) ∧
    (i.op = some .shoot → i.status = 1 → ∃ t, exec (.shootComplete p) s = .next t ∧ (inv t).status = 0 ∧ t.mem = s.mem) ∧
    (i.status = 1 → pinnedThrough s p i.range = none → castUnread s p i.range = false → hostStoresOpen s p = false →
      (i.op = some .shootDrain → ∃ t, exec (.shootComplete p) s = .next t ∧ (inv t).status = 0 ∧ t.mem = s.mem) ∧
      (i.op = some .confirm → ∃ t, exec (.confirmComplete p) s = .next t ∧ (inv t).status = 0 ∧ t.mem = s.mem)) ∧
    ((s.part p).regs.settling = true → unsettled s p = false →
      ∃ t, exec (.settleComplete p) s = .next t ∧ (t.part p).regs.settling = false ∧ t.mem = s.mem)

/-- R44, R45, R46, R48, R50, R97, R179, R310, R327, R399: links train, with keys, and fail, link 1 only where
the straps choose two; a link comes up at a rate and width of R45, which are free values, with two HDM
decoders of one way each (log entry 75), and what R45 does not support no DVSEC capability advertises; an
owner's write to HBM over its trained link changes its bytes and no other, another master's is counted, one in
a decoded view is ignored; a read answers the bytes and whether any is poisoned; a debug write needs Halt and
a trained link. That every master, not the owner alone, may make one is the model's reading (log entry 29:
R399 names no master). That an access outside HBM stops with the fault outsideAllMemory is the model's choice
(log entries 30 and 31: no rule says what answers it), and so are the order in which the host's coherence
accepts stores, the oldest of those at VA first (log entry 12), and that a link which fails to train again
stays up (log entry 72). R47, R55, R57, R61, R98, R172, R216, R227, R405: a register of a privileged window
written at its BAR0 offset by one that may write it reads back as its fields keep it: FECTL, PTROOT while no
lease is held, INVRANGE, REPLCTL, TVECDEF, a standing range, a format region that is not enabled, EVQSTAT, a
queue's ring, LOG2N and TAIL while it is not enabled, which of the software in the privileged view the
partition's runtime alone may write (R53); LFVA, ERRLOC, HEAD and QSTATUS keep their values; and the words of
PCFG of a partition that is not enabled, written by the owner. -/
def Obligations.HostPortCompletes : Prop :=
  (∀ (s : State),
    (∀ link, exec (.linkDown link) s = .next { s with linkUp := s.linkUp &&& (if link then 1#2 else 2#2) } ∧
      (link = true → s.twoLinks = false → ∀ b, exec (.linkTraining link b) s = .next s) ∧
      (link = false ∨ s.twoLinks = true → exec (.linkTraining link false) s = .next (logSconce s (.linkFailed link)) ∧
        ∃ t, exec (.linkTraining link true) s = .next t ∧ t.linkUp = s.linkUp ||| (if link then 2#2 else 1#2) ∧
          (tblGet t.sconce.ideKeys link.toNat).isSome = true ∧
          (∃ x, tblGet t.hostLinks link.toNat = some x ∧ (x.rate = 64 ∨ x.rate = 32) ∧
            (x.width = 8 ∨ x.width = 4 ∨ (x.width = 16 ∧ s.twoLinks = false)) ∧ x.decoders.length = 2 ∧ ∀ d ∈ x.decoders, d.ways = 1) ∧
          { t with linkUp := s.linkUp, hostLinks := s.hostLinks, sconce := s.sconce, fresh := s.fresh } = s)) ∧
    (∀ f : HostFeature, f.supported = false → f.inDvsec = false) ∧
    (∀ m a bs, hdmLink s m = true → bs ≠ [] →
      (isHdm a bs.length = false → exec (.hostHdmWrite m a bs) s = .fault (.outsideAllMemory a)) ∧
      (isHdm a bs.length = true → isOwner s m = false → exec (.hostHdmWrite m a bs) s = .next (countDiscarded s)) ∧
      (isHdm a bs.length = true → isOwner s m = true → touchesDecoded s a bs.length = true →
        ∃ t, exec (.hostHdmWrite m a bs) s = .next t ∧ t.mem = s.mem) ∧
      (isHdm a bs.length = true → isOwner s m = true → touchesDecoded s a bs.length = false → pinnedElsewhere s none a bs.length = none →
        ∃ t, exec (.hostHdmWrite m a bs) s = .next t ∧ SameBytesBut s t a bs.length ∧ ∀ k (hk : k < bs.length), Memory.read t.mem (a + k) = bs[k])) ∧
    (∀ m a n, hdmLink s m = true → n ≠ 0 →
      (isHdm a n = false → exec (.hostHdmRead m a n) s = .fault (.outsideAllMemory a)) ∧
      (isHdm a n = true → s.sconce.pwr ≠ 3 → pinnedElsewhere s none a n = none → ∃ t, exec (.hostHdmRead m a n) s = .next t ∧ t.mem = s.mem ∧
        t.hostReply = some { master := m, addr := a, bytes := physReadBytes s a n, poisoned := (firstPoison s a n).isSome })) ∧
    (∀ m a bs, bs ≠ [] →
      (reaches s m = false ∨ s.sconce.dbg ≠ 2 → exec (.debugMemoryWrite m a bs) s = .next s) ∧
      (reaches s m = true → s.sconce.dbg = 2 → s.sconce.pwr ≠ 3 → isDevicePa a = false →
        exec (.debugMemoryWrite m a bs) s = .fault (.outsideAllMemory a)) ∧
      (reaches s m = true → s.sconce.dbg = 2 → s.sconce.pwr ≠ 3 → isDevicePa a = true → isDevicePa (a + bs.length - 1) = true →
        (isRawAlias a = true ∨ touchesDecoded s a bs.length = false) → pinnedElsewhere s none a bs.length = none →
        ∃ t, exec (.debugMemoryWrite m a bs) s = .next t ∧ SameBytesBut s t (storageOf a) bs.length ∧
          ∀ k (hk : k < bs.length), Memory.read t.mem (storageOf a + k) = bs[k])) ∧
    (s.hostStores.find? (HostStore.atVa s) = none → exec .hostCoherenceAccept s = .next s) ∧
    (∀ e, s.hostStores.find? (HostStore.atVa s) = some e →
      ∃ t, exec .hostCoherenceAccept s = .next t ∧ t.hostStores = s.hostStores.erase e ∧ t.mem = s.mem)) ∧
  (∀ (s : State) (w : Writer) (p : Nat) (x : Word), p < 16 → MayWrite s w p →
    let back := fun (off : Nat) (y : Word) => ∃ t, exec (.registerWrite w (0x1000000 + p * 2 ^ 20 + off) x) s = .next t ∧
      windowRead t p off = y ∧ t.mem = s.mem ∧ t.tasks = s.tasks
    let same := fun (off : Nat) => back off (windowRead s p off)
    back 0x00 (x &&& 0xFF) ∧ back 0x48 x ∧ back 0x60 (x &&& 0xFFF1) ∧ back 0x68 (x &&& 0x7FFFFFFFFFFFFC) ∧ (∀ k, k < 8 → back (0x80 + 8 * k) x) ∧
    ((s.tasks.any fun t => t.part == p && t.state.holdsLeases) = false → back 0x40 (x &&& 0xFFFFFFFFF0001)) ∧
    ((s.tasks.any fun t => t.part == p && t.state.holdsLeases) = true → same 0x40) ∧ same 0x28 ∧ same 0x38 ∧
    (∀ n, n < 16 → back (0x200 + 8 * n) (evqWord { (s.part p).events n with drop := 0, ien := x.getLsbD 32 }) ∧
      (regionEnabled (s.part p) n = false → (x.getLsbD 0 = false → back (0x100 + 16 * n) (x &&& 0xFFFFFFFFF0000)) ∧
        back (0x108 + 16 * n) (withBits (windowRead s p (0x108 + 16 * n)) 0 32 (bits x 0 32))) ∧
      (regionEnabled (s.part p) n = true → same (0x108 + 16 * n))) ∧
    (∀ n, n < 80 → same (0x10000 + n * 0x1000 + 0x18) ∧ same (0x10000 + n * 0x1000 + 0x20) ∧
      (((s.part p).queue n).en = true → same (0x10000 + n * 0x1000))) ∧
    (∀ m, w = .master m → (s.part p).en = false →
      let pcfg := fun (off : Nat) (y : Word) => ∃ t, exec (.registerWrite w (0x10000 + 256 * p + off) x) s = .next t ∧ pcfgRead t p off = y ∧
        t.mem = s.mem
      (x.getLsbD 31 = false → pcfg 0 (x &&& 0x7FFFFFFF)) ∧ pcfg 8 (x &&& 0xFFFFFFFFF0000) ∧ pcfg 16 (x &&& 0xFFFFFFFF)) ∧
    (∀ n, n < 64 → ((s.part p).queue n).en = false → back (0x10000 + n * 0x1000) (x &&& 0xFFFFFFFFFFF01)) ∧
    (∀ n, n < 64 → ((s.part p).queue n).en = false → x.getLsbD 5 = false →
      back (0x10000 + n * 0x1000 + 8) (x &&& 0x1F) ∧
      ((w = .runtime → hasRuntime s p = true) → back (0x10000 + n * 0x1000 + 0x10) (x &&& 0xFFFFFFFF))))

/-- R391 to R393: an error in device memory poisons its word, is recorded in ERRSTAT and ERRLOC of the
partition that owns the stack and counts there; the first one stands. One in a line that a cache way holds is
its core die's and has the line's PA. A corrected error counts in its own field and poisons nothing. That a
word of a cache way is poisoned for every reader of its PA is log entry 68. R88, R369, R370, R372, R393, R405:
what a write leaves in LFSTAT, ERRSTAT, RFLSTAT, EVQSTAT and BCNCFG, and how the owner reports a failed part.
That a write of 1 to ERRSTAT leaves UEV and SRC, and that a runtime's LINK_FAILURE_REPORT has no effect, are
the model's readings (log entry 32). -/
def Obligations.ErrorsAreRecordedAndCleared : Prop :=
  ((∀ (s : State) (a p : Nat), isDevicePa a = true → ownerOfStack s (stackOf a) = some p → a < 2 ^ 51 →
    ∃ t, exec (.uncorrectableError (.hbm a)) s = .next t ∧ t.mem = s.mem ∧ a / 8 * 8 ∈ t.memPoison ∧
      bits (t.part p).regs.errstat 48 16 = min (bits (s.part p).regs.errstat 48 16 + 1) 65535 ∧
      ((s.part p).regs.errstat.getLsbD 0 = false → (t.part p).regs.errstat.getLsbD 0 = true ∧ bits (t.part p).regs.errstat 1 3 = 3 ∧
        (t.part p).regs.errloc = BitVec.ofNat 64 a) ∧
      ((s.part p).regs.errstat.getLsbD 0 = true → (t.part p).regs.errloc = (s.part p).regs.errloc)) ∧
  (∀ (s : State) (a p : Nat), ownerOfDie s (homeDie a) = some p → (s.part p).regs.errstat.getLsbD 0 = false →
    ∃ t, exec (.uncorrectableError (.l2 a)) s = .next t ∧ (t.part p).regs.errstat.getLsbD 0 = true ∧ bits (t.part p).regs.errstat 1 3 = 2 ∧
      (t.part p).regs.errloc = BitVec.ofNat 64 a) ∧
  (∀ (s : State) (pair a p : Nat), isDevicePa a = true → a < 2 ^ 51 → ownerOfDie s (dieOfPair pair) = some p →
    (s.part p).regs.errstat.getLsbD 0 = false →
    ∃ t, exec (.uncorrectableError (.cacheWay pair a)) s = .next t ∧ t.mem = s.mem ∧ a / 8 * 8 ∈ t.memPoison ∧
      (t.part p).regs.errstat.getLsbD 0 = true ∧ bits (t.part p).regs.errstat 1 3 = 1 ∧ (t.part p).regs.errloc = BitVec.ofNat 64 a) ∧
  (∀ (s : State) (d p : Nat), ownerOfDie s d = some p →
    ∃ t, exec (.correctedError (.die d)) s = .next t ∧ t.mem = s.mem ∧ t.memPoison = s.memPoison ∧ t.harts = s.harts ∧
      bits (t.part p).regs.errstat 16 16 = min (bits (s.part p).regs.errstat 16 16 + 1) 65535 ∧
      bits (t.part p).regs.errstat 48 16 = bits (s.part p).regs.errstat 48 16) ∧
  (∀ (s : State) (slot i : Nat) (h : Hart), s.hart? slot = some h → i < 64 →
    ∃ t g, exec (.uncorrectableError (.scalar slot (BitVec.ofNat 6 i))) s = .next t ∧ t.hart? slot = some g ∧
      RegLoc.s i ∈ g.poison ∧ g.regs = h.regs)) ∧
  (∀ (s : State),
    (∀ (w : Writer) (p : Nat), MayWrite s w p → let r := (s.part p).regs
      let regs := fun (i : Instr) (f : WindowRegs → Prop) => ∃ t, exec i s = .next t ∧ f (t.part p).regs ∧ t.mem = s.mem ∧ t.tasks = s.tasks
      (∀ x : Word, x.getLsbD 0 = false → regs (.lfstat w p x) fun q => q.lfstat.getLsbD 0 = false ∧ q.lfva = r.lfva) ∧
      (∀ x : Word, x.getLsbD 0 = true → regs (.lfstat w p x) fun q => q = r) ∧
      (∀ x : Word, regs (.errstat w p x) fun q => bits q.errstat 16 48 = 0 ∧ bits q.errstat 1 3 = bits r.errstat 1 3 ∧
        q.errstat.getLsbD 0 = (x.getLsbD 0 && r.errstat.getLsbD 0) ∧ q.errloc = if x.getLsbD 0 then r.errloc else 0) ∧
      (∀ x : Word, regs (.rflstat w p x) fun q => bits q.rflstat 48 16 = 0 ∧ bits q.rflstat 1 47 = bits r.rflstat 1 47 ∧
        q.rflstat.getLsbD 0 = (x.getLsbD 0 && r.rflstat.getLsbD 0)) ∧
      (∀ (n : Nat) (x : Word), n < 16 → ∃ t, exec (.evqstat w p n x) s = .next t ∧ t.mem = s.mem ∧
        (t.part p).events n = { (s.part p).events n with drop := 0, ien := x.getLsbD 32 })) ∧
    (∀ m, reaches s m = true → isOwner s m = true →
      (∀ x : Word, bcnEn s.bcncfg = false → exec (.bcncfg m x) s = .next { s with bcncfg := x &&& 0xFFFF7FFF }) ∧
      (∀ x : Word, bcnEn s.bcncfg = true → ∃ t, exec (.bcncfg m x) s = .next t ∧ bcnEn t.bcncfg = x.getLsbD 31 ∧
        t.bcncfg ||| 0x80000000 = s.bcncfg) ∧
      (∀ f, (∃ t, exec (.linkFailureReport (.master m) f true) s = .next t ∧ f ∈ t.failed ∧ ∀ g ∈ s.failed, g ∈ t.failed) ∧
        ∃ t, exec (.linkFailureReport (.master m) f false) s = .next t ∧ f ∉ t.failed ∧ ∀ g ∈ s.failed, g ≠ f → g ∈ t.failed)) ∧
    (∀ f b, exec (.linkFailureReport .runtime f b) s = .next s))

/-- R409: the owner's requests for a power state, what refuses them, and how they complete. That a new request
cancels a transition that has not completed, what a refused request stores in REQ and REFUSED, and that Winter
is entered at once are the model's choices (log entry 27). R395 to R400: DBGREQ admits the owner's requests
alone, needs a credential to raise the level and none to lower it; a gang is halted and let go at Halt level;
an owner key is replaced in Provisioned alone; the security states move one way, and the entry into
Provisioned clears HBM, the pending NONCE and the link keys; a report is built for the master that asked for
it. That a master that is not the owner, or a level of 3, answers LAST 1, and the order of the checks, are the
model's choices (log entry 29). -/
def Obligations.PowerDebugAndSecurityMove : Prop :=
  (∀ (s : State) (m : Master), reaches s m = true → isOwner s m = true →
    let x := s.sconce
    let leaves := fun (i : Instr) (pwr : BitVec 2) (target : Option (BitVec 2)) (req : BitVec 2) (refused : Bool) =>
      ∃ t, exec i s = .next t ∧ t.sconce.pwr = pwr ∧ t.sconce.pwrTo = target ∧ t.sconce.pwrReq = req ∧ t.sconce.pwrRefused = refused
    (x.pwr = 0 → leaves (.summer m) 0 none 0 false) ∧
    (x.pwr = 1 ∨ x.pwr = 2 → leaves (.summer m) x.pwr (some 0) 0 false) ∧
    (x.pwr = 3 → leaves (.summer m) 0 none 0 false) ∧
    (x.pwr = 0 → leaves (.spring m) 0 (some 1) 1 false) ∧ (x.pwr = 1 → leaves (.spring m) 1 none 1 false) ∧
    (x.pwr = 2 ∨ x.pwr = 3 → leaves (.spring m) x.pwr x.pwrTo 1 true) ∧
    (x.pwr ≠ 3 → leaves (.autumn m) x.pwr none 2 false) ∧ (x.pwr = 3 → leaves (.autumn m) 3 x.pwrTo 2 true) ∧
    ((s.partitions.any fun e => e.2.en) = true → leaves (.winter m) x.pwr x.pwrTo 3 true) ∧
    ((s.partitions.any fun e => e.2.en) = false → leaves (.winter m) 3 none 3 false ∧
      ∃ t, exec (.winter m) s = .next t ∧ t.tasks = [] ∧ t.harts = [] ∧ ∀ a, isHostPa a = false → Memory.read t.mem a = 0) ∧
    (x.pwrReq = 2 → x.pwrRefused = false → x.pwr.toNat ≤ 1 → gangsAway s = true →
      leaves .autumnEntry 2 none 2 false ∧ ∃ t, exec .autumnEntry s = .next t ∧ t.harts = [] ∧ t.mem = s.mem ∧ t.tasks = s.tasks) ∧
    (∀ r, x.pwrTo = some r → x.pwr ≠ 2 → leaves .powerTransitionComplete r none x.pwrReq x.pwrRefused) ∧
    (∀ r, x.pwrTo = some r → x.pwr = 2 → leaves .powerTransitionComplete 0 none x.pwrReq x.pwrRefused)) ∧
  (∀ (s : State) (m : Master), reaches s m = true → let x := s.sconce
    let k := masterCode m
    (∀ level, isOwner s m = false ∨ level = 3 → ∃ t, exec (.dbgreq m level) s = .next t ∧ t.sconce = x ∧ tblGetD t.mailbox.last k 0 = 1) ∧
    (∀ level, isOwner s m = true → level ≠ 3 → level.toNat < x.dbg.toNat → ∃ t, exec (.dbgreq m level) s = .next t ∧
      t.sconce.dbg = level ∧ tblGetD t.mailbox.last k 0 = 0) ∧
    (∀ level, isOwner s m = true → level ≠ 3 → x.dbg.toNat ≤ level.toNat →
      (debugCredential (freshNonce s) m level = false → ∃ t, exec (.dbgreq m level) s = .next t ∧ t.sconce = x ∧ tblGetD t.mailbox.last k 0 = 2) ∧
      (debugCredential (freshNonce s) m level = true → ¬(x.sec = 2 ∧ level = 2) → ∃ t, exec (.dbgreq m level) s = .next t ∧
        t.sconce.dbg = level ∧ tblGetD t.mailbox.last k 0 = 0)) ∧
    (∀ id g t0, s.gang? id = some g → s.task? g.part g.queue g.seq = some t0 → t0.state.canEnd = true → g.state = .running →
      x.dbg = 2 → x.pwr.toNat ≤ 1 → ∃ t g', exec (.debugGangHalt m id) s = .next t ∧ t.gang? id = some g' ∧ g'.state = .stopping .debug ∧
        g'.held = true) ∧
    (∀ id g, s.gang? id = some g → x.dbg = 2 → ∃ t g', exec (.debugGangResume m id) s = .next t ∧ t.gang? id = some g' ∧ g'.held = false ∧
      (g.held = true → g.state = .saved .debug → id ∈ (t.part g.part).ready)) ∧
    (∀ index key, (isOwner s m = true → x.sec = 1 → key.length = 1952 → ∃ t, exec (.ownerKeyReplace m index key) s = .next t ∧
        tblGet t.sconce.keys index.toNat = some key) ∧
      (isOwner s m = false ∨ x.sec ≠ 1 ∨ key.length ≠ 1952 → exec (.ownerKeyReplace m index key) s = .next s)) ∧
    (x.sec = 0 → (s.partitions.any fun e => e.2.en) = false → ∃ t, exec (.securityStateEntry 1) s = .next t ∧ t.sconce.sec = 1 ∧
      t.mailbox.nonce = 0 ∧ t.sconce.ideKeys = [] ∧ ∀ a, isHostPa a = false → Memory.read t.mem a = 0) ∧
    (x.sec = 1 → ∃ t, exec (.securityStateEntry 2) s = .next t ∧ t.sconce.sec = 2 ∧ t.sconce.dbg = 0) ∧
    (∀ sec, sec ≠ 1 ∨ x.sec ≠ 0 → sec ≠ 2 ∨ x.sec ≠ 1 → exec (.securityStateEntry sec) s = .next s) ∧
    (∃ t, exec (.attreq m) s = .next t ∧ k ∈ t.sconce.attBusy ∧ t.sconce.reports = x.reports) ∧
    (x.attBusy.contains k = true → ∃ t, exec (.attestationReportReady m) s = .next t ∧ k ∉ t.sconce.attBusy ∧
      tblGet t.sconce.reports k = some (reportBody s m ++ Config.deviceSignature (reportBody s m))))

/-- R411, R395, R17, R59, R61, R68, R227, R239: what the spec says of the state after reset, of a partition at
reset, and of a hart before its first instruction. Until the firmware has verified FW is 0, and the reset
sequence is what the device does first (log entry 11). That host memory, which holds no byte of the device,
reads 0 before anything has written it is the model's choice (log entry 5). R411, R394: DEVICE_RESET, where
the four firmware images verify, leaves the device Unowned, in Summer, with no debug level, no partition, no
task, no hart and no window, and every byte of HBM zero; where they do not it stops at step 1: FW 2, every
core die held in reset, and device memory, PCFG and the window table as they were. What a reset leaves beside
what R411 names is the model's choice: host memory, the security state and the keys stand, and no link is
trained (log entry 28). -/
def Obligations.ResetLeaves : Prop :=
  ((State.reset.mailbox.state = 0 ∧ State.reset.mailbox.epoch = 0 ∧ State.reset.sconce.pwr = 0 ∧ State.reset.sconce.dbg = 0 ∧
    State.reset.sconce.fw = 0 ∧ State.reset.harts = [] ∧ State.reset.partitions = [] ∧ State.reset.windows = [] ∧
    Memory.wf State.reset.mem = true ∧ (∀ a, physRead State.reset a = 0) ∧
    (nextTurn State.reset).map Prod.fst = some (.event .deviceReset)) ∧
  (∀ p, (State.reset.part p).en = false ∧ (State.reset.part p).regs.fectl = 0x10 ∧ (State.reset.part p).regs.replctl = 0x6101 ∧
    ∀ n, ((State.reset.part p).queue n).log2n = 4 ∧ ((State.reset.part p).queue n).en = false) ∧
  (∀ i : SIdx, Hart.initial.getS i = 0) ∧ (∀ i : VIdx, Hart.initial.getV i = 0) ∧
  (∀ i : MIdx, Hart.initial.getM i = if i = 0 then BitVec.allOnes 1024 else 0) ∧ (∀ i : PIdx, Hart.initial.getP i = decide (i = 0)) ∧
  Hart.initial.regs.vtype = 0x09 ∧ Hart.initial.lslip = 16 ∧ Hart.initial.priv = false) ∧
  (∀ (s : State), ∃ t, exec .deviceReset s = .next t ∧ t.mailbox = {} ∧ t.sconce.pwr = 0 ∧ t.sconce.dbg = 0 ∧ t.sconce.pwrTo = none ∧
    t.sconce.sec = s.sconce.sec ∧ t.sconce.keys = s.sconce.keys ∧ t.tasks = [] ∧ t.gangs = [] ∧ t.harts = [] ∧
    t.pairs = [] ∧ t.barriers = [] ∧ t.transfers = [] ∧ t.egress = [] ∧ t.linkUp = 0 ∧
    (∀ a, isHostPa a = true → Memory.read t.mem a = Memory.read s.mem a) ∧
    (firmwareVerifies = true → t.sconce.fw = 1 ∧ t.partitions = [] ∧ t.windows = [] ∧ t.bcncfg = 0 ∧
      ∀ a, isHostPa a = false → Memory.read t.mem a = 0) ∧
    (firmwareVerifies = false → t.sconce.fw = 2 ∧ t.mem = s.mem ∧ t.windows = s.windows ∧ t.bcncfg = s.bcncfg ∧
      ∀ p, (t.part p).dieSet = (s.part p).dieSet ∧ (t.part p).stackSet = (s.part p).stackSet ∧ (t.part p).en = (s.part p).en))

/-! ## Invariants -/

/-- Every step keeps the memory's canonical form: addresses strictly rising and no byte listed that reads as
an unlisted one. -/
def Obligations.StepsKeepMemoryCanonical : Prop :=
  ∀ (s t : State), Memory.wf s.mem = true → step s = .next t → Memory.wf t.mem = true

/-- R108: after any write of any register by the accessors that every instruction uses, s0 reads 0, p0 true
and m0 all ones. -/
def Obligations.FixedRegistersStand : Prop :=
  ∀ (h : Hart) (i : SIdx) (j : PIdx) (k : MIdx) (x : Word) (b : Bool) (m : MReg) (n : Nat),
    (h.setS i x).getS 0 = 0 ∧ (h.setP j b).getP 0 = true ∧ (h.setM k m).getM 0 = BitVec.allOnes 1024 ∧
    (h.putBit k n b).getM 0 = BitVec.allOnes 1024 ∧
    (i ≠ 0 → (h.setS i x).getS i = x) ∧ (j ≠ 0 → (h.setP j b).getP j = b) ∧ (k ≠ 0 → (h.setM k m).getM k = m) ∧
    (h.setS 0 x).regs = h.regs ∧ (h.setP 0 b).regs = h.regs ∧ (h.setM 0 m).regs = h.regs ∧
    (∀ r, r ≠ i → (h.setS i x).getS r = h.getS r) ∧ (∀ r, r ≠ j → (h.setP j b).getP r = h.getP r) ∧
    ∀ r, r ≠ k → (h.setM k m).getM r = h.getM r

end
end

