-- ==== Sys2Proof/Laws/Tables.lean ====
section
/-! SUPPORT. Tables by number and the memory's cells: reading after writing, and the canonical form,
which every operation keeps. -/

namespace Sys2Proof.Machine

variable {α : Type}

@[simp] theorem tblGet_tblSet_same (t : Tbl α) (k : Nat) (a : α) : tblGet (tblSet t k a) k = some a := by
  induction t with
  | nil => simp [tblSet, tblGet]
  | cons p r ih =>
    obtain ⟨k', b⟩ := p
    unfold tblSet
    split
    · simp [tblGet]
    · split
      · simp [tblGet]
      · have : k' ≠ k := fun h => by simp_all
        simp [tblGet, this, ih]

theorem tblGet_tblSet_other (t : Tbl α) (k j : Nat) (a : α) (h : j ≠ k) : tblGet (tblSet t k a) j = tblGet t j := by
  induction t with
  | nil => simp [tblSet, tblGet, Ne.symm h]
  | cons p r ih =>
    obtain ⟨k', b⟩ := p
    unfold tblSet
    split
    · simp [tblGet, Ne.symm h]
    · split
      · subst_vars
        simp [tblGet, Ne.symm h]
      · simp [tblGet, ih]

theorem tblGet_filter {t : Tbl α} {f : Nat × α → Bool} {j : Nat} (h : ∀ a, f (j, a) = true) : tblGet (t.filter f) j = tblGet t j := by
  induction t with
  | nil => rfl
  | cons p r ih =>
    obtain ⟨k', b⟩ := p
    by_cases hk : k' = j
    · subst hk
      simp [tblGet, h b]
    · cases hf : f (k', b) <;> simp [tblGet, hf, hk, ih]

theorem tblGet_filter_none {t : Tbl α} {f : Nat × α → Bool} {j : Nat} (h : ∀ a, f (j, a) = false) : tblGet (t.filter f) j = none := by
  induction t with
  | nil => rfl
  | cons p r ih =>
    obtain ⟨k', b⟩ := p
    by_cases hk : k' = j
    · subst hk
      simp [h b, ih]
    · cases hf : f (k', b) <;> simp [tblGet, hf, hk, ih]

theorem tblGet_tblDel_other (t : Tbl α) (k j : Nat) (h : j ≠ k) : tblGet (tblDel t k) j = tblGet t j :=
  tblGet_filter fun _ => by simp [h]

@[simp] theorem tblGet_tblDel_same (t : Tbl α) (k : Nat) : tblGet (tblDel t k) k = none :=
  tblGet_filter_none fun _ => by simp

theorem tblGetD_tblPut_other [DecidableEq α] (t : Tbl α) (k j : Nat) (a d : α) (h : j ≠ k) :
    tblGetD (tblPut t k a d) j d = tblGetD t j d := by
  unfold tblGetD tblPut
  split
  · rw [tblGet_tblDel_other t k j h]
  · rw [tblGet_tblSet_other t k j a h]

/-! ## The canonical form -/

/-- Every key of a table is above `k`. -/
def above (k : Nat) (t : Tbl α) : Prop := ∀ p ∈ t, k < p.1

theorem tblSorted_cons (k : Nat) (a : α) (r : Tbl α) : tblSorted ((k, a) :: r) = true ↔ above k r ∧ tblSorted r = true := by
  induction r generalizing k a with
  | nil => simp [tblSorted, above]
  | cons p r ih =>
    obtain ⟨k', b⟩ := p
    simp only [tblSorted, Bool.and_eq_true, decide_eq_true_eq, above, List.mem_cons, forall_eq_or_imp]
    constructor
    · rintro ⟨h1, h2⟩
      exact ⟨⟨h1, fun p hp => Nat.lt_trans h1 (((ih k' b).mp h2).1 p hp)⟩, h2⟩
    · rintro ⟨⟨h1, -⟩, h2⟩
      exact ⟨h1, h2⟩

theorem above_tblSet {k j : Nat} {a : α} {t : Tbl α} (h : above k t) (hj : k < j) : above k (tblSet t j a) := by
  induction t with
  | nil => simpa [tblSet, above] using hj
  | cons p r ih =>
    obtain ⟨k', b⟩ := p
    have hr : above k r := fun p hp => h p (List.mem_cons_of_mem _ hp)
    have hk : k < k' := h (k', b) List.mem_cons_self
    unfold tblSet
    split
    · intro p hp
      rcases List.mem_cons.mp hp with rfl | hp
      · exact hj
      · exact h p hp
    · split
      · intro p hp
        rcases List.mem_cons.mp hp with rfl | hp
        · exact hj
        · exact hr p hp
      · intro p hp
        rcases List.mem_cons.mp hp with rfl | hp
        · exact hk
        · exact ih hr p hp

theorem above_sublist {k : Nat} {t u : Tbl α} (h : above k t) (hs : u.Sublist t) : above k u := fun p hp => h p (hs.subset hp)

theorem tblSorted_tblSet {t : Tbl α} (k : Nat) (a : α) (h : tblSorted t = true) : tblSorted (tblSet t k a) = true := by
  induction t with
  | nil => rfl
  | cons p r ih =>
    obtain ⟨k', b⟩ := p
    have ⟨h1, h2⟩ := (tblSorted_cons k' b r).mp h
    unfold tblSet
    split
    · rename_i hk
      exact (tblSorted_cons _ _ _).mpr ⟨fun p hp => by
        rcases List.mem_cons.mp hp with rfl | hp
        · exact hk
        · exact Nat.lt_trans hk (h1 p hp), h⟩
    · split
      · subst_vars
        exact (tblSorted_cons _ _ _).mpr ⟨h1, h2⟩
      · exact (tblSorted_cons _ _ _).mpr ⟨above_tblSet h1 (by omega), ih h2⟩

theorem tblSorted_sublist {t u : Tbl α} (hs : u.Sublist t) (h : tblSorted t = true) : tblSorted u = true := by
  induction hs with
  | slnil => rfl
  | cons p _ ih =>
    obtain ⟨k, b⟩ := p
    exact ih ((tblSorted_cons k b _).mp h).2
  | cons_cons p hs ih =>
    obtain ⟨k, b⟩ := p
    have ⟨h1, h2⟩ := (tblSorted_cons k b _).mp h
    exact (tblSorted_cons k b _).mpr ⟨above_sublist h1 hs, ih h2⟩

theorem tblDel_sublist (t : Tbl α) (k : Nat) : (tblDel t k).Sublist t := List.filter_sublist

theorem mem_tblSet {t : Tbl α} {k : Nat} {a : α} {p : Nat × α} (h : p ∈ tblSet t k a) : p = (k, a) ∨ p ∈ t := by
  induction t with
  | nil => simpa [tblSet] using h
  | cons q r ih =>
    obtain ⟨k', b⟩ := q
    unfold tblSet at h
    split at h
    · simpa using h
    · split at h
      · rcases List.mem_cons.mp h with rfl | h
        · exact .inl rfl
        · exact .inr (List.mem_cons_of_mem _ h)
      · rcases List.mem_cons.mp h with rfl | h
        · exact .inr List.mem_cons_self
        · rcases ih h with h | h
          · exact .inl h
          · exact .inr (List.mem_cons_of_mem _ h)

theorem tblCanonical_iff [DecidableEq α] (t : Tbl α) (d : α) :
    tblCanonical t d = true ↔ tblSorted t = true ∧ ∀ p ∈ t, p.2 ≠ d := by
  simp [tblCanonical]

theorem tblCanonical_sublist [DecidableEq α] {t u : Tbl α} {d : α} (hs : u.Sublist t) (h : tblCanonical t d = true) :
    tblCanonical u d = true := by
  rw [tblCanonical_iff] at *
  exact ⟨tblSorted_sublist hs h.1, fun p hp => h.2 p (hs.subset hp)⟩

theorem tblCanonical_tblPut [DecidableEq α] {t : Tbl α} {d : α} (k : Nat) (a : α) (h : tblCanonical t d = true) :
    tblCanonical (tblPut t k a d) d = true := by
  unfold tblPut
  split
  · exact tblCanonical_sublist (tblDel_sublist t k) h
  · rename_i ha
    rw [tblCanonical_iff] at *
    refine ⟨tblSorted_tblSet k a h.1, fun p hp => ?_⟩
    rcases mem_tblSet hp with rfl | hp
    · exact ha
    · exact h.2 p hp

@[simp] theorem tblGetD_tblPut_same [DecidableEq α] (t : Tbl α) (k : Nat) (a d : α) : tblGetD (tblPut t k a d) k d = a := by
  unfold tblGetD tblPut
  split
  · subst_vars
    simp
  · simp

/-! ## Memory -/

theorem memory_read_write_same (m : List Host.Cell) (a : Nat) (b : Byte) : Memory.read (Memory.write m a b) a = b :=
  tblGetD_tblPut_same m a b 0

theorem memory_read_write_other (m : List Host.Cell) (a c : Nat) (b : Byte) (h : c ≠ a) :
    Memory.read (Memory.write m a b) c = Memory.read m c := tblGetD_tblPut_other m a c b 0 h

theorem memory_wf_write {m : List Host.Cell} (h : Memory.wf m = true) (a : Nat) (b : Byte) :
    Memory.wf (Memory.write m a b) = true := tblCanonical_tblPut a b h

theorem memory_wf_writeBytes {m : List Host.Cell} (h : Memory.wf m = true) (a : Nat) (bs : List Byte) :
    Memory.wf (Memory.writeBytes m a bs) = true := by
  induction bs generalizing m a with
  | nil => exact h
  | cons b bs ih => exact ih (memory_wf_write h a b) (a + 1)

theorem memory_wf_filter {m : List Host.Cell} (h : Memory.wf m = true) (f : Host.Cell → Bool) :
    Memory.wf (m.filter f) = true := tblCanonical_sublist List.filter_sublist h

theorem memory_read_writeBytes_other (m : List Host.Cell) (a c : Nat) (bs : List Byte)
    (h : c < a ∨ a + bs.length ≤ c) : Memory.read (Memory.writeBytes m a bs) c = Memory.read m c := by
  induction bs generalizing m a with
  | nil => rfl
  | cons b bs ih =>
    simp only [List.length_cons] at h
    simp only [Memory.writeBytes]
    rw [ih (Memory.write m a b) (a + 1) (by omega), memory_read_write_other m a c b (by omega)]

theorem memory_read_writeBytes_same (m : List Host.Cell) (a : Nat) (bs : List Byte) (k : Nat) (h : k < bs.length) :
    Memory.read (Memory.writeBytes m a bs) (a + k) = bs[k] := by
  induction bs generalizing m a k with
  | nil => simp at h
  | cons b bs ih =>
    simp only [Memory.writeBytes]
    cases k with
    | zero =>
      rw [memory_read_writeBytes_other _ (a + 1) (a + 0) bs (by omega)]
      simpa using memory_read_write_same m a b
    | succ k =>
      have := ih (Memory.write m a b) (a + 1) k (by simpa using h)
      rw [show a + (k + 1) = a + 1 + k from by omega, this]
      rfl

end Sys2Proof.Machine
end

