-- ==== Sys2Proof/Laws/State.lean ====
section
/-! SUPPORT. The small lemmas of the state's and the hart's updates: one for each field that an update
leaves alone, so that no proof unfolds a record update, and what each accessor reads after each write. -/

namespace Sys2Proof.Machine

/-! ### State.setHart -/

@[simp] theorem setHart_mem (s : State) (k : Nat) (h : Hart) : (s.setHart k h).mem = s.mem := rfl
@[simp] theorem setHart_memPoison (s : State) (k : Nat) (h : Hart) : (s.setHart k h).memPoison = s.memPoison := rfl
@[simp] theorem setHart_pairs (s : State) (k : Nat) (h : Hart) : (s.setHart k h).pairs = s.pairs := rfl
@[simp] theorem setHart_barriers (s : State) (k : Nat) (h : Hart) : (s.setHart k h).barriers = s.barriers := rfl
@[simp] theorem setHart_partitions (s : State) (k : Nat) (h : Hart) : (s.setHart k h).partitions = s.partitions := rfl
@[simp] theorem setHart_tasks (s : State) (k : Nat) (h : Hart) : (s.setHart k h).tasks = s.tasks := rfl
@[simp] theorem setHart_gangs (s : State) (k : Nat) (h : Hart) : (s.setHart k h).gangs = s.gangs := rfl
@[simp] theorem setHart_windows (s : State) (k : Nat) (h : Hart) : (s.setHart k h).windows = s.windows := rfl
@[simp] theorem setHart_transfers (s : State) (k : Nat) (h : Hart) : (s.setHart k h).transfers = s.transfers := rfl
@[simp] theorem setHart_merges (s : State) (k : Nat) (h : Hart) : (s.setHart k h).merges = s.merges := rfl
@[simp] theorem setHart_deliveries (s : State) (k : Nat) (h : Hart) : (s.setHart k h).deliveries = s.deliveries := rfl
@[simp] theorem setHart_egress (s : State) (k : Nat) (h : Hart) : (s.setHart k h).egress = s.egress := rfl
@[simp] theorem setHart_combining (s : State) (k : Nat) (h : Hart) : (s.setHart k h).combining = s.combining := rfl
@[simp] theorem setHart_hostStores (s : State) (k : Nat) (h : Hart) : (s.setHart k h).hostStores = s.hostStores := rfl
@[simp] theorem setHart_hostStamp (s : State) (k : Nat) (h : Hart) : (s.setHart k h).hostStamp = s.hostStamp := rfl
@[simp] theorem setHart_hostErrors (s : State) (k : Nat) (h : Hart) : (s.setHart k h).hostErrors = s.hostErrors := rfl
@[simp] theorem setHart_tlb (s : State) (k : Nat) (h : Hart) : (s.setHart k h).tlb = s.tlb := rfl
@[simp] theorem setHart_watch (s : State) (k : Nat) (h : Hart) : (s.setHart k h).watch = s.watch := rfl
@[simp] theorem setHart_replicated (s : State) (k : Nat) (h : Hart) : (s.setHart k h).replicated = s.replicated := rfl
@[simp] theorem setHart_tracked (s : State) (k : Nat) (h : Hart) : (s.setHart k h).tracked = s.tracked := rfl
@[simp] theorem setHart_routes (s : State) (k : Nat) (h : Hart) : (s.setHart k h).routes = s.routes := rfl
@[simp] theorem setHart_mailbox (s : State) (k : Nat) (h : Hart) : (s.setHart k h).mailbox = s.mailbox := rfl
@[simp] theorem setHart_sconce (s : State) (k : Nat) (h : Hart) : (s.setHart k h).sconce = s.sconce := rfl
@[simp] theorem setHart_bcncfg (s : State) (k : Nat) (h : Hart) : (s.setHart k h).bcncfg = s.bcncfg := rfl
@[simp] theorem setHart_failed (s : State) (k : Nat) (h : Hart) : (s.setHart k h).failed = s.failed := rfl
@[simp] theorem setHart_mearilFailed (s : State) (k : Nat) (h : Hart) : (s.setHart k h).mearilFailed = s.mearilFailed := rfl
@[simp] theorem setHart_twoLinks (s : State) (k : Nat) (h : Hart) : (s.setHart k h).twoLinks = s.twoLinks := rfl
@[simp] theorem setHart_linkUp (s : State) (k : Nat) (h : Hart) : (s.setHart k h).linkUp = s.linkUp := rfl
@[simp] theorem setHart_hostLinks (s : State) (k : Nat) (h : Hart) : (s.setHart k h).hostLinks = s.hostLinks := rfl
@[simp] theorem setHart_hostReply (s : State) (k : Nat) (h : Hart) : (s.setHart k h).hostReply = s.hostReply := rfl
@[simp] theorem setHart_nextGang (s : State) (k : Nat) (h : Hart) : (s.setHart k h).nextGang = s.nextGang := rfl
@[simp] theorem setHart_nextId (s : State) (k : Nat) (h : Hart) : (s.setHart k h).nextId = s.nextId := rfl
@[simp] theorem setHart_agenda (s : State) (k : Nat) (h : Hart) : (s.setHart k h).agenda = s.agenda := rfl
@[simp] theorem setHart_tick (s : State) (k : Nat) (h : Hart) : (s.setHart k h).tick = s.tick := rfl
@[simp] theorem setHart_turn (s : State) (k : Nat) (h : Hart) : (s.setHart k h).turn = s.turn := rfl
@[simp] theorem setHart_budget (s : State) (k : Nat) (h : Hart) : (s.setHart k h).budget = s.budget := rfl
@[simp] theorem setHart_overwritten (s : State) (k : Nat) (h : Hart) : (s.setHart k h).overwritten = s.overwritten := rfl
@[simp] theorem setHart_fresh (s : State) (k : Nat) (h : Hart) : (s.setHart k h).fresh = s.fresh := rfl

/-! ### State.dropHart -/

@[simp] theorem dropHart_mem (s : State) (k : Nat) : (s.dropHart k).mem = s.mem := rfl
@[simp] theorem dropHart_memPoison (s : State) (k : Nat) : (s.dropHart k).memPoison = s.memPoison := rfl
@[simp] theorem dropHart_pairs (s : State) (k : Nat) : (s.dropHart k).pairs = s.pairs := rfl
@[simp] theorem dropHart_barriers (s : State) (k : Nat) : (s.dropHart k).barriers = s.barriers := rfl
@[simp] theorem dropHart_partitions (s : State) (k : Nat) : (s.dropHart k).partitions = s.partitions := rfl
@[simp] theorem dropHart_tasks (s : State) (k : Nat) : (s.dropHart k).tasks = s.tasks := rfl
@[simp] theorem dropHart_gangs (s : State) (k : Nat) : (s.dropHart k).gangs = s.gangs := rfl
@[simp] theorem dropHart_windows (s : State) (k : Nat) : (s.dropHart k).windows = s.windows := rfl
@[simp] theorem dropHart_transfers (s : State) (k : Nat) : (s.dropHart k).transfers = s.transfers := rfl
@[simp] theorem dropHart_merges (s : State) (k : Nat) : (s.dropHart k).merges = s.merges := rfl
@[simp] theorem dropHart_deliveries (s : State) (k : Nat) : (s.dropHart k).deliveries = s.deliveries := rfl
@[simp] theorem dropHart_egress (s : State) (k : Nat) : (s.dropHart k).egress = s.egress := rfl
@[simp] theorem dropHart_combining (s : State) (k : Nat) : (s.dropHart k).combining = s.combining := rfl
@[simp] theorem dropHart_hostStores (s : State) (k : Nat) : (s.dropHart k).hostStores = s.hostStores := rfl
@[simp] theorem dropHart_hostStamp (s : State) (k : Nat) : (s.dropHart k).hostStamp = s.hostStamp := rfl
@[simp] theorem dropHart_hostErrors (s : State) (k : Nat) : (s.dropHart k).hostErrors = s.hostErrors := rfl
@[simp] theorem dropHart_tlb (s : State) (k : Nat) : (s.dropHart k).tlb = s.tlb := rfl
@[simp] theorem dropHart_watch (s : State) (k : Nat) : (s.dropHart k).watch = s.watch := rfl
@[simp] theorem dropHart_replicated (s : State) (k : Nat) : (s.dropHart k).replicated = s.replicated := rfl
@[simp] theorem dropHart_tracked (s : State) (k : Nat) : (s.dropHart k).tracked = s.tracked := rfl
@[simp] theorem dropHart_routes (s : State) (k : Nat) : (s.dropHart k).routes = s.routes := rfl
@[simp] theorem dropHart_mailbox (s : State) (k : Nat) : (s.dropHart k).mailbox = s.mailbox := rfl
@[simp] theorem dropHart_sconce (s : State) (k : Nat) : (s.dropHart k).sconce = s.sconce := rfl
@[simp] theorem dropHart_bcncfg (s : State) (k : Nat) : (s.dropHart k).bcncfg = s.bcncfg := rfl
@[simp] theorem dropHart_failed (s : State) (k : Nat) : (s.dropHart k).failed = s.failed := rfl
@[simp] theorem dropHart_mearilFailed (s : State) (k : Nat) : (s.dropHart k).mearilFailed = s.mearilFailed := rfl
@[simp] theorem dropHart_twoLinks (s : State) (k : Nat) : (s.dropHart k).twoLinks = s.twoLinks := rfl
@[simp] theorem dropHart_linkUp (s : State) (k : Nat) : (s.dropHart k).linkUp = s.linkUp := rfl
@[simp] theorem dropHart_hostLinks (s : State) (k : Nat) : (s.dropHart k).hostLinks = s.hostLinks := rfl
@[simp] theorem dropHart_hostReply (s : State) (k : Nat) : (s.dropHart k).hostReply = s.hostReply := rfl
@[simp] theorem dropHart_nextGang (s : State) (k : Nat) : (s.dropHart k).nextGang = s.nextGang := rfl
@[simp] theorem dropHart_nextId (s : State) (k : Nat) : (s.dropHart k).nextId = s.nextId := rfl
@[simp] theorem dropHart_agenda (s : State) (k : Nat) : (s.dropHart k).agenda = s.agenda := rfl
@[simp] theorem dropHart_tick (s : State) (k : Nat) : (s.dropHart k).tick = s.tick := rfl
@[simp] theorem dropHart_turn (s : State) (k : Nat) : (s.dropHart k).turn = s.turn := rfl
@[simp] theorem dropHart_budget (s : State) (k : Nat) : (s.dropHart k).budget = s.budget := rfl
@[simp] theorem dropHart_overwritten (s : State) (k : Nat) : (s.dropHart k).overwritten = s.overwritten := rfl
@[simp] theorem dropHart_fresh (s : State) (k : Nat) : (s.dropHart k).fresh = s.fresh := rfl

/-! ### State.setPair -/

@[simp] theorem setPair_mem (s : State) (k : Nat) (x : Pair) : (s.setPair k x).mem = s.mem := rfl
@[simp] theorem setPair_memPoison (s : State) (k : Nat) (x : Pair) : (s.setPair k x).memPoison = s.memPoison := rfl
@[simp] theorem setPair_harts (s : State) (k : Nat) (x : Pair) : (s.setPair k x).harts = s.harts := rfl
@[simp] theorem setPair_barriers (s : State) (k : Nat) (x : Pair) : (s.setPair k x).barriers = s.barriers := rfl
@[simp] theorem setPair_partitions (s : State) (k : Nat) (x : Pair) : (s.setPair k x).partitions = s.partitions := rfl
@[simp] theorem setPair_tasks (s : State) (k : Nat) (x : Pair) : (s.setPair k x).tasks = s.tasks := rfl
@[simp] theorem setPair_gangs (s : State) (k : Nat) (x : Pair) : (s.setPair k x).gangs = s.gangs := rfl
@[simp] theorem setPair_windows (s : State) (k : Nat) (x : Pair) : (s.setPair k x).windows = s.windows := rfl
@[simp] theorem setPair_transfers (s : State) (k : Nat) (x : Pair) : (s.setPair k x).transfers = s.transfers := rfl
@[simp] theorem setPair_merges (s : State) (k : Nat) (x : Pair) : (s.setPair k x).merges = s.merges := rfl
@[simp] theorem setPair_deliveries (s : State) (k : Nat) (x : Pair) : (s.setPair k x).deliveries = s.deliveries := rfl
@[simp] theorem setPair_egress (s : State) (k : Nat) (x : Pair) : (s.setPair k x).egress = s.egress := rfl
@[simp] theorem setPair_combining (s : State) (k : Nat) (x : Pair) : (s.setPair k x).combining = s.combining := rfl
@[simp] theorem setPair_hostStores (s : State) (k : Nat) (x : Pair) : (s.setPair k x).hostStores = s.hostStores := rfl
@[simp] theorem setPair_hostStamp (s : State) (k : Nat) (x : Pair) : (s.setPair k x).hostStamp = s.hostStamp := rfl
@[simp] theorem setPair_hostErrors (s : State) (k : Nat) (x : Pair) : (s.setPair k x).hostErrors = s.hostErrors := rfl
@[simp] theorem setPair_tlb (s : State) (k : Nat) (x : Pair) : (s.setPair k x).tlb = s.tlb := rfl
@[simp] theorem setPair_watch (s : State) (k : Nat) (x : Pair) : (s.setPair k x).watch = s.watch := rfl
@[simp] theorem setPair_replicated (s : State) (k : Nat) (x : Pair) : (s.setPair k x).replicated = s.replicated := rfl
@[simp] theorem setPair_tracked (s : State) (k : Nat) (x : Pair) : (s.setPair k x).tracked = s.tracked := rfl
@[simp] theorem setPair_routes (s : State) (k : Nat) (x : Pair) : (s.setPair k x).routes = s.routes := rfl
@[simp] theorem setPair_mailbox (s : State) (k : Nat) (x : Pair) : (s.setPair k x).mailbox = s.mailbox := rfl
@[simp] theorem setPair_sconce (s : State) (k : Nat) (x : Pair) : (s.setPair k x).sconce = s.sconce := rfl
@[simp] theorem setPair_bcncfg (s : State) (k : Nat) (x : Pair) : (s.setPair k x).bcncfg = s.bcncfg := rfl
@[simp] theorem setPair_failed (s : State) (k : Nat) (x : Pair) : (s.setPair k x).failed = s.failed := rfl
@[simp] theorem setPair_mearilFailed (s : State) (k : Nat) (x : Pair) : (s.setPair k x).mearilFailed = s.mearilFailed := rfl
@[simp] theorem setPair_twoLinks (s : State) (k : Nat) (x : Pair) : (s.setPair k x).twoLinks = s.twoLinks := rfl
@[simp] theorem setPair_linkUp (s : State) (k : Nat) (x : Pair) : (s.setPair k x).linkUp = s.linkUp := rfl
@[simp] theorem setPair_hostLinks (s : State) (k : Nat) (x : Pair) : (s.setPair k x).hostLinks = s.hostLinks := rfl
@[simp] theorem setPair_hostReply (s : State) (k : Nat) (x : Pair) : (s.setPair k x).hostReply = s.hostReply := rfl
@[simp] theorem setPair_nextGang (s : State) (k : Nat) (x : Pair) : (s.setPair k x).nextGang = s.nextGang := rfl
@[simp] theorem setPair_nextId (s : State) (k : Nat) (x : Pair) : (s.setPair k x).nextId = s.nextId := rfl
@[simp] theorem setPair_agenda (s : State) (k : Nat) (x : Pair) : (s.setPair k x).agenda = s.agenda := rfl
@[simp] theorem setPair_tick (s : State) (k : Nat) (x : Pair) : (s.setPair k x).tick = s.tick := rfl
@[simp] theorem setPair_turn (s : State) (k : Nat) (x : Pair) : (s.setPair k x).turn = s.turn := rfl
@[simp] theorem setPair_budget (s : State) (k : Nat) (x : Pair) : (s.setPair k x).budget = s.budget := rfl
@[simp] theorem setPair_overwritten (s : State) (k : Nat) (x : Pair) : (s.setPair k x).overwritten = s.overwritten := rfl
@[simp] theorem setPair_fresh (s : State) (k : Nat) (x : Pair) : (s.setPair k x).fresh = s.fresh := rfl

/-! ### State.setPart -/

@[simp] theorem setPart_mem (s : State) (k : Nat) (x : Partition) : (s.setPart k x).mem = s.mem := rfl
@[simp] theorem setPart_memPoison (s : State) (k : Nat) (x : Partition) : (s.setPart k x).memPoison = s.memPoison := rfl
@[simp] theorem setPart_harts (s : State) (k : Nat) (x : Partition) : (s.setPart k x).harts = s.harts := rfl
@[simp] theorem setPart_pairs (s : State) (k : Nat) (x : Partition) : (s.setPart k x).pairs = s.pairs := rfl
@[simp] theorem setPart_barriers (s : State) (k : Nat) (x : Partition) : (s.setPart k x).barriers = s.barriers := rfl
@[simp] theorem setPart_tasks (s : State) (k : Nat) (x : Partition) : (s.setPart k x).tasks = s.tasks := rfl
@[simp] theorem setPart_gangs (s : State) (k : Nat) (x : Partition) : (s.setPart k x).gangs = s.gangs := rfl
@[simp] theorem setPart_windows (s : State) (k : Nat) (x : Partition) : (s.setPart k x).windows = s.windows := rfl
@[simp] theorem setPart_transfers (s : State) (k : Nat) (x : Partition) : (s.setPart k x).transfers = s.transfers := rfl
@[simp] theorem setPart_merges (s : State) (k : Nat) (x : Partition) : (s.setPart k x).merges = s.merges := rfl
@[simp] theorem setPart_deliveries (s : State) (k : Nat) (x : Partition) : (s.setPart k x).deliveries = s.deliveries := rfl
@[simp] theorem setPart_egress (s : State) (k : Nat) (x : Partition) : (s.setPart k x).egress = s.egress := rfl
@[simp] theorem setPart_combining (s : State) (k : Nat) (x : Partition) : (s.setPart k x).combining = s.combining := rfl
@[simp] theorem setPart_hostStores (s : State) (k : Nat) (x : Partition) : (s.setPart k x).hostStores = s.hostStores := rfl
@[simp] theorem setPart_hostStamp (s : State) (k : Nat) (x : Partition) : (s.setPart k x).hostStamp = s.hostStamp := rfl
@[simp] theorem setPart_hostErrors (s : State) (k : Nat) (x : Partition) : (s.setPart k x).hostErrors = s.hostErrors := rfl
@[simp] theorem setPart_tlb (s : State) (k : Nat) (x : Partition) : (s.setPart k x).tlb = s.tlb := rfl
@[simp] theorem setPart_watch (s : State) (k : Nat) (x : Partition) : (s.setPart k x).watch = s.watch := rfl
@[simp] theorem setPart_replicated (s : State) (k : Nat) (x : Partition) : (s.setPart k x).replicated = s.replicated := rfl
@[simp] theorem setPart_tracked (s : State) (k : Nat) (x : Partition) : (s.setPart k x).tracked = s.tracked := rfl
@[simp] theorem setPart_routes (s : State) (k : Nat) (x : Partition) : (s.setPart k x).routes = s.routes := rfl
@[simp] theorem setPart_mailbox (s : State) (k : Nat) (x : Partition) : (s.setPart k x).mailbox = s.mailbox := rfl
@[simp] theorem setPart_sconce (s : State) (k : Nat) (x : Partition) : (s.setPart k x).sconce = s.sconce := rfl
@[simp] theorem setPart_bcncfg (s : State) (k : Nat) (x : Partition) : (s.setPart k x).bcncfg = s.bcncfg := rfl
@[simp] theorem setPart_failed (s : State) (k : Nat) (x : Partition) : (s.setPart k x).failed = s.failed := rfl
@[simp] theorem setPart_mearilFailed (s : State) (k : Nat) (x : Partition) : (s.setPart k x).mearilFailed = s.mearilFailed := rfl
@[simp] theorem setPart_twoLinks (s : State) (k : Nat) (x : Partition) : (s.setPart k x).twoLinks = s.twoLinks := rfl
@[simp] theorem setPart_linkUp (s : State) (k : Nat) (x : Partition) : (s.setPart k x).linkUp = s.linkUp := rfl
@[simp] theorem setPart_hostLinks (s : State) (k : Nat) (x : Partition) : (s.setPart k x).hostLinks = s.hostLinks := rfl
@[simp] theorem setPart_hostReply (s : State) (k : Nat) (x : Partition) : (s.setPart k x).hostReply = s.hostReply := rfl
@[simp] theorem setPart_nextGang (s : State) (k : Nat) (x : Partition) : (s.setPart k x).nextGang = s.nextGang := rfl
@[simp] theorem setPart_nextId (s : State) (k : Nat) (x : Partition) : (s.setPart k x).nextId = s.nextId := rfl
@[simp] theorem setPart_agenda (s : State) (k : Nat) (x : Partition) : (s.setPart k x).agenda = s.agenda := rfl
@[simp] theorem setPart_tick (s : State) (k : Nat) (x : Partition) : (s.setPart k x).tick = s.tick := rfl
@[simp] theorem setPart_turn (s : State) (k : Nat) (x : Partition) : (s.setPart k x).turn = s.turn := rfl
@[simp] theorem setPart_budget (s : State) (k : Nat) (x : Partition) : (s.setPart k x).budget = s.budget := rfl
@[simp] theorem setPart_overwritten (s : State) (k : Nat) (x : Partition) : (s.setPart k x).overwritten = s.overwritten := rfl
@[simp] theorem setPart_fresh (s : State) (k : Nat) (x : Partition) : (s.setPart k x).fresh = s.fresh := rfl

/-! ### State.modPart -/

@[simp] theorem modPart_mem (s : State) (k : Nat) (f : Partition → Partition) : (s.modPart k f).mem = s.mem := rfl
@[simp] theorem modPart_memPoison (s : State) (k : Nat) (f : Partition → Partition) : (s.modPart k f).memPoison = s.memPoison := rfl
@[simp] theorem modPart_harts (s : State) (k : Nat) (f : Partition → Partition) : (s.modPart k f).harts = s.harts := rfl
@[simp] theorem modPart_pairs (s : State) (k : Nat) (f : Partition → Partition) : (s.modPart k f).pairs = s.pairs := rfl
@[simp] theorem modPart_barriers (s : State) (k : Nat) (f : Partition → Partition) : (s.modPart k f).barriers = s.barriers := rfl
@[simp] theorem modPart_tasks (s : State) (k : Nat) (f : Partition → Partition) : (s.modPart k f).tasks = s.tasks := rfl
@[simp] theorem modPart_gangs (s : State) (k : Nat) (f : Partition → Partition) : (s.modPart k f).gangs = s.gangs := rfl
@[simp] theorem modPart_windows (s : State) (k : Nat) (f : Partition → Partition) : (s.modPart k f).windows = s.windows := rfl
@[simp] theorem modPart_transfers (s : State) (k : Nat) (f : Partition → Partition) : (s.modPart k f).transfers = s.transfers := rfl
@[simp] theorem modPart_merges (s : State) (k : Nat) (f : Partition → Partition) : (s.modPart k f).merges = s.merges := rfl
@[simp] theorem modPart_deliveries (s : State) (k : Nat) (f : Partition → Partition) : (s.modPart k f).deliveries = s.deliveries := rfl
@[simp] theorem modPart_egress (s : State) (k : Nat) (f : Partition → Partition) : (s.modPart k f).egress = s.egress := rfl
@[simp] theorem modPart_combining (s : State) (k : Nat) (f : Partition → Partition) : (s.modPart k f).combining = s.combining := rfl
@[simp] theorem modPart_hostStores (s : State) (k : Nat) (f : Partition → Partition) : (s.modPart k f).hostStores = s.hostStores := rfl
@[simp] theorem modPart_hostStamp (s : State) (k : Nat) (f : Partition → Partition) : (s.modPart k f).hostStamp = s.hostStamp := rfl
@[simp] theorem modPart_hostErrors (s : State) (k : Nat) (f : Partition → Partition) : (s.modPart k f).hostErrors = s.hostErrors := rfl
@[simp] theorem modPart_tlb (s : State) (k : Nat) (f : Partition → Partition) : (s.modPart k f).tlb = s.tlb := rfl
@[simp] theorem modPart_watch (s : State) (k : Nat) (f : Partition → Partition) : (s.modPart k f).watch = s.watch := rfl
@[simp] theorem modPart_replicated (s : State) (k : Nat) (f : Partition → Partition) : (s.modPart k f).replicated = s.replicated := rfl
@[simp] theorem modPart_tracked (s : State) (k : Nat) (f : Partition → Partition) : (s.modPart k f).tracked = s.tracked := rfl
@[simp] theorem modPart_routes (s : State) (k : Nat) (f : Partition → Partition) : (s.modPart k f).routes = s.routes := rfl
@[simp] theorem modPart_mailbox (s : State) (k : Nat) (f : Partition → Partition) : (s.modPart k f).mailbox = s.mailbox := rfl
@[simp] theorem modPart_sconce (s : State) (k : Nat) (f : Partition → Partition) : (s.modPart k f).sconce = s.sconce := rfl
@[simp] theorem modPart_bcncfg (s : State) (k : Nat) (f : Partition → Partition) : (s.modPart k f).bcncfg = s.bcncfg := rfl
@[simp] theorem modPart_failed (s : State) (k : Nat) (f : Partition → Partition) : (s.modPart k f).failed = s.failed := rfl
@[simp] theorem modPart_mearilFailed (s : State) (k : Nat) (f : Partition → Partition) : (s.modPart k f).mearilFailed = s.mearilFailed := rfl
@[simp] theorem modPart_twoLinks (s : State) (k : Nat) (f : Partition → Partition) : (s.modPart k f).twoLinks = s.twoLinks := rfl
@[simp] theorem modPart_linkUp (s : State) (k : Nat) (f : Partition → Partition) : (s.modPart k f).linkUp = s.linkUp := rfl
@[simp] theorem modPart_hostLinks (s : State) (k : Nat) (f : Partition → Partition) : (s.modPart k f).hostLinks = s.hostLinks := rfl
@[simp] theorem modPart_hostReply (s : State) (k : Nat) (f : Partition → Partition) : (s.modPart k f).hostReply = s.hostReply := rfl
@[simp] theorem modPart_nextGang (s : State) (k : Nat) (f : Partition → Partition) : (s.modPart k f).nextGang = s.nextGang := rfl
@[simp] theorem modPart_nextId (s : State) (k : Nat) (f : Partition → Partition) : (s.modPart k f).nextId = s.nextId := rfl
@[simp] theorem modPart_agenda (s : State) (k : Nat) (f : Partition → Partition) : (s.modPart k f).agenda = s.agenda := rfl
@[simp] theorem modPart_tick (s : State) (k : Nat) (f : Partition → Partition) : (s.modPart k f).tick = s.tick := rfl
@[simp] theorem modPart_turn (s : State) (k : Nat) (f : Partition → Partition) : (s.modPart k f).turn = s.turn := rfl
@[simp] theorem modPart_budget (s : State) (k : Nat) (f : Partition → Partition) : (s.modPart k f).budget = s.budget := rfl
@[simp] theorem modPart_overwritten (s : State) (k : Nat) (f : Partition → Partition) : (s.modPart k f).overwritten = s.overwritten := rfl
@[simp] theorem modPart_fresh (s : State) (k : Nat) (f : Partition → Partition) : (s.modPart k f).fresh = s.fresh := rfl

/-! ### State.setBarrier -/

@[simp] theorem setBarrier_mem (s : State) (k : Nat) (x : BarrierCell) : (s.setBarrier k x).mem = s.mem := rfl
@[simp] theorem setBarrier_memPoison (s : State) (k : Nat) (x : BarrierCell) : (s.setBarrier k x).memPoison = s.memPoison := rfl
@[simp] theorem setBarrier_harts (s : State) (k : Nat) (x : BarrierCell) : (s.setBarrier k x).harts = s.harts := rfl
@[simp] theorem setBarrier_pairs (s : State) (k : Nat) (x : BarrierCell) : (s.setBarrier k x).pairs = s.pairs := rfl
@[simp] theorem setBarrier_partitions (s : State) (k : Nat) (x : BarrierCell) : (s.setBarrier k x).partitions = s.partitions := rfl
@[simp] theorem setBarrier_tasks (s : State) (k : Nat) (x : BarrierCell) : (s.setBarrier k x).tasks = s.tasks := rfl
@[simp] theorem setBarrier_gangs (s : State) (k : Nat) (x : BarrierCell) : (s.setBarrier k x).gangs = s.gangs := rfl
@[simp] theorem setBarrier_windows (s : State) (k : Nat) (x : BarrierCell) : (s.setBarrier k x).windows = s.windows := rfl
@[simp] theorem setBarrier_transfers (s : State) (k : Nat) (x : BarrierCell) : (s.setBarrier k x).transfers = s.transfers := rfl
@[simp] theorem setBarrier_merges (s : State) (k : Nat) (x : BarrierCell) : (s.setBarrier k x).merges = s.merges := rfl
@[simp] theorem setBarrier_deliveries (s : State) (k : Nat) (x : BarrierCell) : (s.setBarrier k x).deliveries = s.deliveries := rfl
@[simp] theorem setBarrier_egress (s : State) (k : Nat) (x : BarrierCell) : (s.setBarrier k x).egress = s.egress := rfl
@[simp] theorem setBarrier_combining (s : State) (k : Nat) (x : BarrierCell) : (s.setBarrier k x).combining = s.combining := rfl
@[simp] theorem setBarrier_hostStores (s : State) (k : Nat) (x : BarrierCell) : (s.setBarrier k x).hostStores = s.hostStores := rfl
@[simp] theorem setBarrier_hostStamp (s : State) (k : Nat) (x : BarrierCell) : (s.setBarrier k x).hostStamp = s.hostStamp := rfl
@[simp] theorem setBarrier_hostErrors (s : State) (k : Nat) (x : BarrierCell) : (s.setBarrier k x).hostErrors = s.hostErrors := rfl
@[simp] theorem setBarrier_tlb (s : State) (k : Nat) (x : BarrierCell) : (s.setBarrier k x).tlb = s.tlb := rfl
@[simp] theorem setBarrier_watch (s : State) (k : Nat) (x : BarrierCell) : (s.setBarrier k x).watch = s.watch := rfl
@[simp] theorem setBarrier_replicated (s : State) (k : Nat) (x : BarrierCell) : (s.setBarrier k x).replicated = s.replicated := rfl
@[simp] theorem setBarrier_tracked (s : State) (k : Nat) (x : BarrierCell) : (s.setBarrier k x).tracked = s.tracked := rfl
@[simp] theorem setBarrier_routes (s : State) (k : Nat) (x : BarrierCell) : (s.setBarrier k x).routes = s.routes := rfl
@[simp] theorem setBarrier_mailbox (s : State) (k : Nat) (x : BarrierCell) : (s.setBarrier k x).mailbox = s.mailbox := rfl
@[simp] theorem setBarrier_sconce (s : State) (k : Nat) (x : BarrierCell) : (s.setBarrier k x).sconce = s.sconce := rfl
@[simp] theorem setBarrier_bcncfg (s : State) (k : Nat) (x : BarrierCell) : (s.setBarrier k x).bcncfg = s.bcncfg := rfl
@[simp] theorem setBarrier_failed (s : State) (k : Nat) (x : BarrierCell) : (s.setBarrier k x).failed = s.failed := rfl
@[simp] theorem setBarrier_mearilFailed (s : State) (k : Nat) (x : BarrierCell) : (s.setBarrier k x).mearilFailed = s.mearilFailed := rfl
@[simp] theorem setBarrier_twoLinks (s : State) (k : Nat) (x : BarrierCell) : (s.setBarrier k x).twoLinks = s.twoLinks := rfl
@[simp] theorem setBarrier_linkUp (s : State) (k : Nat) (x : BarrierCell) : (s.setBarrier k x).linkUp = s.linkUp := rfl
@[simp] theorem setBarrier_hostLinks (s : State) (k : Nat) (x : BarrierCell) : (s.setBarrier k x).hostLinks = s.hostLinks := rfl
@[simp] theorem setBarrier_hostReply (s : State) (k : Nat) (x : BarrierCell) : (s.setBarrier k x).hostReply = s.hostReply := rfl
@[simp] theorem setBarrier_nextGang (s : State) (k : Nat) (x : BarrierCell) : (s.setBarrier k x).nextGang = s.nextGang := rfl
@[simp] theorem setBarrier_nextId (s : State) (k : Nat) (x : BarrierCell) : (s.setBarrier k x).nextId = s.nextId := rfl
@[simp] theorem setBarrier_agenda (s : State) (k : Nat) (x : BarrierCell) : (s.setBarrier k x).agenda = s.agenda := rfl
@[simp] theorem setBarrier_tick (s : State) (k : Nat) (x : BarrierCell) : (s.setBarrier k x).tick = s.tick := rfl
@[simp] theorem setBarrier_turn (s : State) (k : Nat) (x : BarrierCell) : (s.setBarrier k x).turn = s.turn := rfl
@[simp] theorem setBarrier_budget (s : State) (k : Nat) (x : BarrierCell) : (s.setBarrier k x).budget = s.budget := rfl
@[simp] theorem setBarrier_overwritten (s : State) (k : Nat) (x : BarrierCell) : (s.setBarrier k x).overwritten = s.overwritten := rfl
@[simp] theorem setBarrier_fresh (s : State) (k : Nat) (x : BarrierCell) : (s.setBarrier k x).fresh = s.fresh := rfl

/-! ### State.modGang -/

@[simp] theorem modGang_mem (s : State) (k : Nat) (f : Gang → Gang) : (s.modGang k f).mem = s.mem := rfl
@[simp] theorem modGang_memPoison (s : State) (k : Nat) (f : Gang → Gang) : (s.modGang k f).memPoison = s.memPoison := rfl
@[simp] theorem modGang_harts (s : State) (k : Nat) (f : Gang → Gang) : (s.modGang k f).harts = s.harts := rfl
@[simp] theorem modGang_pairs (s : State) (k : Nat) (f : Gang → Gang) : (s.modGang k f).pairs = s.pairs := rfl
@[simp] theorem modGang_barriers (s : State) (k : Nat) (f : Gang → Gang) : (s.modGang k f).barriers = s.barriers := rfl
@[simp] theorem modGang_partitions (s : State) (k : Nat) (f : Gang → Gang) : (s.modGang k f).partitions = s.partitions := rfl
@[simp] theorem modGang_tasks (s : State) (k : Nat) (f : Gang → Gang) : (s.modGang k f).tasks = s.tasks := rfl
@[simp] theorem modGang_windows (s : State) (k : Nat) (f : Gang → Gang) : (s.modGang k f).windows = s.windows := rfl
@[simp] theorem modGang_transfers (s : State) (k : Nat) (f : Gang → Gang) : (s.modGang k f).transfers = s.transfers := rfl
@[simp] theorem modGang_merges (s : State) (k : Nat) (f : Gang → Gang) : (s.modGang k f).merges = s.merges := rfl
@[simp] theorem modGang_deliveries (s : State) (k : Nat) (f : Gang → Gang) : (s.modGang k f).deliveries = s.deliveries := rfl
@[simp] theorem modGang_egress (s : State) (k : Nat) (f : Gang → Gang) : (s.modGang k f).egress = s.egress := rfl
@[simp] theorem modGang_combining (s : State) (k : Nat) (f : Gang → Gang) : (s.modGang k f).combining = s.combining := rfl
@[simp] theorem modGang_hostStores (s : State) (k : Nat) (f : Gang → Gang) : (s.modGang k f).hostStores = s.hostStores := rfl
@[simp] theorem modGang_hostStamp (s : State) (k : Nat) (f : Gang → Gang) : (s.modGang k f).hostStamp = s.hostStamp := rfl
@[simp] theorem modGang_hostErrors (s : State) (k : Nat) (f : Gang → Gang) : (s.modGang k f).hostErrors = s.hostErrors := rfl
@[simp] theorem modGang_tlb (s : State) (k : Nat) (f : Gang → Gang) : (s.modGang k f).tlb = s.tlb := rfl
@[simp] theorem modGang_watch (s : State) (k : Nat) (f : Gang → Gang) : (s.modGang k f).watch = s.watch := rfl
@[simp] theorem modGang_replicated (s : State) (k : Nat) (f : Gang → Gang) : (s.modGang k f).replicated = s.replicated := rfl
@[simp] theorem modGang_tracked (s : State) (k : Nat) (f : Gang → Gang) : (s.modGang k f).tracked = s.tracked := rfl
@[simp] theorem modGang_routes (s : State) (k : Nat) (f : Gang → Gang) : (s.modGang k f).routes = s.routes := rfl
@[simp] theorem modGang_mailbox (s : State) (k : Nat) (f : Gang → Gang) : (s.modGang k f).mailbox = s.mailbox := rfl
@[simp] theorem modGang_sconce (s : State) (k : Nat) (f : Gang → Gang) : (s.modGang k f).sconce = s.sconce := rfl
@[simp] theorem modGang_bcncfg (s : State) (k : Nat) (f : Gang → Gang) : (s.modGang k f).bcncfg = s.bcncfg := rfl
@[simp] theorem modGang_failed (s : State) (k : Nat) (f : Gang → Gang) : (s.modGang k f).failed = s.failed := rfl
@[simp] theorem modGang_mearilFailed (s : State) (k : Nat) (f : Gang → Gang) : (s.modGang k f).mearilFailed = s.mearilFailed := rfl
@[simp] theorem modGang_twoLinks (s : State) (k : Nat) (f : Gang → Gang) : (s.modGang k f).twoLinks = s.twoLinks := rfl
@[simp] theorem modGang_linkUp (s : State) (k : Nat) (f : Gang → Gang) : (s.modGang k f).linkUp = s.linkUp := rfl
@[simp] theorem modGang_hostLinks (s : State) (k : Nat) (f : Gang → Gang) : (s.modGang k f).hostLinks = s.hostLinks := rfl
@[simp] theorem modGang_hostReply (s : State) (k : Nat) (f : Gang → Gang) : (s.modGang k f).hostReply = s.hostReply := rfl
@[simp] theorem modGang_nextGang (s : State) (k : Nat) (f : Gang → Gang) : (s.modGang k f).nextGang = s.nextGang := rfl
@[simp] theorem modGang_nextId (s : State) (k : Nat) (f : Gang → Gang) : (s.modGang k f).nextId = s.nextId := rfl
@[simp] theorem modGang_agenda (s : State) (k : Nat) (f : Gang → Gang) : (s.modGang k f).agenda = s.agenda := rfl
@[simp] theorem modGang_tick (s : State) (k : Nat) (f : Gang → Gang) : (s.modGang k f).tick = s.tick := rfl
@[simp] theorem modGang_turn (s : State) (k : Nat) (f : Gang → Gang) : (s.modGang k f).turn = s.turn := rfl
@[simp] theorem modGang_budget (s : State) (k : Nat) (f : Gang → Gang) : (s.modGang k f).budget = s.budget := rfl
@[simp] theorem modGang_overwritten (s : State) (k : Nat) (f : Gang → Gang) : (s.modGang k f).overwritten = s.overwritten := rfl
@[simp] theorem modGang_fresh (s : State) (k : Nat) (f : Gang → Gang) : (s.modGang k f).fresh = s.fresh := rfl

/-! ### State.dropGang -/

@[simp] theorem dropGang_mem (s : State) (k : Nat) : (s.dropGang k).mem = s.mem := rfl
@[simp] theorem dropGang_memPoison (s : State) (k : Nat) : (s.dropGang k).memPoison = s.memPoison := rfl
@[simp] theorem dropGang_harts (s : State) (k : Nat) : (s.dropGang k).harts = s.harts := rfl
@[simp] theorem dropGang_pairs (s : State) (k : Nat) : (s.dropGang k).pairs = s.pairs := rfl
@[simp] theorem dropGang_barriers (s : State) (k : Nat) : (s.dropGang k).barriers = s.barriers := rfl
@[simp] theorem dropGang_partitions (s : State) (k : Nat) : (s.dropGang k).partitions = s.partitions := rfl
@[simp] theorem dropGang_tasks (s : State) (k : Nat) : (s.dropGang k).tasks = s.tasks := rfl
@[simp] theorem dropGang_windows (s : State) (k : Nat) : (s.dropGang k).windows = s.windows := rfl
@[simp] theorem dropGang_transfers (s : State) (k : Nat) : (s.dropGang k).transfers = s.transfers := rfl
@[simp] theorem dropGang_merges (s : State) (k : Nat) : (s.dropGang k).merges = s.merges := rfl
@[simp] theorem dropGang_deliveries (s : State) (k : Nat) : (s.dropGang k).deliveries = s.deliveries := rfl
@[simp] theorem dropGang_egress (s : State) (k : Nat) : (s.dropGang k).egress = s.egress := rfl
@[simp] theorem dropGang_combining (s : State) (k : Nat) : (s.dropGang k).combining = s.combining := rfl
@[simp] theorem dropGang_hostStores (s : State) (k : Nat) : (s.dropGang k).hostStores = s.hostStores := rfl
@[simp] theorem dropGang_hostStamp (s : State) (k : Nat) : (s.dropGang k).hostStamp = s.hostStamp := rfl
@[simp] theorem dropGang_hostErrors (s : State) (k : Nat) : (s.dropGang k).hostErrors = s.hostErrors := rfl
@[simp] theorem dropGang_tlb (s : State) (k : Nat) : (s.dropGang k).tlb = s.tlb := rfl
@[simp] theorem dropGang_watch (s : State) (k : Nat) : (s.dropGang k).watch = s.watch := rfl
@[simp] theorem dropGang_replicated (s : State) (k : Nat) : (s.dropGang k).replicated = s.replicated := rfl
@[simp] theorem dropGang_tracked (s : State) (k : Nat) : (s.dropGang k).tracked = s.tracked := rfl
@[simp] theorem dropGang_routes (s : State) (k : Nat) : (s.dropGang k).routes = s.routes := rfl
@[simp] theorem dropGang_mailbox (s : State) (k : Nat) : (s.dropGang k).mailbox = s.mailbox := rfl
@[simp] theorem dropGang_sconce (s : State) (k : Nat) : (s.dropGang k).sconce = s.sconce := rfl
@[simp] theorem dropGang_bcncfg (s : State) (k : Nat) : (s.dropGang k).bcncfg = s.bcncfg := rfl
@[simp] theorem dropGang_failed (s : State) (k : Nat) : (s.dropGang k).failed = s.failed := rfl
@[simp] theorem dropGang_mearilFailed (s : State) (k : Nat) : (s.dropGang k).mearilFailed = s.mearilFailed := rfl
@[simp] theorem dropGang_twoLinks (s : State) (k : Nat) : (s.dropGang k).twoLinks = s.twoLinks := rfl
@[simp] theorem dropGang_linkUp (s : State) (k : Nat) : (s.dropGang k).linkUp = s.linkUp := rfl
@[simp] theorem dropGang_hostLinks (s : State) (k : Nat) : (s.dropGang k).hostLinks = s.hostLinks := rfl
@[simp] theorem dropGang_hostReply (s : State) (k : Nat) : (s.dropGang k).hostReply = s.hostReply := rfl
@[simp] theorem dropGang_nextGang (s : State) (k : Nat) : (s.dropGang k).nextGang = s.nextGang := rfl
@[simp] theorem dropGang_nextId (s : State) (k : Nat) : (s.dropGang k).nextId = s.nextId := rfl
@[simp] theorem dropGang_agenda (s : State) (k : Nat) : (s.dropGang k).agenda = s.agenda := rfl
@[simp] theorem dropGang_tick (s : State) (k : Nat) : (s.dropGang k).tick = s.tick := rfl
@[simp] theorem dropGang_turn (s : State) (k : Nat) : (s.dropGang k).turn = s.turn := rfl
@[simp] theorem dropGang_budget (s : State) (k : Nat) : (s.dropGang k).budget = s.budget := rfl
@[simp] theorem dropGang_overwritten (s : State) (k : Nat) : (s.dropGang k).overwritten = s.overwritten := rfl
@[simp] theorem dropGang_fresh (s : State) (k : Nat) : (s.dropGang k).fresh = s.fresh := rfl

/-! ### State.modTask -/

@[simp] theorem modTask_mem (s : State) (p q n : Nat) (f : Task → Task) : (s.modTask p q n f).mem = s.mem := rfl
@[simp] theorem modTask_memPoison (s : State) (p q n : Nat) (f : Task → Task) : (s.modTask p q n f).memPoison = s.memPoison := rfl
@[simp] theorem modTask_harts (s : State) (p q n : Nat) (f : Task → Task) : (s.modTask p q n f).harts = s.harts := rfl
@[simp] theorem modTask_pairs (s : State) (p q n : Nat) (f : Task → Task) : (s.modTask p q n f).pairs = s.pairs := rfl
@[simp] theorem modTask_barriers (s : State) (p q n : Nat) (f : Task → Task) : (s.modTask p q n f).barriers = s.barriers := rfl
@[simp] theorem modTask_partitions (s : State) (p q n : Nat) (f : Task → Task) : (s.modTask p q n f).partitions = s.partitions := rfl
@[simp] theorem modTask_gangs (s : State) (p q n : Nat) (f : Task → Task) : (s.modTask p q n f).gangs = s.gangs := rfl
@[simp] theorem modTask_windows (s : State) (p q n : Nat) (f : Task → Task) : (s.modTask p q n f).windows = s.windows := rfl
@[simp] theorem modTask_transfers (s : State) (p q n : Nat) (f : Task → Task) : (s.modTask p q n f).transfers = s.transfers := rfl
@[simp] theorem modTask_merges (s : State) (p q n : Nat) (f : Task → Task) : (s.modTask p q n f).merges = s.merges := rfl
@[simp] theorem modTask_deliveries (s : State) (p q n : Nat) (f : Task → Task) : (s.modTask p q n f).deliveries = s.deliveries := rfl
@[simp] theorem modTask_egress (s : State) (p q n : Nat) (f : Task → Task) : (s.modTask p q n f).egress = s.egress := rfl
@[simp] theorem modTask_combining (s : State) (p q n : Nat) (f : Task → Task) : (s.modTask p q n f).combining = s.combining := rfl
@[simp] theorem modTask_hostStores (s : State) (p q n : Nat) (f : Task → Task) : (s.modTask p q n f).hostStores = s.hostStores := rfl
@[simp] theorem modTask_hostStamp (s : State) (p q n : Nat) (f : Task → Task) : (s.modTask p q n f).hostStamp = s.hostStamp := rfl
@[simp] theorem modTask_hostErrors (s : State) (p q n : Nat) (f : Task → Task) : (s.modTask p q n f).hostErrors = s.hostErrors := rfl
@[simp] theorem modTask_tlb (s : State) (p q n : Nat) (f : Task → Task) : (s.modTask p q n f).tlb = s.tlb := rfl
@[simp] theorem modTask_watch (s : State) (p q n : Nat) (f : Task → Task) : (s.modTask p q n f).watch = s.watch := rfl
@[simp] theorem modTask_replicated (s : State) (p q n : Nat) (f : Task → Task) : (s.modTask p q n f).replicated = s.replicated := rfl
@[simp] theorem modTask_tracked (s : State) (p q n : Nat) (f : Task → Task) : (s.modTask p q n f).tracked = s.tracked := rfl
@[simp] theorem modTask_routes (s : State) (p q n : Nat) (f : Task → Task) : (s.modTask p q n f).routes = s.routes := rfl
@[simp] theorem modTask_mailbox (s : State) (p q n : Nat) (f : Task → Task) : (s.modTask p q n f).mailbox = s.mailbox := rfl
@[simp] theorem modTask_sconce (s : State) (p q n : Nat) (f : Task → Task) : (s.modTask p q n f).sconce = s.sconce := rfl
@[simp] theorem modTask_bcncfg (s : State) (p q n : Nat) (f : Task → Task) : (s.modTask p q n f).bcncfg = s.bcncfg := rfl
@[simp] theorem modTask_failed (s : State) (p q n : Nat) (f : Task → Task) : (s.modTask p q n f).failed = s.failed := rfl
@[simp] theorem modTask_mearilFailed (s : State) (p q n : Nat) (f : Task → Task) : (s.modTask p q n f).mearilFailed = s.mearilFailed := rfl
@[simp] theorem modTask_twoLinks (s : State) (p q n : Nat) (f : Task → Task) : (s.modTask p q n f).twoLinks = s.twoLinks := rfl
@[simp] theorem modTask_linkUp (s : State) (p q n : Nat) (f : Task → Task) : (s.modTask p q n f).linkUp = s.linkUp := rfl
@[simp] theorem modTask_hostLinks (s : State) (p q n : Nat) (f : Task → Task) : (s.modTask p q n f).hostLinks = s.hostLinks := rfl
@[simp] theorem modTask_hostReply (s : State) (p q n : Nat) (f : Task → Task) : (s.modTask p q n f).hostReply = s.hostReply := rfl
@[simp] theorem modTask_nextGang (s : State) (p q n : Nat) (f : Task → Task) : (s.modTask p q n f).nextGang = s.nextGang := rfl
@[simp] theorem modTask_nextId (s : State) (p q n : Nat) (f : Task → Task) : (s.modTask p q n f).nextId = s.nextId := rfl
@[simp] theorem modTask_agenda (s : State) (p q n : Nat) (f : Task → Task) : (s.modTask p q n f).agenda = s.agenda := rfl
@[simp] theorem modTask_tick (s : State) (p q n : Nat) (f : Task → Task) : (s.modTask p q n f).tick = s.tick := rfl
@[simp] theorem modTask_turn (s : State) (p q n : Nat) (f : Task → Task) : (s.modTask p q n f).turn = s.turn := rfl
@[simp] theorem modTask_budget (s : State) (p q n : Nat) (f : Task → Task) : (s.modTask p q n f).budget = s.budget := rfl
@[simp] theorem modTask_overwritten (s : State) (p q n : Nat) (f : Task → Task) : (s.modTask p q n f).overwritten = s.overwritten := rfl
@[simp] theorem modTask_fresh (s : State) (p q n : Nat) (f : Task → Task) : (s.modTask p q n f).fresh = s.fresh := rfl

/-! ### State.draw -/

@[simp] theorem draw_mem (s : State) : (s.draw.2).mem = s.mem := rfl
@[simp] theorem draw_memPoison (s : State) : (s.draw.2).memPoison = s.memPoison := rfl
@[simp] theorem draw_harts (s : State) : (s.draw.2).harts = s.harts := rfl
@[simp] theorem draw_pairs (s : State) : (s.draw.2).pairs = s.pairs := rfl
@[simp] theorem draw_barriers (s : State) : (s.draw.2).barriers = s.barriers := rfl
@[simp] theorem draw_partitions (s : State) : (s.draw.2).partitions = s.partitions := rfl
@[simp] theorem draw_tasks (s : State) : (s.draw.2).tasks = s.tasks := rfl
@[simp] theorem draw_gangs (s : State) : (s.draw.2).gangs = s.gangs := rfl
@[simp] theorem draw_windows (s : State) : (s.draw.2).windows = s.windows := rfl
@[simp] theorem draw_transfers (s : State) : (s.draw.2).transfers = s.transfers := rfl
@[simp] theorem draw_merges (s : State) : (s.draw.2).merges = s.merges := rfl
@[simp] theorem draw_deliveries (s : State) : (s.draw.2).deliveries = s.deliveries := rfl
@[simp] theorem draw_egress (s : State) : (s.draw.2).egress = s.egress := rfl
@[simp] theorem draw_combining (s : State) : (s.draw.2).combining = s.combining := rfl
@[simp] theorem draw_hostStores (s : State) : (s.draw.2).hostStores = s.hostStores := rfl
@[simp] theorem draw_hostStamp (s : State) : (s.draw.2).hostStamp = s.hostStamp := rfl
@[simp] theorem draw_hostErrors (s : State) : (s.draw.2).hostErrors = s.hostErrors := rfl
@[simp] theorem draw_tlb (s : State) : (s.draw.2).tlb = s.tlb := rfl
@[simp] theorem draw_watch (s : State) : (s.draw.2).watch = s.watch := rfl
@[simp] theorem draw_replicated (s : State) : (s.draw.2).replicated = s.replicated := rfl
@[simp] theorem draw_tracked (s : State) : (s.draw.2).tracked = s.tracked := rfl
@[simp] theorem draw_routes (s : State) : (s.draw.2).routes = s.routes := rfl
@[simp] theorem draw_mailbox (s : State) : (s.draw.2).mailbox = s.mailbox := rfl
@[simp] theorem draw_sconce (s : State) : (s.draw.2).sconce = s.sconce := rfl
@[simp] theorem draw_bcncfg (s : State) : (s.draw.2).bcncfg = s.bcncfg := rfl
@[simp] theorem draw_failed (s : State) : (s.draw.2).failed = s.failed := rfl
@[simp] theorem draw_mearilFailed (s : State) : (s.draw.2).mearilFailed = s.mearilFailed := rfl
@[simp] theorem draw_twoLinks (s : State) : (s.draw.2).twoLinks = s.twoLinks := rfl
@[simp] theorem draw_linkUp (s : State) : (s.draw.2).linkUp = s.linkUp := rfl
@[simp] theorem draw_hostLinks (s : State) : (s.draw.2).hostLinks = s.hostLinks := rfl
@[simp] theorem draw_hostReply (s : State) : (s.draw.2).hostReply = s.hostReply := rfl
@[simp] theorem draw_nextGang (s : State) : (s.draw.2).nextGang = s.nextGang := rfl
@[simp] theorem draw_nextId (s : State) : (s.draw.2).nextId = s.nextId := rfl
@[simp] theorem draw_agenda (s : State) : (s.draw.2).agenda = s.agenda := rfl
@[simp] theorem draw_tick (s : State) : (s.draw.2).tick = s.tick := rfl
@[simp] theorem draw_turn (s : State) : (s.draw.2).turn = s.turn := rfl
@[simp] theorem draw_budget (s : State) : (s.draw.2).budget = s.budget := rfl
@[simp] theorem draw_overwritten (s : State) : (s.draw.2).overwritten = s.overwritten := rfl

/-! ### State.newId -/

@[simp] theorem newId_mem (s : State) : (s.newId.2).mem = s.mem := rfl
@[simp] theorem newId_memPoison (s : State) : (s.newId.2).memPoison = s.memPoison := rfl
@[simp] theorem newId_harts (s : State) : (s.newId.2).harts = s.harts := rfl
@[simp] theorem newId_pairs (s : State) : (s.newId.2).pairs = s.pairs := rfl
@[simp] theorem newId_barriers (s : State) : (s.newId.2).barriers = s.barriers := rfl
@[simp] theorem newId_partitions (s : State) : (s.newId.2).partitions = s.partitions := rfl
@[simp] theorem newId_tasks (s : State) : (s.newId.2).tasks = s.tasks := rfl
@[simp] theorem newId_gangs (s : State) : (s.newId.2).gangs = s.gangs := rfl
@[simp] theorem newId_windows (s : State) : (s.newId.2).windows = s.windows := rfl
@[simp] theorem newId_transfers (s : State) : (s.newId.2).transfers = s.transfers := rfl
@[simp] theorem newId_merges (s : State) : (s.newId.2).merges = s.merges := rfl
@[simp] theorem newId_deliveries (s : State) : (s.newId.2).deliveries = s.deliveries := rfl
@[simp] theorem newId_egress (s : State) : (s.newId.2).egress = s.egress := rfl
@[simp] theorem newId_combining (s : State) : (s.newId.2).combining = s.combining := rfl
@[simp] theorem newId_hostStores (s : State) : (s.newId.2).hostStores = s.hostStores := rfl
@[simp] theorem newId_hostStamp (s : State) : (s.newId.2).hostStamp = s.hostStamp := rfl
@[simp] theorem newId_hostErrors (s : State) : (s.newId.2).hostErrors = s.hostErrors := rfl
@[simp] theorem newId_tlb (s : State) : (s.newId.2).tlb = s.tlb := rfl
@[simp] theorem newId_watch (s : State) : (s.newId.2).watch = s.watch := rfl
@[simp] theorem newId_replicated (s : State) : (s.newId.2).replicated = s.replicated := rfl
@[simp] theorem newId_tracked (s : State) : (s.newId.2).tracked = s.tracked := rfl
@[simp] theorem newId_routes (s : State) : (s.newId.2).routes = s.routes := rfl
@[simp] theorem newId_mailbox (s : State) : (s.newId.2).mailbox = s.mailbox := rfl
@[simp] theorem newId_sconce (s : State) : (s.newId.2).sconce = s.sconce := rfl
@[simp] theorem newId_bcncfg (s : State) : (s.newId.2).bcncfg = s.bcncfg := rfl
@[simp] theorem newId_failed (s : State) : (s.newId.2).failed = s.failed := rfl
@[simp] theorem newId_mearilFailed (s : State) : (s.newId.2).mearilFailed = s.mearilFailed := rfl
@[simp] theorem newId_twoLinks (s : State) : (s.newId.2).twoLinks = s.twoLinks := rfl
@[simp] theorem newId_linkUp (s : State) : (s.newId.2).linkUp = s.linkUp := rfl
@[simp] theorem newId_hostLinks (s : State) : (s.newId.2).hostLinks = s.hostLinks := rfl
@[simp] theorem newId_hostReply (s : State) : (s.newId.2).hostReply = s.hostReply := rfl
@[simp] theorem newId_nextGang (s : State) : (s.newId.2).nextGang = s.nextGang := rfl
@[simp] theorem newId_agenda (s : State) : (s.newId.2).agenda = s.agenda := rfl
@[simp] theorem newId_tick (s : State) : (s.newId.2).tick = s.tick := rfl
@[simp] theorem newId_turn (s : State) : (s.newId.2).turn = s.turn := rfl
@[simp] theorem newId_budget (s : State) : (s.newId.2).budget = s.budget := rfl
@[simp] theorem newId_overwritten (s : State) : (s.newId.2).overwritten = s.overwritten := rfl
@[simp] theorem newId_fresh (s : State) : (s.newId.2).fresh = s.fresh := rfl

/-! ### State.modHart -/

@[simp] theorem modHart_mem (s : State) (k : Nat) (f : Hart → Hart) : (s.modHart k f).mem = s.mem := by unfold State.modHart; split <;> rfl
@[simp] theorem modHart_memPoison (s : State) (k : Nat) (f : Hart → Hart) : (s.modHart k f).memPoison = s.memPoison := by unfold State.modHart; split <;> rfl
@[simp] theorem modHart_pairs (s : State) (k : Nat) (f : Hart → Hart) : (s.modHart k f).pairs = s.pairs := by unfold State.modHart; split <;> rfl
@[simp] theorem modHart_barriers (s : State) (k : Nat) (f : Hart → Hart) : (s.modHart k f).barriers = s.barriers := by unfold State.modHart; split <;> rfl
@[simp] theorem modHart_partitions (s : State) (k : Nat) (f : Hart → Hart) : (s.modHart k f).partitions = s.partitions := by unfold State.modHart; split <;> rfl
@[simp] theorem modHart_tasks (s : State) (k : Nat) (f : Hart → Hart) : (s.modHart k f).tasks = s.tasks := by unfold State.modHart; split <;> rfl
@[simp] theorem modHart_gangs (s : State) (k : Nat) (f : Hart → Hart) : (s.modHart k f).gangs = s.gangs := by unfold State.modHart; split <;> rfl
@[simp] theorem modHart_windows (s : State) (k : Nat) (f : Hart → Hart) : (s.modHart k f).windows = s.windows := by unfold State.modHart; split <;> rfl
@[simp] theorem modHart_transfers (s : State) (k : Nat) (f : Hart → Hart) : (s.modHart k f).transfers = s.transfers := by unfold State.modHart; split <;> rfl
@[simp] theorem modHart_merges (s : State) (k : Nat) (f : Hart → Hart) : (s.modHart k f).merges = s.merges := by unfold State.modHart; split <;> rfl
@[simp] theorem modHart_deliveries (s : State) (k : Nat) (f : Hart → Hart) : (s.modHart k f).deliveries = s.deliveries := by unfold State.modHart; split <;> rfl
@[simp] theorem modHart_egress (s : State) (k : Nat) (f : Hart → Hart) : (s.modHart k f).egress = s.egress := by unfold State.modHart; split <;> rfl
@[simp] theorem modHart_combining (s : State) (k : Nat) (f : Hart → Hart) : (s.modHart k f).combining = s.combining := by unfold State.modHart; split <;> rfl
@[simp] theorem modHart_hostStores (s : State) (k : Nat) (f : Hart → Hart) : (s.modHart k f).hostStores = s.hostStores := by unfold State.modHart; split <;> rfl
@[simp] theorem modHart_hostStamp (s : State) (k : Nat) (f : Hart → Hart) : (s.modHart k f).hostStamp = s.hostStamp := by unfold State.modHart; split <;> rfl
@[simp] theorem modHart_hostErrors (s : State) (k : Nat) (f : Hart → Hart) : (s.modHart k f).hostErrors = s.hostErrors := by unfold State.modHart; split <;> rfl
@[simp] theorem modHart_tlb (s : State) (k : Nat) (f : Hart → Hart) : (s.modHart k f).tlb = s.tlb := by unfold State.modHart; split <;> rfl
@[simp] theorem modHart_watch (s : State) (k : Nat) (f : Hart → Hart) : (s.modHart k f).watch = s.watch := by unfold State.modHart; split <;> rfl
@[simp] theorem modHart_replicated (s : State) (k : Nat) (f : Hart → Hart) : (s.modHart k f).replicated = s.replicated := by unfold State.modHart; split <;> rfl
@[simp] theorem modHart_tracked (s : State) (k : Nat) (f : Hart → Hart) : (s.modHart k f).tracked = s.tracked := by unfold State.modHart; split <;> rfl
@[simp] theorem modHart_routes (s : State) (k : Nat) (f : Hart → Hart) : (s.modHart k f).routes = s.routes := by unfold State.modHart; split <;> rfl
@[simp] theorem modHart_mailbox (s : State) (k : Nat) (f : Hart → Hart) : (s.modHart k f).mailbox = s.mailbox := by unfold State.modHart; split <;> rfl
@[simp] theorem modHart_sconce (s : State) (k : Nat) (f : Hart → Hart) : (s.modHart k f).sconce = s.sconce := by unfold State.modHart; split <;> rfl
@[simp] theorem modHart_bcncfg (s : State) (k : Nat) (f : Hart → Hart) : (s.modHart k f).bcncfg = s.bcncfg := by unfold State.modHart; split <;> rfl
@[simp] theorem modHart_failed (s : State) (k : Nat) (f : Hart → Hart) : (s.modHart k f).failed = s.failed := by unfold State.modHart; split <;> rfl
@[simp] theorem modHart_mearilFailed (s : State) (k : Nat) (f : Hart → Hart) : (s.modHart k f).mearilFailed = s.mearilFailed := by unfold State.modHart; split <;> rfl
@[simp] theorem modHart_twoLinks (s : State) (k : Nat) (f : Hart → Hart) : (s.modHart k f).twoLinks = s.twoLinks := by unfold State.modHart; split <;> rfl
@[simp] theorem modHart_linkUp (s : State) (k : Nat) (f : Hart → Hart) : (s.modHart k f).linkUp = s.linkUp := by unfold State.modHart; split <;> rfl
@[simp] theorem modHart_hostLinks (s : State) (k : Nat) (f : Hart → Hart) : (s.modHart k f).hostLinks = s.hostLinks := by unfold State.modHart; split <;> rfl
@[simp] theorem modHart_hostReply (s : State) (k : Nat) (f : Hart → Hart) : (s.modHart k f).hostReply = s.hostReply := by unfold State.modHart; split <;> rfl
@[simp] theorem modHart_nextGang (s : State) (k : Nat) (f : Hart → Hart) : (s.modHart k f).nextGang = s.nextGang := by unfold State.modHart; split <;> rfl
@[simp] theorem modHart_nextId (s : State) (k : Nat) (f : Hart → Hart) : (s.modHart k f).nextId = s.nextId := by unfold State.modHart; split <;> rfl
@[simp] theorem modHart_agenda (s : State) (k : Nat) (f : Hart → Hart) : (s.modHart k f).agenda = s.agenda := by unfold State.modHart; split <;> rfl
@[simp] theorem modHart_tick (s : State) (k : Nat) (f : Hart → Hart) : (s.modHart k f).tick = s.tick := by unfold State.modHart; split <;> rfl
@[simp] theorem modHart_turn (s : State) (k : Nat) (f : Hart → Hart) : (s.modHart k f).turn = s.turn := by unfold State.modHart; split <;> rfl
@[simp] theorem modHart_budget (s : State) (k : Nat) (f : Hart → Hart) : (s.modHart k f).budget = s.budget := by unfold State.modHart; split <;> rfl
@[simp] theorem modHart_overwritten (s : State) (k : Nat) (f : Hart → Hart) : (s.modHart k f).overwritten = s.overwritten := by unfold State.modHart; split <;> rfl
@[simp] theorem modHart_fresh (s : State) (k : Nat) (f : Hart → Hart) : (s.modHart k f).fresh = s.fresh := by unfold State.modHart; split <;> rfl

@[simp] theorem hart_setHart_same (s : State) (k : Nat) (h : Hart) : (s.setHart k h).hart? k = some h := tblGet_tblSet_same s.harts k h
theorem hart_setHart_other (s : State) (k j : Nat) (h : Hart) (hj : j ≠ k) : (s.setHart k h).hart? j = s.hart? j :=
  tblGet_tblSet_other s.harts k j h hj
@[simp] theorem hart_draw (s : State) (k : Nat) : s.draw.2.hart? k = s.hart? k := rfl
theorem hart_modHart_same {s : State} {k : Nat} {h : Hart} (hh : s.hart? k = some h) (f : Hart → Hart) :
    (s.modHart k f).hart? k = some (f h) := by simp [State.modHart, hh]
theorem hart_modHart_other (s : State) (k j : Nat) (f : Hart → Hart) (hj : j ≠ k) : (s.modHart k f).hart? j = s.hart? j := by
  unfold State.modHart
  split
  · exact hart_setHart_other s k j _ hj
  · rfl
theorem modHart_eq_setHart {s : State} {k : Nat} {h : Hart} (hh : s.hart? k = some h) (f : Hart → Hart) :
    s.modHart k f = s.setHart k (f h) := by simp [State.modHart, hh]

/-! ## The hart -/

/-! ### Hart.setPc -/

@[simp] theorem hart_setPc_ids (h : Hart) (x : Word) : (h.setPc x).ids = h.ids := rfl
@[simp] theorem hart_setPc_fcsr (h : Hart) (x : Word) : (h.setPc x).fcsr = h.fcsr := rfl
@[simp] theorem hart_setPc_priv (h : Hart) (x : Word) : (h.setPc x).priv = h.priv := rfl
@[simp] theorem hart_setPc_trap (h : Hart) (x : Word) : (h.setPc x).trap = h.trap := rfl
@[simp] theorem hart_setPc_lslip (h : Hart) (x : Word) : (h.setPc x).lslip = h.lslip := rfl
@[simp] theorem hart_setPc_zdirty (h : Hart) (x : Word) : (h.setPc x).zdirty = h.zdirty := rfl
@[simp] theorem hart_setPc_cycle (h : Hart) (x : Word) : (h.setPc x).cycle = h.cycle := rfl
@[simp] theorem hart_setPc_instret (h : Hart) (x : Word) : (h.setPc x).instret = h.instret := rfl
@[simp] theorem hart_setPc_rdisc (h : Hart) (x : Word) : (h.setPc x).rdisc = h.rdisc := rfl
@[simp] theorem hart_setPc_perf (h : Hart) (x : Word) : (h.setPc x).perf = h.perf := rfl
@[simp] theorem hart_setPc_tiles (h : Hart) (x : Word) : (h.setPc x).tiles = h.tiles := rfl
@[simp] theorem hart_setPc_live (h : Hart) (x : Word) : (h.setPc x).live = h.live := rfl
@[simp] theorem hart_setPc_shadow (h : Hart) (x : Word) : (h.setPc x).shadow = h.shadow := rfl
@[simp] theorem hart_setPc_defer (h : Hart) (x : Word) : (h.setPc x).defer = h.defer := rfl
@[simp] theorem hart_setPc_scratch (h : Hart) (x : Word) : (h.setPc x).scratch = h.scratch := rfl
@[simp] theorem hart_setPc_scratchPoison (h : Hart) (x : Word) : (h.setPc x).scratchPoison = h.scratchPoison := rfl
@[simp] theorem hart_setPc_granules (h : Hart) (x : Word) : (h.setPc x).granules = h.granules := rfl
@[simp] theorem hart_setPc_watch (h : Hart) (x : Word) : (h.setPc x).watch = h.watch := rfl
@[simp] theorem hart_setPc_poison (h : Hart) (x : Word) : (h.setPc x).poison = h.poison := rfl
@[simp] theorem hart_setPc_arriving (h : Hart) (x : Word) : (h.setPc x).arriving = h.arriving := rfl
@[simp] theorem hart_setPc_packets (h : Hart) (x : Word) : (h.setPc x).packets = h.packets := rfl
@[simp] theorem hart_setPc_run (h : Hart) (x : Word) : (h.setPc x).run = h.run := rfl
@[simp] theorem hart_setPc_held (h : Hart) (x : Word) : (h.setPc x).held = h.held := rfl
@[simp] theorem hart_setPc_fenceS (h : Hart) (x : Word) : (h.setPc x).fenceS = h.fenceS := rfl
@[simp] theorem hart_setPc_fenceV (h : Hart) (x : Word) : (h.setPc x).fenceV = h.fenceV := rfl
@[simp] theorem hart_setPc_lantern (h : Hart) (x : Word) : (h.setPc x).lantern = h.lantern := rfl

/-! ### Hart.raise -/

@[simp] theorem hart_raise_ids (h : Hart) (f : FFlags) : (h.raise f).ids = h.ids := rfl
@[simp] theorem hart_raise_regs (h : Hart) (f : FFlags) : (h.raise f).regs = h.regs := rfl
@[simp] theorem hart_raise_priv (h : Hart) (f : FFlags) : (h.raise f).priv = h.priv := rfl
@[simp] theorem hart_raise_trap (h : Hart) (f : FFlags) : (h.raise f).trap = h.trap := rfl
@[simp] theorem hart_raise_lslip (h : Hart) (f : FFlags) : (h.raise f).lslip = h.lslip := rfl
@[simp] theorem hart_raise_zdirty (h : Hart) (f : FFlags) : (h.raise f).zdirty = h.zdirty := rfl
@[simp] theorem hart_raise_cycle (h : Hart) (f : FFlags) : (h.raise f).cycle = h.cycle := rfl
@[simp] theorem hart_raise_instret (h : Hart) (f : FFlags) : (h.raise f).instret = h.instret := rfl
@[simp] theorem hart_raise_rdisc (h : Hart) (f : FFlags) : (h.raise f).rdisc = h.rdisc := rfl
@[simp] theorem hart_raise_perf (h : Hart) (f : FFlags) : (h.raise f).perf = h.perf := rfl
@[simp] theorem hart_raise_tiles (h : Hart) (f : FFlags) : (h.raise f).tiles = h.tiles := rfl
@[simp] theorem hart_raise_live (h : Hart) (f : FFlags) : (h.raise f).live = h.live := rfl
@[simp] theorem hart_raise_shadow (h : Hart) (f : FFlags) : (h.raise f).shadow = h.shadow := rfl
@[simp] theorem hart_raise_defer (h : Hart) (f : FFlags) : (h.raise f).defer = h.defer := rfl
@[simp] theorem hart_raise_scratch (h : Hart) (f : FFlags) : (h.raise f).scratch = h.scratch := rfl
@[simp] theorem hart_raise_scratchPoison (h : Hart) (f : FFlags) : (h.raise f).scratchPoison = h.scratchPoison := rfl
@[simp] theorem hart_raise_granules (h : Hart) (f : FFlags) : (h.raise f).granules = h.granules := rfl
@[simp] theorem hart_raise_watch (h : Hart) (f : FFlags) : (h.raise f).watch = h.watch := rfl
@[simp] theorem hart_raise_poison (h : Hart) (f : FFlags) : (h.raise f).poison = h.poison := rfl
@[simp] theorem hart_raise_arriving (h : Hart) (f : FFlags) : (h.raise f).arriving = h.arriving := rfl
@[simp] theorem hart_raise_packets (h : Hart) (f : FFlags) : (h.raise f).packets = h.packets := rfl
@[simp] theorem hart_raise_run (h : Hart) (f : FFlags) : (h.raise f).run = h.run := rfl
@[simp] theorem hart_raise_held (h : Hart) (f : FFlags) : (h.raise f).held = h.held := rfl
@[simp] theorem hart_raise_fenceS (h : Hart) (f : FFlags) : (h.raise f).fenceS = h.fenceS := rfl
@[simp] theorem hart_raise_fenceV (h : Hart) (f : FFlags) : (h.raise f).fenceV = h.fenceV := rfl
@[simp] theorem hart_raise_lantern (h : Hart) (f : FFlags) : (h.raise f).lantern = h.lantern := rfl

/-! ### Hart.bump -/

@[simp] theorem hart_bump_ids (h : Hart) (n : Nat) (x : Word) : (h.bump n x).ids = h.ids := rfl
@[simp] theorem hart_bump_regs (h : Hart) (n : Nat) (x : Word) : (h.bump n x).regs = h.regs := rfl
@[simp] theorem hart_bump_fcsr (h : Hart) (n : Nat) (x : Word) : (h.bump n x).fcsr = h.fcsr := rfl
@[simp] theorem hart_bump_priv (h : Hart) (n : Nat) (x : Word) : (h.bump n x).priv = h.priv := rfl
@[simp] theorem hart_bump_trap (h : Hart) (n : Nat) (x : Word) : (h.bump n x).trap = h.trap := rfl
@[simp] theorem hart_bump_lslip (h : Hart) (n : Nat) (x : Word) : (h.bump n x).lslip = h.lslip := rfl
@[simp] theorem hart_bump_zdirty (h : Hart) (n : Nat) (x : Word) : (h.bump n x).zdirty = h.zdirty := rfl
@[simp] theorem hart_bump_cycle (h : Hart) (n : Nat) (x : Word) : (h.bump n x).cycle = h.cycle := rfl
@[simp] theorem hart_bump_instret (h : Hart) (n : Nat) (x : Word) : (h.bump n x).instret = h.instret := rfl
@[simp] theorem hart_bump_rdisc (h : Hart) (n : Nat) (x : Word) : (h.bump n x).rdisc = h.rdisc := rfl
@[simp] theorem hart_bump_tiles (h : Hart) (n : Nat) (x : Word) : (h.bump n x).tiles = h.tiles := rfl
@[simp] theorem hart_bump_live (h : Hart) (n : Nat) (x : Word) : (h.bump n x).live = h.live := rfl
@[simp] theorem hart_bump_shadow (h : Hart) (n : Nat) (x : Word) : (h.bump n x).shadow = h.shadow := rfl
@[simp] theorem hart_bump_defer (h : Hart) (n : Nat) (x : Word) : (h.bump n x).defer = h.defer := rfl
@[simp] theorem hart_bump_scratch (h : Hart) (n : Nat) (x : Word) : (h.bump n x).scratch = h.scratch := rfl
@[simp] theorem hart_bump_scratchPoison (h : Hart) (n : Nat) (x : Word) : (h.bump n x).scratchPoison = h.scratchPoison := rfl
@[simp] theorem hart_bump_granules (h : Hart) (n : Nat) (x : Word) : (h.bump n x).granules = h.granules := rfl
@[simp] theorem hart_bump_watch (h : Hart) (n : Nat) (x : Word) : (h.bump n x).watch = h.watch := rfl
@[simp] theorem hart_bump_poison (h : Hart) (n : Nat) (x : Word) : (h.bump n x).poison = h.poison := rfl
@[simp] theorem hart_bump_arriving (h : Hart) (n : Nat) (x : Word) : (h.bump n x).arriving = h.arriving := rfl
@[simp] theorem hart_bump_packets (h : Hart) (n : Nat) (x : Word) : (h.bump n x).packets = h.packets := rfl
@[simp] theorem hart_bump_run (h : Hart) (n : Nat) (x : Word) : (h.bump n x).run = h.run := rfl
@[simp] theorem hart_bump_held (h : Hart) (n : Nat) (x : Word) : (h.bump n x).held = h.held := rfl
@[simp] theorem hart_bump_fenceS (h : Hart) (n : Nat) (x : Word) : (h.bump n x).fenceS = h.fenceS := rfl
@[simp] theorem hart_bump_fenceV (h : Hart) (n : Nat) (x : Word) : (h.bump n x).fenceV = h.fenceV := rfl
@[simp] theorem hart_bump_lantern (h : Hart) (n : Nat) (x : Word) : (h.bump n x).lantern = h.lantern := rfl

/-! ### Hart.setRow -/

@[simp] theorem hart_setRow_ids (h : Hart) (k r : Nat) (x : VReg) : (h.setRow k r x).ids = h.ids := rfl
@[simp] theorem hart_setRow_regs (h : Hart) (k r : Nat) (x : VReg) : (h.setRow k r x).regs = h.regs := rfl
@[simp] theorem hart_setRow_fcsr (h : Hart) (k r : Nat) (x : VReg) : (h.setRow k r x).fcsr = h.fcsr := rfl
@[simp] theorem hart_setRow_priv (h : Hart) (k r : Nat) (x : VReg) : (h.setRow k r x).priv = h.priv := rfl
@[simp] theorem hart_setRow_trap (h : Hart) (k r : Nat) (x : VReg) : (h.setRow k r x).trap = h.trap := rfl
@[simp] theorem hart_setRow_lslip (h : Hart) (k r : Nat) (x : VReg) : (h.setRow k r x).lslip = h.lslip := rfl
@[simp] theorem hart_setRow_zdirty (h : Hart) (k r : Nat) (x : VReg) : (h.setRow k r x).zdirty = h.zdirty := rfl
@[simp] theorem hart_setRow_cycle (h : Hart) (k r : Nat) (x : VReg) : (h.setRow k r x).cycle = h.cycle := rfl
@[simp] theorem hart_setRow_instret (h : Hart) (k r : Nat) (x : VReg) : (h.setRow k r x).instret = h.instret := rfl
@[simp] theorem hart_setRow_rdisc (h : Hart) (k r : Nat) (x : VReg) : (h.setRow k r x).rdisc = h.rdisc := rfl
@[simp] theorem hart_setRow_perf (h : Hart) (k r : Nat) (x : VReg) : (h.setRow k r x).perf = h.perf := rfl
@[simp] theorem hart_setRow_live (h : Hart) (k r : Nat) (x : VReg) : (h.setRow k r x).live = h.live := rfl
@[simp] theorem hart_setRow_shadow (h : Hart) (k r : Nat) (x : VReg) : (h.setRow k r x).shadow = h.shadow := rfl
@[simp] theorem hart_setRow_defer (h : Hart) (k r : Nat) (x : VReg) : (h.setRow k r x).defer = h.defer := rfl
@[simp] theorem hart_setRow_scratch (h : Hart) (k r : Nat) (x : VReg) : (h.setRow k r x).scratch = h.scratch := rfl
@[simp] theorem hart_setRow_scratchPoison (h : Hart) (k r : Nat) (x : VReg) : (h.setRow k r x).scratchPoison = h.scratchPoison := rfl
@[simp] theorem hart_setRow_granules (h : Hart) (k r : Nat) (x : VReg) : (h.setRow k r x).granules = h.granules := rfl
@[simp] theorem hart_setRow_watch (h : Hart) (k r : Nat) (x : VReg) : (h.setRow k r x).watch = h.watch := rfl
@[simp] theorem hart_setRow_poison (h : Hart) (k r : Nat) (x : VReg) : (h.setRow k r x).poison = h.poison := rfl
@[simp] theorem hart_setRow_arriving (h : Hart) (k r : Nat) (x : VReg) : (h.setRow k r x).arriving = h.arriving := rfl
@[simp] theorem hart_setRow_packets (h : Hart) (k r : Nat) (x : VReg) : (h.setRow k r x).packets = h.packets := rfl
@[simp] theorem hart_setRow_run (h : Hart) (k r : Nat) (x : VReg) : (h.setRow k r x).run = h.run := rfl
@[simp] theorem hart_setRow_held (h : Hart) (k r : Nat) (x : VReg) : (h.setRow k r x).held = h.held := rfl
@[simp] theorem hart_setRow_fenceS (h : Hart) (k r : Nat) (x : VReg) : (h.setRow k r x).fenceS = h.fenceS := rfl
@[simp] theorem hart_setRow_fenceV (h : Hart) (k r : Nat) (x : VReg) : (h.setRow k r x).fenceV = h.fenceV := rfl
@[simp] theorem hart_setRow_lantern (h : Hart) (k r : Nat) (x : VReg) : (h.setRow k r x).lantern = h.lantern := rfl

/-! ### Hart.markDirty -/

@[simp] theorem hart_markDirty_ids (h : Hart) (k : Nat) : (h.markDirty k).ids = h.ids := rfl
@[simp] theorem hart_markDirty_regs (h : Hart) (k : Nat) : (h.markDirty k).regs = h.regs := rfl
@[simp] theorem hart_markDirty_fcsr (h : Hart) (k : Nat) : (h.markDirty k).fcsr = h.fcsr := rfl
@[simp] theorem hart_markDirty_priv (h : Hart) (k : Nat) : (h.markDirty k).priv = h.priv := rfl
@[simp] theorem hart_markDirty_trap (h : Hart) (k : Nat) : (h.markDirty k).trap = h.trap := rfl
@[simp] theorem hart_markDirty_lslip (h : Hart) (k : Nat) : (h.markDirty k).lslip = h.lslip := rfl
@[simp] theorem hart_markDirty_cycle (h : Hart) (k : Nat) : (h.markDirty k).cycle = h.cycle := rfl
@[simp] theorem hart_markDirty_instret (h : Hart) (k : Nat) : (h.markDirty k).instret = h.instret := rfl
@[simp] theorem hart_markDirty_rdisc (h : Hart) (k : Nat) : (h.markDirty k).rdisc = h.rdisc := rfl
@[simp] theorem hart_markDirty_perf (h : Hart) (k : Nat) : (h.markDirty k).perf = h.perf := rfl
@[simp] theorem hart_markDirty_tiles (h : Hart) (k : Nat) : (h.markDirty k).tiles = h.tiles := rfl
@[simp] theorem hart_markDirty_live (h : Hart) (k : Nat) : (h.markDirty k).live = h.live := rfl
@[simp] theorem hart_markDirty_shadow (h : Hart) (k : Nat) : (h.markDirty k).shadow = h.shadow := rfl
@[simp] theorem hart_markDirty_defer (h : Hart) (k : Nat) : (h.markDirty k).defer = h.defer := rfl
@[simp] theorem hart_markDirty_scratch (h : Hart) (k : Nat) : (h.markDirty k).scratch = h.scratch := rfl
@[simp] theorem hart_markDirty_scratchPoison (h : Hart) (k : Nat) : (h.markDirty k).scratchPoison = h.scratchPoison := rfl
@[simp] theorem hart_markDirty_granules (h : Hart) (k : Nat) : (h.markDirty k).granules = h.granules := rfl
@[simp] theorem hart_markDirty_watch (h : Hart) (k : Nat) : (h.markDirty k).watch = h.watch := rfl
@[simp] theorem hart_markDirty_poison (h : Hart) (k : Nat) : (h.markDirty k).poison = h.poison := rfl
@[simp] theorem hart_markDirty_arriving (h : Hart) (k : Nat) : (h.markDirty k).arriving = h.arriving := rfl
@[simp] theorem hart_markDirty_packets (h : Hart) (k : Nat) : (h.markDirty k).packets = h.packets := rfl
@[simp] theorem hart_markDirty_run (h : Hart) (k : Nat) : (h.markDirty k).run = h.run := rfl
@[simp] theorem hart_markDirty_held (h : Hart) (k : Nat) : (h.markDirty k).held = h.held := rfl
@[simp] theorem hart_markDirty_fenceS (h : Hart) (k : Nat) : (h.markDirty k).fenceS = h.fenceS := rfl
@[simp] theorem hart_markDirty_fenceV (h : Hart) (k : Nat) : (h.markDirty k).fenceV = h.fenceV := rfl
@[simp] theorem hart_markDirty_lantern (h : Hart) (k : Nat) : (h.markDirty k).lantern = h.lantern := rfl

/-! ### Hart.markClean -/

@[simp] theorem hart_markClean_ids (h : Hart) (k : Nat) : (h.markClean k).ids = h.ids := rfl
@[simp] theorem hart_markClean_regs (h : Hart) (k : Nat) : (h.markClean k).regs = h.regs := rfl
@[simp] theorem hart_markClean_fcsr (h : Hart) (k : Nat) : (h.markClean k).fcsr = h.fcsr := rfl
@[simp] theorem hart_markClean_priv (h : Hart) (k : Nat) : (h.markClean k).priv = h.priv := rfl
@[simp] theorem hart_markClean_trap (h : Hart) (k : Nat) : (h.markClean k).trap = h.trap := rfl
@[simp] theorem hart_markClean_lslip (h : Hart) (k : Nat) : (h.markClean k).lslip = h.lslip := rfl
@[simp] theorem hart_markClean_cycle (h : Hart) (k : Nat) : (h.markClean k).cycle = h.cycle := rfl
@[simp] theorem hart_markClean_instret (h : Hart) (k : Nat) : (h.markClean k).instret = h.instret := rfl
@[simp] theorem hart_markClean_rdisc (h : Hart) (k : Nat) : (h.markClean k).rdisc = h.rdisc := rfl
@[simp] theorem hart_markClean_perf (h : Hart) (k : Nat) : (h.markClean k).perf = h.perf := rfl
@[simp] theorem hart_markClean_tiles (h : Hart) (k : Nat) : (h.markClean k).tiles = h.tiles := rfl
@[simp] theorem hart_markClean_live (h : Hart) (k : Nat) : (h.markClean k).live = h.live := rfl
@[simp] theorem hart_markClean_shadow (h : Hart) (k : Nat) : (h.markClean k).shadow = h.shadow := rfl
@[simp] theorem hart_markClean_defer (h : Hart) (k : Nat) : (h.markClean k).defer = h.defer := rfl
@[simp] theorem hart_markClean_scratch (h : Hart) (k : Nat) : (h.markClean k).scratch = h.scratch := rfl
@[simp] theorem hart_markClean_scratchPoison (h : Hart) (k : Nat) : (h.markClean k).scratchPoison = h.scratchPoison := rfl
@[simp] theorem hart_markClean_granules (h : Hart) (k : Nat) : (h.markClean k).granules = h.granules := rfl
@[simp] theorem hart_markClean_watch (h : Hart) (k : Nat) : (h.markClean k).watch = h.watch := rfl
@[simp] theorem hart_markClean_poison (h : Hart) (k : Nat) : (h.markClean k).poison = h.poison := rfl
@[simp] theorem hart_markClean_arriving (h : Hart) (k : Nat) : (h.markClean k).arriving = h.arriving := rfl
@[simp] theorem hart_markClean_packets (h : Hart) (k : Nat) : (h.markClean k).packets = h.packets := rfl
@[simp] theorem hart_markClean_run (h : Hart) (k : Nat) : (h.markClean k).run = h.run := rfl
@[simp] theorem hart_markClean_held (h : Hart) (k : Nat) : (h.markClean k).held = h.held := rfl
@[simp] theorem hart_markClean_fenceS (h : Hart) (k : Nat) : (h.markClean k).fenceS = h.fenceS := rfl
@[simp] theorem hart_markClean_fenceV (h : Hart) (k : Nat) : (h.markClean k).fenceV = h.fenceV := rfl
@[simp] theorem hart_markClean_lantern (h : Hart) (k : Nat) : (h.markClean k).lantern = h.lantern := rfl

/-! ### Hart.zeroTile -/

@[simp] theorem hart_zeroTile_ids (h : Hart) (k : Nat) : (h.zeroTile k).ids = h.ids := rfl
@[simp] theorem hart_zeroTile_regs (h : Hart) (k : Nat) : (h.zeroTile k).regs = h.regs := rfl
@[simp] theorem hart_zeroTile_fcsr (h : Hart) (k : Nat) : (h.zeroTile k).fcsr = h.fcsr := rfl
@[simp] theorem hart_zeroTile_priv (h : Hart) (k : Nat) : (h.zeroTile k).priv = h.priv := rfl
@[simp] theorem hart_zeroTile_trap (h : Hart) (k : Nat) : (h.zeroTile k).trap = h.trap := rfl
@[simp] theorem hart_zeroTile_lslip (h : Hart) (k : Nat) : (h.zeroTile k).lslip = h.lslip := rfl
@[simp] theorem hart_zeroTile_zdirty (h : Hart) (k : Nat) : (h.zeroTile k).zdirty = h.zdirty := rfl
@[simp] theorem hart_zeroTile_cycle (h : Hart) (k : Nat) : (h.zeroTile k).cycle = h.cycle := rfl
@[simp] theorem hart_zeroTile_instret (h : Hart) (k : Nat) : (h.zeroTile k).instret = h.instret := rfl
@[simp] theorem hart_zeroTile_rdisc (h : Hart) (k : Nat) : (h.zeroTile k).rdisc = h.rdisc := rfl
@[simp] theorem hart_zeroTile_perf (h : Hart) (k : Nat) : (h.zeroTile k).perf = h.perf := rfl
@[simp] theorem hart_zeroTile_live (h : Hart) (k : Nat) : (h.zeroTile k).live = h.live := rfl
@[simp] theorem hart_zeroTile_shadow (h : Hart) (k : Nat) : (h.zeroTile k).shadow = h.shadow := rfl
@[simp] theorem hart_zeroTile_defer (h : Hart) (k : Nat) : (h.zeroTile k).defer = h.defer := rfl
@[simp] theorem hart_zeroTile_scratch (h : Hart) (k : Nat) : (h.zeroTile k).scratch = h.scratch := rfl
@[simp] theorem hart_zeroTile_scratchPoison (h : Hart) (k : Nat) : (h.zeroTile k).scratchPoison = h.scratchPoison := rfl
@[simp] theorem hart_zeroTile_granules (h : Hart) (k : Nat) : (h.zeroTile k).granules = h.granules := rfl
@[simp] theorem hart_zeroTile_watch (h : Hart) (k : Nat) : (h.zeroTile k).watch = h.watch := rfl
@[simp] theorem hart_zeroTile_poison (h : Hart) (k : Nat) : (h.zeroTile k).poison = h.poison := rfl
@[simp] theorem hart_zeroTile_arriving (h : Hart) (k : Nat) : (h.zeroTile k).arriving = h.arriving := rfl
@[simp] theorem hart_zeroTile_packets (h : Hart) (k : Nat) : (h.zeroTile k).packets = h.packets := rfl
@[simp] theorem hart_zeroTile_run (h : Hart) (k : Nat) : (h.zeroTile k).run = h.run := rfl
@[simp] theorem hart_zeroTile_held (h : Hart) (k : Nat) : (h.zeroTile k).held = h.held := rfl
@[simp] theorem hart_zeroTile_fenceS (h : Hart) (k : Nat) : (h.zeroTile k).fenceS = h.fenceS := rfl
@[simp] theorem hart_zeroTile_fenceV (h : Hart) (k : Nat) : (h.zeroTile k).fenceV = h.fenceV := rfl
@[simp] theorem hart_zeroTile_lantern (h : Hart) (k : Nat) : (h.zeroTile k).lantern = h.lantern := rfl

/-! ### Hart.setGranule -/

@[simp] theorem hart_setGranule_ids (h : Hart) (g : Nat) (x : Granule) : (h.setGranule g x).ids = h.ids := rfl
@[simp] theorem hart_setGranule_regs (h : Hart) (g : Nat) (x : Granule) : (h.setGranule g x).regs = h.regs := rfl
@[simp] theorem hart_setGranule_fcsr (h : Hart) (g : Nat) (x : Granule) : (h.setGranule g x).fcsr = h.fcsr := rfl
@[simp] theorem hart_setGranule_priv (h : Hart) (g : Nat) (x : Granule) : (h.setGranule g x).priv = h.priv := rfl
@[simp] theorem hart_setGranule_trap (h : Hart) (g : Nat) (x : Granule) : (h.setGranule g x).trap = h.trap := rfl
@[simp] theorem hart_setGranule_lslip (h : Hart) (g : Nat) (x : Granule) : (h.setGranule g x).lslip = h.lslip := rfl
@[simp] theorem hart_setGranule_zdirty (h : Hart) (g : Nat) (x : Granule) : (h.setGranule g x).zdirty = h.zdirty := rfl
@[simp] theorem hart_setGranule_cycle (h : Hart) (g : Nat) (x : Granule) : (h.setGranule g x).cycle = h.cycle := rfl
@[simp] theorem hart_setGranule_instret (h : Hart) (g : Nat) (x : Granule) : (h.setGranule g x).instret = h.instret := rfl
@[simp] theorem hart_setGranule_rdisc (h : Hart) (g : Nat) (x : Granule) : (h.setGranule g x).rdisc = h.rdisc := rfl
@[simp] theorem hart_setGranule_perf (h : Hart) (g : Nat) (x : Granule) : (h.setGranule g x).perf = h.perf := rfl
@[simp] theorem hart_setGranule_tiles (h : Hart) (g : Nat) (x : Granule) : (h.setGranule g x).tiles = h.tiles := rfl
@[simp] theorem hart_setGranule_live (h : Hart) (g : Nat) (x : Granule) : (h.setGranule g x).live = h.live := rfl
@[simp] theorem hart_setGranule_shadow (h : Hart) (g : Nat) (x : Granule) : (h.setGranule g x).shadow = h.shadow := rfl
@[simp] theorem hart_setGranule_defer (h : Hart) (g : Nat) (x : Granule) : (h.setGranule g x).defer = h.defer := rfl
@[simp] theorem hart_setGranule_scratch (h : Hart) (g : Nat) (x : Granule) : (h.setGranule g x).scratch = h.scratch := rfl
@[simp] theorem hart_setGranule_scratchPoison (h : Hart) (g : Nat) (x : Granule) : (h.setGranule g x).scratchPoison = h.scratchPoison := rfl
@[simp] theorem hart_setGranule_watch (h : Hart) (g : Nat) (x : Granule) : (h.setGranule g x).watch = h.watch := rfl
@[simp] theorem hart_setGranule_poison (h : Hart) (g : Nat) (x : Granule) : (h.setGranule g x).poison = h.poison := rfl
@[simp] theorem hart_setGranule_arriving (h : Hart) (g : Nat) (x : Granule) : (h.setGranule g x).arriving = h.arriving := rfl
@[simp] theorem hart_setGranule_packets (h : Hart) (g : Nat) (x : Granule) : (h.setGranule g x).packets = h.packets := rfl
@[simp] theorem hart_setGranule_run (h : Hart) (g : Nat) (x : Granule) : (h.setGranule g x).run = h.run := rfl
@[simp] theorem hart_setGranule_held (h : Hart) (g : Nat) (x : Granule) : (h.setGranule g x).held = h.held := rfl
@[simp] theorem hart_setGranule_fenceS (h : Hart) (g : Nat) (x : Granule) : (h.setGranule g x).fenceS = h.fenceS := rfl
@[simp] theorem hart_setGranule_fenceV (h : Hart) (g : Nat) (x : Granule) : (h.setGranule g x).fenceV = h.fenceV := rfl
@[simp] theorem hart_setGranule_lantern (h : Hart) (g : Nat) (x : Granule) : (h.setGranule g x).lantern = h.lantern := rfl

/-! ### clearPoison, and the writes that clear poison -/

@[simp] theorem clearPoison_ids (h : Hart) (p : RegLoc → Bool) : (clearPoison h p).ids = h.ids := by unfold clearPoison; split <;> rfl
@[simp] theorem clearPoison_regs (h : Hart) (p : RegLoc → Bool) : (clearPoison h p).regs = h.regs := by unfold clearPoison; split <;> rfl
@[simp] theorem clearPoison_fcsr (h : Hart) (p : RegLoc → Bool) : (clearPoison h p).fcsr = h.fcsr := by unfold clearPoison; split <;> rfl
@[simp] theorem clearPoison_priv (h : Hart) (p : RegLoc → Bool) : (clearPoison h p).priv = h.priv := by unfold clearPoison; split <;> rfl
@[simp] theorem clearPoison_trap (h : Hart) (p : RegLoc → Bool) : (clearPoison h p).trap = h.trap := by unfold clearPoison; split <;> rfl
@[simp] theorem clearPoison_lslip (h : Hart) (p : RegLoc → Bool) : (clearPoison h p).lslip = h.lslip := by unfold clearPoison; split <;> rfl
@[simp] theorem clearPoison_zdirty (h : Hart) (p : RegLoc → Bool) : (clearPoison h p).zdirty = h.zdirty := by unfold clearPoison; split <;> rfl
@[simp] theorem clearPoison_cycle (h : Hart) (p : RegLoc → Bool) : (clearPoison h p).cycle = h.cycle := by unfold clearPoison; split <;> rfl
@[simp] theorem clearPoison_instret (h : Hart) (p : RegLoc → Bool) : (clearPoison h p).instret = h.instret := by unfold clearPoison; split <;> rfl
@[simp] theorem clearPoison_rdisc (h : Hart) (p : RegLoc → Bool) : (clearPoison h p).rdisc = h.rdisc := by unfold clearPoison; split <;> rfl
@[simp] theorem clearPoison_perf (h : Hart) (p : RegLoc → Bool) : (clearPoison h p).perf = h.perf := by unfold clearPoison; split <;> rfl
@[simp] theorem clearPoison_tiles (h : Hart) (p : RegLoc → Bool) : (clearPoison h p).tiles = h.tiles := by unfold clearPoison; split <;> rfl
@[simp] theorem clearPoison_live (h : Hart) (p : RegLoc → Bool) : (clearPoison h p).live = h.live := by unfold clearPoison; split <;> rfl
@[simp] theorem clearPoison_shadow (h : Hart) (p : RegLoc → Bool) : (clearPoison h p).shadow = h.shadow := by unfold clearPoison; split <;> rfl
@[simp] theorem clearPoison_defer (h : Hart) (p : RegLoc → Bool) : (clearPoison h p).defer = h.defer := by unfold clearPoison; split <;> rfl
@[simp] theorem clearPoison_scratch (h : Hart) (p : RegLoc → Bool) : (clearPoison h p).scratch = h.scratch := by unfold clearPoison; split <;> rfl
@[simp] theorem clearPoison_scratchPoison (h : Hart) (p : RegLoc → Bool) : (clearPoison h p).scratchPoison = h.scratchPoison := by unfold clearPoison; split <;> rfl
@[simp] theorem clearPoison_granules (h : Hart) (p : RegLoc → Bool) : (clearPoison h p).granules = h.granules := by unfold clearPoison; split <;> rfl
@[simp] theorem clearPoison_watch (h : Hart) (p : RegLoc → Bool) : (clearPoison h p).watch = h.watch := by unfold clearPoison; split <;> rfl
@[simp] theorem clearPoison_arriving (h : Hart) (p : RegLoc → Bool) : (clearPoison h p).arriving = h.arriving := by unfold clearPoison; split <;> rfl
@[simp] theorem clearPoison_packets (h : Hart) (p : RegLoc → Bool) : (clearPoison h p).packets = h.packets := by unfold clearPoison; split <;> rfl
@[simp] theorem clearPoison_run (h : Hart) (p : RegLoc → Bool) : (clearPoison h p).run = h.run := by unfold clearPoison; split <;> rfl
@[simp] theorem clearPoison_held (h : Hart) (p : RegLoc → Bool) : (clearPoison h p).held = h.held := by unfold clearPoison; split <;> rfl
@[simp] theorem clearPoison_fenceS (h : Hart) (p : RegLoc → Bool) : (clearPoison h p).fenceS = h.fenceS := by unfold clearPoison; split <;> rfl
@[simp] theorem clearPoison_fenceV (h : Hart) (p : RegLoc → Bool) : (clearPoison h p).fenceV = h.fenceV := by unfold clearPoison; split <;> rfl
@[simp] theorem clearPoison_lantern (h : Hart) (p : RegLoc → Bool) : (clearPoison h p).lantern = h.lantern := by unfold clearPoison; split <;> rfl

theorem clearPoison_clean {h : Hart} (hp : h.poison = []) (p : RegLoc → Bool) : clearPoison h p = h := by
  unfold clearPoison
  rw [hp]

/-! ### Hart.setVstart -/

@[simp] theorem hart_setVstart_ids (h : Hart) (n : Nat) : (h.setVstart n).ids = h.ids := by simp [Hart.setVstart]
@[simp] theorem hart_setVstart_fcsr (h : Hart) (n : Nat) : (h.setVstart n).fcsr = h.fcsr := by simp [Hart.setVstart]
@[simp] theorem hart_setVstart_priv (h : Hart) (n : Nat) : (h.setVstart n).priv = h.priv := by simp [Hart.setVstart]
@[simp] theorem hart_setVstart_trap (h : Hart) (n : Nat) : (h.setVstart n).trap = h.trap := by simp [Hart.setVstart]
@[simp] theorem hart_setVstart_lslip (h : Hart) (n : Nat) : (h.setVstart n).lslip = h.lslip := by simp [Hart.setVstart]
@[simp] theorem hart_setVstart_zdirty (h : Hart) (n : Nat) : (h.setVstart n).zdirty = h.zdirty := by simp [Hart.setVstart]
@[simp] theorem hart_setVstart_cycle (h : Hart) (n : Nat) : (h.setVstart n).cycle = h.cycle := by simp [Hart.setVstart]
@[simp] theorem hart_setVstart_instret (h : Hart) (n : Nat) : (h.setVstart n).instret = h.instret := by simp [Hart.setVstart]
@[simp] theorem hart_setVstart_rdisc (h : Hart) (n : Nat) : (h.setVstart n).rdisc = h.rdisc := by simp [Hart.setVstart]
@[simp] theorem hart_setVstart_perf (h : Hart) (n : Nat) : (h.setVstart n).perf = h.perf := by simp [Hart.setVstart]
@[simp] theorem hart_setVstart_tiles (h : Hart) (n : Nat) : (h.setVstart n).tiles = h.tiles := by simp [Hart.setVstart]
@[simp] theorem hart_setVstart_live (h : Hart) (n : Nat) : (h.setVstart n).live = h.live := by simp [Hart.setVstart]
@[simp] theorem hart_setVstart_shadow (h : Hart) (n : Nat) : (h.setVstart n).shadow = h.shadow := by simp [Hart.setVstart]
@[simp] theorem hart_setVstart_defer (h : Hart) (n : Nat) : (h.setVstart n).defer = h.defer := by simp [Hart.setVstart]
@[simp] theorem hart_setVstart_scratch (h : Hart) (n : Nat) : (h.setVstart n).scratch = h.scratch := by simp [Hart.setVstart]
@[simp] theorem hart_setVstart_scratchPoison (h : Hart) (n : Nat) : (h.setVstart n).scratchPoison = h.scratchPoison := by simp [Hart.setVstart]
@[simp] theorem hart_setVstart_granules (h : Hart) (n : Nat) : (h.setVstart n).granules = h.granules := by simp [Hart.setVstart]
@[simp] theorem hart_setVstart_watch (h : Hart) (n : Nat) : (h.setVstart n).watch = h.watch := by simp [Hart.setVstart]
@[simp] theorem hart_setVstart_arriving (h : Hart) (n : Nat) : (h.setVstart n).arriving = h.arriving := by simp [Hart.setVstart]
@[simp] theorem hart_setVstart_packets (h : Hart) (n : Nat) : (h.setVstart n).packets = h.packets := by simp [Hart.setVstart]
@[simp] theorem hart_setVstart_run (h : Hart) (n : Nat) : (h.setVstart n).run = h.run := by simp [Hart.setVstart]
@[simp] theorem hart_setVstart_held (h : Hart) (n : Nat) : (h.setVstart n).held = h.held := by simp [Hart.setVstart]
@[simp] theorem hart_setVstart_fenceS (h : Hart) (n : Nat) : (h.setVstart n).fenceS = h.fenceS := by simp [Hart.setVstart]
@[simp] theorem hart_setVstart_fenceV (h : Hart) (n : Nat) : (h.setVstart n).fenceV = h.fenceV := by simp [Hart.setVstart]
@[simp] theorem hart_setVstart_lantern (h : Hart) (n : Nat) : (h.setVstart n).lantern = h.lantern := by simp [Hart.setVstart]

/-! ### Hart.setVl -/

@[simp] theorem hart_setVl_ids (h : Hart) (n : Nat) : (h.setVl n).ids = h.ids := by simp [Hart.setVl]
@[simp] theorem hart_setVl_fcsr (h : Hart) (n : Nat) : (h.setVl n).fcsr = h.fcsr := by simp [Hart.setVl]
@[simp] theorem hart_setVl_priv (h : Hart) (n : Nat) : (h.setVl n).priv = h.priv := by simp [Hart.setVl]
@[simp] theorem hart_setVl_trap (h : Hart) (n : Nat) : (h.setVl n).trap = h.trap := by simp [Hart.setVl]
@[simp] theorem hart_setVl_lslip (h : Hart) (n : Nat) : (h.setVl n).lslip = h.lslip := by simp [Hart.setVl]
@[simp] theorem hart_setVl_zdirty (h : Hart) (n : Nat) : (h.setVl n).zdirty = h.zdirty := by simp [Hart.setVl]
@[simp] theorem hart_setVl_cycle (h : Hart) (n : Nat) : (h.setVl n).cycle = h.cycle := by simp [Hart.setVl]
@[simp] theorem hart_setVl_instret (h : Hart) (n : Nat) : (h.setVl n).instret = h.instret := by simp [Hart.setVl]
@[simp] theorem hart_setVl_rdisc (h : Hart) (n : Nat) : (h.setVl n).rdisc = h.rdisc := by simp [Hart.setVl]
@[simp] theorem hart_setVl_perf (h : Hart) (n : Nat) : (h.setVl n).perf = h.perf := by simp [Hart.setVl]
@[simp] theorem hart_setVl_tiles (h : Hart) (n : Nat) : (h.setVl n).tiles = h.tiles := by simp [Hart.setVl]
@[simp] theorem hart_setVl_live (h : Hart) (n : Nat) : (h.setVl n).live = h.live := by simp [Hart.setVl]
@[simp] theorem hart_setVl_shadow (h : Hart) (n : Nat) : (h.setVl n).shadow = h.shadow := by simp [Hart.setVl]
@[simp] theorem hart_setVl_defer (h : Hart) (n : Nat) : (h.setVl n).defer = h.defer := by simp [Hart.setVl]
@[simp] theorem hart_setVl_scratch (h : Hart) (n : Nat) : (h.setVl n).scratch = h.scratch := by simp [Hart.setVl]
@[simp] theorem hart_setVl_scratchPoison (h : Hart) (n : Nat) : (h.setVl n).scratchPoison = h.scratchPoison := by simp [Hart.setVl]
@[simp] theorem hart_setVl_granules (h : Hart) (n : Nat) : (h.setVl n).granules = h.granules := by simp [Hart.setVl]
@[simp] theorem hart_setVl_watch (h : Hart) (n : Nat) : (h.setVl n).watch = h.watch := by simp [Hart.setVl]
@[simp] theorem hart_setVl_arriving (h : Hart) (n : Nat) : (h.setVl n).arriving = h.arriving := by simp [Hart.setVl]
@[simp] theorem hart_setVl_packets (h : Hart) (n : Nat) : (h.setVl n).packets = h.packets := by simp [Hart.setVl]
@[simp] theorem hart_setVl_run (h : Hart) (n : Nat) : (h.setVl n).run = h.run := by simp [Hart.setVl]
@[simp] theorem hart_setVl_held (h : Hart) (n : Nat) : (h.setVl n).held = h.held := by simp [Hart.setVl]
@[simp] theorem hart_setVl_fenceS (h : Hart) (n : Nat) : (h.setVl n).fenceS = h.fenceS := by simp [Hart.setVl]
@[simp] theorem hart_setVl_fenceV (h : Hart) (n : Nat) : (h.setVl n).fenceV = h.fenceV := by simp [Hart.setVl]
@[simp] theorem hart_setVl_lantern (h : Hart) (n : Nat) : (h.setVl n).lantern = h.lantern := by simp [Hart.setVl]

/-! ### Hart.setP -/

@[simp] theorem hart_setP_ids (h : Hart) (i : PIdx) (b : Bool) : (h.setP i b).ids = h.ids := by simp [Hart.setP]
@[simp] theorem hart_setP_fcsr (h : Hart) (i : PIdx) (b : Bool) : (h.setP i b).fcsr = h.fcsr := by simp [Hart.setP]
@[simp] theorem hart_setP_priv (h : Hart) (i : PIdx) (b : Bool) : (h.setP i b).priv = h.priv := by simp [Hart.setP]
@[simp] theorem hart_setP_trap (h : Hart) (i : PIdx) (b : Bool) : (h.setP i b).trap = h.trap := by simp [Hart.setP]
@[simp] theorem hart_setP_lslip (h : Hart) (i : PIdx) (b : Bool) : (h.setP i b).lslip = h.lslip := by simp [Hart.setP]
@[simp] theorem hart_setP_zdirty (h : Hart) (i : PIdx) (b : Bool) : (h.setP i b).zdirty = h.zdirty := by simp [Hart.setP]
@[simp] theorem hart_setP_cycle (h : Hart) (i : PIdx) (b : Bool) : (h.setP i b).cycle = h.cycle := by simp [Hart.setP]
@[simp] theorem hart_setP_instret (h : Hart) (i : PIdx) (b : Bool) : (h.setP i b).instret = h.instret := by simp [Hart.setP]
@[simp] theorem hart_setP_rdisc (h : Hart) (i : PIdx) (b : Bool) : (h.setP i b).rdisc = h.rdisc := by simp [Hart.setP]
@[simp] theorem hart_setP_perf (h : Hart) (i : PIdx) (b : Bool) : (h.setP i b).perf = h.perf := by simp [Hart.setP]
@[simp] theorem hart_setP_tiles (h : Hart) (i : PIdx) (b : Bool) : (h.setP i b).tiles = h.tiles := by simp [Hart.setP]
@[simp] theorem hart_setP_live (h : Hart) (i : PIdx) (b : Bool) : (h.setP i b).live = h.live := by simp [Hart.setP]
@[simp] theorem hart_setP_shadow (h : Hart) (i : PIdx) (b : Bool) : (h.setP i b).shadow = h.shadow := by simp [Hart.setP]
@[simp] theorem hart_setP_defer (h : Hart) (i : PIdx) (b : Bool) : (h.setP i b).defer = h.defer := by simp [Hart.setP]
@[simp] theorem hart_setP_scratch (h : Hart) (i : PIdx) (b : Bool) : (h.setP i b).scratch = h.scratch := by simp [Hart.setP]
@[simp] theorem hart_setP_scratchPoison (h : Hart) (i : PIdx) (b : Bool) : (h.setP i b).scratchPoison = h.scratchPoison := by simp [Hart.setP]
@[simp] theorem hart_setP_granules (h : Hart) (i : PIdx) (b : Bool) : (h.setP i b).granules = h.granules := by simp [Hart.setP]
@[simp] theorem hart_setP_watch (h : Hart) (i : PIdx) (b : Bool) : (h.setP i b).watch = h.watch := by simp [Hart.setP]
@[simp] theorem hart_setP_arriving (h : Hart) (i : PIdx) (b : Bool) : (h.setP i b).arriving = h.arriving := by simp [Hart.setP]
@[simp] theorem hart_setP_packets (h : Hart) (i : PIdx) (b : Bool) : (h.setP i b).packets = h.packets := by simp [Hart.setP]
@[simp] theorem hart_setP_run (h : Hart) (i : PIdx) (b : Bool) : (h.setP i b).run = h.run := by simp [Hart.setP]
@[simp] theorem hart_setP_held (h : Hart) (i : PIdx) (b : Bool) : (h.setP i b).held = h.held := by simp [Hart.setP]
@[simp] theorem hart_setP_fenceS (h : Hart) (i : PIdx) (b : Bool) : (h.setP i b).fenceS = h.fenceS := by simp [Hart.setP]
@[simp] theorem hart_setP_fenceV (h : Hart) (i : PIdx) (b : Bool) : (h.setP i b).fenceV = h.fenceV := by simp [Hart.setP]
@[simp] theorem hart_setP_lantern (h : Hart) (i : PIdx) (b : Bool) : (h.setP i b).lantern = h.lantern := by simp [Hart.setP]

/-! ### Hart.setS -/

@[simp] theorem hart_setS_ids (h : Hart) (i : SIdx) (x : Word) : (h.setS i x).ids = h.ids := by simp [Hart.setS]
@[simp] theorem hart_setS_fcsr (h : Hart) (i : SIdx) (x : Word) : (h.setS i x).fcsr = h.fcsr := by simp [Hart.setS]
@[simp] theorem hart_setS_priv (h : Hart) (i : SIdx) (x : Word) : (h.setS i x).priv = h.priv := by simp [Hart.setS]
@[simp] theorem hart_setS_trap (h : Hart) (i : SIdx) (x : Word) : (h.setS i x).trap = h.trap := by simp [Hart.setS]
@[simp] theorem hart_setS_lslip (h : Hart) (i : SIdx) (x : Word) : (h.setS i x).lslip = h.lslip := by simp [Hart.setS]
@[simp] theorem hart_setS_zdirty (h : Hart) (i : SIdx) (x : Word) : (h.setS i x).zdirty = h.zdirty := by simp [Hart.setS]
@[simp] theorem hart_setS_cycle (h : Hart) (i : SIdx) (x : Word) : (h.setS i x).cycle = h.cycle := by simp [Hart.setS]
@[simp] theorem hart_setS_instret (h : Hart) (i : SIdx) (x : Word) : (h.setS i x).instret = h.instret := by simp [Hart.setS]
@[simp] theorem hart_setS_rdisc (h : Hart) (i : SIdx) (x : Word) : (h.setS i x).rdisc = h.rdisc := by simp [Hart.setS]
@[simp] theorem hart_setS_perf (h : Hart) (i : SIdx) (x : Word) : (h.setS i x).perf = h.perf := by simp [Hart.setS]
@[simp] theorem hart_setS_tiles (h : Hart) (i : SIdx) (x : Word) : (h.setS i x).tiles = h.tiles := by simp [Hart.setS]
@[simp] theorem hart_setS_live (h : Hart) (i : SIdx) (x : Word) : (h.setS i x).live = h.live := by simp [Hart.setS]
@[simp] theorem hart_setS_shadow (h : Hart) (i : SIdx) (x : Word) : (h.setS i x).shadow = h.shadow := by simp [Hart.setS]
@[simp] theorem hart_setS_defer (h : Hart) (i : SIdx) (x : Word) : (h.setS i x).defer = h.defer := by simp [Hart.setS]
@[simp] theorem hart_setS_scratch (h : Hart) (i : SIdx) (x : Word) : (h.setS i x).scratch = h.scratch := by simp [Hart.setS]
@[simp] theorem hart_setS_scratchPoison (h : Hart) (i : SIdx) (x : Word) : (h.setS i x).scratchPoison = h.scratchPoison := by simp [Hart.setS]
@[simp] theorem hart_setS_granules (h : Hart) (i : SIdx) (x : Word) : (h.setS i x).granules = h.granules := by simp [Hart.setS]
@[simp] theorem hart_setS_watch (h : Hart) (i : SIdx) (x : Word) : (h.setS i x).watch = h.watch := by simp [Hart.setS]
@[simp] theorem hart_setS_arriving (h : Hart) (i : SIdx) (x : Word) : (h.setS i x).arriving = h.arriving := by simp [Hart.setS]
@[simp] theorem hart_setS_packets (h : Hart) (i : SIdx) (x : Word) : (h.setS i x).packets = h.packets := by simp [Hart.setS]
@[simp] theorem hart_setS_run (h : Hart) (i : SIdx) (x : Word) : (h.setS i x).run = h.run := by simp [Hart.setS]
@[simp] theorem hart_setS_held (h : Hart) (i : SIdx) (x : Word) : (h.setS i x).held = h.held := by simp [Hart.setS]
@[simp] theorem hart_setS_fenceS (h : Hart) (i : SIdx) (x : Word) : (h.setS i x).fenceS = h.fenceS := by simp [Hart.setS]
@[simp] theorem hart_setS_fenceV (h : Hart) (i : SIdx) (x : Word) : (h.setS i x).fenceV = h.fenceV := by simp [Hart.setS]
@[simp] theorem hart_setS_lantern (h : Hart) (i : SIdx) (x : Word) : (h.setS i x).lantern = h.lantern := by simp [Hart.setS]

/-! ### Hart.setM -/

@[simp] theorem hart_setM_ids (h : Hart) (i : MIdx) (x : MReg) : (h.setM i x).ids = h.ids := by simp [Hart.setM]
@[simp] theorem hart_setM_fcsr (h : Hart) (i : MIdx) (x : MReg) : (h.setM i x).fcsr = h.fcsr := by simp [Hart.setM]
@[simp] theorem hart_setM_priv (h : Hart) (i : MIdx) (x : MReg) : (h.setM i x).priv = h.priv := by simp [Hart.setM]
@[simp] theorem hart_setM_trap (h : Hart) (i : MIdx) (x : MReg) : (h.setM i x).trap = h.trap := by simp [Hart.setM]
@[simp] theorem hart_setM_lslip (h : Hart) (i : MIdx) (x : MReg) : (h.setM i x).lslip = h.lslip := by simp [Hart.setM]
@[simp] theorem hart_setM_zdirty (h : Hart) (i : MIdx) (x : MReg) : (h.setM i x).zdirty = h.zdirty := by simp [Hart.setM]
@[simp] theorem hart_setM_cycle (h : Hart) (i : MIdx) (x : MReg) : (h.setM i x).cycle = h.cycle := by simp [Hart.setM]
@[simp] theorem hart_setM_instret (h : Hart) (i : MIdx) (x : MReg) : (h.setM i x).instret = h.instret := by simp [Hart.setM]
@[simp] theorem hart_setM_rdisc (h : Hart) (i : MIdx) (x : MReg) : (h.setM i x).rdisc = h.rdisc := by simp [Hart.setM]
@[simp] theorem hart_setM_perf (h : Hart) (i : MIdx) (x : MReg) : (h.setM i x).perf = h.perf := by simp [Hart.setM]
@[simp] theorem hart_setM_tiles (h : Hart) (i : MIdx) (x : MReg) : (h.setM i x).tiles = h.tiles := by simp [Hart.setM]
@[simp] theorem hart_setM_live (h : Hart) (i : MIdx) (x : MReg) : (h.setM i x).live = h.live := by simp [Hart.setM]
@[simp] theorem hart_setM_shadow (h : Hart) (i : MIdx) (x : MReg) : (h.setM i x).shadow = h.shadow := by simp [Hart.setM]
@[simp] theorem hart_setM_defer (h : Hart) (i : MIdx) (x : MReg) : (h.setM i x).defer = h.defer := by simp [Hart.setM]
@[simp] theorem hart_setM_scratch (h : Hart) (i : MIdx) (x : MReg) : (h.setM i x).scratch = h.scratch := by simp [Hart.setM]
@[simp] theorem hart_setM_scratchPoison (h : Hart) (i : MIdx) (x : MReg) : (h.setM i x).scratchPoison = h.scratchPoison := by simp [Hart.setM]
@[simp] theorem hart_setM_granules (h : Hart) (i : MIdx) (x : MReg) : (h.setM i x).granules = h.granules := by simp [Hart.setM]
@[simp] theorem hart_setM_watch (h : Hart) (i : MIdx) (x : MReg) : (h.setM i x).watch = h.watch := by simp [Hart.setM]
@[simp] theorem hart_setM_arriving (h : Hart) (i : MIdx) (x : MReg) : (h.setM i x).arriving = h.arriving := by simp [Hart.setM]
@[simp] theorem hart_setM_packets (h : Hart) (i : MIdx) (x : MReg) : (h.setM i x).packets = h.packets := by simp [Hart.setM]
@[simp] theorem hart_setM_run (h : Hart) (i : MIdx) (x : MReg) : (h.setM i x).run = h.run := by simp [Hart.setM]
@[simp] theorem hart_setM_held (h : Hart) (i : MIdx) (x : MReg) : (h.setM i x).held = h.held := by simp [Hart.setM]
@[simp] theorem hart_setM_fenceS (h : Hart) (i : MIdx) (x : MReg) : (h.setM i x).fenceS = h.fenceS := by simp [Hart.setM]
@[simp] theorem hart_setM_fenceV (h : Hart) (i : MIdx) (x : MReg) : (h.setM i x).fenceV = h.fenceV := by simp [Hart.setM]
@[simp] theorem hart_setM_lantern (h : Hart) (i : MIdx) (x : MReg) : (h.setM i x).lantern = h.lantern := by simp [Hart.setM]

/-! ### Hart.setQ -/

@[simp] theorem hart_setQ_ids (h : Hart) (i : QIdx) (x : Stream) : (h.setQ i x).ids = h.ids := by simp [Hart.setQ]
@[simp] theorem hart_setQ_fcsr (h : Hart) (i : QIdx) (x : Stream) : (h.setQ i x).fcsr = h.fcsr := by simp [Hart.setQ]
@[simp] theorem hart_setQ_priv (h : Hart) (i : QIdx) (x : Stream) : (h.setQ i x).priv = h.priv := by simp [Hart.setQ]
@[simp] theorem hart_setQ_trap (h : Hart) (i : QIdx) (x : Stream) : (h.setQ i x).trap = h.trap := by simp [Hart.setQ]
@[simp] theorem hart_setQ_lslip (h : Hart) (i : QIdx) (x : Stream) : (h.setQ i x).lslip = h.lslip := by simp [Hart.setQ]
@[simp] theorem hart_setQ_zdirty (h : Hart) (i : QIdx) (x : Stream) : (h.setQ i x).zdirty = h.zdirty := by simp [Hart.setQ]
@[simp] theorem hart_setQ_cycle (h : Hart) (i : QIdx) (x : Stream) : (h.setQ i x).cycle = h.cycle := by simp [Hart.setQ]
@[simp] theorem hart_setQ_instret (h : Hart) (i : QIdx) (x : Stream) : (h.setQ i x).instret = h.instret := by simp [Hart.setQ]
@[simp] theorem hart_setQ_rdisc (h : Hart) (i : QIdx) (x : Stream) : (h.setQ i x).rdisc = h.rdisc := by simp [Hart.setQ]
@[simp] theorem hart_setQ_perf (h : Hart) (i : QIdx) (x : Stream) : (h.setQ i x).perf = h.perf := by simp [Hart.setQ]
@[simp] theorem hart_setQ_tiles (h : Hart) (i : QIdx) (x : Stream) : (h.setQ i x).tiles = h.tiles := by simp [Hart.setQ]
@[simp] theorem hart_setQ_live (h : Hart) (i : QIdx) (x : Stream) : (h.setQ i x).live = h.live := by simp [Hart.setQ]
@[simp] theorem hart_setQ_shadow (h : Hart) (i : QIdx) (x : Stream) : (h.setQ i x).shadow = h.shadow := by simp [Hart.setQ]
@[simp] theorem hart_setQ_defer (h : Hart) (i : QIdx) (x : Stream) : (h.setQ i x).defer = h.defer := by simp [Hart.setQ]
@[simp] theorem hart_setQ_scratch (h : Hart) (i : QIdx) (x : Stream) : (h.setQ i x).scratch = h.scratch := by simp [Hart.setQ]
@[simp] theorem hart_setQ_scratchPoison (h : Hart) (i : QIdx) (x : Stream) : (h.setQ i x).scratchPoison = h.scratchPoison := by simp [Hart.setQ]
@[simp] theorem hart_setQ_granules (h : Hart) (i : QIdx) (x : Stream) : (h.setQ i x).granules = h.granules := by simp [Hart.setQ]
@[simp] theorem hart_setQ_watch (h : Hart) (i : QIdx) (x : Stream) : (h.setQ i x).watch = h.watch := by simp [Hart.setQ]
@[simp] theorem hart_setQ_arriving (h : Hart) (i : QIdx) (x : Stream) : (h.setQ i x).arriving = h.arriving := by simp [Hart.setQ]
@[simp] theorem hart_setQ_packets (h : Hart) (i : QIdx) (x : Stream) : (h.setQ i x).packets = h.packets := by simp [Hart.setQ]
@[simp] theorem hart_setQ_run (h : Hart) (i : QIdx) (x : Stream) : (h.setQ i x).run = h.run := by simp [Hart.setQ]
@[simp] theorem hart_setQ_held (h : Hart) (i : QIdx) (x : Stream) : (h.setQ i x).held = h.held := by simp [Hart.setQ]
@[simp] theorem hart_setQ_fenceS (h : Hart) (i : QIdx) (x : Stream) : (h.setQ i x).fenceS = h.fenceS := by simp [Hart.setQ]
@[simp] theorem hart_setQ_fenceV (h : Hart) (i : QIdx) (x : Stream) : (h.setQ i x).fenceV = h.fenceV := by simp [Hart.setQ]
@[simp] theorem hart_setQ_lantern (h : Hart) (i : QIdx) (x : Stream) : (h.setQ i x).lantern = h.lantern := by simp [Hart.setQ]

/-! ### Hart.setE -/

@[simp] theorem hart_setE_ids (h : Hart) (i : EIdx) (x : Cursor) : (h.setE i x).ids = h.ids := by simp [Hart.setE]
@[simp] theorem hart_setE_fcsr (h : Hart) (i : EIdx) (x : Cursor) : (h.setE i x).fcsr = h.fcsr := by simp [Hart.setE]
@[simp] theorem hart_setE_priv (h : Hart) (i : EIdx) (x : Cursor) : (h.setE i x).priv = h.priv := by simp [Hart.setE]
@[simp] theorem hart_setE_trap (h : Hart) (i : EIdx) (x : Cursor) : (h.setE i x).trap = h.trap := by simp [Hart.setE]
@[simp] theorem hart_setE_lslip (h : Hart) (i : EIdx) (x : Cursor) : (h.setE i x).lslip = h.lslip := by simp [Hart.setE]
@[simp] theorem hart_setE_zdirty (h : Hart) (i : EIdx) (x : Cursor) : (h.setE i x).zdirty = h.zdirty := by simp [Hart.setE]
@[simp] theorem hart_setE_cycle (h : Hart) (i : EIdx) (x : Cursor) : (h.setE i x).cycle = h.cycle := by simp [Hart.setE]
@[simp] theorem hart_setE_instret (h : Hart) (i : EIdx) (x : Cursor) : (h.setE i x).instret = h.instret := by simp [Hart.setE]
@[simp] theorem hart_setE_rdisc (h : Hart) (i : EIdx) (x : Cursor) : (h.setE i x).rdisc = h.rdisc := by simp [Hart.setE]
@[simp] theorem hart_setE_perf (h : Hart) (i : EIdx) (x : Cursor) : (h.setE i x).perf = h.perf := by simp [Hart.setE]
@[simp] theorem hart_setE_tiles (h : Hart) (i : EIdx) (x : Cursor) : (h.setE i x).tiles = h.tiles := by simp [Hart.setE]
@[simp] theorem hart_setE_live (h : Hart) (i : EIdx) (x : Cursor) : (h.setE i x).live = h.live := by simp [Hart.setE]
@[simp] theorem hart_setE_shadow (h : Hart) (i : EIdx) (x : Cursor) : (h.setE i x).shadow = h.shadow := by simp [Hart.setE]
@[simp] theorem hart_setE_defer (h : Hart) (i : EIdx) (x : Cursor) : (h.setE i x).defer = h.defer := by simp [Hart.setE]
@[simp] theorem hart_setE_scratch (h : Hart) (i : EIdx) (x : Cursor) : (h.setE i x).scratch = h.scratch := by simp [Hart.setE]
@[simp] theorem hart_setE_scratchPoison (h : Hart) (i : EIdx) (x : Cursor) : (h.setE i x).scratchPoison = h.scratchPoison := by simp [Hart.setE]
@[simp] theorem hart_setE_granules (h : Hart) (i : EIdx) (x : Cursor) : (h.setE i x).granules = h.granules := by simp [Hart.setE]
@[simp] theorem hart_setE_watch (h : Hart) (i : EIdx) (x : Cursor) : (h.setE i x).watch = h.watch := by simp [Hart.setE]
@[simp] theorem hart_setE_arriving (h : Hart) (i : EIdx) (x : Cursor) : (h.setE i x).arriving = h.arriving := by simp [Hart.setE]
@[simp] theorem hart_setE_packets (h : Hart) (i : EIdx) (x : Cursor) : (h.setE i x).packets = h.packets := by simp [Hart.setE]
@[simp] theorem hart_setE_run (h : Hart) (i : EIdx) (x : Cursor) : (h.setE i x).run = h.run := by simp [Hart.setE]
@[simp] theorem hart_setE_held (h : Hart) (i : EIdx) (x : Cursor) : (h.setE i x).held = h.held := by simp [Hart.setE]
@[simp] theorem hart_setE_fenceS (h : Hart) (i : EIdx) (x : Cursor) : (h.setE i x).fenceS = h.fenceS := by simp [Hart.setE]
@[simp] theorem hart_setE_fenceV (h : Hart) (i : EIdx) (x : Cursor) : (h.setE i x).fenceV = h.fenceV := by simp [Hart.setE]
@[simp] theorem hart_setE_lantern (h : Hart) (i : EIdx) (x : Cursor) : (h.setE i x).lantern = h.lantern := by simp [Hart.setE]

/-! ### Hart.setV -/

@[simp] theorem hart_setV_ids (h : Hart) (i : VIdx) (x : VReg) : (h.setV i x).ids = h.ids := rfl
@[simp] theorem hart_setV_fcsr (h : Hart) (i : VIdx) (x : VReg) : (h.setV i x).fcsr = h.fcsr := rfl
@[simp] theorem hart_setV_priv (h : Hart) (i : VIdx) (x : VReg) : (h.setV i x).priv = h.priv := rfl
@[simp] theorem hart_setV_trap (h : Hart) (i : VIdx) (x : VReg) : (h.setV i x).trap = h.trap := rfl
@[simp] theorem hart_setV_lslip (h : Hart) (i : VIdx) (x : VReg) : (h.setV i x).lslip = h.lslip := rfl
@[simp] theorem hart_setV_zdirty (h : Hart) (i : VIdx) (x : VReg) : (h.setV i x).zdirty = h.zdirty := rfl
@[simp] theorem hart_setV_cycle (h : Hart) (i : VIdx) (x : VReg) : (h.setV i x).cycle = h.cycle := rfl
@[simp] theorem hart_setV_instret (h : Hart) (i : VIdx) (x : VReg) : (h.setV i x).instret = h.instret := rfl
@[simp] theorem hart_setV_rdisc (h : Hart) (i : VIdx) (x : VReg) : (h.setV i x).rdisc = h.rdisc := rfl
@[simp] theorem hart_setV_perf (h : Hart) (i : VIdx) (x : VReg) : (h.setV i x).perf = h.perf := rfl
@[simp] theorem hart_setV_tiles (h : Hart) (i : VIdx) (x : VReg) : (h.setV i x).tiles = h.tiles := rfl
@[simp] theorem hart_setV_live (h : Hart) (i : VIdx) (x : VReg) : (h.setV i x).live = h.live := rfl
@[simp] theorem hart_setV_shadow (h : Hart) (i : VIdx) (x : VReg) : (h.setV i x).shadow = h.shadow := rfl
@[simp] theorem hart_setV_defer (h : Hart) (i : VIdx) (x : VReg) : (h.setV i x).defer = h.defer := rfl
@[simp] theorem hart_setV_scratch (h : Hart) (i : VIdx) (x : VReg) : (h.setV i x).scratch = h.scratch := rfl
@[simp] theorem hart_setV_scratchPoison (h : Hart) (i : VIdx) (x : VReg) : (h.setV i x).scratchPoison = h.scratchPoison := rfl
@[simp] theorem hart_setV_granules (h : Hart) (i : VIdx) (x : VReg) : (h.setV i x).granules = h.granules := rfl
@[simp] theorem hart_setV_watch (h : Hart) (i : VIdx) (x : VReg) : (h.setV i x).watch = h.watch := rfl
@[simp] theorem hart_setV_poison (h : Hart) (i : VIdx) (x : VReg) : (h.setV i x).poison = h.poison := rfl
@[simp] theorem hart_setV_packets (h : Hart) (i : VIdx) (x : VReg) : (h.setV i x).packets = h.packets := rfl
@[simp] theorem hart_setV_run (h : Hart) (i : VIdx) (x : VReg) : (h.setV i x).run = h.run := rfl
@[simp] theorem hart_setV_held (h : Hart) (i : VIdx) (x : VReg) : (h.setV i x).held = h.held := rfl
@[simp] theorem hart_setV_fenceS (h : Hart) (i : VIdx) (x : VReg) : (h.setV i x).fenceS = h.fenceS := rfl
@[simp] theorem hart_setV_fenceV (h : Hart) (i : VIdx) (x : VReg) : (h.setV i x).fenceV = h.fenceV := rfl
@[simp] theorem hart_setV_lantern (h : Hart) (i : VIdx) (x : VReg) : (h.setV i x).lantern = h.lantern := rfl

/-! ## Register files -/

@[simp] theorem hart_setVstart_regs (h : Hart) (n : Nat) : (h.setVstart n).regs = { h.regs with vstart := BitVec.ofNat 11 n } := by
  simp [Hart.setVstart]
@[simp] theorem vstart_setVstart (h : Hart) (n : Nat) : (h.setVstart n).vstart = n % 2048 := by simp [Hart.vstart]
@[simp] theorem getV_setVstart (h : Hart) (n : Nat) (v : VIdx) : (h.setVstart n).getV v = h.getV v := by simp [Hart.getV]
theorem setVstart_clean {h : Hart} (hp : h.poison = []) (n : Nat) :
    h.setVstart n = { h with regs := { h.regs with vstart := BitVec.ofNat 11 n } } :=
  clearPoison_clean (h := { h with regs := { h.regs with vstart := BitVec.ofNat 11 n } }) hp _
@[simp] theorem hart_setVl_regs (h : Hart) (n : Nat) : (h.setVl n).regs = { h.regs with vl := BitVec.ofNat 12 n } := by simp [Hart.setVl]

@[simp] theorem rget_rset_same {n : Nat} {α : Type} (f : RegFile n α) (i : BitVec n) (a : α) : rget (rset f i a) i = a := by
  simp [rget, rset]

theorem rget_rset_other {n : Nat} {α : Type} (f : RegFile n α) (i j : BitVec n) (a : α) (h : j ≠ i) :
    rget (rset f i a) j = rget f j := by
  have : i.toNat ≠ j.toNat := fun e => h (BitVec.eq_of_toNat_eq e.symm)
  simp [rget, rset, this]

/-- s0 discards a write; another scalar register holds what was written (R108). -/
theorem getS_setS_same (h : Hart) (i : SIdx) (x : Word) : (h.setS i x).getS i = if i = 0 then 0 else x := by
  by_cases hi : i = 0#6 <;> simp [Hart.getS, Hart.setS, Regs.getS, Regs.setS, hi]

theorem getS_setS_other (h : Hart) (i j : SIdx) (x : Word) (hj : j ≠ i) : (h.setS i x).getS j = h.getS j := by
  by_cases hi : i = 0#6
  · simp [Hart.getS, Hart.setS, Regs.getS, Regs.setS, hi]
  · simp [Hart.getS, Hart.setS, Regs.getS, Regs.setS, hi, rget_rset_other _ _ _ _ hj]

theorem getP_setP_same (h : Hart) (i : PIdx) (b : Bool) : (h.setP i b).getP i = if i = 0 then true else b := by
  by_cases hi : i = 0#3 <;> simp [Hart.getP, Hart.setP, Regs.getP, Regs.setP, hi]

theorem getP_setP_other (h : Hart) (i j : PIdx) (b : Bool) (hj : j ≠ i) : (h.setP i b).getP j = h.getP j := by
  by_cases hi : i = 0#3
  · simp [Hart.getP, Hart.setP, Regs.getP, Regs.setP, hi]
  · simp [Hart.getP, Hart.setP, Regs.getP, Regs.setP, hi, rget_rset_other _ _ _ _ hj]

theorem getM_setM_same (h : Hart) (i : MIdx) (x : MReg) :
    (h.setM i x).getM i = if i = 0 then BitVec.allOnes 1024 else x := by
  by_cases hi : i = 0#4 <;> simp [Hart.getM, Hart.setM, Regs.getM, Regs.setM, hi]

theorem getM_setM_other (h : Hart) (i j : MIdx) (x : MReg) (hj : j ≠ i) : (h.setM i x).getM j = h.getM j := by
  by_cases hi : i = 0#4
  · simp [Hart.getM, Hart.setM, Regs.getM, Regs.setM, hi]
  · simp [Hart.getM, Hart.setM, Regs.getM, Regs.setM, hi, rget_rset_other _ _ _ _ hj]

@[simp] theorem getQ_setQ_same (h : Hart) (i : QIdx) (x : Stream) : (h.setQ i x).getQ i = x := by
  simp [Hart.getQ, Hart.setQ]

theorem getQ_setQ_other (h : Hart) (i j : QIdx) (x : Stream) (hj : j ≠ i) : (h.setQ i x).getQ j = h.getQ j := by
  simp [Hart.getQ, Hart.setQ, rget_rset_other _ _ _ _ hj]

@[simp] theorem getE_setE_same (h : Hart) (i : EIdx) (x : Cursor) : (h.setE i x).getE i = x := by
  simp [Hart.getE, Hart.setE]

theorem getE_setE_other (h : Hart) (i j : EIdx) (x : Cursor) (hj : j ≠ i) : (h.setE i x).getE j = h.getE j := by
  simp [Hart.getE, Hart.setE, rget_rset_other _ _ _ _ hj]

theorem overlay_none (l : List Arriving) (i : VIdx) (x : VReg) (h : ∀ a ∈ l, a.reg ≠ i) : overlay l i x = x := by
  unfold overlay
  induction l generalizing x with
  | nil => rfl
  | cons a l ih =>
    have ha : a.reg ≠ i := h a List.mem_cons_self
    simp only [List.foldl_cons, ha, if_false]
    exact ih x fun b hb => h b (List.mem_cons_of_mem _ hb)

theorem overlay_filter (l : List Arriving) (i j : VIdx) (x : VReg) (hj : j ≠ i) :
    overlay (l.filter fun a => a.reg != i) j x = overlay l j x := by
  unfold overlay
  induction l generalizing x with
  | nil => rfl
  | cons a l ih =>
    by_cases ha : a.reg = i
    · have : ¬(i = j) := fun e => hj e.symm
      simp [ha, ih, this]
    · simp [ha, ih]

theorem arriving_setV (h : Hart) (i : VIdx) (x : VReg) : (h.setV i x).arriving = h.arriving.filter fun a => a.reg != i := by
  unfold Hart.setV
  cases h.arriving <;> rfl

/-- A vector register reads what was written, whatever data was on its way to it (R132). -/
@[simp] theorem getV_setV_same (h : Hart) (i : VIdx) (x : VReg) : (h.setV i x).getV i = x := by
  unfold Hart.getV
  rw [arriving_setV, overlay_none]
  · simp [Hart.setV]
  · intro a ha
    simpa using (List.mem_filter.mp ha).2

theorem getV_setV_other (h : Hart) (i j : VIdx) (x : VReg) (hj : j ≠ i) : (h.setV i x).getV j = h.getV j := by
  unfold Hart.getV
  rw [arriving_setV, overlay_filter _ _ _ _ hj]
  simp [Hart.setV, rget_rset_other _ _ _ _ hj]

end Sys2Proof.Machine
end

