-- ==== Sys2Proof/Laws/Access.lean ====
section
/-! SUPPORT. What an access leaves behind beside its bytes: each operation that notes one moves a single table of
the state, or a single part of a hart or a core pair. -/

namespace Sys2Proof.Machine

/-- Meeting a HOME 01 page moves the core pairs' records alone (R222). -/
theorem meetPage_eq (s : State) (part va pa : Nat) (pte : Word) :
    ∃ l, meetPage s part va pa pte = { s with pairs := l } := by
  unfold meetPage
  dsimp only
  split
  · exact ⟨_, rfl⟩
  · split <;> exact ⟨_, rfl⟩

@[simp] theorem meetPage_mem (s : State) (part va pa : Nat) (pte : Word) : (meetPage s part va pa pte).mem = s.mem := by
  obtain ⟨_, e⟩ := meetPage_eq s part va pa pte
  rw [e]

@[simp] theorem meetPage_harts (s : State) (part va pa : Nat) (pte : Word) :
    (meetPage s part va pa pte).harts = s.harts := by
  obtain ⟨_, e⟩ := meetPage_eq s part va pa pte
  rw [e]

/-- A leaf of another HOME meets no pinned area. -/
theorem meetPage_of_home (s : State) (part va pa : Nat) {pte : Word} (h : pteHome pte ≠ 1) : meetPage s part va pa pte = s := by
  simp [meetPage, h]

/-- Noting a read moves the harts alone (R151). -/
theorem noteRead_eq (s : State) (slot : Nat) (va : Word) (n : Nat) : ∃ l, noteRead s slot va n = { s with harts := l } := by
  unfold noteRead
  split
  · exact ⟨_, rfl⟩
  · split <;> exact ⟨_, rfl⟩

@[simp] theorem noteRead_mem (s : State) (slot : Nat) (va : Word) (n : Nat) : (noteRead s slot va n).mem = s.mem := by
  obtain ⟨_, e⟩ := noteRead_eq s slot va n
  rw [e]

@[simp] theorem noteRead_pairs (s : State) (slot : Nat) (va : Word) (n : Nat) : (noteRead s slot va n).pairs = s.pairs := by
  obtain ⟨_, e⟩ := noteRead_eq s slot va n
  rw [e]

/-- Fitting the pinned area moves the area alone (R222). -/
theorem fitArea_eq (p : Pair) : ∃ l, p.fitArea = { p with area := l } := by
  unfold Pair.fitArea
  split <;> exact ⟨_, rfl⟩

/-- Below three cache ways the area holds no page (R222). -/
theorem fitArea_empty (p : Pair) (h : p.cacheWays < 3) : ∀ x ∈ p.fitArea.area, x.pinned = false := by
  unfold Pair.fitArea
  simp [h]

/-- Keeping some pins moves the pins, and the stores under the others. -/
theorem keepPins_pins (p : Pair) (l : List Pin) : (p.keepPins l).pins = l := rfl

theorem keepPins_delayed (p : Pair) (l : List Pin) (d : Delayed) :
    d ∈ (p.keepPins l).delayed ↔ d ∈ p.delayed ∧ ∃ q ∈ l, q.line = d.line := by
  simp [Pair.keepPins]

end Sys2Proof.Machine
end

