-- ==== Sys2Proof/Laws/Issue.lean ====
section
/-! SUPPORT. The issue and the completion of an encoded instruction: what an instruction that issues
answers, and that completing leaves everything but the PC, the loop registers, INSTRET, CYCLE, the
performance counters and the Lantern's side. -/

namespace Sys2Proof.Machine

/-! ## What completion leaves alone -/

@[simp] theorem core_bump (h : Hart) (n : Nat) (x : Word) : (h.bump n x).core = h.core := rfl
@[simp] theorem core_count (h : Hart) (x : Word) : (h.count x).core = h.core := rfl
@[simp] theorem core_setPc (h : Hart) (x : Word) : (h.setPc x).core = h.core := rfl

/-- A flush of the Lantern's side moves that, the counters and the lines watched. -/
theorem flushLantern_eq (h : Hart) : ∃ p l, h.flushLantern = { h with perf := p, watch := [], lantern := l } := ⟨_, _, rfl⟩

/-- What a fork moves beside the flush: a counter and the Lantern's side. -/
theorem startFork_eq (h : Hart) (n : Nat) : ∃ p l, h.startFork n = { h with perf := p, watch := [], lantern := l } := by
  obtain ⟨p, l, e⟩ := flushLantern_eq h
  unfold Hart.startFork
  rw [e]
  dsimp only
  split
  · exact ⟨_, _, rfl⟩
  · exact ⟨_, _, rfl⟩

@[simp] theorem core_startFork (h : Hart) (n : Nat) : (h.startFork n).core = h.core := by
  obtain ⟨p, l, e⟩ := startFork_eq h n
  rw [e]
  rfl

theorem startFork_rest (h : Hart) (n : Nat) :
    (h.startFork n).regs = h.regs ∧ (h.startFork n).instret = h.instret ∧ (h.startFork n).trap = h.trap := by
  obtain ⟨p, l, e⟩ := startFork_eq h n
  rw [e]
  exact ⟨rfl, rfl, rfl⟩

theorem resolveAlone_eq (h : Hart) : ∃ p l, h.resolveAlone = { h with perf := p, lantern := l } := by
  unfold Hart.resolveAlone
  split
  · exact ⟨_, _, rfl⟩
  · exact ⟨_, _, rfl⟩

@[simp] theorem core_resolveAlone (h : Hart) : h.resolveAlone.core = h.core := by
  obtain ⟨p, l, e⟩ := resolveAlone_eq h
  rw [e]
  rfl

theorem resolveAlone_rest (h : Hart) :
    h.resolveAlone.regs = h.regs ∧ h.resolveAlone.instret = h.instret ∧ h.resolveAlone.trap = h.trap := by
  obtain ⟨p, l, e⟩ := resolveAlone_eq h
  rw [e]
  exact ⟨rfl, rfl, rfl⟩

@[simp] theorem core_consume (h : Hart) (k : WickKind) : (h.consume k).core = h.core := by
  unfold Hart.consume
  dsimp only
  repeat' split
  all_goals first | rfl | exact core_startFork _ _ | exact core_resolveAlone _

theorem consume_rest (h : Hart) (k : WickKind) :
    (h.consume k).regs = h.regs ∧ (h.consume k).instret = h.instret ∧ (h.consume k).trap = h.trap := by
  unfold Hart.consume
  dsimp only
  repeat' split
  all_goals first | exact ⟨rfl, rfl, rfl⟩ | exact startFork_rest _ _ | exact resolveAlone_rest _

/-- Loop outcomes are checked in turn. -/
@[simp] theorem core_consumeLoops (l : List Bool) (h : Hart) : (h.consumeLoops l).core = h.core := by
  induction l generalizing h with
  | nil => rfl
  | cons a l ih => exact (ih _).trans (core_consume h _)

theorem consumeLoops_rest (l : List Bool) (h : Hart) :
    (h.consumeLoops l).regs = h.regs ∧ (h.consumeLoops l).instret = h.instret ∧ (h.consumeLoops l).trap = h.trap := by
  induction l generalizing h with
  | nil => exact ⟨rfl, rfl, rfl⟩
  | cons a l ih =>
    obtain ⟨a1, a2, a3⟩ := ih (h.consume (.loopEnd a))
    obtain ⟨b1, b2, b3⟩ := consume_rest h (.loopEnd a)
    exact ⟨a1.trans b1, a2.trans b2, a3.trans b3⟩

@[simp] theorem core_endPop (h : Hart) : h.endPop.core = h.core := by
  unfold Hart.endPop
  split
  · rfl
  · exact core_startFork h 0
  · rfl

theorem endPop_rest (h : Hart) : h.endPop.regs = h.regs ∧ h.endPop.instret = h.instret ∧ h.endPop.trap = h.trap := by
  unfold Hart.endPop
  split
  · exact ⟨rfl, rfl, rfl⟩
  · exact startFork_rest h 0
  · exact ⟨rfl, rfl, rfl⟩

theorem countBig_perf (h : Hart) (x : Word) : ∃ p, h.countBig x = { h with perf := p } := by
  unfold Hart.countBig
  split
  · exact ⟨h.perf, rfl⟩
  · exact ⟨_, rfl⟩

/-- The loop-end action: what moves and what stays. -/
theorem stepLoops_rest (h : Hart) :
    (h.stepLoops h.pc (h.pc + 12)).core = h.core ∧
    ((h.stepLoops h.pc (h.pc + 12)).regs.loops, (h.stepLoops h.pc (h.pc + 12)).pc) = h.after ∧
    (h.stepLoops h.pc (h.pc + 12)).instret = h.instret := by
  unfold Hart.stepLoops Hart.after
  split
  · exact ⟨rfl, rfl, rfl⟩
  · generalize loopEnd h.regs.loops h.pc (h.pc + 12) = r
    obtain ⟨r, pc, seen⟩ := r
    obtain ⟨p, hp⟩ := countBig_perf h h.pc
    simp only [hp]
    have hk := fun g : Hart => consumeLoops_rest seen g
    exact ⟨core_consumeLoops _ _, Prod.ext (congrArg Regs.loops (hk _).1) (congrArg Regs.pc (hk _).1), (hk _).2.1⟩

/-- A completion without a redirect: what moves and what stays. -/
theorem stepLoops_spec (h : Hart) (x : Word) :
    ((h.stepLoops h.pc (h.pc + 12)).endPop.count x).core = h.core ∧
    (((h.stepLoops h.pc (h.pc + 12)).endPop.count x).regs.loops, ((h.stepLoops h.pc (h.pc + 12)).endPop.count x).pc) = h.after ∧
    ((h.stepLoops h.pc (h.pc + 12)).endPop.count x).instret = h.instret + 1 := by
  obtain ⟨lc, ll, li⟩ := stepLoops_rest h
  obtain ⟨er, ei, _⟩ := endPop_rest (h.stepLoops h.pc (h.pc + 12))
  refine ⟨(core_endPop _).trans lc, ?_, congrArg (· + 1) (ei.trans li)⟩
  rw [← ll]
  exact Prod.ext (congrArg Regs.loops er) (congrArg Regs.pc er)

/-! ## States that differ in a hart only -/

@[simp] theorem outside_setHart (s : State) (k : Nat) (h : Hart) : (s.setHart k h).outside = s.outside := rfl
@[simp] theorem outside_draw (s : State) : s.draw.2.outside = s.outside := rfl
@[simp] theorem outside_endTurn (s : State) : (endTurn s).outside = s.outside := rfl
@[simp] theorem outside_modHart (s : State) (k : Nat) (f : Hart → Hart) : (s.modHart k f).outside = s.outside := by
  unfold State.modHart
  split <;> rfl
@[simp] theorem hart_endTurn (s : State) (k : Nat) : (endTurn s).hart? k = s.hart? k := rfl

/-- What an instruction has overwritten in part is no part of what a statement measures. -/
@[simp] theorem outside_settleStores (s : State) (k : Nat) : (settleStores s k).outside = s.outside := by
  unfold settleStores
  split <;> rfl
@[simp] theorem harts_settleStores (s : State) (k : Nat) : (settleStores s k).harts = s.harts := by
  unfold settleStores
  split <;> rfl
@[simp] theorem hart_settleStores (s : State) (j k : Nat) : (settleStores s k).hart? j = s.hart? j := by simp [State.hart?]

/-- `lendLanes` moves the two counters of one hart and nothing else. -/
theorem lendLanes_spec (op slot : Nat) (s : State) :
    (∀ k, k ≠ slot → (lendLanes op slot s).hart? k = s.hart? k) ∧ (lendLanes op slot s).outside = s.outside ∧
    ∀ u, s.hart? slot = some u → ∃ v, (lendLanes op slot s).hart? slot = some v ∧ v.core = u.core ∧
      v.regs = u.regs ∧ v.instret = u.instret := by
  unfold lendLanes
  split
  · refine ⟨fun k hk => ?_, by simp, fun u hu => ?_⟩
    · rw [hart_modHart_other _ _ _ _ hk]
      rfl
    · exact ⟨_, hart_modHart_same (s := s.draw.2) hu _, rfl, rfl, rfl⟩
  · exact ⟨fun k _ => rfl, rfl, fun u hu => ⟨u, hu, rfl, rfl, rfl⟩⟩

/-- Completing a state whose hart stands in its slot. -/
theorem retire_spec {s : State} {slot : Nat} {g : Hart} (hg : s.hart? slot = some g) :
    CompletedAs s slot g (retire s slot) := by
  unfold retire
  simp only [hg]
  have h := stepLoops_spec g (Config.cycleTick s.fresh)
  refine ⟨⟨_, hart_setHart_same _ _ _, h.1, h.2.1, h.2.2⟩, fun k hk => ?_, rfl⟩
  exact hart_setHart_other _ _ _ _ hk

theorem retireAt_spec {s : State} {slot : Nat} {g : Hart} (pc : Word) (hg : s.hart? slot = some g) :
    RedirectedAs s slot g pc (retireAt s slot pc) := by
  unfold retireAt
  simp only [hg]
  exact ⟨⟨_, hart_setHart_same _ _ _, rfl, rfl, rfl, rfl⟩, fun k hk => hart_setHart_other _ _ _ _ hk, rfl⟩

theorem completedAs_through {s t : State} {slot : Nat} {g : Hart} (op : Nat) (h : CompletedAs s slot g t) :
    CompletedAs s slot g (lendLanes op slot (endTurn (settleStores t slot))) := by
  obtain ⟨⟨u, hu, hc, hl, hi⟩, ho, hs⟩ := h
  obtain ⟨l1, l2, l3⟩ := lendLanes_spec op slot (endTurn (settleStores t slot))
  obtain ⟨v, hv, vc, vr, vi⟩ := l3 u (by simpa using hu)
  refine ⟨⟨v, hv, vc.trans hc, ?_, vi.trans hi⟩, fun k hk => (l1 k hk).trans (by simpa using ho k hk), l2.trans (by simpa using hs)⟩
  simpa only [Hart.pc, vr] using hl

theorem redirectedAs_through {s t : State} {slot : Nat} {g : Hart} {pc : Word} (op : Nat) (h : RedirectedAs s slot g pc t) :
    RedirectedAs s slot g pc (lendLanes op slot (endTurn (settleStores t slot))) := by
  obtain ⟨⟨u, hu, hc, hl, hp, hi⟩, ho, hs⟩ := h
  obtain ⟨l1, l2, l3⟩ := lendLanes_spec op slot (endTurn (settleStores t slot))
  obtain ⟨v, hv, vc, vr, vi⟩ := l3 u (by simpa using hu)
  refine ⟨⟨v, hv, vc.trans hc, vr ▸ hl, ?_, vi.trans hi⟩, fun k hk => (l1 k hk).trans (by simpa using ho k hk), l2.trans (by simpa using hs)⟩
  simpa only [Hart.pc, vr] using hp

/-- Writing the hart back first changes nothing that completion is measured against. -/
theorem completedAs_setHart {s t : State} {slot : Nat} {g g' : Hart} (h : CompletedAs (s.setHart slot g') slot g t) :
    CompletedAs s slot g t := by
  obtain ⟨hu, ho, hs⟩ := h
  exact ⟨hu, fun k hk => (ho k hk).trans (hart_setHart_other _ _ _ _ hk), hs⟩

/-! ## Issue -/

theorem noteRunning_hart (s : State) (h : Hart) (k : Nat) : (noteRunning s h).hart? k = s.hart? k := by
  unfold noteRunning
  repeat' split
  all_goals rfl

/-- An instruction that issues runs its body (R117 steps 6 to 8). -/
theorem issue_runs {op : Nat} {c : Ctl} {s : State} {slot : Nat} {h : Hart} (hi : Issues op c s slot h)
    (body : State → Nat → Hart → Res) :
    issue op c s body = .next (lendLanes op slot (close slot (body (noteRunning s h) slot h))) := by
  have hl : (isLamp slot && !lampRuns op) = false := by
    cases hb : isLamp slot
    · rfl
    · simp [hi.lamp hb]
  unfold issue State.current
  simp [hi.turn, hi.hart, hl, hi.guard]

/-- The body of an instruction that only writes its hart, and the completion of that. -/
theorem issue_done {op : Nat} {c : Ctl} {s : State} {slot : Nat} {h g : Hart} (hi : Issues op c s slot h)
    (body : State → Nat → Hart → Res) (hb : body (noteRunning s h) slot h = doneWith (noteRunning s h) slot g) :
    ∃ t, issue op c s body = .next t ∧ CompletedAs (noteRunning s h) slot g t := by
  refine ⟨_, issue_runs hi body, ?_⟩
  rw [hb]
  exact completedAs_through op (completedAs_setHart (retire_spec (hart_setHart_same (noteRunning s h) slot g)))

/-- The same for a body that has changed more of the state. -/
theorem issue_doneIn {op : Nat} {c : Ctl} {s s' : State} {slot : Nat} {h g : Hart} (hi : Issues op c s slot h)
    (body : State → Nat → Hart → Res) (hb : body (noteRunning s h) slot h = .done s') (hg : s'.hart? slot = some g) :
    ∃ t, issue op c s body = .next t ∧ CompletedAs s' slot g t := by
  refine ⟨_, issue_runs hi body, ?_⟩
  rw [hb]
  exact completedAs_through op (retire_spec hg)

/-- A redirect. -/
theorem issue_jump {op : Nat} {c : Ctl} {s s' : State} {slot : Nat} {h g : Hart} {pc : Word} (hi : Issues op c s slot h)
    (body : State → Nat → Hart → Res) (hb : body (noteRunning s h) slot h = .jump s' pc) (hg : s'.hart? slot = some g) :
    ∃ t, issue op c s body = .next t ∧ RedirectedAs s' slot g pc t := by
  refine ⟨_, issue_runs hi body, ?_⟩
  rw [hb]
  exact redirectedAs_through op (retireAt_spec pc hg)

/-- A body that a poisoned operand does not stop. -/
@[simp] theorem unpoisoned_clean {s : State} {h : Hart} {l : List Src} {r : Res} (hp : h.poisoned l = false) :
    unpoisoned s h l r = r := by simp [unpoisoned, hp]

end Sys2Proof.Machine
end

