-- ==== Sys2Proof/Laws/Scalar.lean ====
section
/-! SUPPORT. What the shared moulds of the scalar, predicate and mask instructions answer when their
sources hold no poison, and what a redirect answers. -/

namespace Sys2Proof.Machine

theorem scalarBin_done {op : Nat} {c : Ctl} {o : ScalarBin} {s : State} {slot : Nat} {h : Hart} (f : Ty → Word → Word → Word)
    (hi : Issues op c s slot h) (hp : h.poisoned (.s o.a :: ssrcReads o.b) = false) :
    ∃ t, scalarBin op c o s f = .next t ∧ CompletedAs (noteRunning s h) slot
      (h.setS o.d (o.ty.place (f o.ty (low o.ty.width (h.getS o.a)) (low o.ty.width (h.ssrc o.ty o.b))))) t := by
  refine issue_done hi _ ?_
  exact unpoisoned_clean hp

theorem scalarUn_done {op : Nat} {c : Ctl} {o : ScalarUn} {s : State} {slot : Nat} {h : Hart} (f : Ty → Word → Word)
    (hi : Issues op c s slot h) (hp : h.poisoned [.s o.a] = false) :
    ∃ t, scalarUn op c o s f = .next t ∧
      CompletedAs (noteRunning s h) slot (h.setS o.d (o.ty.place (f o.ty (low o.ty.width (h.getS o.a))))) t := by
  refine issue_done hi _ ?_
  exact unpoisoned_clean hp

theorem floatBin_done {op : Nat} {c : Ctl} {o : FloatBin} {s : State} {slot : Nat} {h : Hart} (readsD : Bool)
    (f : Fmt → Round → Word → Word → Word → Word × FFlags) (hi : Issues op c s slot h)
    (hp : h.poisoned ((if readsD then [.s o.d] else []) ++ .s o.a :: ssrcReads o.b) = false) :
    let r := f o.ty.fmt (h.round o.rm) (low o.ty.width (h.getS o.a)) (low o.ty.width (h.ssrc o.ty o.b)) (low o.ty.width (h.getS o.d))
    ∃ t, floatBin op c o s readsD f = .next t ∧
      CompletedAs (noteRunning s h) slot ((h.setS o.d (low o.ty.width r.1)).raise r.2) t := by
  refine issue_done hi _ ?_
  exact unpoisoned_clean hp

theorem floatUn_done {op : Nat} {c : Ctl} {t : Ty} {d a : SIdx} {w : Nat} {s : State} {slot : Nat} {h : Hart}
    (f : Hart → Word → Word × FFlags) (hi : Issues op c s slot h) (hp : h.poisoned [.s a] = false) :
    ∃ u, floatUn op c t d a w s f = .next u ∧
      CompletedAs (noteRunning s h) slot ((h.setS d (t.place (f h (low w (h.getS a))).1)).raise (f h (low w (h.getS a))).2) u := by
  refine issue_done hi _ ?_
  exact unpoisoned_clean hp

theorem predLogic_done {c : Ctl} {d a b : PIdx} {s : State} {slot : Nat} {h : Hart} (f : Bool → Bool → Bool)
    (hi : Issues 0x51 c s slot h) :
    ∃ t, predLogic c d a b s f = .next t ∧ CompletedAs (noteRunning s h) slot (h.setP d (f (h.getP a) (h.getP b))) t :=
  issue_done hi _ rfl

theorem maskLogic_done {c : Ctl} {d a b : MIdx} {s : State} {slot : Nat} {h : Hart} (f : MReg → MReg → MReg)
    (hi : Issues 0x52 c s slot h) (hp : h.poisoned [.m a, .m b] = false) :
    ∃ t, maskLogic c d a b s f = .next t ∧ CompletedAs (noteRunning s h) slot (h.setM d (f (h.getM a) (h.getM b))) t := by
  refine issue_done hi _ ?_
  exact unpoisoned_clean hp

/-- Poison of a list of sources, one by one. -/
theorem poisoned_append (h : Hart) (l m : List Src) : h.poisoned (l ++ m) = (h.poisoned l || h.poisoned m) := by
  unfold Hart.poisoned
  cases h.poison with
  | nil => rfl
  | cons x p => simp

theorem poisoned_of_none {h : Hart} (hp : h.poison = []) (l : List Src) : h.poisoned l = false := by simp [Hart.poisoned, hp]

theorem elemPoisoned_of_none {h : Hart} (hp : h.poison = []) (v : VIdx) (w i : Nat) : h.elemPoisoned v w i = false := by
  simp [Hart.elemPoisoned, hp]

/-! ## From a body to what its instruction answers -/

theorem completes_of {i : Instr} {op : Nat} {c : Ctl} {s : State} {slot : Nat} {h g : Hart} {body : State → Nat → Hart → Res}
    (he : exec i s = issue op c s body) (hi : Issues op c s slot h)
    (hb : body (noteRunning s h) slot h = doneWith (noteRunning s h) slot g) : Completes i s slot h g := by
  obtain ⟨t, ht, hc⟩ := issue_done hi body hb
  exact ⟨t, he.trans ht, hc⟩

theorem completesIn_of {i : Instr} {op : Nat} {c : Ctl} {s s' : State} {slot : Nat} {h g : Hart} {body : State → Nat → Hart → Res}
    (he : exec i s = issue op c s body) (hi : Issues op c s slot h)
    (hb : body (noteRunning s h) slot h = .done s') (hg : s'.hart? slot = some g) : CompletesIn i s s' slot g := by
  obtain ⟨t, ht, hc⟩ := issue_doneIn hi body hb hg
  exact ⟨t, he.trans ht, hc⟩

theorem lendLanes_none (op : Nat) {s : State} {slot : Nat} (hn : s.hart? slot = none) : (lendLanes op slot s).hart? slot = none := by
  unfold lendLanes
  split
  · simp only [State.draw, State.modHart]
    split
    · rename_i e
      cases hn.symm.trans e
    · exact hn
  · exact hn

theorem traps_of {i : Instr} {op : Nat} {c : Ctl} {s : State} {slot : Nat} {h : Hart} {tr : Trap} {ev : Word}
    {body : State → Nat → Hart → Res} (he : exec i s = issue op c s body) (hi : Issues op c s slot h)
    (hb : body (noteRunning s h) slot h = trapRes (noteRunning s h) tr ev) : Traps i s slot h tr ev := by
  refine ⟨_, he.trans (issue_runs hi body), ?_⟩
  have hh : (noteRunning s h).hart? slot = some h := (noteRunning_hart s h slot).trans hi.hart
  have hd : close slot (body (noteRunning s h) slot h) = endTurn (settleStores (takeTrap (noteRunning s h) slot tr ev h.pc) slot) := by
    rw [hb]
    simp [close, trapRes, deny, hh, Res.waits]
  rw [hd]
  generalize takeTrap (noteRunning s h) slot tr ev h.pc = u
  obtain ⟨l1, l2, l3⟩ := lendLanes_spec op slot (endTurn (settleStores u slot))
  refine ⟨fun k hk => (l1 k hk).trans (by simp), ?_, ?_, l2.trans (by simp)⟩
  all_goals
    cases hu : u.hart? slot with
    | none =>
      have hn := lendLanes_none op (s := endTurn (settleStores u slot)) (by simpa using hu)
      rw [hn]
    | some v =>
      obtain ⟨w, hw, wc, wr, _⟩ := l3 v (by simpa using hu)
      simp [hw, wc, Hart.pc, wr]

/-! ## Completion measured up to a hart's core -/

theorem completedAs_congr {s t : State} {slot : Nat} {g g' : Hart} (h : CompletedAs s slot g t) (hc : g'.core = g.core)
    (ha : g'.after = g.after) (hn : g'.instret = g.instret) : CompletedAs s slot g' t := by
  obtain ⟨⟨u, hu, uc, ul, ui⟩, rest⟩ := h
  exact ⟨⟨u, hu, uc.trans hc.symm, ul.trans ha.symm, ui.trans (by rw [hn])⟩, rest⟩

theorem redirectedAs_congr {s s' t : State} {slot : Nat} {g g' : Hart} {pc : Word} (h : RedirectedAs s slot g pc t)
    (hc : g'.core = g.core) (hl : g'.regs.loops = g.regs.loops) (hn : g'.instret = g.instret) (hs : Elsewhere s' slot s) :
    RedirectedAs s' slot g' pc t := by
  obtain ⟨⟨u, hu, uc, ul, up, ui⟩, ho, ht⟩ := h
  exact ⟨⟨u, hu, uc.trans hc.symm, ul.trans hl.symm, up, ui.trans (by rw [hn])⟩,
    fun k hk => (ho k hk).trans (hs.1 k hk), ht.trans hs.2⟩

theorem elsewhere_setHart (s : State) (slot : Nat) (g : Hart) : Elsewhere s slot (s.setHart slot g) :=
  ⟨fun _ hk => hart_setHart_other _ _ _ _ hk, rfl⟩

/-- A redirect to an aligned target (R121, R205, R208). -/
theorem redirect_done {op : Nat} {c : Ctl} {s : State} {slot : Nat} {h : Hart} {target : Word} (link : Hart → Hart)
    (body : State → Nat → Hart → Res) (hi : Issues op c s slot h)
    (hb : body (noteRunning s h) slot h = redirect (noteRunning s h) slot h target link) (ha : target.toNat % 4 = 0) :
    ∃ t, issue op c s body = .next t ∧ RedirectedAs (noteRunning s h) slot (branchOut (link h) h.pc target) target t := by
  have hb' : body (noteRunning s h) slot h =
      .jump ((noteRunning s h).setHart slot ((branchOut (link h) h.pc target).consume (.branch true target))) target := by
    rw [hb]
    simp [redirect, ha]
  obtain ⟨t, ht, hr⟩ := issue_jump hi body hb' (hart_setHart_same _ _ _)
  exact ⟨t, ht, redirectedAs_congr hr (core_consume _ _).symm (by rw [(consume_rest _ _).1]) ((consume_rest _ _).2.1).symm
    (elsewhere_setHart _ _ _)⟩

end Sys2Proof.Machine
end

