-- ==== Sys2Proof/Laws/Elements.lean ====
section
/-! SUPPORT. Elements of a vector register: what writing one leaves in every position. -/

namespace Sys2Proof

open Machine

theorem getLsbD_low (w : Nat) (x : Word) (k : Nat) : (low w x).getLsbD k = (decide (k < 64) && (decide (k < w) && x.getLsbD k)) := by
  unfold low
  simp only [BitVec.getLsbD_setWidth]

theorem getLsbD_elemGet (r : VReg) (w i k : Nat) :
    (elemGet r w i).getLsbD k = (decide (k < 64) && (decide (k < w) && r.getLsbD (i * w + k))) := by
  unfold elemGet
  simp only [BitVec.getLsbD_setWidth, BitVec.getLsbD_extractLsb']

theorem getLsbD_elemSet (r : VReg) {w : Nat} (hw : w ≤ 64) (i : Nat) (x : Word) {n : Nat} (hn : n < 8192) :
    (elemSet r w i x).getLsbD n = if i * w ≤ n ∧ n - i * w < w then x.getLsbD (n - i * w) else r.getLsbD n := by
  have h1 : (BitVec.ofNat 8192 (2 ^ w - 1)).getLsbD (n - i * w) = decide (n - i * w < w) := by
    rw [BitVec.getLsbD_ofNat, Nat.testBit_two_pow_sub_one]
    have : n - i * w < 8192 := by omega
    simp [this]
  unfold elemSet
  simp only [BitVec.getLsbD_or, BitVec.getLsbD_and, BitVec.getLsbD_not, BitVec.getLsbD_shiftLeft, h1, hn, decide_true, Bool.true_and,
    BitVec.getLsbD_setWidth, getLsbD_low]
  have h2 : n - i * w < 8192 := by omega
  by_cases ha : i * w ≤ n
  · have hlt : (n < i * w) = False := by simp only [eq_iff_iff, iff_false]; omega
    by_cases hb : n - i * w < w
    · have h3 : n - i * w < 64 := by omega
      simp [ha, hb, hlt, h2, h3]
    · simp [ha, hb, hlt]
  · have hlt : n < i * w := by omega
    simp [ha, hlt]

theorem low_low (w : Nat) (x : Word) : low w (low w x) = low w x := by
  apply BitVec.eq_of_getLsbD_eq
  intro k hk
  simp only [getLsbD_low, hk]
  cases decide (k < w) <;> simp

theorem low_elemGet (r : VReg) (w i : Nat) : low w (elemGet r w i) = elemGet r w i := by
  apply BitVec.eq_of_getLsbD_eq
  intro k hk
  simp only [getLsbD_low, getLsbD_elemGet, hk]
  cases decide (k < w) <;> simp

theorem elemGet_elemSet_same (r : VReg) {w : Nat} (hw : w ≤ 64) {i : Nat} (hi : i < 8192 / w) (x : Word) :
    elemGet (elemSet r w i x) w i = low w x := by
  apply BitVec.eq_of_getLsbD_eq
  intro k hk
  rw [getLsbD_elemGet, getLsbD_low]
  by_cases hkw : k < w
  · have hb : i * w + k < 8192 := by
      have : (i + 1) * w ≤ 8192 := Nat.le_trans (Nat.mul_le_mul_right w hi) (Nat.div_mul_le_self 8192 w)
      rw [Nat.add_mul] at this
      omega
    rw [getLsbD_elemSet r hw i x hb]
    have h1 : i * w ≤ i * w + k ∧ i * w + k - i * w < w := by omega
    rw [if_pos h1, Nat.add_sub_cancel_left]
  · simp [hkw]

theorem elemGet_elemSet_other (r : VReg) {w : Nat} (hw : w ≤ 64) {i j : Nat} (hij : j ≠ i) (hj : j < 8192 / w) (x : Word) :
    elemGet (elemSet r w i x) w j = elemGet r w j := by
  apply BitVec.eq_of_getLsbD_eq
  intro k hk
  rw [getLsbD_elemGet, getLsbD_elemGet]
  by_cases hkw : k < w
  · have hb : j * w + k < 8192 := by
      have : (j + 1) * w ≤ 8192 := Nat.le_trans (Nat.mul_le_mul_right w hj) (Nat.div_mul_le_self 8192 w)
      rw [Nat.add_mul] at this
      omega
    rw [getLsbD_elemSet r hw i x hb]
    have h1 : ¬(i * w ≤ j * w + k ∧ j * w + k - i * w < w) := by
      rintro ⟨h1, h2⟩
      rcases Nat.lt_or_gt_of_ne hij with h | h
      · have := Nat.mul_le_mul_right w (show j + 1 ≤ i from h)
        rw [Nat.add_mul] at this
        omega
      · have := Nat.mul_le_mul_right w (show i + 1 ≤ j from h)
        rw [Nat.add_mul] at this
        omega
    rw [if_neg h1]
  · simp [hkw]

theorem getLsbD_maskSet (m : MReg) (i : Nat) (b : Bool) {j : Nat} (hj : j < 1024) :
    (maskSet m i b).getLsbD j = if j = i then b else m.getLsbD j := by
  have h1 : ((1#1024 <<< i : MReg)).getLsbD j = decide (j = i) := by
    rw [BitVec.getLsbD_shiftLeft, BitVec.getLsbD_one]
    simp only [hj, decide_true, Bool.true_and]
    by_cases h : j = i
    · subst h
      simp
    · by_cases h' : j < i
      · simp [h, h']
      · have : j - i ≠ 0 := by omega
        simp [h, h', this]
  unfold maskSet
  cases b
  · simp only [Bool.false_eq_true, if_false, BitVec.getLsbD_and, BitVec.getLsbD_not, h1, hj]
    by_cases h : j = i <;> simp [h]
  · simp only [if_true, BitVec.getLsbD_or, h1]
    by_cases h : j = i <;> simp [h]

end Sys2Proof
end

