-- ==== Sys2Proof/Laws/Exec.lean ====
section
/-! SUPPORT. One equation for each arm of exec. -/

namespace Sys2Proof.Machine

theorem exec_add (c : Ctl) (o : ScalarBin) (s : State) : exec (.add c o) s = execAdd c o s := rfl
theorem exec_sub (c : Ctl) (o : ScalarBin) (s : State) : exec (.sub c o) s = execSub c o s := rfl
theorem exec_and_ (c : Ctl) (o : ScalarBin) (s : State) : exec (.and_ c o) s = execAnd c o s := rfl
theorem exec_or_ (c : Ctl) (o : ScalarBin) (s : State) : exec (.or_ c o) s = execOr c o s := rfl
theorem exec_xor_ (c : Ctl) (o : ScalarBin) (s : State) : exec (.xor_ c o) s = execXor c o s := rfl
theorem exec_andn (c : Ctl) (o : ScalarBin) (s : State) : exec (.andn c o) s = execAndn c o s := rfl
theorem exec_sll (c : Ctl) (o : ScalarBin) (s : State) : exec (.sll c o) s = execSll c o s := rfl
theorem exec_srl (c : Ctl) (o : ScalarBin) (s : State) : exec (.srl c o) s = execSrl c o s := rfl
theorem exec_sra (c : Ctl) (o : ScalarBin) (s : State) : exec (.sra c o) s = execSra c o s := rfl
theorem exec_min_ (c : Ctl) (o : ScalarBin) (s : State) : exec (.min_ c o) s = execMin c o s := rfl
theorem exec_max_ (c : Ctl) (o : ScalarBin) (s : State) : exec (.max_ c o) s = execMax c o s := rfl
theorem exec_slt (c : Ctl) (o : ScalarBin) (s : State) : exec (.slt c o) s = execSlt c o s := rfl
theorem exec_mov (c : Ctl) (o : ScalarUn) (s : State) : exec (.mov c o) s = execMov c o s := rfl
theorem exec_mul (c : Ctl) (o : ScalarBin) (s : State) : exec (.mul c o) s = execMul c o s := rfl
theorem exec_mulh (c : Ctl) (o : ScalarBin) (s : State) : exec (.mulh c o) s = execMulh c o s := rfl
theorem exec_div (c : Ctl) (o : ScalarBin) (s : State) : exec (.div c o) s = execDiv c o s := rfl
theorem exec_rem (c : Ctl) (o : ScalarBin) (s : State) : exec (.rem c o) s = execRem c o s := rfl
theorem exec_clz (c : Ctl) (o : ScalarUn) (s : State) : exec (.clz c o) s = execClz c o s := rfl
theorem exec_ctz (c : Ctl) (o : ScalarUn) (s : State) : exec (.ctz c o) s = execCtz c o s := rfl
theorem exec_popc (c : Ctl) (o : ScalarUn) (s : State) : exec (.popc c o) s = execPopc c o s := rfl
theorem exec_brev (c : Ctl) (o : ScalarUn) (s : State) : exec (.brev c o) s = execBrev c o s := rfl
theorem exec_bswap (c : Ctl) (o : ScalarUn) (s : State) : exec (.bswap c o) s = execBswap c o s := rfl
theorem exec_ext_ (c : Ctl) (o : ExtForm) (s : State) : exec (.ext_ c o) s = execExt c o s := rfl
theorem exec_movi (c : Ctl) (o : MoviForm) (s : State) : exec (.movi c o) s = execMovi c o s := rfl
theorem exec_movhi (c : Ctl) (o : MovhiForm) (s : State) : exec (.movhi c o) s = execMovhi c o s := rfl
theorem exec_addpc (c : Ctl) (o : AddpcForm) (s : State) : exec (.addpc c o) s = execAddpc c o s := rfl
theorem exec_ld (c : Ctl) (o : LoadForm) (s : State) : exec (.ld c o) s = execLd c o s := rfl
theorem exec_lda (c : Ctl) (o : LoadForm) (s : State) : exec (.lda c o) s = execLda c o s := rfl
theorem exec_st (c : Ctl) (o : StoreForm) (s : State) : exec (.st c o) s = execSt c o s := rfl
theorem exec_stl (c : Ctl) (o : StoreForm) (s : State) : exec (.stl c o) s = execStl c o s := rfl
theorem exec_fadd (c : Ctl) (o : FloatBin) (s : State) : exec (.fadd c o) s = execFadd c o s := rfl
theorem exec_fsub (c : Ctl) (o : FloatBin) (s : State) : exec (.fsub c o) s = execFsub c o s := rfl
theorem exec_fmul (c : Ctl) (o : FloatBin) (s : State) : exec (.fmul c o) s = execFmul c o s := rfl
theorem exec_fdiv (c : Ctl) (o : FloatBin) (s : State) : exec (.fdiv c o) s = execFdiv c o s := rfl
theorem exec_fsqrt (c : Ctl) (o : FloatUn) (s : State) : exec (.fsqrt c o) s = execFsqrt c o s := rfl
theorem exec_fmin (c : Ctl) (o : FloatBin) (s : State) : exec (.fmin c o) s = execFmin c o s := rfl
theorem exec_fmax (c : Ctl) (o : FloatBin) (s : State) : exec (.fmax c o) s = execFmax c o s := rfl
theorem exec_fcopys (c : Ctl) (o : FloatBin) (s : State) : exec (.fcopys c o) s = execFcopys c o s := rfl
theorem exec_fcopyn (c : Ctl) (o : FloatBin) (s : State) : exec (.fcopyn c o) s = execFcopyn c o s := rfl
theorem exec_fxsign (c : Ctl) (o : FloatBin) (s : State) : exec (.fxsign c o) s = execFxsign c o s := rfl
theorem exec_fma (c : Ctl) (o : FloatBin) (s : State) : exec (.fma c o) s = execFma c o s := rfl
theorem exec_fms (c : Ctl) (o : FloatBin) (s : State) : exec (.fms c o) s = execFms c o s := rfl
theorem exec_fnma (c : Ctl) (o : FloatBin) (s : State) : exec (.fnma c o) s = execFnma c o s := rfl
theorem exec_fnms (c : Ctl) (o : FloatBin) (s : State) : exec (.fnms c o) s = execFnms c o s := rfl
theorem exec_fcvt (c : Ctl) (o : ConvertForm) (s : State) : exec (.fcvt c o) s = execFcvt c o s := rfl
theorem exec_fcvti (c : Ctl) (o : ConvertForm) (s : State) : exec (.fcvti c o) s = execFcvti c o s := rfl
theorem exec_icvtf (c : Ctl) (o : ConvertForm) (s : State) : exec (.icvtf c o) s = execIcvtf c o s := rfl
theorem exec_fclass (c : Ctl) (o : ScalarUn) (s : State) : exec (.fclass c o) s = execFclass c o s := rfl
theorem exec_br (c : Ctl) (o : BrForm) (s : State) : exec (.br c o) s = execBr c o s := rfl
theorem exec_bri (c : Ctl) (o : BriForm) (s : State) : exec (.bri c o) s = execBri c o s := rfl
theorem exec_call (c : Ctl) (o : CallForm) (s : State) : exec (.call c o) s = execCall c o s := rfl
theorem exec_calli (c : Ctl) (o : CalliForm) (s : State) : exec (.calli c o) s = execCalli c o s := rfl
theorem exec_lsetup (c : Ctl) (o : LsetupForm) (s : State) : exec (.lsetup c o) s = execLsetup c o s := rfl
theorem exec_sysrd (c : Ctl) (o : SysrdForm) (s : State) : exec (.sysrd c o) s = execSysrd c o s := rfl
theorem exec_syswr (c : Ctl) (o : SyswrForm) (s : State) : exec (.syswr c o) s = execSyswr c o s := rfl
theorem exec_eret (c : Ctl) (s : State) : exec (.eret c) s = execEret c s := rfl
theorem exec_nop (c : Ctl) (s : State) : exec (.nop c) s = execNop c s := rfl
theorem exec_yield (c : Ctl) (o : YieldForm) (s : State) : exec (.yield c o) s = execYield c o s := rfl
theorem exec_yieldExpiry (slot : Nat) (s : State) : exec (.yieldExpiry slot) s = execYieldExpiry slot s := rfl
theorem exec_halt (c : Ctl) (s : State) : exec (.halt c) s = execHalt c s := rfl
theorem exec_haltSlotRelease (slot : Nat) (s : State) : exec (.haltSlotRelease slot) s = execHaltSlotRelease slot s := rfl
theorem exec_trap (c : Ctl) (o : TrapForm) (s : State) : exec (.trap c o) s = execTrap c o s := rfl
theorem exec_pcmp (c : Ctl) (o : PcmpForm) (s : State) : exec (.pcmp c o) s = execPcmp c o s := rfl
theorem exec_pand (c : Ctl) (o : PredBin) (s : State) : exec (.pand c o) s = execPand c o s := rfl
theorem exec_por (c : Ctl) (o : PredBin) (s : State) : exec (.por c o) s = execPor c o s := rfl
theorem exec_pxor (c : Ctl) (o : PredBin) (s : State) : exec (.pxor c o) s = execPxor c o s := rfl
theorem exec_pandn (c : Ctl) (o : PredBin) (s : State) : exec (.pandn c o) s = execPandn c o s := rfl
theorem exec_pnot (c : Ctl) (o : PredUn) (s : State) : exec (.pnot c o) s = execPnot c o s := rfl
theorem exec_pmov (c : Ctl) (o : PredUn) (s : State) : exec (.pmov c o) s = execPmov c o s := rfl
theorem exec_mand (c : Ctl) (o : MaskBin) (s : State) : exec (.mand c o) s = execMand c o s := rfl
theorem exec_mor (c : Ctl) (o : MaskBin) (s : State) : exec (.mor c o) s = execMor c o s := rfl
theorem exec_mxor (c : Ctl) (o : MaskBin) (s : State) : exec (.mxor c o) s = execMxor c o s := rfl
theorem exec_mandn (c : Ctl) (o : MaskBin) (s : State) : exec (.mandn c o) s = execMandn c o s := rfl
theorem exec_mnot (c : Ctl) (o : MaskUn) (s : State) : exec (.mnot c o) s = execMnot c o s := rfl
theorem exec_mmov (c : Ctl) (o : MaskUn) (s : State) : exec (.mmov c o) s = execMmov c o s := rfl
theorem exec_mpopc (c : Ctl) (o : MaskRead) (s : State) : exec (.mpopc c o) s = execMpopc c o s := rfl
theorem exec_mfirst (c : Ctl) (o : MaskRead) (s : State) : exec (.mfirst c o) s = execMfirst c o s := rfl
theorem exec_vsetl (c : Ctl) (o : SetForm) (s : State) : exec (.vsetl c o) s = execVsetl c o s := rfl
theorem exec_vsett (c : Ctl) (o : SetForm) (s : State) : exec (.vsett c o) s = execVsett c o s := rfl
theorem exec_vadd (c : Ctl) (o : VecBin) (s : State) : exec (.vadd c o) s = execVadd c o s := rfl
theorem exec_vsub (c : Ctl) (o : VecBin) (s : State) : exec (.vsub c o) s = execVsub c o s := rfl
theorem exec_vrsub (c : Ctl) (o : VecBin) (s : State) : exec (.vrsub c o) s = execVrsub c o s := rfl
theorem exec_vmin (c : Ctl) (o : VecBin) (s : State) : exec (.vmin c o) s = execVmin c o s := rfl
theorem exec_vmax (c : Ctl) (o : VecBin) (s : State) : exec (.vmax c o) s = execVmax c o s := rfl
theorem exec_vabsd (c : Ctl) (o : VecBin) (s : State) : exec (.vabsd c o) s = execVabsd c o s := rfl
theorem exec_vavg (c : Ctl) (o : VecBin) (s : State) : exec (.vavg c o) s = execVavg c o s := rfl
theorem exec_vmul (c : Ctl) (o : VecBin) (s : State) : exec (.vmul c o) s = execVmul c o s := rfl
theorem exec_vmulh (c : Ctl) (o : VecBin) (s : State) : exec (.vmulh c o) s = execVmulh c o s := rfl
theorem exec_vmacc (c : Ctl) (o : VecBin) (s : State) : exec (.vmacc c o) s = execVmacc c o s := rfl
theorem exec_vdiv (c : Ctl) (o : VecBin) (s : State) : exec (.vdiv c o) s = execVdiv c o s := rfl
theorem exec_vrem (c : Ctl) (o : VecBin) (s : State) : exec (.vrem c o) s = execVrem c o s := rfl
theorem exec_vand (c : Ctl) (o : VecBin) (s : State) : exec (.vand c o) s = execVand c o s := rfl
theorem exec_vor (c : Ctl) (o : VecBin) (s : State) : exec (.vor c o) s = execVor c o s := rfl
theorem exec_vxor (c : Ctl) (o : VecBin) (s : State) : exec (.vxor c o) s = execVxor c o s := rfl
theorem exec_vsll (c : Ctl) (o : VecBin) (s : State) : exec (.vsll c o) s = execVsll c o s := rfl
theorem exec_vsrl (c : Ctl) (o : VecBin) (s : State) : exec (.vsrl c o) s = execVsrl c o s := rfl
theorem exec_vsra (c : Ctl) (o : VecBin) (s : State) : exec (.vsra c o) s = execVsra c o s := rfl
theorem exec_vwadd (c : Ctl) (o : VecBin) (s : State) : exec (.vwadd c o) s = execVwadd c o s := rfl
theorem exec_vwmul (c : Ctl) (o : VecBin) (s : State) : exec (.vwmul c o) s = execVwmul c o s := rfl
theorem exec_vwmacc (c : Ctl) (o : VecBin) (s : State) : exec (.vwmacc c o) s = execVwmacc c o s := rfl
theorem exec_vnshr (c : Ctl) (o : VecNarrow) (s : State) : exec (.vnshr c o) s = execVnshr c o s := rfl
theorem exec_vfadd (c : Ctl) (o : VecFloatBin) (s : State) : exec (.vfadd c o) s = execVfadd c o s := rfl
theorem exec_vfsub (c : Ctl) (o : VecFloatBin) (s : State) : exec (.vfsub c o) s = execVfsub c o s := rfl
theorem exec_vfmul (c : Ctl) (o : VecFloatBin) (s : State) : exec (.vfmul c o) s = execVfmul c o s := rfl
theorem exec_vfdiv (c : Ctl) (o : VecFloatBin) (s : State) : exec (.vfdiv c o) s = execVfdiv c o s := rfl
theorem exec_vfsqrt (c : Ctl) (o : VecFloatUn) (s : State) : exec (.vfsqrt c o) s = execVfsqrt c o s := rfl
theorem exec_vfmin (c : Ctl) (o : VecFloatBin) (s : State) : exec (.vfmin c o) s = execVfmin c o s := rfl
theorem exec_vfmax (c : Ctl) (o : VecFloatBin) (s : State) : exec (.vfmax c o) s = execVfmax c o s := rfl
theorem exec_vfcopys (c : Ctl) (o : VecFloatBin) (s : State) : exec (.vfcopys c o) s = execVfcopys c o s := rfl
theorem exec_vfcopyn (c : Ctl) (o : VecFloatBin) (s : State) : exec (.vfcopyn c o) s = execVfcopyn c o s := rfl
theorem exec_vfxsign (c : Ctl) (o : VecFloatBin) (s : State) : exec (.vfxsign c o) s = execVfxsign c o s := rfl
theorem exec_vfma (c : Ctl) (o : VecFloatBin) (s : State) : exec (.vfma c o) s = execVfma c o s := rfl
theorem exec_vfms (c : Ctl) (o : VecFloatBin) (s : State) : exec (.vfms c o) s = execVfms c o s := rfl
theorem exec_vfnma (c : Ctl) (o : VecFloatBin) (s : State) : exec (.vfnma c o) s = execVfnma c o s := rfl
theorem exec_vfnms (c : Ctl) (o : VecFloatBin) (s : State) : exec (.vfnms c o) s = execVfnms c o s := rfl
theorem exec_vfwadd (c : Ctl) (o : VecFloatBin) (s : State) : exec (.vfwadd c o) s = execVfwadd c o s := rfl
theorem exec_vfwmul (c : Ctl) (o : VecFloatBin) (s : State) : exec (.vfwmul c o) s = execVfwmul c o s := rfl
theorem exec_vfwma (c : Ctl) (o : VecFloatBin) (s : State) : exec (.vfwma c o) s = execVfwma c o s := rfl
theorem exec_vfcvt (c : Ctl) (o : VecConvert) (s : State) : exec (.vfcvt c o) s = execVfcvt c o s := rfl
theorem exec_vfcvti (c : Ctl) (o : VecConvert) (s : State) : exec (.vfcvti c o) s = execVfcvti c o s := rfl
theorem exec_vicvtf (c : Ctl) (o : VecConvert) (s : State) : exec (.vicvtf c o) s = execVicvtf c o s := rfl
theorem exec_vfclass (c : Ctl) (o : VecUn) (s : State) : exec (.vfclass c o) s = execVfclass c o s := rfl
theorem exec_vcmp (c : Ctl) (o : VcmpForm) (s : State) : exec (.vcmp c o) s = execVcmp c o s := rfl
theorem exec_vmerge (c : Ctl) (o : VmergeForm) (s : State) : exec (.vmerge c o) s = execVmerge c o s := rfl
theorem exec_vmov (c : Ctl) (o : VecUn) (s : State) : exec (.vmov c o) s = execVmov c o s := rfl
theorem exec_vsplat (c : Ctl) (o : VsplatForm) (s : State) : exec (.vsplat c o) s = execVsplat c o s := rfl
theorem exec_vext (c : Ctl) (o : VextForm) (s : State) : exec (.vext c o) s = execVext c o s := rfl
theorem exec_vins (c : Ctl) (o : VinsForm) (s : State) : exec (.vins c o) s = execVins c o s := rfl
theorem exec_vmrank (c : Ctl) (o : VmrankForm) (s : State) : exec (.vmrank c o) s = execVmrank c o s := rfl
theorem exec_vid (c : Ctl) (o : VidForm) (s : State) : exec (.vid c o) s = execVid c o s := rfl
theorem exec_vshuf (c : Ctl) (o : VshufForm) (s : State) : exec (.vshuf c o) s = execVshuf c o s := rfl
theorem exec_vslideup (c : Ctl) (o : VslideForm) (s : State) : exec (.vslideup c o) s = execVslideup c o s := rfl
theorem exec_vslidedn (c : Ctl) (o : VslideForm) (s : State) : exec (.vslidedn c o) s = execVslidedn c o s := rfl
theorem exec_vcompress (c : Ctl) (o : VcompressForm) (s : State) : exec (.vcompress c o) s = execVcompress c o s := rfl
theorem exec_vexpand (c : Ctl) (o : VexpandForm) (s : State) : exec (.vexpand c o) s = execVexpand c o s := rfl
theorem exec_vredsum (c : Ctl) (o : VecReduce) (s : State) : exec (.vredsum c o) s = execVredsum c o s := rfl
theorem exec_vredmin (c : Ctl) (o : VecReduce) (s : State) : exec (.vredmin c o) s = execVredmin c o s := rfl
theorem exec_vredmax (c : Ctl) (o : VecReduce) (s : State) : exec (.vredmax c o) s = execVredmax c o s := rfl
theorem exec_vredand (c : Ctl) (o : VecReduce) (s : State) : exec (.vredand c o) s = execVredand c o s := rfl
theorem exec_vredor (c : Ctl) (o : VecReduce) (s : State) : exec (.vredor c o) s = execVredor c o s := rfl
theorem exec_vredxor (c : Ctl) (o : VecReduce) (s : State) : exec (.vredxor c o) s = execVredxor c o s := rfl
theorem exec_vfredo (c : Ctl) (o : VecFloatReduce) (s : State) : exec (.vfredo c o) s = execVfredo c o s := rfl
theorem exec_vfredt (c : Ctl) (o : VecFloatReduce) (s : State) : exec (.vfredt c o) s = execVfredt c o s := rfl
theorem exec_vfredmin (c : Ctl) (o : VecFloatReduce) (s : State) : exec (.vfredmin c o) s = execVfredmin c o s := rfl
theorem exec_vfredmax (c : Ctl) (o : VecFloatReduce) (s : State) : exec (.vfredmax c o) s = execVfredmax c o s := rfl
theorem exec_vdefer (c : Ctl) (o : VdeferForm) (s : State) : exec (.vdefer c o) s = execVdefer c o s := rfl
theorem exec_vdrain (c : Ctl) (o : VdrainForm) (s : State) : exec (.vdrain c o) s = execVdrain c o s := rfl
theorem exec_vdcount (c : Ctl) (o : VdcountForm) (s : State) : exec (.vdcount c o) s = execVdcount c o s := rfl
theorem exec_qsetUnit (c : Ctl) (o : QsetForm) (s : State) : exec (.qsetUnit c o) s = execQsetUnit c o s := rfl
theorem exec_qsetStride (c : Ctl) (o : QsetForm) (s : State) : exec (.qsetStride c o) s = execQsetStride c o s := rfl
theorem exec_qsetSeg (c : Ctl) (o : QsetSegForm) (s : State) : exec (.qsetSeg c o) s = execQsetSeg c o s := rfl
theorem exec_qsetInd (c : Ctl) (o : QsetIndForm) (s : State) : exec (.qsetInd c o) s = execQsetInd c o s := rfl
theorem exec_vld (c : Ctl) (o : VloadForm) (s : State) : exec (.vld c o) s = execVld c o s := rfl
theorem exec_vldseg (c : Ctl) (o : VloadForm) (s : State) : exec (.vldseg c o) s = execVldseg c o s := rfl
theorem exec_vst (c : Ctl) (o : VstoreForm) (s : State) : exec (.vst c o) s = execVst c o s := rfl
theorem exec_vstseg (c : Ctl) (o : VstoreForm) (s : State) : exec (.vstseg c o) s = execVstseg c o s := rfl
theorem exec_vstc (c : Ctl) (o : VstoreForm) (s : State) : exec (.vstc c o) s = execVstc c o s := rfl
theorem exec_loadDataArrival (slot : Nat) (group : Nat) (s : State) : exec (.loadDataArrival slot group) s = execLoadDataArrival slot group s := rfl
theorem exec_mopa (c : Ctl) (o : MopaForm) (s : State) : exec (.mopa c o) s = execMopa c o s := rfl
theorem exec_mops (c : Ctl) (o : MopaForm) (s : State) : exec (.mops c o) s = execMops c o s := rfl
theorem exec_mstage (c : Ctl) (o : MstageForm) (s : State) : exec (.mstage c o) s = execMstage c o s := rfl
theorem exec_mswap (c : Ctl) (s : State) : exec (.mswap c) s = execMswap c s := rfl
theorem exec_mstream (c : Ctl) (o : MstreamForm) (s : State) : exec (.mstream c o) s = execMstream c o s := rfl
theorem exec_zread (c : Ctl) (o : ZreadForm) (s : State) : exec (.zread c o) s = execZread c o s := rfl
theorem exec_zwrite (c : Ctl) (o : ZwriteForm) (s : State) : exec (.zwrite c o) s = execZwrite c o s := rfl
theorem exec_zzero (c : Ctl) (o : ZzeroForm) (s : State) : exec (.zzero c o) s = execZzero c o s := rfl
theorem exec_zsave (c : Ctl) (o : ZmemForm) (s : State) : exec (.zsave c o) s = execZsave c o s := rfl
theorem exec_zload (c : Ctl) (o : ZmemForm) (s : State) : exec (.zload c o) s = execZload c o s := rfl
theorem exec_eqint (c : Ctl) (o : EqintForm) (s : State) : exec (.eqint c o) s = execEqint c o s := rfl
theorem exec_eqmrg (c : Ctl) (o : EqmrgForm) (s : State) : exec (.eqmrg c o) s = execEqmrg c o s := rfl
theorem exec_eqnz (c : Ctl) (o : EqnzForm) (s : State) : exec (.eqnz c o) s = execEqnz c o s := rfl
theorem exec_eqnzCursorForm (c : Ctl) (o : EqnzCursorForm) (s : State) : exec (.eqnzCursorForm c o) s = execEqnzCursorForm c o s := rfl
theorem exec_eqsplt (c : Ctl) (o : EqspltForm) (s : State) : exec (.eqsplt c o) s = execEqsplt c o s := rfl
theorem exec_eqsave (c : Ctl) (o : CursorMemForm) (s : State) : exec (.eqsave c o) s = execEqsave c o s := rfl
theorem exec_eqload (c : Ctl) (o : CursorMemForm) (s : State) : exec (.eqload c o) s = execEqload c o s := rfl
theorem exec_tresize (c : Ctl) (o : TresizeForm) (s : State) : exec (.tresize c o) s = execTresize c o s := rfl
theorem exec_tgive (c : Ctl) (o : TgiveForm) (s : State) : exec (.tgive c o) s = execTgive c o s := rfl
theorem exec_tcopy (c : Ctl) (o : TcopyForm) (s : State) : exec (.tcopy c o) s = execTcopy c o s := rfl
theorem exec_tcast (c : Ctl) (o : TcastForm) (s : State) : exec (.tcast c o) s = execTcast c o s := rfl
theorem exec_transferComplete (id : Nat) (s : State) : exec (.transferComplete id) s = execTransferComplete id s := rfl
theorem exec_mergeWindowClose (line : Nat) (s : State) : exec (.mergeWindowClose line) s = execMergeWindowClose line s := rfl
theorem exec_tcastLineDelivery (id : Nat) (s : State) : exec (.tcastLineDelivery id) s = execTcastLineDelivery id s := rfl
theorem exec_amo (c : Ctl) (o : AmoForm) (s : State) : exec (.amo c o) s = execAmo c o s := rfl
theorem exec_vamo (c : Ctl) (o : VamoForm) (s : State) : exec (.vamo c o) s = execVamo c o s := rfl
theorem exec_vlock (c : Ctl) (o : VlockForm) (s : State) : exec (.vlock c o) s = execVlock c o s := rfl
theorem exec_vunlock (c : Ctl) (o : VunlockForm) (s : State) : exec (.vunlock c o) s = execVunlock c o s := rfl
theorem exec_fence (c : Ctl) (o : FenceForm) (s : State) : exec (.fence c o) s = execFence c o s := rfl
theorem exec_barinit (c : Ctl) (o : BarinitForm) (s : State) : exec (.barinit c o) s = execBarinit c o s := rfl
theorem exec_bararv (c : Ctl) (o : BararvForm) (s : State) : exec (.bararv c o) s = execBararv c o s := rfl
theorem exec_barexp (c : Ctl) (o : BarForm) (s : State) : exec (.barexp c o) s = execBarexp c o s := rfl
theorem exec_barwait (c : Ctl) (o : BarForm) (s : State) : exec (.barwait c o) s = execBarwait c o s := rfl
theorem exec_barwaitReturn (slot : Nat) (s : State) : exec (.barwaitReturn slot) s = execBarwaitReturn slot s := rfl
theorem exec_lsync (c : Ctl) (o : LsyncForm) (s : State) : exec (.lsync c o) s = execLsync c o s := rfl
theorem exec_tlaunch (c : Ctl) (o : TlaunchForm) (s : State) : exec (.tlaunch c o) s = execTlaunch c o s := rfl
theorem exec_tlaunchCopy (slot : Nat) (s : State) : exec (.tlaunchCopy slot) s = execTlaunchCopy slot s := rfl
theorem exec_twait (c : Ctl) (o : TwaitForm) (s : State) : exec (.twait c o) s = execTwait c o s := rfl
theorem exec_evpop (c : Ctl) (o : EvpopForm) (s : State) : exec (.evpop c o) s = execEvpop c o s := rfl
theorem exec_rfence (c : Ctl) (o : RfenceForm) (s : State) : exec (.rfence c o) s = execRfence c o s := rfl
theorem exec_wmap (c : Ctl) (o : WmapForm) (s : State) : exec (.wmap c o) s = execWmap c o s := rfl
theorem exec_wunmap (c : Ctl) (o : WunmapForm) (s : State) : exec (.wunmap c o) s = execWunmap c o s := rfl
theorem exec_fetchPacket (slot : Nat) (s : State) : exec (.fetchPacket slot) s = execFetchPacket slot s := rfl
theorem exec_lanternIssue (slot : Nat) (s : State) : exec (.lanternIssue slot) s = execLanternIssue slot s := rfl
theorem exec_lanternForkCopyDone (slot : Nat) (s : State) : exec (.lanternForkCopyDone slot) s = execLanternForkCopyDone slot s := rfl
theorem exec_lanternPublish (slot : Nat) (s : State) : exec (.lanternPublish slot) s = execLanternPublish slot s := rfl
theorem exec_prefetchFill (slot : Nat) (line : Nat) (wasted : Bool) (s : State) : exec (.prefetchFill slot line wasted) s = execPrefetchFill slot line wasted s := rfl
theorem exec_pinTimeout (pair : Nat) (line : Nat) (s : State) : exec (.pinTimeout pair line) s = execPinTimeout pair line s := rfl
theorem exec_replWindowEnd (gone : List Nat) (keptRd : PageCounts) (keptWr : PageCounts) (s : State) : exec (.replWindowEnd gone keptRd keptWr) s = execReplWindowEnd gone keptRd keptWr s := rfl
theorem exec_combiningWriteback (word : Nat) (s : State) : exec (.combiningWriteback word) s = execCombiningWriteback word s := rfl
theorem exec_beaconPacketApply (pkt : Arrival) (s : State) : exec (.beaconPacketApply pkt) s = execBeaconPacketApply pkt s := rfl
theorem exec_reflectTimeout (id : Nat) (s : State) : exec (.reflectTimeout id) s = execReflectTimeout id s := rfl
theorem exec_linkFailureReport (w : Writer) (part : FabricPart) (failed : Bool) (s : State) : exec (.linkFailureReport w part failed) s = execLinkFailureReport w part failed s := rfl
theorem exec_doorbell (w : Writer) (p : Nat) (n : Nat) (tail : BitVec 32) (s : State) : exec (.doorbell w p n tail) s = execDoorbell w p n tail s := rfl
theorem exec_queueEnable (w : Writer) (p : Nat) (n : Nat) (s : State) : exec (.queueEnable w p n) s = execQueueEnable w p n s := rfl
theorem exec_queueDisable (w : Writer) (p : Nat) (n : Nat) (s : State) : exec (.queueDisable w p n) s = execQueueDisable w p n s := rfl
theorem exec_takeRecord (p : Nat) (n : Nat) (s : State) : exec (.takeRecord p n) s = execTakeRecord p n s := rfl
theorem exec_residencyWalk (p : Nat) (n : Nat) (s : State) : exec (.residencyWalk p n) s = execResidencyWalk p n s := rfl
theorem exec_lfstat (w : Writer) (p : Nat) (value : Word) (s : State) : exec (.lfstat w p value) s = execLfstat w p value s := rfl
theorem exec_dispatchRound (p : Nat) (rank : Nat) (pick : Nat) (s : State) : exec (.dispatchRound p rank pick) s = execDispatchRound p rank pick s := rfl
theorem exec_gangResume (p : Nat) (s : State) : exec (.gangResume p) s = execGangResume p s := rfl
theorem exec_gangSave (gang : Nat) (s : State) : exec (.gangSave gang) s = execGangSave gang s := rfl
theorem exec_taskRetire (p : Nat) (queue : Nat) (seq : Nat) (s : State) : exec (.taskRetire p queue seq) s = execTaskRetire p queue seq s := rfl
theorem exec_taskEnd (p : Nat) (queue : Nat) (seq : Nat) (s : State) : exec (.taskEnd p queue seq) s = execTaskEnd p queue seq s := rfl
theorem exec_preempt (w : Writer) (p : Nat) (queue : Nat) (seq : Nat) (s : State) : exec (.preempt w p queue seq) s = execPreempt w p queue seq s := rfl
theorem exec_resume (w : Writer) (p : Nat) (queue : Nat) (seq : Nat) (s : State) : exec (.resume w p queue seq) s = execResume w p queue seq s := rfl
theorem exec_revoke (w : Writer) (p : Nat) (queue : Nat) (seq : Nat) (s : State) : exec (.revoke w p queue seq) s = execRevoke w p queue seq s := rfl
theorem exec_claim (m : Master) (s : State) : exec (.claim m) s = execClaim m s := rfl
theorem exec_respond (m : Master) (s : State) : exec (.respond m) s = execRespond m s := rfl
theorem exec_handover (m : Master) (target : BitVec 2) (s : State) : exec (.handover m target) s = execHandover m target s := rfl
theorem exec_release (m : Master) (s : State) : exec (.release m) s = execRelease m s := rfl
theorem exec_respondTimeout (s : State) : exec .respondTimeout s = execRespondTimeout s := rfl
theorem exec_ownerLinkDown (s : State) : exec .ownerLinkDown s = execOwnerLinkDown s := rfl
theorem exec_partitionEnable (m : Master) (p : Nat) (s : State) : exec (.partitionEnable m p) s = execPartitionEnable m p s := rfl
theorem exec_partitionDisable (m : Master) (p : Nat) (s : State) : exec (.partitionDisable m p) s = execPartitionDisable m p s := rfl
theorem exec_partitionDisableComplete (p : Nat) (s : State) : exec (.partitionDisableComplete p) s = execPartitionDisableComplete p s := rfl
theorem exec_runtimeStart (w : Writer) (p : Nat) (value : Word) (s : State) : exec (.runtimeStart w p value) s = execRuntimeStart w p value s := rfl
theorem exec_runtimeStop (w : Writer) (p : Nat) (s : State) : exec (.runtimeStop w p) s = execRuntimeStop w p s := rfl
theorem exec_shoot (w : Writer) (p : Nat) (s : State) : exec (.shoot w p) s = execShoot w p s := rfl
theorem exec_shootComplete (p : Nat) (s : State) : exec (.shootComplete p) s = execShootComplete p s := rfl
theorem exec_drain (w : Writer) (p : Nat) (s : State) : exec (.drain w p) s = execDrain w p s := rfl
theorem exec_drainBegin (p : Nat) (s : State) : exec (.drainBegin p) s = execDrainBegin p s := rfl
theorem exec_drainComplete (p : Nat) (s : State) : exec (.drainComplete p) s = execDrainComplete p s := rfl
theorem exec_confirm (w : Writer) (p : Nat) (s : State) : exec (.confirm w p) s = execConfirm w p s := rfl
theorem exec_confirmComplete (p : Nat) (s : State) : exec (.confirmComplete p) s = execConfirmComplete p s := rfl
theorem exec_ssettle (w : Writer) (p : Nat) (value : Word) (s : State) : exec (.ssettle w p value) s = execSsettle w p value s := rfl
theorem exec_settleComplete (p : Nat) (s : State) : exec (.settleComplete p) s = execSettleComplete p s := rfl
theorem exec_formatRegionEnable (w : Writer) (p : Nat) (n : Nat) (s : State) : exec (.formatRegionEnable w p n) s = execFormatRegionEnable w p n s := rfl
theorem exec_formatRegionDisable (w : Writer) (p : Nat) (n : Nat) (s : State) : exec (.formatRegionDisable w p n) s = execFormatRegionDisable w p n s := rfl
theorem exec_replctl (w : Writer) (p : Nat) (value : Word) (s : State) : exec (.replctl w p value) s = execReplctl w p value s := rfl
theorem exec_rflstat (w : Writer) (p : Nat) (value : Word) (s : State) : exec (.rflstat w p value) s = execRflstat w p value s := rfl
theorem exec_errstat (w : Writer) (p : Nat) (value : Word) (s : State) : exec (.errstat w p value) s = execErrstat w p value s := rfl
theorem exec_evqstat (w : Writer) (p : Nat) (n : Nat) (value : Word) (s : State) : exec (.evqstat w p n value) s = execEvqstat w p n value s := rfl
theorem exec_bcncfg (m : Master) (value : Word) (s : State) : exec (.bcncfg m value) s = execBcncfg m value s := rfl
theorem exec_summer (m : Master) (s : State) : exec (.summer m) s = execSummer m s := rfl
theorem exec_spring (m : Master) (s : State) : exec (.spring m) s = execSpring m s := rfl
theorem exec_autumn (m : Master) (s : State) : exec (.autumn m) s = execAutumn m s := rfl
theorem exec_autumnEntry (s : State) : exec .autumnEntry s = execAutumnEntry s := rfl
theorem exec_winter (m : Master) (s : State) : exec (.winter m) s = execWinter m s := rfl
theorem exec_dbgreq (m : Master) (level : BitVec 2) (s : State) : exec (.dbgreq m level) s = execDbgreq m level s := rfl
theorem exec_debugGangHalt (m : Master) (gang : Nat) (s : State) : exec (.debugGangHalt m gang) s = execDebugGangHalt m gang s := rfl
theorem exec_attreq (m : Master) (s : State) : exec (.attreq m) s = execAttreq m s := rfl
theorem exec_deviceReset (s : State) : exec .deviceReset s = execDeviceReset s := rfl
theorem exec_linkTraining (link : Bool) (canTrain : Bool) (s : State) : exec (.linkTraining link canTrain) s = execLinkTraining link canTrain s := rfl
theorem exec_hostHdmWrite (m : Master) (addr : Nat) (bytes : List Byte) (s : State) : exec (.hostHdmWrite m addr bytes) s = execHostHdmWrite m addr bytes s := rfl
theorem exec_hostHdmRead (m : Master) (addr : Nat) (len : Nat) (s : State) : exec (.hostHdmRead m addr len) s = execHostHdmRead m addr len s := rfl
theorem exec_uncorrectableError (e : ErrorSite) (s : State) : exec (.uncorrectableError e) s = execUncorrectableError e s := rfl
theorem exec_correctedError (e : CorrectedSite) (s : State) : exec (.correctedError e) s = execCorrectedError e s := rfl
theorem exec_registerWrite (w : Writer) (offset : Nat) (value : Word) (s : State) : exec (.registerWrite w offset value) s = execRegisterWrite w offset value s := rfl
theorem exec_linkDown (link : Bool) (s : State) : exec (.linkDown link) s = execLinkDown link s := rfl
theorem exec_debugGangResume (m : Master) (gang : Nat) (s : State) : exec (.debugGangResume m gang) s = execDebugGangResume m gang s := rfl
theorem exec_debugMemoryWrite (m : Master) (addr : Nat) (bytes : List Byte) (s : State) : exec (.debugMemoryWrite m addr bytes) s = execDebugMemoryWrite m addr bytes s := rfl
theorem exec_securityStateEntry (sec : BitVec 2) (s : State) : exec (.securityStateEntry sec) s = execSecurityStateEntry sec s := rfl
theorem exec_ownerKeyReplace (m : Master) (index : BitVec 2) (key : List Byte) (s : State) : exec (.ownerKeyReplace m index key) s = execOwnerKeyReplace m index key s := rfl
theorem exec_attestationReportReady (m : Master) (s : State) : exec (.attestationReportReady m) s = execAttestationReportReady m s := rfl
theorem exec_powerTransitionComplete (s : State) : exec .powerTransitionComplete s = execPowerTransitionComplete s := rfl
theorem exec_reflectionAcknowledgement (id : Nat) (applied : Bool) (cause : BitVec 3) (s : State) : exec (.reflectionAcknowledgement id applied cause) s = execReflectionAcknowledgement id applied cause s := rfl
theorem exec_hostCoherenceAccept (s : State) : exec .hostCoherenceAccept s = execHostCoherenceAccept s := rfl

end Sys2Proof.Machine
end

