-- ==== Sys2Proof/Laws/Vector.lean ====
section
/-! SUPPORT. The element loop of R242: what it has written when it stands at a position, and what the
element-wise mould answers. -/

namespace Sys2Proof.Machine

/-! ## Loops over positions -/

/-- A loop whose positions all perform keeps an invariant and finishes. -/
theorem eachPos_finished {σ : Type} {f : Nat → σ → Except Denied σ} {P : Nat → σ → Prop} {n i : Nat} {x : σ} (h0 : P i x)
    (hs : ∀ j y, i ≤ j → j < i + n → P j y → ∃ z, f j y = .ok z ∧ P (j + 1) z) :
    ∃ y, eachPos f n i none x = .finished y ∧ P (i + n) y := by
  induction n generalizing i x with
  | zero => exact ⟨x, rfl, h0⟩
  | succ n ih =>
    obtain ⟨z, hz, pz⟩ := hs i x (Nat.le_refl i) (by omega) h0
    obtain ⟨y, hy, py⟩ := ih pz fun j y h1 h2 hp => hs j y (by omega) (by omega) hp
    refine ⟨y, ?_, by rw [show i + (n + 1) = i + 1 + n from by omega]; exact py⟩
    unfold eachPos
    simp only [reduceCtorEq, if_false, hz, Option.map_none]
    exact hy

/-- With a budget of fewer positions it stops there. -/
theorem eachPos_stopped {σ : Type} {f : Nat → σ → Except Denied σ} {P : Nat → σ → Prop} {k n i : Nat} {x : σ} (h0 : P i x)
    (hk : k < n) (hs : ∀ j y, i ≤ j → j < i + n → P j y → ∃ z, f j y = .ok z ∧ P (j + 1) z) :
    ∃ y, eachPos f n i (some k) x = .stopped y (i + k) ∧ P (i + k) y := by
  induction n generalizing i x k with
  | zero => omega
  | succ n ih =>
    cases k with
    | zero => exact ⟨x, by simp [eachPos], h0⟩
    | succ k =>
      obtain ⟨z, hz, pz⟩ := hs i x (Nat.le_refl i) (by omega) h0
      obtain ⟨y, hy, py⟩ := ih (k := k) pz (by omega) fun j y h1 h2 hp => hs j y (by omega) (by omega) hp
      refine ⟨y, ?_, by rw [show i + (k + 1) = i + 1 + k from by omega]; exact py⟩
      unfold eachPos
      simp only [hz, Option.map_some, Nat.add_sub_cancel, show i + (k + 1) = i + 1 + k from by omega]
      simpa using hy

/-! ## What an element-wise instruction has written below a position -/

theorem elemGet_beyond {w : Nat} (hd : w ∣ 8192) (r : VReg) {i : Nat} (hi : 8192 / w ≤ i) : elemGet r w i = 0 := by
  apply BitVec.eq_of_getLsbD_eq
  intro k hk
  rw [getLsbD_elemGet]
  have : 8192 ≤ i * w := by
    have := Nat.mul_le_mul_right w hi
    rw [Nat.div_mul_cancel hd] at this
    exact this
  rw [BitVec.getLsbD_of_ge r (i * w + k) (by omega)]
  simp

/-- The hart `x` is `h` with the elements from VSTART to `i` of `d` written and their flags raised. -/
structure VecUpTo (h : Hart) (d : VIdx) (w : Nat) (m : Mask) (val : Nat → Word × FFlags) (i : Nat) (x : Hart) : Prop where
  elems : ∀ j, j < 8192 / w → elemGet (x.getV d) w j =
    if j < i then h.moulded d w m (fun k => (val k).1) j else elemGet (h.getV d) w j
  others : ∀ v, v ≠ d → x.getV v = h.getV v
  vstart : x.regs.vstart = h.regs.vstart
  fcsr : x.fcsr =
    (h.raise (((List.range' h.vstart (i - h.vstart)).filter fun k => h.active m k).foldl (fun f k => f ||| (val k).2) 0)).fcsr
  rest : x.sansVector = h.sansVector

section upTo

variable {h x : Hart} {d : VIdx} {w : Nat} {m : Mask} {val : Nat → Word × FFlags} {i : Nat}

theorem vecUpTo_start : VecUpTo h d w m val h.vstart h where
  elems j _ := by
    unfold Hart.moulded
    split
    · rw [if_neg (by omega)]
    · rfl
  others _ _ := rfl
  vstart := rfl
  fcsr := by simp [Hart.raise]
  rest := rfl

theorem vecUpTo_poison (hx : VecUpTo h d w m val i x) (hp : h.poison = []) : x.poison = [] := by
  have := congrArg Hart.poison hx.rest
  exact this.trans hp

theorem vecUpTo_getS (hx : VecUpTo h d w m val i x) (k : SIdx) : x.getS k = h.getS k := by
  have := congrArg (fun y => y.regs.s) hx.rest
  unfold Hart.getS Regs.getS
  rw [show x.regs.s = h.regs.s from this]

theorem vecUpTo_getM (hx : VecUpTo h d w m val i x) (k : MIdx) : x.getM k = h.getM k := by
  have := congrArg (fun y => y.regs.m) hx.rest
  unfold Hart.getM Regs.getM
  rw [show x.regs.m = h.regs.m from this]

theorem vecUpTo_flush (hx : VecUpTo h d w m val i x) : x.flush = h.flush := by
  have := congrArg (fun y => y.regs.vtype) hx.rest
  unfold Hart.flush Hart.fz
  rw [show x.regs.vtype = h.regs.vtype from this]

/-- Flags never reach the rounding mode. -/
theorem round_raise (h : Hart) (f : FFlags) (rm : Rm) : (h.raise f).round rm = h.round rm := by
  cases rm
  case dyn =>
    unfold Hart.round frmRound Hart.raise
    have : (h.fcsr ||| f &&& 0xF8#8).extractLsb' 0 3 = h.fcsr.extractLsb' 0 3 := by
      apply BitVec.eq_of_getLsbD_eq
      intro k hk
      have h8 : (0xF8#8).getLsbD k = false := by
        have : k = 0 ∨ k = 1 ∨ k = 2 := by omega
        rcases this with rfl | rfl | rfl <;> decide
      simp [BitVec.getLsbD_extractLsb', h8]
    simp only [this]
  all_goals rfl

theorem vecUpTo_round (hx : VecUpTo h d w m val i x) (rm : Rm) : x.round rm = h.round rm := by
  have : x.round rm = (h.raise (((List.range' h.vstart (i - h.vstart)).filter fun k => h.active m k).foldl
      (fun f k => f ||| (val k).2) 0)).round rm := by
    cases rm
    case dyn => unfold Hart.round; rw [hx.fcsr]
    all_goals rfl
  rw [this, round_raise]

/-- Element `i` of every source is still as it was: of another register, or of the destination at its own
width. -/
theorem vecUpTo_elem (hx : VecUpTo h d w m val i x) (hd : w ∣ 8192) {v : VIdx} {w' : Nat} (hv : v = d → w' = w) :
    elemGet (x.getV v) w' i = elemGet (h.getV v) w' i := by
  by_cases e : v = d
  · subst e
    obtain rfl := hv rfl
    by_cases hi : i < 8192 / w'
    · rw [hx.elems i hi, if_neg (by omega)]
    · rw [elemGet_beyond hd _ (by omega), elemGet_beyond hd _ (by omega)]
  · rw [hx.others v e]

theorem vecUpTo_vsrc (hx : VecUpTo h d w m val i x) (hd : w ∣ 8192) (t : Ty) {b : VSrc}
    (hv : ∀ v, b = .vec v → v = d → t.slotWidth = w) : x.vsrc t b i = h.vsrc t b i := by
  cases b with
  | vec v => exact vecUpTo_elem hx hd (hv v rfl)
  | reg s => unfold Hart.vsrc; simp only [vecUpTo_getS hx]
  | imm v => rfl

theorem sansVector_setV (h : Hart) (v : VIdx) (x : VReg) : (h.setV v x).sansVector = h.sansVector := rfl
theorem sansVector_raise (h : Hart) (f : FFlags) : (h.raise f).sansVector = h.sansVector := rfl

theorem flags_succ {a n : Nat} (ha : a ≤ n) (act : Nat → Bool) (f : Nat → FFlags) :
    ((List.range' a (n + 1 - a)).filter act).foldl (fun y k => y ||| f k) 0 =
      if act n then ((List.range' a (n - a)).filter act).foldl (fun y k => y ||| f k) 0 ||| f n
      else ((List.range' a (n - a)).filter act).foldl (fun y k => y ||| f k) 0 := by
  have e : n + 1 - a = (n - a) + 1 := by omega
  rw [e, List.range'_concat, List.filter_append, List.foldl_append]
  have : a + 1 * (n - a) = n := by omega
  rw [this]
  cases hn : act n <;> simp [hn]

/-- The next element, where it is active. -/
theorem vecUpTo_active (hx : VecUpTo h d w m val i x) (hw : w ≤ 64) (h1 : h.vstart ≤ i) (h2 : i < h.vl)
    (ha : h.active m i = true) : VecUpTo h d w m val (i + 1) (x.putElem d w i (val i)) where
  elems j hj := by
    show elemGet ((x.setV d (elemSet (x.getV d) w i (val i).1)).getV d) w j = _
    rw [getV_setV_same]
    by_cases e : j = i
    · subst e
      rw [elemGet_elemSet_same _ hw hj, if_pos (by omega)]
      unfold Hart.moulded
      rw [if_pos ⟨h1, h2⟩, if_pos ha]
    · rw [elemGet_elemSet_other _ hw e hj, hx.elems j hj]
      by_cases hlt : j < i
      · rw [if_pos hlt, if_pos (by omega)]
      · rw [if_neg hlt, if_neg (by omega)]
  others v hv := by
    show (x.setV d _).getV v = _
    rw [getV_setV_other _ _ _ _ hv, hx.others v hv]
  vstart := hx.vstart
  fcsr := by
    rw [flags_succ h1, if_pos ha]
    show x.fcsr ||| ((val i).2 &&& 0xF8#8) = _
    rw [hx.fcsr]
    simp only [Hart.raise]
    rw [BitVec.or_assoc]
    congr 1
    apply BitVec.eq_of_getLsbD_eq
    intro k hk
    simp only [BitVec.getLsbD_or, BitVec.getLsbD_and]
    cases (0xF8#8).getLsbD k <;> simp
  rest := by
    show ((x.setV d _).raise _).sansVector = _
    rw [sansVector_raise, sansVector_setV, hx.rest]

/-- The next element, where it is inactive. -/
theorem vecUpTo_inactive (hx : VecUpTo h d w m val i x) (hw : w ≤ 64) (h1 : h.vstart ≤ i) (h2 : i < h.vl)
    (ha : h.active m i = false) : VecUpTo h d w m val (i + 1) (x.skipElem d w m i) := by
  have hf : ∀ y, y = x.fcsr → y = (h.raise (((List.range' h.vstart (i + 1 - h.vstart)).filter fun k => h.active m k).foldl
      (fun f k => f ||| (val k).2) 0)).fcsr := by
    rintro y rfl
    rw [flags_succ h1, if_neg (by simp [ha]), hx.fcsr]
  unfold Hart.skipElem
  split
  next hz =>
    exact {
      elems := fun j hj => by
        rw [getV_setV_same]
        by_cases e : j = i
        · subst e
          rw [elemGet_elemSet_same _ hw hj, if_pos (by omega)]
          unfold Hart.moulded
          rw [if_pos ⟨h1, h2⟩, if_neg (by simp [ha]), if_pos hz]
          unfold low
          simp
        · rw [elemGet_elemSet_other _ hw e hj, hx.elems j hj]
          by_cases hlt : j < i
          · rw [if_pos hlt, if_pos (by omega)]
          · rw [if_neg hlt, if_neg (by omega)]
      others := fun v hv => by rw [getV_setV_other _ _ _ _ hv, hx.others v hv]
      vstart := hx.vstart
      fcsr := hf _ rfl
      rest := by rw [sansVector_setV, hx.rest] }
  next hz =>
    exact {
      elems := fun j hj => by
        rw [hx.elems j hj]
        by_cases e : j = i
        · subst e
          rw [if_neg (by omega), if_pos (by omega)]
          unfold Hart.moulded
          rw [if_pos ⟨h1, h2⟩, if_neg (by simp [ha]), if_neg hz]
        · by_cases hlt : j < i
          · rw [if_pos hlt, if_pos (by omega)]
          · rw [if_neg hlt, if_neg (by omega)]
      others := hx.others
      vstart := hx.vstart
      fcsr := hf _ rfl
      rest := hx.rest }

end upTo

/-! ## The mould -/

theorem cleanV_clean {h : Hart} (hp : h.poison = []) (d : VIdx) (w lo n : Nat) (f : Nat → Bool) : h.cleanV d w lo n f = h :=
  clearPoison_clean hp _

theorem poison_putElem (h : Hart) (d : VIdx) (w i : Nat) (x : Word × FFlags) : (h.putElem d w i x).poison = h.poison := rfl
theorem poison_skipElem (h : Hart) (d : VIdx) (w : Nat) (m : Mask) (i : Nat) : (h.skipElem d w m i).poison = h.poison := by
  unfold Hart.skipElem
  split <;> rfl

/-- A mask whose words hold no poison lets each element be performed or passed. -/
theorem underMask_clean {σ : Type} {h : Hart} (hp : h.poison = []) (m : Mask) (f g : Nat → σ → Except Denied σ) (i : Nat) (x : σ) :
    h.underMask m f g i x = if h.active m i then f i x else g i x := by
  simp [Hart.underMask, Hart.maskPoisoned, poisoned_of_none hp]

/-- One position of the element-wise mould, on a hart without poison. -/
theorem elementwise_step {h : Hart} {d : VIdx} {w : Nat} {m : Mask} {bad : Hart → Nat → Bool} {op : Hart → Nat → Word × FFlags}
    {val : Nat → Word × FFlags} (hp : h.poison = []) (hw : w ≤ 64) (hbad : ∀ x i, x.poison = [] → bad x i = false)
    (hop : ∀ x i, h.vstart ≤ i → i < h.vl → VecUpTo h d w m val i x → op x i = val i) (j : Nat) (y : Hart) (h1 : h.vstart ≤ j)
    (h2 : j < h.vl) (hy : VecUpTo h d w m val j y) :
    ∃ z, h.underMask m
        (fun i x => if bad x i then .error poisonTrap else .ok ((x.putElem d w i (op x i)).cleanV d w h.vstart (i + 1) (h.writes m)))
        (fun i x => .ok ((x.skipElem d w m i).cleanV d w h.vstart (i + 1) (h.writes m))) j y = .ok z ∧
      VecUpTo h d w m val (j + 1) z := by
  have hpy := vecUpTo_poison hy hp
  rw [underMask_clean hp]
  cases ha : h.active m j with
  | true =>
    refine ⟨y.putElem d w j (val j), ?_, vecUpTo_active hy hw h1 h2 ha⟩
    rw [if_pos rfl, if_neg (by simp [hbad y j hpy]), hop y j h1 h2 hy, cleanV_clean (h := y.putElem d w j (val j)) hpy]
  | false =>
    refine ⟨y.skipElem d w m j, ?_, vecUpTo_inactive hy hw h1 h2 ha⟩
    rw [if_neg (by simp), cleanV_clean ((poison_skipElem y d w m j).trans hpy)]

/-- The element-wise mould answers its result (R242). -/
theorem elementwise_done {s : State} {slot : Nat} {h : Hart} {gw w : Nat} {d : VIdx} {m : Mask} {whole : List Src}
    {bad : Hart → Nat → Bool} {op : Hart → Nat → Word × FFlags} {val : Nat → Word × FFlags}
    (hp : h.poison = []) (hb : s.budget = none) (hg : h.widthOk gw = true) (hw : w ≤ 64)
    (hbad : ∀ x i, x.poison = [] → bad x i = false)
    (hop : ∀ x i, h.vstart ≤ i → i < h.vl → VecUpTo h d w m val i x → op x i = val i) :
    ∃ g, elementwise s slot h gw w d m whole bad op = doneWith s slot g ∧
      VecResult h g d w (h.flagsOf m fun i => (val i).2) (h.moulded d w m fun i => (val i).1) := by
  obtain ⟨y, hy, py⟩ := eachPos_finished (P := VecUpTo h d w m val) (n := h.vl - h.vstart) vecUpTo_start
    (fun j y h1 h2 hy => elementwise_step hp hw hbad hop j y h1 (by omega) hy)
  refine ⟨y.setVstart 0, ?_, ?_⟩
  · unfold elementwise elementLoop
    simp only [hg, Bool.not_true, Bool.false_eq_true, if_false, unpoisoned, poisoned_of_none hp, hb]
    rw [hy]
  · refine ⟨fun j hj => ?_, fun v hv => (getV_setVstart y 0 v).trans (py.others v hv), by simp, ?_, ?_⟩
    · rw [getV_setVstart, py.elems j hj]
      split
      · rfl
      · unfold Hart.moulded
        rw [if_neg (by omega)]
    · rw [hart_setVstart_fcsr, py.fcsr]
      unfold Hart.flagsOf
      rw [show h.vstart + (h.vl - h.vstart) - h.vstart = h.vl - h.vstart from by omega]
    · rw [setVstart_clean (h := y) ((congrArg Hart.poison py.rest).trans hp)]
      exact py.rest

/-- Stopped by a budget of fewer elements than it has, it stands at the next one (R380, R381). -/
theorem elementwise_stopped {s : State} {slot : Nat} {h : Hart} {gw w k : Nat} {d : VIdx} {m : Mask} {whole : List Src}
    {bad : Hart → Nat → Bool} {op : Hart → Nat → Word × FFlags} {val : Nat → Word × FFlags}
    (hp : h.poison = []) (hb : s.budget = some k) (hk : k < h.vl - h.vstart) (hg : h.widthOk gw = true) (hw : w ≤ 64)
    (hbad : ∀ x i, x.poison = [] → bad x i = false)
    (hop : ∀ x i, h.vstart ≤ i → i < h.vl → VecUpTo h d w m val i x → op x i = val i) :
    ∃ y, elementwise s slot h gw w d m whole bad op = .keep (s.setHart slot (y.setVstart (h.vstart + k))) ∧
      VecUpTo h d w m val (h.vstart + k) y := by
  obtain ⟨y, hy, py⟩ := eachPos_stopped (P := VecUpTo h d w m val) (n := h.vl - h.vstart) vecUpTo_start hk
    (fun j y h1 h2 hy => elementwise_step hp hw hbad hop j y h1 (by omega) hy)
  refine ⟨y, ?_, py⟩
  unfold elementwise elementLoop
  simp only [hg, Bool.not_true, Bool.false_eq_true, if_false, unpoisoned, poisoned_of_none hp, hb]
  rw [hy]

end Sys2Proof.Machine
end

