-- ==== Sys2Proof/Laws/VectorMoulds.lean ====
section
/-! SUPPORT. What the moulds of the vector instructions answer on a hart without poison, whole instructions
included. -/

namespace Sys2Proof.Machine

theorem noteRunning_budget (s : State) (h : Hart) : (noteRunning s h).budget = s.budget := by
  unfold noteRunning
  repeat' split
  all_goals rfl

theorem width_ok (t : Ty) : t.width ≤ 64 ∧ t.width ∣ 8192 := by cases t <;> decide
theorem slotWidth_ok (t : Ty) : t.slotWidth ≤ 64 ∧ t.slotWidth ∣ 8192 := by cases t <;> decide

/-- A width that VTYPE can have is no nibble's, so elements stand in slots of their own width. -/
theorem slotWidth_of_widthOk {h : Hart} {t : Ty} (hg : h.widthOk t.width = true) : t.slotWidth = t.width := by
  unfold Hart.widthOk etypeWidth at hg
  cases t <;> first | rfl | (exfalso; revert hg; split <;> decide)

theorem vsrcPoisoned_of_none {x : Hart} (hx : x.poison = []) (b : VSrc) (w i : Nat) : x.vsrcPoisoned b w i = false := by
  cases b with
  | vec v => exact elemPoisoned_of_none hx v w i
  | _ => rfl

theorem flagsOf_zero (h : Hart) (m : Mask) : h.flagsOf m (fun _ => 0) = 0 := by
  unfold Hart.flagsOf
  induction ((List.range' h.vstart (h.vl - h.vstart)).filter fun i => h.active m i) with
  | nil => rfl
  | cons a l ih => simp

/-! ## Element-wise moulds -/

theorem vecBin_done {i : Instr} {op : Nat} {c : Ctl} {o : VecBin} {s : State} {slot : Nat} {h : Hart} (rd : Bool)
    (f : Ty → Word → Word → Word → Word) (he : exec i s = vecBin op c o s rd f) (hi : Issues op c s slot h) (hp : h.poison = [])
    (hb : s.budget = none) (hg : h.widthOk o.ty.width = true) :
    ∃ g, Completes i s slot h g ∧ VecResult h g o.d o.ty.width 0 (h.moulded o.d o.ty.width o.mask fun i =>
      f o.ty (elemGet (h.getV o.a) o.ty.width i) (h.vsrc o.ty o.b i) (elemGet (h.getV o.d) o.ty.width i)) := by
  obtain ⟨hw, hd⟩ := width_ok o.ty
  obtain ⟨g, hg1, hg2⟩ := elementwise_done (s := noteRunning s h) (slot := slot) (d := o.d) (m := o.mask) (whole := vsrcReads o.b)
    (bad := fun x i => poisonedAt x o.a o.b o.ty.width i || (rd && x.elemPoisoned o.d o.ty.width i))
    (op := fun x i => (f o.ty (elemGet (x.getV o.a) o.ty.width i) (x.vsrc o.ty o.b i) (elemGet (x.getV o.d) o.ty.width i), 0))
    (val := fun i => (f o.ty (elemGet (h.getV o.a) o.ty.width i) (h.vsrc o.ty o.b i) (elemGet (h.getV o.d) o.ty.width i), 0))
    hp ((noteRunning_budget s h).trans hb) hg hw
    (fun x i hx => by simp [poisonedAt, vsrcPoisoned_of_none hx, elemPoisoned_of_none hx])
    (fun x i _ _ hx => by
      rw [vecUpTo_elem hx hd (fun _ => rfl), vecUpTo_elem hx hd (fun _ => rfl), vecUpTo_vsrc hx hd _ (fun _ _ _ => slotWidth_of_widthOk hg)])
  refine ⟨g, completes_of he hi hg1, ?_⟩
  rw [flagsOf_zero] at hg2
  exact hg2

theorem vecFloat_done {i : Instr} {op : Nat} {c : Ctl} {o : VecFloatBin} {s : State} {slot : Nat} {h : Hart} (rd : Bool)
    (f : Fmt → Round → Flush → Word → Word → Word → Word × FFlags) (he : exec i s = vecFloat op c o s rd f) (hi : Issues op c s slot h)
    (hp : h.poison = []) (hb : s.budget = none) (hg : h.widthOk o.ty.width = true) :
    let x := fun i => f o.ty.fmt (h.round o.rm) h.flush (elemGet (h.getV o.a) o.ty.width i) (h.vsrc o.ty o.b i)
      (elemGet (h.getV o.d) o.ty.width i)
    ∃ g, Completes i s slot h g ∧
      VecResult h g o.d o.ty.width (h.flagsOf o.mask fun i => (x i).2) (h.moulded o.d o.ty.width o.mask fun i => (x i).1) := by
  intro val
  obtain ⟨hw, hd⟩ := width_ok o.ty
  obtain ⟨g, hg1, hg2⟩ := elementwise_done (s := noteRunning s h) (slot := slot) (d := o.d) (m := o.mask) (whole := vsrcReads o.b)
    (bad := fun x i => x.elemPoisoned o.a o.ty.width i || x.vsrcPoisoned o.b o.ty.width i || (rd && x.elemPoisoned o.d o.ty.width i))
    (op := fun x i => f o.ty.fmt (x.round o.rm) x.flush (elemGet (x.getV o.a) o.ty.width i) (x.vsrc o.ty o.b i) (elemGet (x.getV o.d) o.ty.width i))
    (val := val)
    hp ((noteRunning_budget s h).trans hb) hg hw
    (fun x i hx => by simp [vsrcPoisoned_of_none hx, elemPoisoned_of_none hx])
    (fun x i _ _ hx => by
      simp only [val]
      rw [vecUpTo_elem hx hd (fun _ => rfl), vecUpTo_elem hx hd (fun _ => rfl), vecUpTo_vsrc hx hd _ (fun _ _ _ => slotWidth_of_widthOk hg),
        vecUpTo_round hx, vecUpTo_flush hx])
  exact ⟨g, completes_of he hi hg1, hg2⟩

/-- One source, whose width may differ when it is another register (R243). -/
theorem vecUnary_done {i : Instr} {op : Nat} {c : Ctl} {src dst : Ty} {d a : VIdx} {m : Mask} {s : State} {slot : Nat} {h : Hart}
    (f : Hart → Word → Word × FFlags) (hf : ∀ x w, x.flush = h.flush → (∀ rm, x.round rm = h.round rm) → f x w = f h w)
    (he : exec i s = vecUnary op c src dst d a m s f) (hi : Issues op c s slot h)
    (hp : h.poison = []) (hb : s.budget = none) (hg : h.widthOk (max src.width dst.width) = true) (ha : a = d → src.width = dst.width) :
    let x := fun i => f h (elemGet (h.getV a) src.width i)
    ∃ g, Completes i s slot h g ∧
      VecResult h g d dst.width (h.flagsOf m fun i => (x i).2) (h.moulded d dst.width m fun i => (x i).1) := by
  intro val
  obtain ⟨hw, hd⟩ := width_ok dst
  obtain ⟨g, hg1, hg2⟩ := elementwise_done (s := noteRunning s h) (slot := slot) (d := d) (m := m) (whole := [])
    (bad := fun x i => x.elemPoisoned a src.width i) (op := fun x i => f x (elemGet (x.getV a) src.width i)) (val := val)
    hp ((noteRunning_budget s h).trans hb) hg hw (fun x i hx => elemPoisoned_of_none hx _ _ _)
    (fun x i _ _ hx => by
      simp only [val]
      rw [hf x _ (vecUpTo_flush hx) (vecUpTo_round hx), vecUpTo_elem hx hd ha])
  exact ⟨g, completes_of he hi hg1, hg2⟩

/-- Sources that are other registers than the destination, or of its width. -/
theorem elementwise_completes {i : Instr} {op : Nat} {c : Ctl} {s : State} {slot : Nat} {h : Hart} {gw w : Nat} {d : VIdx} {m : Mask}
    {whole : List Src} {bad : Hart → Nat → Bool} {f : Hart → Nat → Word × FFlags} (val : Nat → Word × FFlags)
    {body : State → Nat → Hart → Res} (he : exec i s = issue op c s body)
    (hbody : body (noteRunning s h) slot h = elementwise (noteRunning s h) slot h gw w d m whole bad f) (hi : Issues op c s slot h)
    (hp : h.poison = []) (hb : s.budget = none) (hg : h.widthOk gw = true) (hw : w ≤ 64)
    (hbad : ∀ x i, x.poison = [] → bad x i = false)
    (hop : ∀ x i, h.vstart ≤ i → i < h.vl → VecUpTo h d w m val i x → f x i = val i) :
    ∃ g, Completes i s slot h g ∧ VecResult h g d w (h.flagsOf m fun i => (val i).2) (h.moulded d w m fun i => (val i).1) := by
  obtain ⟨g, hg1, hg2⟩ := elementwise_done (s := noteRunning s h) (slot := slot) (whole := whole) hp ((noteRunning_budget s h).trans hb) hg hw hbad hop
  exact ⟨g, completes_of he hi (hbody.trans hg1), hg2⟩

/-! ## Whole instructions (R244) -/

/-- Writing some elements below `n`, each once. -/
theorem elems_fold {w : Nat} (hw : w ≤ 64) (n : Nat) (r : VReg) (f : Nat → Option Word) {j : Nat} (hj : j < 8192 / w) :
    elemGet ((List.range n).foldl (fun r i => match f i with | some x => elemSet r w i x | none => r) r) w j =
      if j < n then (match f j with | some x => low w x | none => elemGet r w j) else elemGet r w j := by
  induction n with
  | zero => simp
  | succ n ih =>
    rw [List.range_succ, List.foldl_append]
    simp only [List.foldl_cons, List.foldl_nil]
    cases hn : f n with
    | none =>
      simp only
      rw [ih]
      by_cases e : j = n
      · subst e
        simp [hn]
      · by_cases hlt : j < n
        · rw [if_pos hlt, if_pos (by omega)]
        · rw [if_neg hlt, if_neg (by omega)]
    | some x =>
      simp only
      by_cases e : j = n
      · subst e
        rw [elemGet_elemSet_same _ hw hj, if_pos (by omega)]
        simp [hn]
      · rw [elemGet_elemSet_other _ hw e hj, ih]
        by_cases hlt : j < n
        · rw [if_pos hlt, if_pos (by omega)]
        · rw [if_neg hlt, if_neg (by omega)]

/-- The mould of the whole instructions. -/
theorem wholeElements_done {i : Instr} {opc : Nat} {c : Ctl} {s : State} {slot : Nat} {h : Hart} {w : Nat} {d : VIdx} {m : Mask}
    {whole : List Src} {bad : Nat → Bool} {op : Nat → Option Word} {body : State → Nat → Hart → Res} (he : exec i s = issue opc c s body)
    (hbody : body (noteRunning s h) slot h = wholeElements (noteRunning s h) slot h w w d m whole bad op) (hi : Issues opc c s slot h)
    (hp : h.poison = []) (hg : h.widthOk w = true) (hw : w ≤ 64) (hbad : ∀ i, bad i = false) :
    ∃ g, Completes i s slot h g ∧ VecResult h g d w 0 fun i =>
      if i < h.vl then (match op i with
        | some x => if h.active m i then low w x else if maskZeroing m then 0 else elemGet (h.getV d) w i
        | none => elemGet (h.getV d) w i)
      else elemGet (h.getV d) w i := by
  let f : Nat → Option Word := fun i => match op i with
    | some x => if h.active m i then some x else if maskZeroing m then some 0 else none
    | none => none
  have hfold : (List.range h.vl).foldl (fun r i =>
        if h.active m i then (match op i with | some x => elemSet r w i x | none => r)
        else if maskZeroing m && (op i).isSome then elemSet r w i 0 else r) (h.getV d) =
      (List.range h.vl).foldl (fun r i => match f i with | some x => elemSet r w i x | none => r) (h.getV d) := by
    congr 1
    funext r i
    simp only [f]
    cases op i with
    | none => cases h.active m i <;> simp
    | some x => cases h.active m i <;> cases maskZeroing m <;> simp
  have hany : (List.range h.vl).any bad = false := by simp [hbad]
  refine ⟨(h.setV d ((List.range h.vl).foldl (fun r i => match f i with | some x => elemSet r w i x | none => r) (h.getV d))).setVstart 0,
    completes_of he hi ?_, ?_⟩
  · rw [hbody]
    unfold wholeElements
    simp only [hg, Bool.not_true, Bool.false_eq_true, if_false, unpoisoned, poisoned_of_none hp, hany]
    rw [cleanV_clean (h := h.setV d _) hp]
    exact congrArg (fun r => doneWith (noteRunning s h) slot ((h.setV d r).setVstart 0)) hfold
  · refine ⟨fun j hj => ?_, fun v hv' => ?_, by simp, ?_, ?_⟩
    · rw [getV_setVstart, getV_setV_same, elems_fold hw _ _ _ hj]
      simp only [f]
      split
      · cases op j with
        | none => rfl
        | some x => cases h.active m j <;> cases maskZeroing m <;> simp [low]
      · rfl
    · rw [getV_setVstart, getV_setV_other _ _ _ _ hv']
    · simp [Hart.raise]
    · rw [setVstart_clean (h := h.setV d _) hp]
      rfl

end Sys2Proof.Machine
end

