-- ==== Sys2Proof/Tests/Slice0.lean ====
section
/-! SUPPORT. Tests: ill-formed terms that the check refuses, words written from the spec's encoding
tables, single steps on small states with results from the spec, and a witness for the hypotheses of
every statement. -/

set_option Elab.async false

namespace Sys2Proof.Tests

open Sys2Proof Sys2Proof.Machine

/-! ## Well-formedness (R118): one ill-formed term for each check -/

theorem test_wf_guard : (Instr.nop { neg := true, pred := 0 }).wf = false ∧ (Instr.nop { neg := true, pred := 1 }).wf = true := by decide +kernel

theorem test_wf_scalar :
    (Instr.add {} { ty := .i16, sat := false, d := 1, a := 2, b := .reg 3 }).wf = false ∧
    (Instr.and_ {} { ty := .i32, sat := true, d := 1, a := 2, b := .reg 3 }).wf = false ∧
    (Instr.mov {} { ty := .f32, d := 1, a := 2 }).wf = false ∧
    (Instr.ext_ {} { ty := .i32, d := 1, a := 2, lo := 0, len1 := 3 }).wf = false ∧
    (Instr.ext_ {} { ty := .n64, d := 1, a := 2, lo := 33, len1 := 31 }).wf = false ∧
    (Instr.ext_ {} { ty := .n64, d := 1, a := 2, lo := 32, len1 := 31 }).wf = true ∧
    (Instr.movi {} { ty := .i32, d := 1, imm := 0 }).wf = false ∧
    (Instr.ld {} { ty := .i64, scope := .gang, d := 1, a := 2, off := 0 }).wf = false ∧
    (Instr.st {} { ty := .f64, scope := .core, a := 2, b := 1, off := 0 }).wf = false ∧
    (Instr.lsetup {} { loop1 := false, a := 1, off := 8 }).wf = false ∧
    (Instr.lsetup {} { loop1 := false, a := 1, off := 14 }).wf = false ∧
    (Instr.lsetup {} { loop1 := false, a := 1, off := 12 }).wf = true ∧
    (Instr.sysrd {} { d := 1, target := .window 4 }).wf = false := by decide +kernel

theorem test_wf_float :
    (Instr.fadd {} { ty := .f16, rm := .rne, d := 1, a := 2, b := .reg 3 }).wf = false ∧
    (Instr.fcopys {} { ty := .f32, rm := .dyn, d := 1, a := 2, b := .reg 3 }).wf = false ∧
    (Instr.fsqrt {} { ty := .i32, rm := .rne, d := 1, a := 2 }).wf = false ∧
    (Instr.fcvt {} { ty := .i32, rm := .rne, src := .f32, d := 1, a := 2 }).wf = false ∧
    (Instr.fcvti {} { ty := .i64, rm := .rne, src := .e4m3, d := 1, a := 2 }).wf = false ∧
    (Instr.icvtf {} { ty := .f32, rm := .rne, src := .f64, d := 1, a := 2 }).wf = false ∧
    (Instr.fclass {} { ty := .n8, d := 1, a := 2 }).wf = false ∧
    (Instr.pcmp {} { cond := .un, ty := .i64, d := 1, a := 2, b := .reg 3 }).wf = false := by decide +kernel

theorem test_wf_vector :
    (Instr.vadd {} { ty := .f32, sat := false, d := 1, a := 2, b := .vec 3, mask := .none }).wf = false ∧
    (Instr.vmin {} { ty := .i32, sat := true, d := 1, a := 2, b := .vec 3, mask := .none }).wf = false ∧
    (Instr.vadd {} { ty := .n8, sat := false, d := 1, a := 2, b := .imm 256, mask := .none }).wf = false ∧
    (Instr.vwadd {} { ty := .i8, sat := false, d := 1, a := 1, b := .vec 3, mask := .none }).wf = false ∧
    (Instr.vwadd {} { ty := .i64, sat := false, d := 1, a := 2, b := .vec 3, mask := .none }).wf = false ∧
    (Instr.vnshr {} { ty := .i8, sat := false, rm := .rtz, d := 1, a := 2, b := .vec 3, mask := .none }).wf = false ∧
    (Instr.vfadd {} { ty := .e4m3, rm := .rne, d := 1, a := 2, b := .vec 3, mask := .none }).wf = false ∧
    (Instr.vfsqrt {} { ty := .n32, rm := .rne, d := 1, a := 2, mask := .none }).wf = false ∧
    (Instr.vfwadd {} { ty := .f64, rm := .rne, d := 1, a := 2, b := .vec 3, mask := .none }).wf = false ∧
    (Instr.vfcvt {} { ty := .f32, rm := .rne, src := .f16, d := 1, a := 1, mask := .none }).wf = false ∧
    (Instr.vfcvti {} { ty := .i4, rm := .rne, src := .f16, d := 1, a := 2, mask := .none }).wf = false ∧
    (Instr.vicvtf {} { ty := .f32, rm := .rne, src := .n4, d := 1, a := 2, mask := .none }).wf = false ∧
    (Instr.vfclass {} { ty := .e5m2, d := 1, a := 2, mask := .none }).wf = false ∧
    (Instr.vcmp {} { cond := .un, ty := .i8, d := 1, a := 2, b := .vec 3, mask := .none }).wf = false ∧
    (Instr.vsplat {} { ty := .n4, d := 1, b := .imm 16, mask := .none }).wf = false ∧
    (Instr.vext {} { ty := .i4, d := 1, a := 2, b := .reg 3 }).wf = false ∧
    (Instr.vins {} { ty := .n4, d := 1, a := 2, b := .reg 3 }).wf = false ∧
    (Instr.vmrank {} { ty := .f32, d := 1, a := 2, mask := .none }).wf = false ∧
    (Instr.vid {} { ty := .f32, d := 1, mask := .none }).wf = false ∧
    (Instr.vredsum {} { ty := .f32, d := 1, a := 2, b := .reg 0, mask := .none }).wf = false ∧
    (Instr.vfredo {} { ty := .i32, rm := .rne, d := 1, a := 2, b := .reg 0, mask := .none }).wf = false := by decide +kernel

theorem test_wf_streams_and_queues :
    (Instr.vdefer {} { ty := .i32, d := 1, a := 62, b := 3, n1 := 2, path := 0, mask := .none }).wf = false ∧
    (Instr.vdrain {} { ty := .i32, d := 3, a := 2, n1 := 1, path := 0 }).wf = false ∧
    (Instr.vdcount {} { d := 1, path := 17 }).wf = false ∧
    (Instr.qsetSeg {} { ty := .f32, q := 1, a := 2, b := 0, f := 9 }).wf = false ∧
    (Instr.qsetInd {} { ty := .f32, q := 1, a := 2, b := 1 }).wf = false ∧
    (Instr.vst {} { ty := .f32, u := false, q := 1, b := 2, mask := .on true 1 }).wf = false ∧
    (Instr.vstc {} { ty := .f32, u := true, q := 1, b := 2, mask := .none }).wf = false := by decide +kernel

theorem test_wf_matrix_and_cursors :
    (Instr.mopa {} { ty := .i16, rm := .rne, sat := false, half := false, d := 1, a := 2, b := 3, mask := .none }).wf = false ∧
    (Instr.mopa {} { ty := .f32, rm := .rne, sat := false, half := true, d := 1, a := 2, b := 3, mask := .none }).wf = false ∧
    (Instr.mops {} { ty := .i8, rm := .rne, sat := true, half := false, d := 1, a := 2, b := 3, mask := .on false 3 }).wf = false ∧
    (Instr.mstream {} { rm := .rne, d := 1, a := 2, b := 3, c := 0, mask := .on true 1 }).wf = false ∧
    (Instr.zread {} { ty := .i16, d := 1, z := 2, b := .reg 3, mask := .none }).wf = false ∧
    (Instr.zwrite {} { ty := .i32, z := 2, a := 1, b := .imm 256, mask := .none }).wf = false ∧
    (Instr.zsave {} { ty := .f64, z := 1, q := 2 }).wf = false ∧
    (Instr.eqint {} { d := 63, a := 0, b := 1 }).wf = false ∧
    (Instr.eqmrg {} { d := 61, a := 0, b := 1, n := 3 }).wf = false ∧
    (Instr.eqmrg {} { d := 61, a := 0, b := 1, n := 0 }).wf = false ∧
    (Instr.eqnz {} { ty := .i8, d := 1, a := 2, b := .reg 0, mask := .none }).wf = false ∧
    (Instr.eqnzCursorForm {} { ty := .n4, d := 1, a := 0 }).wf = false := by decide +kernel

theorem test_wf_engine_and_synchronisation :
    (Instr.tcopy {} { d := 1, a := 2, len := 0, bar := 0, ben := false }).wf = false ∧
    (Instr.tcopy {} { d := 1, a := 2, len := 65537, bar := 0, ben := false }).wf = false ∧
    (Instr.tcast {} { d := 1, a := 2, b := 3, m := 1, lines := 15361, bar := 0, ben := false }).wf = false ∧
    (Instr.amo {} { aop := .min, aty := .f32, scope := .core, d := 1, a := 2, b := 3, off := 0 }).wf = false ∧
    (Instr.vamo {} { aop := .swap, aty := .f32, scope := .core, d := 1, q := 2, b := .vec 3, mask := .none }).wf = false ∧
    (Instr.vlock {} { scope := .core, d := 1, a := 2, mask := .on true 1 }).wf = false ∧
    (Instr.vunlock {} { scope := .core, d := 1, a := 2, mask := .on true 1 }).wf = false := by decide +kernel

/-! ## Decoding: words with their fields from the tables of the spec -/

/-- The word of R105 from its fields, with no hint. -/
def word (op fn g d a b m x imm : Nat) : BitVec 96 :=
  BitVec.ofNat 96 (op * 2 ^ 88 + fn * 2 ^ 82 + g * 2 ^ 78 + d * 2 ^ 70 + a * 2 ^ 62 + b * 2 ^ 54 + m * 2 ^ 48 + x * 2 ^ 32 + imm)

/-- One word of each instruction, its fields from the tables of the entries: scalar. -/
theorem test_decode_scalar :
    decodeWord (word 0x01 0 0 0x03 0x02 0x09 0x00 0x01 0x00000000) = some (.add {} { ty := .i32, sat := false, d := 3, a := 2, b := .reg 9 }) ∧
    decodeWord (word 0x01 1 0 0x03 0x02 0x09 0x00 0x01 0x00000000) = some (.sub {} { ty := .i32, sat := false, d := 3, a := 2, b := .reg 9 }) ∧
    decodeWord (word 0x01 2 0 0x03 0x02 0x09 0x00 0x01 0x00000000) = some (.and_ {} { ty := .i32, sat := false, d := 3, a := 2, b := .reg 9 }) ∧
    decodeWord (word 0x01 3 0 0x03 0x02 0x09 0x00 0x01 0x00000000) = some (.or_ {} { ty := .i32, sat := false, d := 3, a := 2, b := .reg 9 }) ∧
    decodeWord (word 0x01 4 0 0x03 0x02 0x09 0x00 0x01 0x00000000) = some (.xor_ {} { ty := .i32, sat := false, d := 3, a := 2, b := .reg 9 }) ∧
    decodeWord (word 0x01 5 0 0x03 0x02 0x09 0x00 0x01 0x00000000) = some (.andn {} { ty := .i32, sat := false, d := 3, a := 2, b := .reg 9 }) ∧
    decodeWord (word 0x01 6 0 0x03 0x02 0x09 0x00 0x01 0x00000000) = some (.sll {} { ty := .i32, sat := false, d := 3, a := 2, b := .reg 9 }) ∧
    decodeWord (word 0x01 7 0 0x03 0x02 0x09 0x00 0x01 0x00000000) = some (.srl {} { ty := .i32, sat := false, d := 3, a := 2, b := .reg 9 }) ∧
    decodeWord (word 0x01 8 0 0x03 0x02 0x09 0x00 0x01 0x00000000) = some (.sra {} { ty := .i32, sat := false, d := 3, a := 2, b := .reg 9 }) ∧
    decodeWord (word 0x01 9 0 0x03 0x02 0x09 0x00 0x01 0x00000000) = some (.min_ {} { ty := .i32, sat := false, d := 3, a := 2, b := .reg 9 }) ∧
    decodeWord (word 0x01 10 0 0x03 0x02 0x09 0x00 0x01 0x00000000) = some (.max_ {} { ty := .i32, sat := false, d := 3, a := 2, b := .reg 9 }) ∧
    decodeWord (word 0x01 11 0 0x03 0x02 0x09 0x00 0x01 0x00000000) = some (.slt {} { ty := .i32, sat := false, d := 3, a := 2, b := .reg 9 }) ∧
    decodeWord (word 0x01 12 0 0x03 0x02 0x00 0x00 0x00 0x00000000) = some (.mov {} { ty := .i64, d := 3, a := 2 }) ∧
    decodeWord (word 0x02 0 0 0x3F 0x01 0xFF 0x00 0x04 0x00000007) = some (.mul {} { ty := .n64, sat := false, d := 63, a := 1, b := .imm 7 }) ∧
    decodeWord (word 0x02 1 0 0x3F 0x01 0xFF 0x00 0x04 0x00000007) = some (.mulh {} { ty := .n64, sat := false, d := 63, a := 1, b := .imm 7 }) ∧
    decodeWord (word 0x02 2 0 0x3F 0x01 0xFF 0x00 0x04 0x00000007) = some (.div {} { ty := .n64, sat := false, d := 63, a := 1, b := .imm 7 }) ∧
    decodeWord (word 0x02 3 0 0x3F 0x01 0xFF 0x00 0x04 0x00000007) = some (.rem {} { ty := .n64, sat := false, d := 63, a := 1, b := .imm 7 }) ∧
    decodeWord (word 0x03 0 0 0x03 0x02 0x00 0x00 0x05 0x00000000) = some (.clz {} { ty := .n32, d := 3, a := 2 }) ∧
    decodeWord (word 0x03 1 0 0x03 0x02 0x00 0x00 0x05 0x00000000) = some (.ctz {} { ty := .n32, d := 3, a := 2 }) ∧
    decodeWord (word 0x03 2 0 0x03 0x02 0x00 0x00 0x05 0x00000000) = some (.popc {} { ty := .n32, d := 3, a := 2 }) ∧
    decodeWord (word 0x03 3 0 0x03 0x02 0x00 0x00 0x05 0x00000000) = some (.brev {} { ty := .n32, d := 3, a := 2 }) ∧
    decodeWord (word 0x03 4 0 0x03 0x02 0x00 0x00 0x05 0x00000000) = some (.bswap {} { ty := .n32, d := 3, a := 2 }) ∧
    decodeWord (word 0x03 5 0 0x03 0x02 0x00 0x00 0x04 0x00000905) = some (.ext_ {} { ty := .n64, d := 3, a := 2, lo := 5, len1 := 9 }) ∧
    decodeWord (word 0x04 0 0 0x03 0x00 0x00 0x00 0x04 0x00000089) = some (.movi {} { ty := .n64, d := 3, imm := 0x89 }) ∧
    decodeWord (word 0x04 1 0 0x03 0x03 0x00 0x00 0x00 0x00000025) = some (.movhi {} { d := 3, a := 3, imm := 0x25 }) ∧
    decodeWord (word 0x05 0 0 0x03 0x00 0x00 0x00 0x00 0xFFFFFFF4) = some (.addpc {} { d := 3, imm := 0xFFFFFFF4 }) := by
  decide +kernel

/-- One word of each instruction, its fields from the tables of the entries: scalar memory. -/
theorem test_decode_scalar_memory :
    decodeWord (word 0x08 0 0 0x03 0x02 0x00 0x00 0x01 0x00000008) = some (.ld {} { ty := .i32, scope := .core, d := 3, a := 2, off := 8 }) ∧
    decodeWord (word 0x08 1 0 0x03 0x02 0x00 0x00 0x84 0x00000008) = some (.lda {} { ty := .n64, scope := .device, d := 3, a := 2, off := 8 }) ∧
    decodeWord (word 0x09 0 3 0x00 0x06 0x07 0x00 0x05 0x00000000) = some (.st { pred := 3 } { ty := .n32, scope := .core, a := 6, b := 7, off := 0 }) ∧
    decodeWord (word 0x09 1 0 0x00 0x06 0x07 0x00 0xC7 0xFFFFFFFF) = some (.stl {} { ty := .n8, scope := .system, a := 6, b := 7, off := 0xFFFFFFFF }) := by
  decide +kernel

/-- One word of each instruction, its fields from the tables of the entries: scalar float. -/
theorem test_decode_scalar_float :
    decodeWord (word 0x20 0 0 0x03 0x02 0x01 0x00 0x79 0x00000000) = some (.fadd {} { ty := .f32, rm := .dyn, d := 3, a := 2, b := .reg 1 }) ∧
    decodeWord (word 0x20 1 0 0x03 0x02 0x01 0x00 0x79 0x00000000) = some (.fsub {} { ty := .f32, rm := .dyn, d := 3, a := 2, b := .reg 1 }) ∧
    decodeWord (word 0x20 2 0 0x03 0x02 0x01 0x00 0x79 0x00000000) = some (.fmul {} { ty := .f32, rm := .dyn, d := 3, a := 2, b := .reg 1 }) ∧
    decodeWord (word 0x20 3 0 0x03 0x02 0x01 0x00 0x79 0x00000000) = some (.fdiv {} { ty := .f32, rm := .dyn, d := 3, a := 2, b := .reg 1 }) ∧
    decodeWord (word 0x20 5 0 0x03 0x02 0x01 0x00 0x79 0x00000000) = some (.fmin {} { ty := .f32, rm := .dyn, d := 3, a := 2, b := .reg 1 }) ∧
    decodeWord (word 0x20 6 0 0x03 0x02 0x01 0x00 0x79 0x00000000) = some (.fmax {} { ty := .f32, rm := .dyn, d := 3, a := 2, b := .reg 1 }) ∧
    decodeWord (word 0x21 0 0 0x03 0x02 0x01 0x00 0x79 0x00000000) = some (.fma {} { ty := .f32, rm := .dyn, d := 3, a := 2, b := .reg 1 }) ∧
    decodeWord (word 0x21 1 0 0x03 0x02 0x01 0x00 0x79 0x00000000) = some (.fms {} { ty := .f32, rm := .dyn, d := 3, a := 2, b := .reg 1 }) ∧
    decodeWord (word 0x21 2 0 0x03 0x02 0x01 0x00 0x79 0x00000000) = some (.fnma {} { ty := .f32, rm := .dyn, d := 3, a := 2, b := .reg 1 }) ∧
    decodeWord (word 0x21 3 0 0x03 0x02 0x01 0x00 0x79 0x00000000) = some (.fnms {} { ty := .f32, rm := .dyn, d := 3, a := 2, b := .reg 1 }) ∧
    decodeWord (word 0x20 7 0 0x03 0x02 0x01 0x00 0x08 0x00000000) = some (.fcopys {} { ty := .f64, rm := .rne, d := 3, a := 2, b := .reg 1 }) ∧
    decodeWord (word 0x20 8 0 0x03 0x02 0x01 0x00 0x08 0x00000000) = some (.fcopyn {} { ty := .f64, rm := .rne, d := 3, a := 2, b := .reg 1 }) ∧
    decodeWord (word 0x20 9 0 0x03 0x02 0x01 0x00 0x08 0x00000000) = some (.fxsign {} { ty := .f64, rm := .rne, d := 3, a := 2, b := .reg 1 }) ∧
    decodeWord (word 0x20 4 0 0x03 0x02 0x00 0x00 0x18 0x00000000) = some (.fsqrt {} { ty := .f64, rm := .rtz, d := 3, a := 2 }) ∧
    decodeWord (word 0x22 0 0 0x04 0x05 0x00 0x00 0x09 0x00000008) = some (.fcvt {} { ty := .f32, rm := .rne, src := .f64, d := 4, a := 5 }) ∧
    decodeWord (word 0x22 1 0 0x04 0x05 0x00 0x00 0x11 0x00000009) = some (.fcvti {} { ty := .i32, rm := .rtz, src := .f32, d := 4, a := 5 }) ∧
    decodeWord (word 0x22 2 0 0x04 0x05 0x00 0x00 0x0B 0x00000003) = some (.icvtf {} { ty := .bf16, rm := .rne, src := .i8, d := 4, a := 5 }) ∧
    decodeWord (word 0x23 0 0 0x04 0x05 0x00 0x00 0x0C 0x00000000) = some (.fclass {} { ty := .e4m3, d := 4, a := 5 }) := by
  decide +kernel

/-- One word of each instruction, its fields from the tables of the entries: control. -/
theorem test_decode_control :
    decodeWord (word 0x30 0 1 0x00 0x00 0x00 0x00 0x00 0x00000024) = some (.br { pred := 1 } { off := 0x24 }) ∧
    decodeWord (word 0x30 1 0 0x00 0x3F 0x00 0x00 0x00 0x00000000) = some (.bri {} { a := 63, off := 0 }) ∧
    decodeWord (word 0x31 0 0 0x3F 0x00 0x00 0x00 0x00 0x00000100) = some (.call {} { d := 63, off := 0x100 }) ∧
    decodeWord (word 0x31 1 0 0x3F 0x05 0x00 0x00 0x00 0x00000004) = some (.calli {} { d := 63, a := 5, off := 4 }) ∧
    decodeWord (word 0x32 0 0 0x00 0x05 0x00 0x00 0x00 0x0000003C) = some (.lsetup {} { loop1 := false, a := 5, off := 0x3C }) ∧
    decodeWord (word 0x32 1 0 0x00 0x08 0x00 0x00 0x00 0x0000003C) = some (.lsetup {} { loop1 := true, a := 8, off := 0x3C }) := by
  decide +kernel

/-- One word of each instruction, its fields from the tables of the entries: system. -/
theorem test_decode_system :
    decodeWord (word 0x40 0 0 0x08 0x00 0x00 0x00 0x00 0x00000010) = some (.sysrd {} { d := 8, target := .reg 0x10 }) ∧
    decodeWord (word 0x40 0 0 0x08 0x00 0x00 0x00 0x00 0x80000048) = some (.sysrd {} { d := 8, target := .window 0x48 }) ∧
    decodeWord (word 0x41 0 0 0x00 0x08 0x00 0x00 0x00 0x00000024) = some (.syswr {} { a := 8, target := .reg 0x24 }) ∧
    decodeWord (word 0x42 0 0 0x00 0x00 0x00 0x00 0x00 0x00000000) = some (.eret {}) ∧
    decodeWord (word 0x43 0 0 0x00 0x00 0x00 0x00 0x00 0x00000000) = some (.nop {}) ∧
    decodeWord (word 0x43 1 0 0x00 0x00 0x00 0x00 0x00 0x000003FF) = some (.yield {} { cycles := 1023 }) ∧
    decodeWord (word 0x44 0 0 0x00 0x00 0x00 0x00 0x00 0x00000000) = some (.halt {}) ∧
    decodeWord (word 0x45 0 0 0x00 0x00 0x00 0x00 0x00 0x0000FFFF) = some (.trap {} { code := 0xFFFF }) := by
  decide +kernel

/-- One word of each instruction, its fields from the tables of the entries: predicates and masks. -/
theorem test_decode_predicates_and_masks :
    decodeWord (word 0x50 2 0 0x91 0x02 0x03 0x00 0x04 0x00000000) = some (.pcmp {} { cond := .lt, ty := .n64, d := 1, a := 2, b := .reg 3 }) ∧
    decodeWord (word 0x51 0 0 0x91 0x92 0x93 0x00 0x00 0x00000000) = some (.pand {} { d := 1, a := 2, b := 3 }) ∧
    decodeWord (word 0x51 1 0 0x91 0x92 0x93 0x00 0x00 0x00000000) = some (.por {} { d := 1, a := 2, b := 3 }) ∧
    decodeWord (word 0x51 2 0 0x91 0x92 0x93 0x00 0x00 0x00000000) = some (.pxor {} { d := 1, a := 2, b := 3 }) ∧
    decodeWord (word 0x51 3 0 0x91 0x92 0x93 0x00 0x00 0x00000000) = some (.pandn {} { d := 1, a := 2, b := 3 }) ∧
    decodeWord (word 0x51 4 0 0x97 0x92 0x00 0x00 0x00 0x00000000) = some (.pnot {} { d := 7, a := 2 }) ∧
    decodeWord (word 0x51 5 0 0x97 0x92 0x00 0x00 0x00 0x00000000) = some (.pmov {} { d := 7, a := 2 }) ∧
    decodeWord (word 0x52 0 0 0x81 0x82 0x8F 0x00 0x00 0x00000000) = some (.mand {} { d := 1, a := 2, b := 15 }) ∧
    decodeWord (word 0x52 1 0 0x81 0x82 0x8F 0x00 0x00 0x00000000) = some (.mor {} { d := 1, a := 2, b := 15 }) ∧
    decodeWord (word 0x52 2 0 0x81 0x82 0x8F 0x00 0x00 0x00000000) = some (.mxor {} { d := 1, a := 2, b := 15 }) ∧
    decodeWord (word 0x52 3 0 0x81 0x82 0x8F 0x00 0x00 0x00000000) = some (.mandn {} { d := 1, a := 2, b := 15 }) ∧
    decodeWord (word 0x52 4 0 0x81 0x82 0x00 0x00 0x00 0x00000000) = some (.mnot {} { d := 1, a := 2 }) ∧
    decodeWord (word 0x52 5 0 0x81 0x82 0x00 0x00 0x00 0x00000000) = some (.mmov {} { d := 1, a := 2 }) ∧
    decodeWord (word 0x53 0 0 0x01 0x82 0x00 0x00 0x00 0x00000000) = some (.mpopc {} { d := 1, a := 2 }) ∧
    decodeWord (word 0x53 1 0 0x01 0x82 0x00 0x00 0x00 0x00000000) = some (.mfirst {} { d := 1, a := 2 }) := by
  decide +kernel

/-- One word of each instruction, its fields from the tables of the entries: vector setting. -/
theorem test_decode_vector_setting :
    decodeWord (word 0x60 0 0 0x01 0x00 0x02 0x00 0x00 0x00000000) = some (.vsetl {} { d := 1, b := .reg 2 }) ∧
    decodeWord (word 0x60 1 0 0x01 0x00 0xFF 0x00 0x00 0x00000059) = some (.vsett {} { d := 1, b := .imm 0x59 }) := by
  decide +kernel

/-- One word of each instruction, its fields from the tables of the entries: vector integer. -/
theorem test_decode_vector_integer :
    decodeWord (word 0x61 0 0 0x48 0x42 0x43 0x21 0x01 0x00000000) = some (.vadd {} { ty := .i32, sat := false, d := 8, a := 2, b := .vec 3, mask := .on false 1 }) ∧
    decodeWord (word 0x61 1 0 0x48 0x42 0x43 0x21 0x01 0x00000000) = some (.vsub {} { ty := .i32, sat := false, d := 8, a := 2, b := .vec 3, mask := .on false 1 }) ∧
    decodeWord (word 0x61 2 0 0x48 0x42 0x43 0x21 0x01 0x00000000) = some (.vrsub {} { ty := .i32, sat := false, d := 8, a := 2, b := .vec 3, mask := .on false 1 }) ∧
    decodeWord (word 0x61 3 0 0x48 0x42 0x43 0x21 0x01 0x00000000) = some (.vmin {} { ty := .i32, sat := false, d := 8, a := 2, b := .vec 3, mask := .on false 1 }) ∧
    decodeWord (word 0x61 4 0 0x48 0x42 0x43 0x21 0x01 0x00000000) = some (.vmax {} { ty := .i32, sat := false, d := 8, a := 2, b := .vec 3, mask := .on false 1 }) ∧
    decodeWord (word 0x61 5 0 0x48 0x42 0x43 0x21 0x01 0x00000000) = some (.vabsd {} { ty := .i32, sat := false, d := 8, a := 2, b := .vec 3, mask := .on false 1 }) ∧
    decodeWord (word 0x61 6 0 0x48 0x42 0x43 0x21 0x01 0x00000000) = some (.vavg {} { ty := .i32, sat := false, d := 8, a := 2, b := .vec 3, mask := .on false 1 }) ∧
    decodeWord (word 0x62 0 0 0x48 0x42 0x43 0x21 0x01 0x00000000) = some (.vmul {} { ty := .i32, sat := false, d := 8, a := 2, b := .vec 3, mask := .on false 1 }) ∧
    decodeWord (word 0x62 1 0 0x48 0x42 0x43 0x21 0x01 0x00000000) = some (.vmulh {} { ty := .i32, sat := false, d := 8, a := 2, b := .vec 3, mask := .on false 1 }) ∧
    decodeWord (word 0x62 2 0 0x48 0x42 0x43 0x21 0x01 0x00000000) = some (.vmacc {} { ty := .i32, sat := false, d := 8, a := 2, b := .vec 3, mask := .on false 1 }) ∧
    decodeWord (word 0x62 3 0 0x48 0x42 0x43 0x21 0x01 0x00000000) = some (.vdiv {} { ty := .i32, sat := false, d := 8, a := 2, b := .vec 3, mask := .on false 1 }) ∧
    decodeWord (word 0x62 4 0 0x48 0x42 0x43 0x21 0x01 0x00000000) = some (.vrem {} { ty := .i32, sat := false, d := 8, a := 2, b := .vec 3, mask := .on false 1 }) ∧
    decodeWord (word 0x63 0 0 0x48 0x42 0x43 0x21 0x01 0x00000000) = some (.vand {} { ty := .i32, sat := false, d := 8, a := 2, b := .vec 3, mask := .on false 1 }) ∧
    decodeWord (word 0x63 1 0 0x48 0x42 0x43 0x21 0x01 0x00000000) = some (.vor {} { ty := .i32, sat := false, d := 8, a := 2, b := .vec 3, mask := .on false 1 }) ∧
    decodeWord (word 0x63 2 0 0x48 0x42 0x43 0x21 0x01 0x00000000) = some (.vxor {} { ty := .i32, sat := false, d := 8, a := 2, b := .vec 3, mask := .on false 1 }) ∧
    decodeWord (word 0x63 3 0 0x48 0x42 0x43 0x21 0x01 0x00000000) = some (.vsll {} { ty := .i32, sat := false, d := 8, a := 2, b := .vec 3, mask := .on false 1 }) ∧
    decodeWord (word 0x63 4 0 0x48 0x42 0x43 0x21 0x01 0x00000000) = some (.vsrl {} { ty := .i32, sat := false, d := 8, a := 2, b := .vec 3, mask := .on false 1 }) ∧
    decodeWord (word 0x63 5 0 0x48 0x42 0x43 0x21 0x01 0x00000000) = some (.vsra {} { ty := .i32, sat := false, d := 8, a := 2, b := .vec 3, mask := .on false 1 }) ∧
    decodeWord (word 0x64 0 0 0x48 0x42 0x03 0x31 0x07 0x00000000) = some (.vwadd {} { ty := .n8, sat := false, d := 8, a := 2, b := .reg 3, mask := .on true 1 }) ∧
    decodeWord (word 0x64 1 0 0x48 0x42 0x03 0x31 0x07 0x00000000) = some (.vwmul {} { ty := .n8, sat := false, d := 8, a := 2, b := .reg 3, mask := .on true 1 }) ∧
    decodeWord (word 0x64 2 0 0x48 0x42 0x03 0x31 0x07 0x00000000) = some (.vwmacc {} { ty := .n8, sat := false, d := 8, a := 2, b := .reg 3, mask := .on true 1 }) ∧
    decodeWord (word 0x64 3 0 0x48 0x42 0xFF 0x00 0xB3 0x00000004) = some (.vnshr {} { ty := .i8, sat := true, rm := .rdn, d := 8, a := 2, b := .imm 4, mask := .none }) := by
  decide +kernel

/-- One word of each instruction, its fields from the tables of the entries: vector float. -/
theorem test_decode_vector_float :
    decodeWord (word 0x68 0 2 0x48 0x42 0x43 0x34 0x79 0x00000000) = some (.vfadd { pred := 2 } { ty := .f32, rm := .dyn, d := 8, a := 2, b := .vec 3, mask := .on true 4 }) ∧
    decodeWord (word 0x68 1 2 0x48 0x42 0x43 0x34 0x79 0x00000000) = some (.vfsub { pred := 2 } { ty := .f32, rm := .dyn, d := 8, a := 2, b := .vec 3, mask := .on true 4 }) ∧
    decodeWord (word 0x68 2 2 0x48 0x42 0x43 0x34 0x79 0x00000000) = some (.vfmul { pred := 2 } { ty := .f32, rm := .dyn, d := 8, a := 2, b := .vec 3, mask := .on true 4 }) ∧
    decodeWord (word 0x68 3 2 0x48 0x42 0x43 0x34 0x79 0x00000000) = some (.vfdiv { pred := 2 } { ty := .f32, rm := .dyn, d := 8, a := 2, b := .vec 3, mask := .on true 4 }) ∧
    decodeWord (word 0x68 5 2 0x48 0x42 0x43 0x34 0x79 0x00000000) = some (.vfmin { pred := 2 } { ty := .f32, rm := .dyn, d := 8, a := 2, b := .vec 3, mask := .on true 4 }) ∧
    decodeWord (word 0x68 6 2 0x48 0x42 0x43 0x34 0x79 0x00000000) = some (.vfmax { pred := 2 } { ty := .f32, rm := .dyn, d := 8, a := 2, b := .vec 3, mask := .on true 4 }) ∧
    decodeWord (word 0x69 0 2 0x48 0x42 0x43 0x34 0x79 0x00000000) = some (.vfma { pred := 2 } { ty := .f32, rm := .dyn, d := 8, a := 2, b := .vec 3, mask := .on true 4 }) ∧
    decodeWord (word 0x69 1 2 0x48 0x42 0x43 0x34 0x79 0x00000000) = some (.vfms { pred := 2 } { ty := .f32, rm := .dyn, d := 8, a := 2, b := .vec 3, mask := .on true 4 }) ∧
    decodeWord (word 0x69 2 2 0x48 0x42 0x43 0x34 0x79 0x00000000) = some (.vfnma { pred := 2 } { ty := .f32, rm := .dyn, d := 8, a := 2, b := .vec 3, mask := .on true 4 }) ∧
    decodeWord (word 0x69 3 2 0x48 0x42 0x43 0x34 0x79 0x00000000) = some (.vfnms { pred := 2 } { ty := .f32, rm := .dyn, d := 8, a := 2, b := .vec 3, mask := .on true 4 }) ∧
    decodeWord (word 0x68 7 0 0x48 0x42 0x43 0x00 0x0B 0x00000000) = some (.vfcopys {} { ty := .bf16, rm := .rne, d := 8, a := 2, b := .vec 3, mask := .none }) ∧
    decodeWord (word 0x68 8 0 0x48 0x42 0x43 0x00 0x0B 0x00000000) = some (.vfcopyn {} { ty := .bf16, rm := .rne, d := 8, a := 2, b := .vec 3, mask := .none }) ∧
    decodeWord (word 0x68 9 0 0x48 0x42 0x43 0x00 0x0B 0x00000000) = some (.vfxsign {} { ty := .bf16, rm := .rne, d := 8, a := 2, b := .vec 3, mask := .none }) ∧
    decodeWord (word 0x68 4 0 0x48 0x42 0x00 0x00 0x78 0x00000000) = some (.vfsqrt {} { ty := .f64, rm := .dyn, d := 8, a := 2, mask := .none }) ∧
    decodeWord (word 0x6A 0 0 0x48 0x42 0x43 0x00 0x7A 0x00000000) = some (.vfwadd {} { ty := .f16, rm := .dyn, d := 8, a := 2, b := .vec 3, mask := .none }) ∧
    decodeWord (word 0x6A 1 0 0x48 0x42 0x43 0x00 0x7A 0x00000000) = some (.vfwmul {} { ty := .f16, rm := .dyn, d := 8, a := 2, b := .vec 3, mask := .none }) ∧
    decodeWord (word 0x6A 2 0 0x48 0x42 0x43 0x00 0x7A 0x00000000) = some (.vfwma {} { ty := .f16, rm := .dyn, d := 8, a := 2, b := .vec 3, mask := .none }) ∧
    decodeWord (word 0x6B 0 0 0x48 0x42 0x00 0x00 0x79 0x0000000B) = some (.vfcvt {} { ty := .f32, rm := .dyn, src := .bf16, d := 8, a := 2, mask := .none }) ∧
    decodeWord (word 0x6B 1 0 0x48 0x42 0x00 0x00 0x11 0x00000009) = some (.vfcvti {} { ty := .i32, rm := .rtz, src := .f32, d := 8, a := 2, mask := .none }) ∧
    decodeWord (word 0x6B 2 0 0x48 0x42 0x00 0x00 0x0D 0x00000007) = some (.vicvtf {} { ty := .e5m2, rm := .rne, src := .n8, d := 8, a := 2, mask := .none }) ∧
    decodeWord (word 0x6B 3 0 0x48 0x42 0x00 0x00 0x0A 0x00000000) = some (.vfclass {} { ty := .f16, d := 8, a := 2, mask := .none }) := by
  decide +kernel

/-- One word of each instruction, its fields from the tables of the entries: vector moves. -/
theorem test_decode_vector_moves :
    decodeWord (word 0x70 4 0 0x82 0x42 0x44 0x00 0x09 0x00000000) = some (.vcmp {} { cond := .un, ty := .f32, d := 2, a := 2, b := .vec 4, mask := .none }) ∧
    decodeWord (word 0x71 0 0 0x48 0x42 0x43 0x25 0x09 0x00000000) = some (.vmerge {} { ty := .f32, d := 8, a := 2, b := 3, m := 5 }) ∧
    decodeWord (word 0x71 1 0 0x48 0x42 0x00 0x31 0x0E 0x00000000) = some (.vmov {} { ty := .i4, d := 8, a := 2, mask := .on true 1 }) ∧
    decodeWord (word 0x71 2 0 0x48 0x00 0xFF 0x00 0x0F 0x0000000F) = some (.vsplat {} { ty := .n4, d := 8, b := .imm 15, mask := .none }) ∧
    decodeWord (word 0x71 3 0 0x08 0x42 0xFF 0x00 0x02 0x0000001F) = some (.vext {} { ty := .i16, d := 8, a := 2, b := .imm 31 }) ∧
    decodeWord (word 0x71 4 0 0x48 0x02 0x03 0x00 0x02 0x00000000) = some (.vins {} { ty := .i16, d := 8, a := 2, b := .reg 3 }) ∧
    decodeWord (word 0x71 5 0 0x47 0x82 0x00 0x00 0x01 0x00000000) = some (.vmrank {} { ty := .i32, d := 7, a := 2, mask := .none }) ∧
    decodeWord (word 0x71 6 0 0x47 0x00 0x00 0x00 0x07 0x00000000) = some (.vid {} { ty := .n8, d := 7, mask := .none }) := by
  decide +kernel

/-- One word of each instruction, its fields from the tables of the entries: vector permutes. -/
theorem test_decode_vector_permutes :
    decodeWord (word 0x90 0 0 0x48 0x42 0x43 0x00 0x07 0x00000000) = some (.vshuf {} { ty := .n8, d := 8, a := 2, b := 3, mask := .none }) ∧
    decodeWord (word 0x90 1 0 0x48 0x42 0xFF 0x21 0x09 0x00000001) = some (.vslideup {} { ty := .f32, d := 8, a := 2, b := .imm 1, mask := .on false 1 }) ∧
    decodeWord (word 0x90 2 0 0x48 0x42 0x04 0x00 0x09 0x00000000) = some (.vslidedn {} { ty := .f32, d := 8, a := 2, b := .reg 4, mask := .none }) ∧
    decodeWord (word 0x91 0 0 0x48 0x42 0x00 0x22 0x09 0x00000000) = some (.vcompress {} { ty := .f32, d := 8, a := 2, m := 2 }) ∧
    decodeWord (word 0x91 1 0 0x48 0x42 0x00 0x32 0x09 0x00000000) = some (.vexpand {} { ty := .f32, d := 8, a := 2, zeroing := true, m := 2 }) := by
  decide +kernel

/-- One word of each instruction, its fields from the tables of the entries: reductions. -/
theorem test_decode_reductions :
    decodeWord (word 0x92 0 0 0x08 0x42 0x00 0x21 0x06 0x00000000) = some (.vredsum {} { ty := .n16, d := 8, a := 2, b := .reg 0, mask := .on false 1 }) ∧
    decodeWord (word 0x92 1 0 0x08 0x42 0x00 0x21 0x06 0x00000000) = some (.vredmin {} { ty := .n16, d := 8, a := 2, b := .reg 0, mask := .on false 1 }) ∧
    decodeWord (word 0x92 2 0 0x08 0x42 0x00 0x21 0x06 0x00000000) = some (.vredmax {} { ty := .n16, d := 8, a := 2, b := .reg 0, mask := .on false 1 }) ∧
    decodeWord (word 0x92 3 0 0x08 0x42 0x00 0x21 0x06 0x00000000) = some (.vredand {} { ty := .n16, d := 8, a := 2, b := .reg 0, mask := .on false 1 }) ∧
    decodeWord (word 0x92 4 0 0x08 0x42 0x00 0x21 0x06 0x00000000) = some (.vredor {} { ty := .n16, d := 8, a := 2, b := .reg 0, mask := .on false 1 }) ∧
    decodeWord (word 0x92 5 0 0x08 0x42 0x00 0x21 0x06 0x00000000) = some (.vredxor {} { ty := .n16, d := 8, a := 2, b := .reg 0, mask := .on false 1 }) ∧
    decodeWord (word 0x93 0 0 0x08 0x42 0xFF 0x00 0x79 0x00000000) = some (.vfredo {} { ty := .f32, rm := .dyn, d := 8, a := 2, b := .imm 0, mask := .none }) ∧
    decodeWord (word 0x93 1 0 0x08 0x42 0xFF 0x00 0x79 0x00000000) = some (.vfredt {} { ty := .f32, rm := .dyn, d := 8, a := 2, b := .imm 0, mask := .none }) ∧
    decodeWord (word 0x93 2 0 0x08 0x42 0xFF 0x00 0x79 0x00000000) = some (.vfredmin {} { ty := .f32, rm := .dyn, d := 8, a := 2, b := .imm 0, mask := .none }) ∧
    decodeWord (word 0x93 3 0 0x08 0x42 0xFF 0x00 0x79 0x00000000) = some (.vfredmax {} { ty := .f32, rm := .dyn, d := 8, a := 2, b := .imm 0, mask := .none }) ∧
    decodeWord (word 0x94 0 0 0x08 0x42 0x03 0x21 0x09 0x00000702) = some (.vdefer {} { ty := .f32, d := 8, a := 2, b := 3, n1 := 2, path := 7, mask := .on false 1 }) ∧
    decodeWord (word 0x94 1 0 0x48 0x42 0x00 0x00 0x09 0x00000702) = some (.vdrain {} { ty := .f32, d := 8, a := 2, n1 := 2, path := 7 }) ∧
    decodeWord (word 0x94 2 0 0x08 0x00 0x00 0x00 0x00 0x00000010) = some (.vdcount {} { d := 8, path := 16 }) := by
  decide +kernel

/-- One word of each instruction, its fields from the tables of the entries: streams. -/
theorem test_decode_streams :
    decodeWord (word 0xA0 0 0 0x99 0x02 0x00 0x00 0x09 0x00000000) = some (.qsetUnit {} { ty := .f32, q := 1, a := 2, b := 0 }) ∧
    decodeWord (word 0xA0 1 0 0xA7 0x02 0x03 0x00 0x09 0x00000000) = some (.qsetStride {} { ty := .f32, q := 15, a := 2, b := 3 }) ∧
    decodeWord (word 0xA0 2 0 0x99 0x02 0x00 0x00 0x0B 0x00000008) = some (.qsetSeg {} { ty := .bf16, q := 1, a := 2, b := 0, f := 8 }) ∧
    decodeWord (word 0xA0 3 0 0x99 0x02 0x9C 0x00 0x08 0x00000000) = some (.qsetInd {} { ty := .f64, q := 1, a := 2, b := 4 }) ∧
    decodeWord (word 0xA1 0 0 0x48 0x99 0x00 0x34 0x09 0x00000000) = some (.vld {} { ty := .f32, d := 8, q := 1, mask := .on true 4 }) ∧
    decodeWord (word 0xA1 1 0 0x48 0x99 0x00 0x00 0x09 0x00000000) = some (.vldseg {} { ty := .f32, d := 8, q := 1, mask := .none }) ∧
    decodeWord (word 0xA2 0 0 0x00 0x99 0x42 0x21 0x19 0x00000000) = some (.vst {} { ty := .f32, u := true, q := 1, b := 2, mask := .on false 1 }) ∧
    decodeWord (word 0xA2 1 0 0x00 0x9A 0x44 0x00 0x0B 0x00000000) = some (.vstseg {} { ty := .bf16, u := false, q := 2, b := 4, mask := .none }) ∧
    decodeWord (word 0xA3 0 0 0x00 0x99 0x42 0x21 0x09 0x00000000) = some (.vstc {} { ty := .f32, u := false, q := 1, b := 2, mask := .on false 1 }) := by
  decide +kernel

/-- One word of each instruction, its fields from the tables of the entries: matrix. -/
theorem test_decode_matrix :
    decodeWord (word 0xB0 0 0 0xC3 0x44 0x45 0x22 0x0B 0x00000000) = some (.mopa {} { ty := .bf16, rm := .rne, sat := false, half := false, d := 3, a := 4, b := 5, mask := .on false 2 }) ∧
    decodeWord (word 0xB0 1 0 0xDF 0x44 0x45 0x00 0x08 0x00000001) = some (.mops {} { ty := .f64, rm := .rne, sat := false, half := true, d := 31, a := 4, b := 5, mask := .none }) ∧
    decodeWord (word 0xB1 0 0 0x00 0x9A 0xFF 0x00 0x0B 0x00000200) = some (.mstage {} { q := 2, b := .imm 512 }) ∧
    decodeWord (word 0xB1 1 0 0x00 0x00 0x00 0x00 0x00 0x00000000) = some (.mswap {}) ∧
    decodeWord (word 0xB1 2 0 0xC3 0x44 0x05 0x21 0x0B 0x00000003) = some (.mstream {} { rm := .rne, d := 3, a := 4, b := 5, c := 3, mask := .on false 1 }) ∧
    decodeWord (word 0xB2 0 0 0x44 0xC3 0xFF 0x31 0x09 0x000000FF) = some (.zread {} { ty := .f32, d := 4, z := 3, b := .imm 255, mask := .on true 1 }) ∧
    decodeWord (word 0xB2 1 0 0xC3 0x44 0x05 0x00 0x00 0x00000000) = some (.zwrite {} { ty := .i64, z := 3, a := 4, b := .reg 5, mask := .none }) ∧
    decodeWord (word 0xB2 2 0 0xC3 0x00 0x00 0x00 0x00 0x00000000) = some (.zzero {} { z := 3 }) ∧
    decodeWord (word 0xB3 0 0 0x00 0x9A 0xC3 0x00 0x09 0x00000000) = some (.zsave {} { ty := .f32, z := 3, q := 2 }) ∧
    decodeWord (word 0xB3 1 0 0xC3 0x9A 0x00 0x00 0x05 0x00000000) = some (.zload {} { ty := .n32, z := 3, q := 2 }) := by
  decide +kernel

/-- One word of each instruction, its fields from the tables of the entries: cursors. -/
theorem test_decode_cursors :
    decodeWord (word 0xC0 0 0 0x7E 0xA8 0xA9 0x00 0x05 0x00000000) = some (.eqint {} { d := 62, a := 0, b := 1 }) ∧
    decodeWord (word 0xC0 1 0 0x7D 0xA8 0xAB 0x00 0x05 0x0000000E) = some (.eqmrg {} { d := 61, a := 0, b := 3, n := 14 }) ∧
    decodeWord (word 0xC0 2 0 0x44 0x45 0xFF 0x21 0x09 0x00000007) = some (.eqnz {} { ty := .f32, d := 4, a := 5, b := .imm 7, mask := .on false 1 }) ∧
    decodeWord (word 0xC0 2 0 0x44 0xA8 0x00 0x00 0x0A 0x00000000) = some (.eqnzCursorForm {} { ty := .f16, d := 4, a := 0 }) ∧
    decodeWord (word 0xC1 0 0 0xAA 0x03 0xFF 0x00 0x00 0x00000064) = some (.eqsplt {} { e := 2, a := 3, b := .imm 100 }) ∧
    decodeWord (word 0xC2 0 0 0x00 0x03 0xAA 0x00 0x00 0x00000020) = some (.eqsave {} { e := 2, a := 3, off := 32 }) ∧
    decodeWord (word 0xC2 1 0 0xAA 0x03 0x00 0x00 0x00 0x00000020) = some (.eqload {} { e := 2, a := 3, off := 32 }) := by
  decide +kernel

/-- One word of each instruction, its fields from the tables of the entries: tile buffer and engine. -/
theorem test_decode_tile_buffer_and_engine :
    decodeWord (word 0xC8 0 0 0x03 0x00 0xFF 0x00 0x00 0x0000000F) = some (.tresize {} { d := 3, b := .imm 15 }) ∧
    decodeWord (word 0xC8 1 0 0x00 0x03 0x04 0x00 0x00 0x00000000) = some (.tgive {} { a := 3, b := .reg 4 }) ∧
    decodeWord (word 0xC9 0 1 0x9B 0x9A 0x00 0x00 0x00 0x00820040) = some (.tcopy { pred := 1 } { d := 3, a := 2, len := 64, bar := 1, ben := true }) ∧
    decodeWord (word 0xC9 1 0 0x09 0x04 0x14 0x22 0x00 0x0011C040) = some (.tcast {} { d := 9, a := 4, b := 20, m := 2, lines := 64, bar := 7, ben := true }) := by
  decide +kernel

/-- One word of each instruction, its fields from the tables of the entries: synchronisation. -/
theorem test_decode_synchronisation :
    decodeWord (word 0xD0 0 0 0x05 0x04 0x06 0x00 0x83 0x00000010) = some (.amo {} { aop := .add, aty := .n64, scope := .device, d := 5, a := 4, b := 6, off := 0x10 }) ∧
    decodeWord (word 0xD1 0 0 0x45 0x9C 0x46 0x21 0x79 0x00000000) = some (.vamo {} { aop := .cas, aty := .i64, scope := .gang, d := 5, q := 4, b := .vec 6, mask := .on false 1 }) ∧
    decodeWord (word 0xD2 0 0 0x81 0x44 0x00 0x22 0x43 0x00000000) = some (.vlock {} { scope := .gang, d := 1, a := 4, mask := .on false 2 }) ∧
    decodeWord (word 0xD2 1 0 0x01 0x44 0x00 0x00 0x83 0x00000000) = some (.vunlock {} { scope := .device, d := 1, a := 4, mask := .none }) ∧
    decodeWord (word 0xD3 0 0 0x00 0x00 0x00 0x00 0xC4 0x00000000) = some (.fence {} { kind := .all, scope := .system }) ∧
    decodeWord (word 0xD4 0 0 0x00 0x01 0x02 0x00 0x00 0x0000003F) = some (.barinit {} { n := 63, a := 1, b := 2 }) ∧
    decodeWord (word 0xD4 1 0 0x01 0x00 0x00 0x00 0x00 0x00000006) = some (.bararv {} { d := 1, n := 6 }) ∧
    decodeWord (word 0xD4 2 0 0x00 0x01 0x00 0x00 0x00 0x00000006) = some (.barexp {} { n := 6, a := 1 }) ∧
    decodeWord (word 0xD4 3 0 0x00 0x01 0x00 0x00 0x00 0x00000006) = some (.barwait {} { n := 6, a := 1 }) ∧
    decodeWord (word 0xD5 0 0 0x00 0x01 0x00 0x00 0x00 0x00000000) = some (.lsync {} { a := 1 }) := by
  decide +kernel

/-- One word of each instruction, its fields from the tables of the entries: tasks and windows. -/
theorem test_decode_tasks_and_windows :
    decodeWord (word 0xE0 0 0 0x01 0x02 0xFF 0x00 0x00 0x0000000F) = some (.tlaunch {} { d := 1, a := 2, b := .imm 15 }) ∧
    decodeWord (word 0xE0 1 0 0x01 0x02 0x00 0x00 0x00 0x00000000) = some (.twait {} { d := 1, a := 2 }) ∧
    decodeWord (word 0xE1 0 0 0x01 0x02 0x00 0x00 0x00 0x0000000F) = some (.evpop {} { d := 1, a := 2, n := 15 }) ∧
    decodeWord (word 0xE2 0 0 0x07 0x00 0x00 0x00 0x00 0x00000000) = some (.rfence {} { d := 7 }) ∧
    decodeWord (word 0xE3 0 0 0x05 0x04 0xFF 0x00 0x00 0x0000000C) = some (.wmap {} { d := 5, a := 4, b := .imm 12 }) ∧
    decodeWord (word 0xE3 1 0 0x05 0x00 0x06 0x00 0x00 0x00000000) = some (.wunmap {} { d := 5, b := .reg 6 }) := by
  decide +kernel

/-! ## Small states -/

/-- A device with one hart in slot 0, whose turn it is. -/
def on (h : Hart) : State := { turn := some 0, harts := [(0, h)] }

/-- A hart with some registers, in the kernel view, with a handler. -/
def hart : Hart :=
  { Hart.initial with
    ids := { gsize := 2, zshare := 4, ways := 2 }
    regs := { Hart.initial.regs with
      pc := 0x1000, vl := 4
      s := ((Vector.replicate 64 (0 : Word)).set 1 5).set 2 0xFFFFFFFFFFFFFFFF |>.set 3 (BitVec.ofNat 64 scratchBase) }
    trap := { tvec := 0x8000 } }

/-- A device whose partition 0 maps the first 512 MiB to themselves, through a pointer at 0x10000 and one leaf of
level 2 at 0x100000, with a writable standing range over everything. -/
def mapped (h : Hart) : State :=
  { on h with
    mem := [(0x10000, 0x01), (0x10002, 0x10), (0x100000, 0x37)]
    partitions := [(0, { en := true, dieSet := 1, stackSet := 1, srange := [(0, 0xFFFFFF8000000000)], regs := { ptroot := 0x10001 } })] }

theorem issues_at (op : Nat) (s : State) (h : Hart) (t : s.turn = some 0) (x : s.hart? 0 = some h) : Issues op {} s 0 h :=
  ⟨t, x, fun y => absurd y (by decide), by simp [guardTrue, Hart.getP, Regs.getP]⟩

theorem issues_on (op : Nat) (h : Hart) : Issues op {} (on h) 0 h := issues_at op (on h) h rfl rfl

theorem issues_mapped (op : Nat) (h : Hart) : Issues op {} (mapped h) 0 h := issues_at op (mapped h) h rfl rfl

/-- What a hart's register holds after one step. -/
def after (r : Host.Outcome State Fault Refusal) (i : SIdx) : Option Word :=
  match r with
  | .next t => (t.hart? 0).map fun h => h.getS i
  | _ => none

def vecAfter (r : Host.Outcome State Fault Refusal) (v : VIdx) (w i : Nat) : Option Word :=
  match r with
  | .next t => (t.hart? 0).map fun h => elemGet (h.getV v) w i
  | _ => none

/-! ## Single steps, with results worked out from the rules -/

-- R192: 5 + 2^64 − 1 wraps to 4; saturated in n64 it is 2^64 − 1; −1 as i32 is 0xFFFFFFFF, and − 5 is −6
theorem test_add_wraps : after (exec (.add {} { ty := .i64, sat := false, d := 4, a := 1, b := .reg 2 }) (on hart)) 4 = some 4 ∧
    after (exec (.add {} { ty := .n64, sat := true, d := 4, a := 1, b := .reg 2 }) (on hart)) 4 = some 0xFFFFFFFFFFFFFFFF := by decide +kernel
theorem test_sub_extends : after (exec (.sub {} { ty := .i32, sat := false, d := 4, a := 2, b := .reg 1 }) (on hart)) 4 = some 0xFFFFFFFFFFFFFFFA ∧
    after (exec (.sub {} { ty := .n32, sat := false, d := 4, a := 2, b := .reg 1 }) (on hart)) 4 = some 0xFFFFFFFA := by decide +kernel
-- R192: a shift amount counts modulo the width; SRA copies bit 31
theorem test_shifts : after (exec (.sll {} { ty := .i32, sat := false, d := 4, a := 1, b := .imm 33 }) (on hart)) 4 = some 10 ∧
    after (exec (.sra {} { ty := .n32, sat := false, d := 4, a := 2, b := .imm 4 }) (on hart)) 4 = some 0xFFFFFFFF := by decide +kernel
-- R160: division by zero gives all ones and the dividend
theorem test_divide_by_zero : after (exec (.div {} { ty := .i64, sat := false, d := 4, a := 1, b := .reg 0 }) (on hart)) 4 = some 0xFFFFFFFFFFFFFFFF ∧
    after (exec (.rem {} { ty := .i64, sat := false, d := 4, a := 1, b := .reg 0 }) (on hart)) 4 = some 5 := by decide +kernel
-- R193: EXT of 10 bits at 5, R194: MOVHI keeps the low half
theorem test_ext_and_movhi : after (exec (.ext_ {} { ty := .i64, d := 4, a := 2, lo := 5, len1 := 9 }) (on hart)) 4 = some 0xFFFFFFFFFFFFFFFF ∧
    after (exec (.movhi {} { d := 4, a := 1, imm := 0x25 }) (on hart)) 4 = some 0x0000002500000005 := by decide +kernel
-- R108: a write of s0 is discarded
theorem test_s0_stays_zero : after (exec (.movi {} { ty := .i64, d := 0, imm := 7 }) (on hart)) 0 = some 0 := by decide +kernel
-- R199: 1.5 + 2.25 = 3.75 in f32; R161: 1 ÷ 0 is ∞ with DZ raised (bit 3, R167)
theorem test_fadd : after (exec (.fadd {} { ty := .f32, rm := .rne, d := 4, a := 0, b := .imm 0x40700000 }) (on hart)) 4 = some 0x40700000 := by decide +kernel
-- R205: CALL links PC + 12 and goes to its target
theorem test_call : after (exec (.call {} { d := 63, off := 0x100 }) (on hart)) 63 = some 0x100C := by decide +kernel
-- R247: 0 + (−2) in element 0, R249: 5 ÷ 2 is a tie that goes to 2
theorem test_vector : vecAfter (exec (.vadd {} { ty := .i32, sat := false, d := 8, a := 2, b := .imm 0xFFFFFFFE, mask := .none }) (on hart)) 8 32 0 = some 0xFFFFFFFE ∧
    vecAfter (exec (.vsplat {} { ty := .i32, d := 8, b := .reg 1, mask := .none }) (on hart)) 8 32 3 = some 5 ∧
    vecAfter (exec (.vsplat {} { ty := .i32, d := 8, b := .reg 1, mask := .none }) (on hart)) 8 32 4 = some 0 ∧
    shiftRounded false 5 1 = 2 ∧ shiftRounded false (-5) 1 = -2 ∧ shiftRounded false 7 1 = 4 ∧ shiftRounded true (-5) 1 = -3 := by decide +kernel
-- R196, R197: a store to scratch and what a load reads back
theorem test_store_then_load : (match exec (.st {} { ty := .n32, scope := .core, a := 3, b := 2, off := 4 }) (on hart) with
    | .next t => after (exec (.ld {} { ty := .n64, scope := .core, d := 4, a := 3, off := 0 }) { t with turn := some 0 }) 4
    | _ => none) = some 0xFFFFFFFF00000000 := by decide +kernel
-- R330: fetch and add in memory at 0x20000
theorem test_amo : after (exec (.amo {} { aop := .add, aty := .n64, scope := .core, d := 4, a := 0, b := 1, off := 0x10000 }) (mapped hart)) 4 = some 0x100001 := by
  decide +kernel
-- R384, R382: TRAP enters at TVEC
theorem test_trap : (match exec (.trap {} { code := 9 }) (on hart) with
    | .next t => (t.hart? 0).map fun h => (h.pc, h.trap.epc, h.trap.ecause, h.trap.eval)
    | _ => none) = some (0x8000, 0x100C, 0x14, 9) := by decide +kernel

/-! ## Witnesses: concrete states and operands that meet the hypotheses of each statement -/

theorem exists_of_toBool {α : Type} {x : Except Denied α} (h : x.toBool = true) : ∃ a, x = .ok a := by
  cases x with
  | error _ => cases h
  | ok a => exact ⟨a, rfl⟩

/-- A hart with stream 1 (unit, f32, in scratch), stream 2 (stride, i32 in scratch), stream 3 (segment
of two f32), stream 4 (unit, bf16) and stream 5 (stride, f32, in memory), and dense cursors of which the
second is behind the first's position and the last is exhausted. -/
def streamer : Hart :=
  { hart with regs := { hart.regs with
      vl := 1
      q := (((((Vector.replicate 16 ({} : Stream)).set 1 { base := BitVec.ofNat 64 scratchBase, stride := 0, pos := 0, ctl := 1 + 8 * 9 }).set 2
        { base := BitVec.ofNat 64 scratchBase, stride := 8, pos := 0, ctl := 2 + 8 * 1 }).set 3
        { base := BitVec.ofNat 64 scratchBase, stride := 8, pos := 0, ctl := 3 + 8 * 9 + 128 }).set 4
        { base := BitVec.ofNat 64 scratchBase, stride := 0, pos := 0, ctl := 1 + 8 * 0xB }).set 5
        { base := 0x20000, stride := 4096, pos := 0, ctl := 2 + 8 * 9 }
      e := (((Vector.replicate 4 ({} : Cursor)).set 0 { cbase := 0, cpos := 2, cend := 9, cctl := 3 }).set 1 { cbase := 0, cpos := 4, cend := 20, cctl := 3 }).set 2
        { cbase := 0, cpos := 2, cend := 3, cctl := 3 } } }

theorem witness_ScalarIntegerResults :
    (∀ op, Issues op {} (on hart) 0 hart) ∧ hart.poisoned (.s 1 :: ssrcReads (.reg 0)) = false ∧ hart.poisoned [.s 1] = false :=
  ⟨fun _ => issues_on _ _, by decide +kernel⟩

theorem witness_IntegerOperationsMean :
    Ty.i8.isFloat = false ∧ (Ty.i8.minInt ≤ -128 ∧ (-128 : Int) ≤ Ty.i8.maxInt) ∧ (-129 : Int) < Ty.i8.minInt ∧ Ty.i8.maxInt < (128 : Int) ∧
    low Ty.i8.width 255 ≠ 0 ∧ low Ty.i8.width 256 = 0 ∧ 7 < Ty.i8.width ∧ Ty.i8.isSigned = true ∧ Ty.n8.isSigned = false := by decide +kernel

theorem is_three : (FVal.fin false 3 0).Is 3 := by norm_num [FVal.Is]
theorem is_zero : (FVal.zero false).Is 0 := by simp [FVal.Is]

/-- The clauses of FloatResultsRound: finite sources, a divisor and a root that exist. -/
theorem witness_FloatResultsRound :
    (FVal.fin false 3 0).Is 3 ∧ (FVal.fin true 3 (-1)).Is (-3 / 2) ∧ (FVal.zero true).Is 0 ∧ (3 : ℝ) ≠ 0 ∧ (0 : ℝ) ≤ 3 ∧ Ty.n8.isFloat = false :=
  ⟨is_three, by norm_num [FVal.Is], by simp [FVal.Is], by norm_num, by norm_num, by decide⟩

/-- The clauses of SumsRoundOnce: vectors, weights and cells of zeros. -/
theorem witness_SumsRoundOnce :
    Ty.f32.isFloat = true ∧ Ty.i8.isFloat = false ∧
    (∀ t, t < perCell Ty.f32 → (Ty.f32.fmt.read hart.flush (opElem hart .f32 2 0 t)).Is 0) ∧
    (∀ t ∈ [0, 1], (Fmt.bf16.read hart.flush (elemGet (hart.getV 2) 16 t)).Is 0 ∧ (Fmt.bf16.read hart.flush (hart.live.weight t 5)).Is 0) ∧
    (Fmt.f32.read hart.flush 0).Is 0 ∧ [none, some ((1 : Word), (0 : FFlags))].length = 2 ^ 1 := by
  have h : (∀ t, t < perCell Ty.f32 → Ty.f32.fmt.read hart.flush (opElem hart .f32 2 0 t) = .zero false) ∧
      (∀ t ∈ [0, 1], Fmt.bf16.read hart.flush (elemGet (hart.getV 2) 16 t) = .zero false ∧ Fmt.bf16.read hart.flush (hart.live.weight t 5) = .zero false) ∧
      Fmt.f32.read hart.flush 0 = .zero false := by decide +kernel
  exact ⟨rfl, rfl, fun t x => h.1 t x ▸ is_zero, fun t x => ⟨(h.2.1 t x).1 ▸ is_zero, (h.2.1 t x).2 ▸ is_zero⟩, h.2.2 ▸ is_zero, rfl⟩

theorem witness_ScalarFloatResults :
    (∀ op, Issues op {} (on hart) 0 hart) ∧ hart.poisoned (.s 1 :: ssrcReads (.imm 0)) = false ∧ hart.poisoned [.s 63] = false :=
  ⟨fun _ => issues_on _ _, by decide +kernel⟩

/-- The clauses of FloatSpecialCases: patterns, NaNs, infinities, zeros of both signs and what lies between. -/
theorem witness_FloatSpecialCases :
    (FVal.fin true 3 0).Is (-3) ∧ (-3 : ℝ) < 0 ∧ (-3 : ℝ) ≠ 0 ∧ (FVal.inf true).At ⊥ ∧ (FVal.fin false 3 0).At ((3 : ℝ) : EReal) ∧ (⊥ : EReal) < ((3 : ℝ) : EReal) ∧
    (FVal.nan true).isNan = true ∧ (FVal.zero false).isNan = false ∧
    (let f := Ty.e4m3.fmt
     f.special = .e4m3 ∧ 15 ≤ 2 ^ f.ebits - 1 ∧ 7 < 2 ^ f.fbits ∧ (7 : Nat) = 2 ^ f.fbits - 1 ∧ (6 : Nat) < 2 ^ f.fbits - 1) ∧
    (let f := Ty.f16.fmt
     f.special = .ieee ∧ f.value 0x8000 = .zero true ∧ f.value 0 = .zero false ∧ f.value 0x7C00 = .inf false ∧ (f.value 0x7C01).isNan = true ∧
      (f.value 0x7E00).isNan = true ∧ f.value 1 = .fin false 1 (-24) ∧ f.isSubnormal 1 = true ∧ f.isSubnormal 0x3C00 = false ∧
      ({ input := true, output := true } : Flush).input = true ∧ Flush.off.input = false ∧ low f.width 0x13C00 = low f.width 0x3C00) :=
  ⟨by norm_num [FVal.Is], by norm_num, by norm_num, by simp [FVal.At], ⟨3, is_three, rfl⟩, EReal.bot_lt_coe 3, by decide +kernel⟩

theorem witness_PredicateAndMaskResults :
    (∀ op, Issues op {} (on hart) 0 hart) ∧ hart.poisoned (.s 1 :: ssrcReads (.reg 2)) = false ∧ hart.poisoned [.m 0, .m 15] = false ∧
    hart.poisoned [.m 15] = false := ⟨fun _ => issues_on _ _, by decide +kernel⟩

/-- The conditions (R202, R254): 200 of i8 is −56, and less than 1; of n8 it is not. -/
theorem witness_ConditionsMean :
    Ty.i8.isFloat = false ∧ Ty.f32.isFloat = true ∧ Ty.i8.isSigned = true ∧ Ty.n8.isSigned = false ∧
    condOf .lt .i8 Flush.off 200 1 = (true, 0) ∧ condOf .lt .n8 Flush.off 200 1 = (false, 0) ∧ condOf .ge .i8 Flush.off 1 1 = (true, 0) ∧
    condOf .eq .i8 Flush.off 0x105 5 = (true, 0) ∧ condOf .ne .n16 Flush.off 0x105 5 = (true, 0) := by decide +kernel

theorem witness_BranchesRedirectOrTrap :
    (∀ op, Issues op {} (on hart) 0 hart) ∧ (hart.pc + (0xFFFFFFFC : BitVec 32).signExtend 64).toNat % 4 = 0 ∧
    (hart.pc + (1 : BitVec 32).signExtend 64).toNat % 4 ≠ 0 ∧ hart.poisoned [.s 1] = false ∧
    (hart.getS 1 + (3 : BitVec 32).signExtend 64).toNat % 4 = 0 ∧ (hart.getS 1 + (0 : BitVec 32).signExtend 64).toNat % 4 ≠ 0 :=
  ⟨fun _ => issues_on _ _, by decide +kernel⟩

theorem witness_HardwareLoopsRun :
    (∀ op, Issues op {} (on hart) 0 hart) ∧ hart.poisoned [.s 1] = false ∧ hart.getS 1 ≠ 0 ∧ hart.getS 0 = 0 ∧
    -- a hart restored with a poisoned lc0, which LSETUP of loop 0 writes, and one of loop 1 does not (R392)
    (let h := { hart with poison := [.control 0x138] }
     h.poisoned [.s 1] = false ∧ (clearPoison h (RegLoc.controlIn (loopOffsets false))).poison = [] ∧
      (clearPoison h (RegLoc.controlIn (loopOffsets true))).poison = [.control 0x138]) ∧
    hart.trap.suspended = false ∧ { hart.trap with suspended := true : TrapRegs }.suspended = true ∧
    (let r : LoopRegs := { lc0 := 2, le0 := 8, lc1 := 1, le1 := 8 }
     r.lc1 = 1 ∧ (8 : Word) = r.le1 ∧ ({ r with lc1 := 0 } : LoopRegs).lc0 ≠ 0 ∧ 1 < r.lc0.toNat ∧ 1 < ({ r with lc1 := 2 } : LoopRegs).lc1.toNat) :=
  ⟨fun _ => issues_on _ _, by decide +kernel⟩

theorem witness_LoadsComplete :
    (∀ op, Issues op {} (on hart) 0 hart) ∧ (∀ op, Issues op {} (mapped hart) 0 hart) ∧ hart.poisoned [.s 3] = false ∧
    (hart.getS 3 + 1).toNat % 8 ≠ 0 ∧ (hart.getS 3 + 262136).toNat % 8 = 0 ∧
    place (noteRunning (on hart) hart) 0 hart (hart.getS 3 + 262136) 8 false = .ok (.scratch 262136) ∧
    poisonedIn hart.scratchPoison 262136 8 = none ∧
    place (noteRunning (mapped hart) hart) 0 hart 0x1FFF8 8 false = .ok (.mem 0x1FFF8 0x37) ∧ hostReadFails (mapped hart) 0x1FFF8 8 = false ∧
    pinnedElsewhere (noteRunning (mapped hart) hart) (pairOfAgent 0) 0x1FFF8 8 = none ∧
    readPoison (noteRunning (mapped hart) hart) 0 0x1FFF8 8 = none :=
  ⟨fun _ => issues_on _ _, fun _ => issues_mapped _ _, by decide +kernel⟩

/-- The sibling of the hart pins line 0x400, which the hart has stored to; and the pins of one hart fill the pair. -/
def underPin (h : Hart) : State := { mapped h with pairs := [(0, { pins := [{ slot := 1, line := 0x400 }], delayed := [{ slot := 0, vec := false, part := 0, pa := 0x20000, n := 8, page := 2, stamp := 0 }], stamp := 1 })] }
def fullPins (h : Hart) : State := { mapped h with pairs := [(0, { pins := (List.range 64).map fun k => { slot := 0, line := k } })] }

theorem witness_StoresComplete :
    (∀ op, Issues op {} (mapped hart) 0 hart) ∧ hart.poisoned [.s 0, .s 1] = false ∧ (0x20000 : Word).toNat % 8 = 0 ∧ (0x20001 : Word).toNat % 8 ≠ 0 ∧
    checkStore (noteRunning (mapped hart) hart) 0 hart 0x20000 8 true = .ok (.mem 0x20000 0x37) ∧
    checkStore (on hart) 0 hart (hart.getS 3) 8 true = .ok (.scratch 0) ∧
    (corePin (noteRunning (mapped hart) hart) 0 (.mem 0x20000 0x37)).isSome = true ∧
    corePin (fullPins hart) 0 (.mem 0x20000 0x37) = none ∧
    releaseHeld (noteRunning (mapped hart) hart) 0 .ofScalar .system = none ∧ (releaseHeld (underPin hart) 0 .ofScalar .system).isSome = true :=
  ⟨fun _ => issues_mapped _ _, by decide +kernel⟩

theorem witness_FalseGuardHasNoEffect :
    (Instr.nop { pred := 7 }).raw.isSome = true ∧ (Instr.nop { pred := 7 }).raw.bind Ctl.parse = some { pred := 7 } ∧
    (on hart).turn = some 0 ∧ (on hart).hart? 0 = some hart ∧ isLamp 0 = false ∧ guardTrue hart { pred := 7 } = false ∧
    (decodeWord 0x3002400000000000FFFFFFDC).isSome = true ∧ Ctl.parse (Raw.unpack 0x3002400000000000FFFFFFDC) = some { neg := true, pred := 1 } ∧
    (0x3002000000000000FFFFFFDC : BitVec 96).extractLsb' 78 4 = 0b1000#4 := by decide +kernel

theorem witness_SystemRegisterAccess :
    (∀ op, Issues op {} (on hart) 0 hart) ∧ (∀ r, winReg 0x48 = some r → r.readOnly = false) ∧ (∃ r, winReg 0x28 = some r ∧ r.readOnly = true) ∧
    sysRights 0x005 (privileged 0 hart) = some ⟨true, false⟩ ∧
    sysRights 0x17F (privileged 0 hart) = some ⟨true, true⟩ ∧ sysRights 0x020 (privileged 0 hart) = some ⟨false, false⟩ ∧
    sysRights 0x180 (privileged 0 hart) = none ∧ privileged 0 hart = false ∧ privileged 0 { hart with priv := true } = true ∧
    isLamp 0 = false ∧ isLamp 1280 = true ∧ noLampRegister 0x00C = true ∧ noLampRegister 0x00D = false ∧ hart.poisoned [.s 1] = false :=
  ⟨fun _ => issues_on _ _, by decide +kernel, ⟨.lfva, by decide +kernel⟩, by decide +kernel⟩

theorem witness_SystemRegistersReadBack :
    hart.ids.zshare ≤ 32 ∧ (31 : Nat) < 32 ∧ (255 : Nat) < 256 ∧ (0x100 : Nat) ≤ 0x10B ∧ (0x10C : Nat) ≤ 0x17F := by decide

theorem witness_EretRestoresOrTraps :
    (let h := { hart with priv := true, trap := { hart.trap with epc := 0x2000, suspended := true } }
     (∀ op, Issues op {} (on h) 0 h) ∧ privileged 0 h = true ∧ h.marked [0x170, 0x178, 0x190] = false ∧ h.trap.epc.toNat % 4 = 0 ∧
      { h with poison := [.control 0x170] }.marked [0x170, 0x178, 0x190] = true) ∧
    (∀ op, Issues op {} (on hart) 0 hart) ∧ privileged 0 hart = false ∧ (0x2002 : Word).toNat % 4 ≠ 0 :=
  ⟨⟨fun _ => issues_on _ _, by decide +kernel⟩, fun _ => issues_on _ _, by decide +kernel⟩

def gang0 : Gang := { id := 0, part := 0, queue := 3, seq := 5, gridIdx := 1, die := 0, size := 1, harts := [(0, 0)], images := [0] }
def task0 : Task := { part := 0, queue := 3, seq := 5, record := List.replicate 256 0, state := .running, ran := true }
/-- The hart's task runs, as one gang of one hart. -/
def tasked (h : Hart) : State := { mapped h with gangs := [gang0], tasks := [task0] }
def inFlight : Transfer := { id := 0, slot := 0, gang := 0, work := .copy false [] [], bar := none, bytes := 0 }

theorem witness_WaitsAndHalt :
    (∀ op, Issues op {} (on hart) 0 hart) ∧ (on hart).hart? 0 = some hart ∧
    (let h := { hart with run := .halting }
     (tasked h).hart? 0 = some h ∧ h.run = .halting ∧ isLamp 0 = false ∧ (tasked h).gang? h.ids.gang = some gang0 ∧
      (gangSends (tasked h) gang0 || hartPinned (tasked h) 0) = false ∧
      (let s := { tasked h with transfers := [inFlight] }
       gangSends s gang0 || hartPinned s 0) = true) :=
  ⟨fun _ => issues_on _ _, by decide +kernel⟩

theorem witness_TrapsEnterOrEndTheTask :
    (∀ op, Issues op {} (on hart) 0 hart) ∧ (on hart).hart? 0 = some hart ∧ isLamp 0 = false ∧ hart.priv = false ∧ hart.trap.tvec ≠ 0 ∧
    (let h := { hart with trap := {} }
     (tasked h).hart? 0 = some h ∧ h.trap.tvec = 0 ∧ (tasked h).gang? h.ids.gang = some gang0 ∧
      (tasked h).task? 0 3 5 = some task0 ∧ task0.state.canEnd = true) ∧
    -- a Lamplighter with a handler and one without (R56)
    (let s := { on hart with harts := [(1280, hart), (1281, { hart with trap := {} })] }
     s.hart? 1280 = some hart ∧ isLamp 1280 = true ∧ (s.hart? 1281).map (fun h => h.trap.tvec) = some 0 ∧ isLamp 1281 = true) :=
  ⟨fun _ => issues_on _ _, by decide +kernel⟩

/-- A hart that holds the packets of its PC, with the words given there. -/
def holding (w : BitVec 96) : Hart := { hart with packets := [{ va := 0x1000, bytes := bytesOfWord w ++ List.replicate 52 0 }] }
def atTurn (h : Hart) : State := { on h with agenda := [.agent 0 none] }

theorem witness_StepRunsTheDecodedInstruction :
    (let w := 0x010001417FC0000000000010
     nextTurn (atTurn (holding w)) = some (.agent 0 none, on (holding w)) ∧ (on (holding w)).hart? 0 = some (holding w) ∧
      canIssue 0 (holding w) = true ∧ (holding w).held = none ∧ (holding w).marked firstWords = false ∧
      pendingInterrupt (on (holding w)) 0 (holding w) = none ∧
      wordIn (holding w).packets (holding w).pc.toNat = some (bytesOfWord w) ∧ poisonIn (holding w).packets (holding w).pc.toNat = none ∧
      fetchWord (on (holding w)) 0 (holding w) = .ok (bytesOfWord w) ∧
      decodeBytes (bytesOfWord w) = some (.instr (.add {} { ty := .i64, sat := false, d := 5, a := 5, b := .imm 16 }), [])) ∧
    wordIn hart.packets hart.pc.toNat = none ∧ hart.pc.toNat % 32 ≤ 20 ∧ (∀ k, k < 12 → inScratchWindow (0x1000 + k) = false) ∧
    leaseFailure ((mapped hart).part 0) [] 0x1000 12 false = none ∧ translatePage (mapped hart) 0 hart [] 0x1000 false = .ok (0, 0x37) ∧
    hostReadFails (mapped hart) 0x1000 12 = false ∧ pinnedElsewhere (mapped hart) (pairOfAgent 0) 0x1000 12 = none ∧
    readPoison (mapped hart) 0 0x1000 12 = none := by decide +kernel

/-- What keeps an instruction from issuing: a poisoned guard or loop count that an image gave, a fence before a
vector instruction, and a Lantern that lags behind a branch. -/
theorem witness_notIssued :
    (let i := Instr.add { pred := 3 } { ty := .i64, sat := false, d := 5, a := 5, b := .imm 16 }
     { hart with poison := [.p 3] }.controlPoisoned i = true ∧ { hart with poison := [.control 0x138] }.controlPoisoned i = true ∧
      { hart with poison := [.s 5] }.controlPoisoned i = false ∧ hart.fenceS = {} ∧ hart.fenceV = {} ∧ hart.poison = []) ∧
    (let h := { hart with fenceV := { own := 1 } }
     let i := Instr.vid {} { ty := .i32, d := 8, mask := .none }
     fenced (underPin h) 0 h i = true ∧ notIssued (underPin hart) 0 hart i = none) ∧
    (let h := { hart with lantern := { copy := some { regs := hart.regs }, seq := 1 } }
     awaitsLantern h (.br {} { off := 8 }) = true ∧ awaitsLantern h (.nop {}) = false) := by decide +kernel

theorem witness_StepMeetsBadWordsAndEvents :
    decodeBytes (bytesOfWord 0) = some (.zeroWord, []) ∧ decodeBytes (bytesOfWord (BitVec.allOnes 96)) = some (.onesWord, []) ∧
    decodeBytes (bytesOfWord 1) = some (.malformed, []) ∧ fetchWord (on (holding 0)) 0 (holding 0) = .ok (bytesOfWord 0) ∧
    fetchWord (on (holding 1)) 0 (holding 1) = .ok (bytesOfWord 1) ∧
    fetchWord (on (holding (BitVec.allOnes 96))) 0 (holding (BitVec.allOnes 96)) = .ok (bytesOfWord (BitVec.allOnes 96)) ∧
    nextTurn (atTurn (holding 0)) = some (.agent 0 none, on (holding 0)) ∧ (holding 0).held = none ∧
    ({ on hart with agenda := [.event .deviceReset] } : State).agenda = .event .deviceReset :: [] := by decide +kernel

theorem witness_EncodingRoundTrip :
    (Instr.ext_ {} { ty := .n64, d := 63, a := 63, lo := 32, len1 := 31 }).wf = true ∧
    (encode (.ext_ {} { ty := .n64, d := 63, a := 63, lo := 32, len1 := 31 })).isSome = true ∧
    decodeWord (word 0x03 5 0 63 63 0 0 4 (32 + 31 * 256)) = some (.ext_ {} { ty := .n64, d := 63, a := 63, lo := 32, len1 := 31 }) := by decide +kernel

theorem witness_VectorIntegerResults :
    (∀ op, Issues op {} (on hart) 0 hart) ∧ hart.poison = [] ∧ (on hart).budget = none ∧ hart.widthOk Ty.i32.width = true :=
  ⟨fun _ => issues_on _ _, by decide +kernel⟩

theorem witness_VectorWidthChangingResults :
    (∀ op, Issues op {} (on hart) 0 hart) ∧ hart.poison = [] ∧
    (Instr.vwmacc {} { ty := .i16, sat := true, d := 1, a := 2, b := .vec 3, mask := .none }).wf = true ∧
    (Instr.vwadd {} { ty := .i16, sat := false, d := 1, a := 2, b := .vec 3, mask := .none }).wf = true ∧
    (Instr.vnshr {} { ty := .n16, sat := true, rm := .rdn, d := 1, a := 2, b := .reg 3, mask := .none }).wf = true ∧
    hart.widthOk Ty.i16.wide.width = true ∧ hart.widthOk Ty.n16.wide.width = true :=
  ⟨fun _ => issues_on _ _, by decide +kernel⟩

theorem witness_VectorFloatResults :
    (∀ op, Issues op {} (on hart) 0 hart) ∧ hart.poison = [] ∧ hart.widthOk Ty.f32.width = true :=
  ⟨fun _ => issues_on _ _, by decide +kernel⟩

theorem witness_VectorConversionResults :
    (∀ op, Issues op {} (on hart) 0 hart) ∧
    (Instr.vfwma {} { ty := .bf16, rm := .dyn, d := 1, a := 2, b := .vec 3, mask := .none }).wf = true ∧ hart.widthOk Ty.bf16.wide.width = true ∧
    (Instr.vfcvt {} { ty := .f32, rm := .dyn, src := .e4m3, d := 1, a := 2, mask := .none }).wf = true ∧
    hart.widthOk (max Ty.e4m3.width Ty.f32.width) = true :=
  ⟨fun _ => issues_on _ _, by decide +kernel⟩

theorem witness_VectorCompareAndSettingResults :
    (∀ op, Issues op {} (on hart) 0 hart) ∧ hart.poison = [] ∧ hart.widthOk Ty.f32.width = true ∧ hart.poisoned (ssrcReads (.imm 5000)) = false :=
  ⟨fun _ => issues_on _ _, by decide +kernel⟩

theorem witness_VectorMoveAndPermuteResults :
    (∀ op, Issues op {} (on hart) 0 hart) ∧ hart.poison = [] ∧ hart.widthOk Ty.f32.slotWidth = true :=
  ⟨fun _ => issues_on _ _, by decide +kernel⟩

theorem witness_ReductionResults :
    (∀ op, Issues op {} (on hart) 0 hart) ∧ hart.poison = [] ∧ hart.widthOk Ty.f32.width = true ∧
    hart.activeBelow .none = [0, 1, 2, 3] ∧ hart.activeBelow (.on false 1) = [] :=
  ⟨fun _ => issues_on _ _, by decide +kernel⟩

theorem witness_DeferralResults :
    (∀ op, Issues op {} (on hart) 0 hart) ∧ hart.poison = [] ∧ hart.widthOk Ty.f32.width = true ∧
    (hart.activeBelow .none).length + hart.defer.length ≤ 4096 ∧
    4096 < (hart.activeBelow .none).length + (List.replicate 4093 ({ index := 0, path := 0, v0 := 0, v1 := 0, v2 := 0, v3 := 0 } : DeferSlot)).length ∧
    (Instr.vdrain {} { ty := .f32, d := 1, a := 60, n1 := 3, path := 15 }).wf = true ∧ (Instr.vdcount {} { d := 1, path := 16 }).wf = true :=
  ⟨fun _ => issues_on _ _, by decide +kernel⟩

theorem witness_WidthAndTileChecksTrap :
    (∀ op, Issues op {} (on hart) 0 hart) ∧
    (let i := Instr.vfadd {} { ty := .f16, rm := .dyn, d := 1, a := 2, b := .vec 3, mask := .on true 1 }
     (i.raw.map fun r => r.op.toNat) = some 0x68 ∧ i.raw.bind Ctl.parse = some {} ∧ i.governs = some 16 ∧ i.tile = none) ∧
    (let i := Instr.mopa {} { ty := .bf16, rm := .rne, sat := false, half := false, d := 3, a := 4, b := 5, mask := .none }
     (i.raw.map fun r => r.op.toNat) = some 0xB0 ∧ i.raw.bind Ctl.parse = some {} ∧ i.governs = some 16 ∧ i.tile = some 3) ∧
    hart.widthOk 16 = false ∧ tileOk hart 4 = false ∧ tileOk hart 3 = true ∧
    (let h := { hart with regs := { hart.regs with vtype := 0x0B, s := hart.regs.s.set 9 256 } }
     (on h).hart? 0 = some h ∧ h.widthOk 16 = true ∧ 255 < (h.getS 9).toNat ∧ h.poisoned (.s 9 :: maskBits 0 64 .none) = false) ∧
    255 < (hart.usrc (.imm 256)).toNat ∧ hart.widthOk 32 = true ∧ hart.poisoned (ssrcReads (.imm 256)) = false :=
  ⟨fun _ => issues_on _ _, by decide +kernel⟩

theorem witness_StoppedElementsResume :
    (∀ op, Issues op {} { on hart with budget := some 3 } 0 hart) ∧ hart.poison = [] ∧ 3 < hart.vl - hart.vstart ∧ hart.vstart + 3 < 2048 ∧
    hart.widthOk Ty.i32.width = true ∧ hart.widthOk Ty.f32.width = true ∧ hart.widthOk Ty.n16.wide.width = true ∧
    hart.widthOk (max Ty.e4m3.width Ty.f32.width) = true ∧
    (Instr.vwmacc {} { ty := .n16, sat := true, d := 1, a := 2, b := .vec 3, mask := .on true 4 }).wf = true ∧
    (Instr.vfcvt {} { ty := .f32, rm := .rne, src := .e4m3, d := 1, a := 2, mask := .none }).wf = true ∧
    (Instr.vcmp {} { cond := .un, ty := .f32, d := 0, a := 2, b := .vec 3, mask := .none }).wf = true :=
  ⟨fun op => issues_at op { on hart with budget := some 3 } hart rfl rfl, by decide +kernel⟩

theorem witness_StreamBindings :
    (∀ op, Issues op {} (on streamer) 0 streamer) ∧ streamer.poisoned [.s 1, .s 0] = false ∧ streamer.poisoned [.s 1, .q 2] = false ∧
    (streamer.getQ 2).isIndex = true ∧ (streamer.getQ 1).isIndex = false :=
  ⟨fun _ => issues_on _ _, by decide +kernel⟩

theorem witness_VectorLoadsComplete :
    (∀ op, Issues op {} (on streamer) 0 streamer) ∧
    (∃ r, streamAddr (noteRunning (on streamer) streamer) 0 streamer (streamer.getQ 1) 0 = .ok r) ∧
    (∃ r, elementRead (noteRunning (on streamer) streamer) 0 streamer (BitVec.ofNat 64 scratchBase) 4 none = .ok r) ∧
    (∃ r, elementRead (noteRunning (on streamer) streamer) 0 streamer ((streamer.getQ 3).direct 0 + BitVec.ofNat 64 (1 * 4)) 4 none = .ok r) ∧
    streamer.poison = [] ∧ streamer.widthOk Ty.f32.slotWidth = true ∧
    streamOk streamer (streamer.getQ 1) .f32 [1, 2, 4] = true ∧ streamOk streamer (streamer.getQ 3) .f32 [3] = true ∧
    (62 : VIdx).toNat + (streamer.getQ 3).nf ≤ 63 ∧ streamer.vstart ≤ 0 ∧ 0 < streamer.vl ∧ streamer.active .none 0 = true ∧
    (on streamer).hart? 0 = some streamer :=
  ⟨fun _ => issues_on _ _, exists_of_toBool (by decide +kernel), exists_of_toBool (by decide +kernel), exists_of_toBool (by decide +kernel),
    by decide +kernel⟩

/-- A state in which a store of stream 1 or 3 starts. -/
def storing (fields : Nat) (q : QIdx) : State :=
  let u := { noteRunning (on streamer) streamer with fresh := 1 }
  u.modHart 0 fun y => y.popGather u 0 (gathered u 0 streamer (streamer.getQ q) .none fields 0)

theorem witness_VectorStoresComplete :
    (∀ op, Issues op {} (on streamer) 0 streamer) ∧
    (∃ t, (streamAddr (storing 1 1) 0 (hartAt (storing 1 1) 0 streamer) (streamer.getQ 1) 0).bind (fun r =>
      storeElem r.1 0 streamer .none true 0 r.2 4 (streamer.getQ 1).limit 7) = .ok t) ∧
    (∃ t, ((segmentCheck (storing 2 3) 0 (hartAt (storing 2 3) 0 streamer) ((streamer.getQ 3).direct 0) 4 2 0).bind fun pls =>
      performElement 0 streamer .none true 0 (storing 2 3, ((segmentRegs 4 1).zip pls).map fun e => { va := e.2.1, place := e.2.2, bytes := elemBytes 4 7 })) = .ok t) ∧
    (let v := noteRunning (on streamer) streamer
     let u := v.modHart 0 fun y => y.popGather v 0 (packedAddrs streamer (streamer.getQ 1) .none)
     ∃ t, storeElem u 0 streamer .none true 0 (((hartAt u 0 streamer).getQ 1).direct 0) 4 (streamer.getQ 1).limit 7 = .ok t) ∧
    streamer.poison = [] ∧ streamer.widthOk Ty.f32.slotWidth = true ∧
    streamOk streamer (streamer.getQ 1) .f32 [1] = true ∧ streamOk streamer (streamer.getQ 1) .f32 [1, 2, 4] = true ∧
    streamOk streamer (streamer.getQ 3) .f32 [3] = true ∧ (4 : VIdx).toNat + (streamer.getQ 3).nf ≤ 63 ∧
    max streamer.vstart streamer.vl = streamer.vstart + 1 :=
  ⟨fun _ => issues_on _ _, exists_of_toBool (by decide +kernel), exists_of_toBool (by decide +kernel), exists_of_toBool (by decide +kernel),
    by decide +kernel⟩

def txEntry : BitVec 512 := 0x10000#512 ||| 3#512
theorem witness_StoresWriteOnlyTheirBytes :
    pteWtype 0x37 ≠ 1 ∧ isHostPa 0x20000 = false ∧ (on hart).hart? 0 = some hart ∧ pteWtype 0x137 = 1 ∧
    ({ on hart with windows := [(0, txEntry)] } : State).window (pteAux 0x137) = some txEntry ∧ winLb txEntry = false ∧
    ({ on hart with windows := [(0, txEntry ||| 8#512)] } : State).window (pteAux 0x137) = some (txEntry ||| 8#512) ∧ winLb (txEntry ||| 8#512) = true ∧
    -- host memory over a link that is trained, and over one that is not (R97)
    isHostPa (2 ^ 50) = true ∧ hostWriteFails { on hart with linkUp := 1 } (2 ^ 50) 8 = false ∧ hostWriteFails (on hart) (2 ^ 50) 8 = true ∧
    ((on hart).part 0).regs.errstat.getLsbD 0 = false := by decide +kernel

theorem witness_OuterProductResults :
    (∀ op, Issues op {} (on hart) 0 hart) ∧ hart.poison = [] ∧ tileOk hart 3 = true ∧ hart.widthOk Ty.f32.slotWidth = true :=
  ⟨fun _ => issues_on _ _, by decide +kernel⟩

theorem witness_StationaryPlaneResults :
    (∀ op, Issues op {} (on streamer) 0 streamer) ∧
    (∃ r, elementRead (noteRunning (on streamer) streamer) 0 streamer ((streamer.getQ 4).direct 63) 2 (streamer.getQ 4).limit = .ok r) ∧
    streamOk streamer (streamer.getQ 4) .bf16 [1] = true ∧
    (let h := { hart with regs := { hart.regs with vtype := 0x0B, s := hart.regs.s.set 9 255 } }
     h.widthOk 16 = true ∧ (h.getS 9).toNat ≤ 255 ∧ tileOk h 3 = true ∧ h.poison = []) :=
  ⟨fun _ => issues_on _ _, exists_of_toBool (by decide +kernel), by decide +kernel⟩

/-- A hart at the last row of a tile, with stream 1 in memory. -/
def rower : Hart :=
  { streamer with regs := { streamer.regs with vstart := 255, q := streamer.regs.q.set 1 { base := 0x40000, stride := 0, pos := 0, ctl := 1 + 8 * 9 } } }
theorem witness_TileMovesComplete :
    (∀ op, Issues op {} (on hart) 0 hart) ∧ (∀ op, Issues op {} (mapped rower) 0 rower) ∧
    (∃ r, rowWriteCheck (mapped rower) 0 rower (rower.getQ 1) 4 256 (256 * 255) = .ok r) ∧
    (∃ r, elementRead (mapped rower) 0 rower ((rower.getQ 1).direct (256 * 255 + 255)) 4 none = .ok r) ∧
    tileOk hart 3 = true ∧ hart.widthOk Ty.f32.width = true ∧ (hart.usrc (.imm 255)).toNat ≤ 255 ∧
    tileOk rower 3 = true ∧ streamOk rower (rower.getQ 1) .f32 [1] = true ∧ max rower.vstart 256 = 256 :=
  ⟨fun _ => issues_on _ _, fun _ => issues_mapped _ _, exists_of_toBool (by decide +kernel), exists_of_toBool (by decide +kernel), by decide +kernel⟩

theorem witness_EquinoxLoopsComplete :
    (∀ op, Issues op {} (on streamer) 0 streamer) ∧
    (let u := popCoords (noteRunning (on streamer) streamer) 0 streamer [0, 1]
     (∃ r, eqintStep 0 { d := 62, a := 0, b := 1 } streamer.vl streamer (u, streamer.vstart) = .ok r) ∧
      eqintStep 0 { d := 62, a := 0, b := 1 } streamer.vl streamer (u, 1) = .ok none ∧
      eqmrgStep 0 { d := 61, a := 0, b := 1, n := 1 } streamer.vl streamer (u, 1) = .ok none ∧
      eqnzStep 0 { ty := .i8, d := 62, a := 0 } streamer.vl streamer (u, 1) = .ok none) ∧
    streamer.widthOk 32 = true ∧ cursorOk streamer 0 [0, 1, 2, 3] = true ∧ cursorOk streamer 1 [3] = true ∧
    1 < fuelOf streamer [0, 1] :=
  ⟨fun _ => issues_on _ _, ⟨exists_of_toBool (by decide +kernel), by decide +kernel⟩, by decide +kernel⟩

/-- What a cursor's settling finds, and what a step answers, for a test. -/
def peeked (r : Except Denied (State × Option Peek)) : Option (Option (Nat × Nat)) :=
  match r with
  | .ok (_, none) => some none
  | .ok (_, some (.present k p)) => some (some (k, p))
  | _ => none

def badCursor : Cursor := { cbase := 0, cpos := 5, cend := 4, cctl := 3 }
def goodCursor : Cursor := { cbase := 0, cpos := 2, cend := 9, cctl := 3 }
def holdsCursor (c : Cursor) : Hart := { streamer with scratch := (streamer.writeScratch 0 (cursorBytes c)).scratch }
def loadsBytes (r : Except Denied (State × List Byte)) (bs : List Byte) : Bool :=
  match r with
  | .ok (_, x) => x == bs
  | _ => false
def readsWord (r : Except Denied (State × Nat)) (n : Nat) : Bool :=
  match r with
  | .ok (_, x) => x == n
  | _ => false

theorem witness_CursorsIntersectAndMove :
    (∀ op, Issues op {} (on streamer) 0 streamer) ∧ (∀ op, Issues op {} (mapped streamer) 0 streamer) ∧
    (∃ pl, checkStore (noteRunning (on streamer) streamer) 0 streamer (streamer.getS 3) 32 true = .ok pl) ∧
    (0 : EIdx) ≠ 1 ∧ (62 : VIdx).toNat ≤ 62 ∧ cursorBad (streamer.getE 0) = false ∧
    cursorBad (streamer.getE 1) = false ∧ curEnc (streamer.getE 0) = 3 ∧ curEnc (streamer.getE 1) = 3 ∧ streamer.vstart = 0 ∧ streamer.vl ≤ 256 ∧
    (streamer.getS 3 + (32 : BitVec 32).signExtend 64).toNat % 32 = 0 ∧ (streamer.getS 3 + (1 : BitVec 32).signExtend 64).toNat % 32 ≠ 0 ∧
    cursorBad badCursor = true ∧ cursorBad goodCursor = false ∧
    loadsBytes (load (on (holdsCursor badCursor)) 0 (holdsCursor badCursor) (streamer.getS 3) 32) (cursorBytes badCursor) = true ∧
    loadsBytes (load (on (holdsCursor goodCursor)) 0 (holdsCursor goodCursor) (streamer.getS 3) 32) (cursorBytes goodCursor) = true ∧
    cursorOk streamer 0 [0, 3] = true ∧ cursorOk { streamer with regs := { streamer.regs with e := streamer.regs.e.set 0 badCursor } } 0 [0, 3] = false ∧
    readsWord (elementRead (mapped streamer) 0 streamer 0x10000 8 none) 0x100001 = true ∧
    readsWord (elementRead (mapped streamer) 0 streamer 0x10008 8 none) 0 = true := by
  exact ⟨fun _ => issues_on _ _, fun _ => issues_mapped _ _, exists_of_toBool (by decide +kernel), by decide +kernel⟩

theorem witness_EquinoxStepsMean :
    (let s := on streamer
     s.hart? 0 = some streamer ∧ (0 : Nat) < streamer.vl ∧ (0 : EIdx) ≠ 1 ∧
      peeked (settle s 0 streamer 0) = some (some (2, 2)) ∧ peeked (settle s 0 streamer 1) = some (some (4, 4)) ∧
      peeked (settle s 0 streamer 2) = some (some (2, 2)) ∧ peeked (settle s 0 streamer 3) = some none) ∧
    (let c : Cursor := { cbase := 0x20000, cpos := 2, cend := 9, cctl := 3 }
     exhausted c = false ∧ curEnc c = 3 ∧ readsWord (elementRead (mapped streamer) 0 streamer (c.cbase + BitVec.ofNat 64 (curPos c * 1)) 1 none) 0 = true) := by
  decide +kernel

theorem witness_ScratchWaysAndGranules :
    (∀ op, Issues op {} (on hart) 0 hart) ∧ hart.poisoned (ssrcReads (.imm 15)) = false ∧ hart.poisoned (.s 3 :: ssrcReads (.imm 4096)) = false ∧
    15 < (hart.usrc (.imm 16)).toNat ∧ (hart.usrc (.imm 15)).toNat + ((noteRunning (on hart) hart).pair 0).ways 1 ≤ 15 ∧
    busyGranule hart 0 = none ∧ busyGranule { hart with granules := [(32, { engine := true, count := 0 })] } 1 = some 32 ∧
    (hart.getS 3).toNat % granuleBytes = 0 ∧ scratchBase ≤ (hart.getS 3).toNat ∧ 4096 % granuleBytes = 0 ∧ 4097 % granuleBytes ≠ 0 ∧
    (hart.getS 3).toNat + 262144 ≤ scratchBase + hart.ids.ways * wayBytes ∧ scratchBase + hart.ids.ways * wayBytes < (hart.getS 3).toNat + 266240 ∧
    (0x1000 : Word).toNat % granuleBytes = 0 ∧ (0x1000 : Word).toNat < scratchBase :=
  ⟨fun _ => issues_on _ _, by decide +kernel⟩

/-- A hart that has given granule 0 to the engine, with a copy of 64 bytes from memory under way; and one whose copy is to a
transmit window with loop-back. -/
def copier : Hart := { streamer with granules := [(0, { engine := true, count := 1 })] }
def stretch : Segment := { va := 0x20000, pa := 0x20000, len := 64, pte := 0x37 }
def copyRow : CopyRow := { scratch := 0, segs := [stretch] }
def copying (toMem : Bool) : State :=
  { mapped copier with transfers := [{ id := 7, slot := 0, gang := 0, work := .copy toMem [copyRow] [0], bar := none, bytes := 64 }] }
def sentRow : CopyRow := { scratch := 0, segs := [{ stretch with pte := 0x137 }] }
def loopingBack : State :=
  { mapped copier with windows := [(0, txEntry ||| 8#512)], pairs := [(3, { pins := [{ slot := 6, line := 0x400 }] })] }

theorem witness_CopiesStartAndComplete :
    (∀ op, Issues op {} (mapped copier) 0 copier) ∧ copier.poisoned (streamReads copier 5 ++ streamReads copier 1) = false ∧
    copyStreamOk copier (copier.getQ 5) = true ∧ copyStreamOk copier (copier.getQ 1) = true ∧ copyStreamOk copier (copier.getQ 3) = false ∧ copier.vl ≠ 0 ∧
    copyRows 0 copier (copier.getQ 1) (copier.getQ 5) 64 copier.vl 0 none (noteRunning (mapped copier) copier) =
      .ok (noteRunning (mapped copier) copier, some false, [copyRow]) ∧
    copyRows 0 hart (copier.getQ 1) (copier.getQ 5) 64 copier.vl 0 none (mapped hart) = .error (.trap .owner (BitVec.ofNat 64 scratchBase)) ∧
    copier.countFull [0] = false ∧ ({ copier with granules := [(0, { engine := true, count := 15 })] } : Hart).countFull [0] = true ∧
    (∀ r ∈ [copyRow], ∀ p ∈ r.segs, pteWtype p.pte ≠ 1) ∧ (sentPinned loopingBack 0 [sentRow]).isSome = true ∧ sentPinned (mapped copier) 0 [sentRow] = none ∧
    ((copying true).transfers.find? (fun x => x.id == 7)).isSome = true ∧ (copying true).hart? 0 = some copier ∧ isLamp 0 = false ∧
    (∀ p ∈ copyRow.pieces, p.2.sent = false ∧ pteWtype p.2.pte ≠ 1 ∧ isHostPa p.2.pa = false) ∧ [0].Nodup ∧
    draining ((copying true).part 0) (0x20000 / 65536) = false ∧ pinnedElsewhere (copying true) none 0x20000 64 = none ∧
    (pinnedElsewhere (underPin copier) none 0x20000 64).isSome = true ∧
    draining { regs := { inv := { op := some .drain, status := 1, range := 2 } } } 2 = true ∧
    -- a destination that has become a decoded view (R179), and one beside it
    (let s := { copying true with partitions := [(0, { (mapped copier).part 0 with fmtA := [(0, 0x20001)] })] }
     isDecoded s 0x20000 64 = true ∧ (decodedRegion s 0x20000).isSome = true ∧ isRawAlias 0x20000 = false ∧ isDecoded s 0x30000 64 = false) ∧
    endingPins (copying true) = [] :=
  ⟨fun _ => issues_mapped _ _, by decide +kernel⟩

def castWork : Work := .cast 0x20000 1 0 [{ slot := 0, granules := [0] }] 1
def casting : State :=
  { mapped copier with
    transfers := [{ id := 7, slot := 0, gang := 0, work := castWork, bar := none, bytes := 128 }]
    merges := [{ line := 0x400, requests := [{ transfer := 7, index := 0 }] }]
    deliveries := [{ id := 9, transfer := 7, slot := 0, offset := 0, bytes := List.replicate 128 1, poison := [] }] }

theorem witness_MulticastsDeliver :
    (∀ op, Issues op {} (mapped copier) 0 copier) ∧ (∃ l, memorySide (mapped copier) 0 copier 0x20000 128 false = .ok l) ∧
    copier.poisoned [.s 0, .s 3, .bits 0 0 copier.ids.gsize] = false ∧ 0x20000 % 128 = 0 ∧
    (copier.getS 3).toNat % 128 = 0 ∧ touchesWindow 0x20000 128 = false ∧ scratchBase ≤ (copier.getS 3).toNat ∧
    (copier.getS 3).toNat + 128 ≤ scratchBase + 15 * wayBytes ∧ copier.countFull [0] = false ∧ pteHome 0x37 ≠ 1 ∧ pteHome 0x17 = 1 ∧
    ({ slot := 0, granules := [0] } : CastDest).takes 0 0 = true ∧ [(0 : Nat)].Nodup ∧
    (casting.merges.find? (fun w => w.line == 0x400)).isSome = true ∧ pinnedElsewhere casting none (0x400 * 128) 128 = none ∧
    isHostPa (0x400 * 128) = false ∧ ({ line := 0, requests := [], bound := some ([], []) } : MergeWindow).bound.isSome = true ∧
    (casting.transfers.find? (fun t => t.id == 7)).map Transfer.work = some castWork ∧
    (casting.deliveries.find? (fun d => d.id == 9)).isSome = true ∧ casting.hart? 0 = some copier ∧
    pinnedElsewhere { casting with pairs := [(3, { pins := [{ slot := 6, line := 0x400 }] })] } none (0x400 * 128) 128 = some 3 ∧
    -- an open window; one that waits out a pin beside a later one; and none but those that wait
    (let w : MergeWindow := { line := 0x400, requests := [{ transfer := 7, index := 0 }] }
     let c := { w with closed := true }
     nextWindow casting.merges 0x400 false = some w ∧ nextWindow [c, w] 0x400 true = some w ∧ nextWindow [c, w] 0x400 false = some c ∧
      nextWindow [c] 0x400 true = none) ∧
    -- a HOME 01 page of pair 0, with and without three cache ways (R222)
    (let s := { mapped copier with pairs := [(0, { sw0 := 2 })] }
     pteHome 0x17 = 1 ∧ pteAux 0x17 % 1024 = 0 ∧ (∀ x ∈ (s.pair 0).area, ¬(x.part = 0 ∧ x.va = 2)) ∧
      inPinnedArea (meetPage s 0 0x20000 0x20000 0x17) 0 0x20000 0x17 = true ∧
      inPinnedArea (meetPage { s with pairs := [(0, { sw0 := 15 })] } 0 0x20000 0x20000 0x17) 0 0x20000 0x17 = false) :=
  ⟨fun _ => issues_mapped _ _, exists_of_toBool (by decide +kernel), by decide +kernel⟩

theorem witness_AtomicsComplete :
    (∀ op, Issues op {} (mapped hart) 0 hart) ∧ (∀ op, Issues op {} (mapped streamer) 0 streamer) ∧
    (∃ r, streamAddr (mapped streamer) 0 streamer (streamer.getQ 5) 0 = .ok r) ∧
    (∃ pl, atomicCheck (mapped streamer) 0 streamer 0x20000 4 (canReflect .add) = .ok pl) ∧
    hart.poisoned ([.s 0, .s 1] ++ [.s 2]) = false ∧ (0x20000 : Word).toNat % 8 = 0 ∧ (0x20004 : Word).toNat % 8 ≠ 0 ∧
    atomicCheck (noteRunning (mapped hart) hart) 0 hart 0x20000 8 (canReflect .cas) = .ok (.mem 0x20000 0x37) ∧
    (Place.mem 0x20000 0x37).reflects = false ∧ (Place.mem 0x20000 0x137).reflects = true ∧
    releaseHeld (noteRunning (mapped hart) hart) 0 .ofScalar .system = none ∧ (releaseHeld (underPin hart) 0 .ofScalar .gang).isSome = true ∧
    releaseHeld (mapped streamer) 0 .ofVector .system = none ∧
    (releaseHeld { underPin streamer with pairs := [(0, { pins := [{ slot := 1, line := 0x400 }], delayed := [{ slot := 0, vec := true, part := 0, pa := 0x20000, n := 8, page := 2, stamp := 0 }], stamp := 1 })] } 0 .ofVector .gang).isSome = true ∧
    pteWtype 0x37 ≠ 1 ∧ isHostPa 0x20000 = false ∧ AType.i32 ≠ .f32 ∧ atomicNew .cas .i32 5 1 6 = none ∧ atomicNew .cas .i32 5 1 5 = some 1 ∧
    streamer.poison = [] ∧ streamer.widthOk AType.f32.ty.width = true ∧
    [1, 2, 4].contains (streamer.getQ 5).kind = true ∧ (streamer.getQ 5).ety.slotWidth = 32 ∧ (streamer.getQ 5).kind ≠ 4 ∧
    elementCheck 0x20000 4 (streamer.getQ 5).limit = .ok () ∧ streamer.active .none 0 = true ∧ max streamer.vstart streamer.vl = 1 :=
  ⟨fun _ => issues_mapped _ _, fun _ => issues_mapped _ _, exists_of_toBool (by decide +kernel), exists_of_toBool (by decide +kernel), by decide +kernel⟩

/-- A hart whose v2 names a lock at 0x20000. -/
def locker : Hart := { hart with regs := { hart.regs with vtype := 0x08, v := hart.regs.v.set 2 0x20000, vl := 1 } }
theorem witness_LocksAndFencesComplete :
    (∀ op, Issues op {} (mapped locker) 0 locker) ∧ (∃ l, lockPlaces (mapped locker) 0 locker 2 [0] = .ok l) ∧ (∀ op, Issues op {} (on hart) 0 hart) ∧
    locker.widthOk 64 = true ∧ locker.poison = [] ∧ isHostPa 0x20000 = false ∧
    lockValue hart ≠ 0 ∧ releaseHeld (on hart) 0 .both .system = none ∧ (releaseHeld (underPin hart) 0 .both .system).isSome = true ∧ hart.marked [0x1A8] = false ∧
    (let done := fun (s : State) (k : FenceKind) (sc : Scope) => (fenceOrders s 0 { kind := k, scope := sc }).over s 0 []
     done (on hart) .all .system = true ∧ done (copying true) .vv .core = false ∧ done (copying true) .sv .system = true ∧
      done (underPin hart) .ss .gang = false ∧ done (underPin hart) .ss .core = true ∧ done (underPin hart) .vv .gang = true ∧
      anyDelayed (heldStore .ofScalar) (underPin hart) 0 = true ∧ anyDelayed (heldStore .ofVector) (underPin hart) 0 = false ∧
      (let e : HostStore := { slot := 0, stamp := 0, hartid := 0, transfer := none, vec := true, part := 0, gang := 0, queue := 3, seq := 5, pa := 2 ^ 50, n := 8 }
       let s := { on hart with hostStores := [e], hostStamp := 1 }
       e.isOf s 0 = true ∧ done s .vs .system = false ∧ done s .vs .device = true ∧ done s .ss .system = true)) ∧
    ((copying true).transfers.any fun t => t.slot == 0) = true :=
  ⟨fun _ => issues_mapped _ _, exists_of_toBool (by decide +kernel), fun _ => issues_on _ _, by decide +kernel⟩

def barred (b : Barrier) : State := { on hart with barriers := [(6, { bar := b, owner := .owned 0 })] }
theorem witness_BarriersComplete :
    (∀ b op, Issues op {} (barred b) 0 hart) ∧ hart.run = .running ∧ hart.poisoned [.s 1, .s 2] = false ∧ hart.poisoned [.s 1] = false ∧
    ((barred {}).barrier (barKey 0 6)).owner = .owned hart.ids.gang ∧ ((barred {}).barrier (barKey 0 7)).owner = .free ∧
    ((barred {}).barrier (barKey 0 7)).owner ≠ .owned hart.ids.gang ∧ BarOwner.reserved 1 ≠ .free ∧
    (let b : Barrier := { expa := 2, arr := 1 }
     b.broken = false ∧ b.arr.toNat < b.expa.toNat ∧ b.phase ≠ (hart.getS 1).getLsbD 0 ∧ b.phase = (hart.getS 0).getLsbD 0 ∧
      ({ b with arr := 2 } : Barrier).arr = b.expa ∧ b.expa.toNat ≤ ({ b with arr := 2 } : Barrier).arr.toNat ∧ b.cred = b.expb ∧
      b.expb.toNat < ({ b with cred := 1 } : Barrier).cred.toNat ∧ ({ b with broken := true } : Barrier).broken = true) ∧
    releaseHeld (barred {}) 0 .both .gang = none ∧
    waitersOn (barred {}) 0 6 = [] ∧
    (let s := { barred {} with harts := [(0, hart), (1, { hart with run := .barWait 6 false })] }
     waitersOn s 0 6 = [1] ∧ waitsOn s 6 1 = true ∧ isLamp 1 = false ∧ hart.priv = false ∧ hart.trap.tvec ≠ 0) ∧
    ({ hart with run := .barReady } : Hart).run = .barReady :=
  ⟨fun b op => issues_at op (barred b) hart rfl rfl, by decide +kernel⟩

/-- The same device as seen by its owner: host 0 over its trained link; partition 0 has queue 3 with
one record in its ring at 0x40000, and an event queue 15 with one record. -/
def validRecord : List Byte :=
  -- VER 1; ENTRY 0x1000; GRID 4; GANG 1; EVQ 255
  [1, 0, 0, 0, 0, 0, 0, 0, 0x00, 0x10, 0, 0, 0, 0, 0, 0, 4, 0, 0, 0, 1, 255, 0, 0] ++ List.replicate 232 0

def owned : State :=
  { mapped hart with
    mailbox := { state := 2, owner := BitVec.ofNat 2 (masterCode .host0) }
    linkUp := 1
    sconce := { fw := 1 }
    mem := Memory.writeBytes (mapped hart).mem 0x40000 validRecord
    partitions := [(0, { (mapped hart).part 0 with
      queues := [(3, { base := 0x400, en := true, tail := 1, qstate := 1 }), (4, { base := 0x400, en := false, tail := 17 })]
      evq := [(15, { records := [{ w0 := 1, w1 := 2, w2 := 3, w3 := 4 }] })]
      ctxn := 0xFFFFFFFF })] }

def other : Master := .host1

/-- A hart in TLAUNCH of the record at 0x40000, whose task is task0, with a full and an empty queue. -/
def launcher : Hart := { hart with run := .launching 5 0 0x40000 }
def launching : State := { tasked launcher with mem := Memory.writeBytes (mapped hart).mem 0x40000 validRecord }

theorem witness_LaunchesWaitsAndEvents :
    (∀ op, Issues op {} (mapped hart) 0 hart) ∧ (∃ r, load (mapped hart) 0 hart 0x40000 256 = .ok r) ∧
    (∃ pl, checkStore (mapped hart) 0 hart 0x20000 32 true = .ok pl) ∧
    hart.poisoned (.s 0 :: ssrcReads (.imm 0)) = false ∧ (0x40000 : Word).toNat % 256 = 0 ∧ (0x40001 : Word).toNat % 256 ≠ 0 ∧
    releaseHeld (mapped hart) 0 .both .device = none ∧ (releaseHeld (underPin hart) 0 .both .device).isSome = true ∧
    ((hartTask (mapped hart) hart).bind fun t => namedChild t (hart.getS 1)) = none ∧
    (let t := { task0 with children := [{ queue := 64, seq := 0, status := none }, { queue := 64, seq := 1, status := some 1 }] }
     (namedChild t (handleOf 64 0)).map Child.status = some none ∧ (namedChild t (handleOf 64 1)).map Child.status = some (some 1) ∧
      (tasked hart).gang? hart.ids.gang = some gang0 ∧ gang0.isSaved = false) ∧
    launching.hart? 0 = some launcher ∧ launcher.run = .launching 5 0 0x40000 ∧
    loadsBytes (load launching 0 launcher 0x40000 256) validRecord = true ∧
    hartTask launching launcher = some task0 ∧ recNest task0.record ≠ 8 ∧
    (let q : Queue := { base := 0x500, en := true, qstate := 1 }
     q.en = true ∧ q.backlog ≠ q.size ∧ ({ q with tail := 16 } : Queue).backlog = ({ q with tail := 16 } : Queue).size ∧
      ringSlot launching q 0 = some 0x50000 ∧ isDecoded launching 0x50000 256 = false) ∧ pinnedElsewhere launching (pairOfAgent 0) 0x50000 256 = none ∧
    recNest ((List.replicate 4 0 ++ [8]) ++ List.replicate 251 0) = 8 ∧
    privileged 0 hart = false ∧ privileged 0 { hart with priv := true } = true ∧
    ((owned.part 0).events 15).records = [{ w0 := 1, w1 := 2, w2 := 3, w3 := 4 }] ∧ ((owned.part 0).events 0).records = [] ∧
    (0x20000 : Word).toNat % 32 = 0 ∧ (0x20010 : Word).toNat % 32 ≠ 0 :=
  ⟨fun _ => issues_mapped _ _, exists_of_toBool (by decide +kernel), exists_of_toBool (by decide +kernel), by decide +kernel⟩

/-- The image of a window entry from its first words (R353). -/
def imageOf (w0 w1 w2 w3 : Nat) : BitVec 512 := BitVec.ofNat 512 (w0 + w1 * 2 ^ 64 + w2 * 2 ^ 128 + w3 * 2 ^ 192)
/-- A receive window: V, KIND 10, 64 KiB at 0. -/
def rxEntry : BitVec 512 := imageOf 5 0 0 0
def sent : Reflected := { id := 4, slot := 0, part := 0, win := 1, dev := 0, rwin := 2, offset := 8, pcls := false, payload := .store [1, 2] [] }
def sentOff : Reflected := { sent with id := 5, dev := 1 }
def sentSum : Reflected := { sent with id := 6, payload := .reduce .add .n64 1 }
def reflecting : State := { on hart with windows := [(2, rxEntry)], egress := [sent] }

theorem witness_WindowsMap :
    (let h := { hart with priv := true }
     (∀ op, Issues op {} (on h) 0 h) ∧ privileged 0 h = true) ∧
    (∀ op, Issues op {} (on hart) 0 hart) ∧ (∃ r, load (mapped hart) 0 hart 0x40000 64 = .ok r) ∧ privileged 0 hart = false ∧
    (0x40000 : Word).toNat % 64 = 0 ∧ (0x40008 : Word).toNat % 64 ≠ 0 ∧
    4095 < (hart.usrc (.imm 4096)).toNat ∧ (hart.usrc (.imm 4095)).toNat ≤ 4095 ∧
    foreignEntry (on hart) 0 4095 = false ∧ foreignEntry { on hart with windows := [(7, imageOf 0x105 0 0 0)] } 0 7 = true ∧
    winValid 0 = false ∧ winValid 1 = true ∧ winPart (imageOf 0x101 0 0 0) ≠ 0 ∧ winPart rxEntry = 0 ∧ imageOk (imageOf 1 0 0 0) = false ∧
    imageOk rxEntry = true ∧ receiveOk (owned.part 0) rxEntry = true ∧ receiveOk {} rxEntry = false ∧
    -- a transmit entry of one destination; the same with a destination beyond NDEST, and a reserved bit (R353)
    (let tx := BitVec.ofNat 512 (0x10003 + 2 * 2 ^ 256)
     imageOk tx = true ∧ imageOk (tx ||| BitVec.ofNat 512 (2 ^ 288)) = false ∧ imageOk (tx ||| BitVec.ofNat 512 (2 ^ 284)) = false ∧
      imageOk (tx ||| BitVec.ofNat 512 (2 ^ 152)) = false ∧ receiveOk {} tx = true) ∧
    -- a receive entry that credits a barrier of die 0, and of die 1 (R354)
    receiveOk (owned.part 0) (imageOf 5 0 0 0x400) = true ∧ receiveOk (owned.part 0) (imageOf 5 0 0 0x440) = false ∧
    sentUnder (on hart) 7 = [] ∧ sentUnder reflecting 1 ≠ [] :=
  ⟨⟨fun _ => issues_on _ _, by decide +kernel⟩, fun _ => issues_on _ _, exists_of_toBool (by decide +kernel), by decide +kernel⟩

theorem witness_PacketsLandOrAreDiscarded :
    reflecting.egress.find? (fun r => r.id == 4) = some sent ∧ sent.dev = reflecting.devid ∧ reflecting.window sent.rwin.toNat = some rxEntry ∧
    winKind rxEntry = 2 ∧ headOfPath reflecting sent = true ∧ sent.fate = .inFlight ∧ bcnEn reflecting.bcncfg = false ∧
    bcnEn ({ reflecting with bcncfg := 0x80000000 } : State).bcncfg = true ∧ sent.offset + 2 ≤ winSize rxEntry ∧
    winSize rxEntry < winSize rxEntry + 2 ∧
    touchesDecoded reflecting (winRpa rxEntry + 8) 8 = false ∧ pinnedElsewhere reflecting none (winRpa rxEntry + 8) 8 = none ∧
    headOfPath { reflecting with egress := [sent, { sent with id := 9 }] } { sent with id := 9 } = false ∧
    (let s := { reflecting with egress := [sentSum] }
     s.egress.find? (fun r => r.id == 6) = some sentSum ∧ headOfPath s sentSum = true ∧ (winRpa rxEntry + 8) % 8 = 0 ∧
      atomicNew .add .n64 5 1 0 = some 6 ∧ (receiveLeaves s (winPart rxEntry) 2 (winRpa rxEntry + 8)).any pteAtom = false) ∧
    (let s := { mapped hart with mem := [(0x10000, 0x01), (0x10002, 0x10), (0x100000, 0x77), (0x100001, 0x02), (0x100006, 0x20)] }
     (receiveLeaves s 0 2 8).any pteAtom = true) ∧
    (let s := { reflecting with egress := [sentOff], bcncfg := 0x8000000000000000 }
     sentOff.dev ≠ s.devid ∧ headOfPath s sentOff = true) ∧
    ({ sent with fate := .applied } : Reflected).fate ≠ .inFlight := by decide +kernel

theorem witness_PacketsAreFetchedAndForked :
    (∃ l, fetch (mapped hart) 0 hart = .ok l) ∧
    (mapped hart).hart? 0 = some hart ∧ canIssue 0 hart = true ∧ hart.held = none ∧ wordIn hart.packets hart.pc.toNat = none ∧
    decodeBytes (bytesOfWord 0) = some (.zeroWord, []) ∧
    (let h := { hart with lantern := { hart.lantern with forking := true } }
     (on h).hart? 0 = some h ∧ h.lantern.forking = true) ∧
    (let c : LanternCopy := { regs := hart.regs, poison := [(.s 5, 1)], waiting := some (.s 5), bound := true }
     let h := { hart with lantern := { copy := some c } }
     (on h).hart? 0 = some h ∧ h.lantern.copy = some c ∧ c.waiting = some (.s 5) ∧ c.bound = true ∧ { c with bound := false }.bound = false) ∧
    (let q : Pin := { slot := 0, line := 5, retried := true }
     (({ on hart with pairs := [(0, { pins := [q] })] } : State).pair (pairOf 0)).pins.find?
       (fun q => q.line == 5 && q.retried && !q.ending.any Pending.whole) = some q) :=
  ⟨exists_of_toBool (by decide +kernel), by decide +kernel⟩

/-- LanternChangesNothingElse speaks of every state; its one hypothesis names the event. -/
theorem witness_LanternChangesNothingElse : ∃ i, i = Instr.lanternIssue 0 := ⟨_, rfl⟩

theorem witness_OwnershipIsDecidedAndGuards :
    (on hart).mailbox.state = 0 ∧ owned.mailbox.state = 2 ∧ isOwner owned .host0 = true ∧ isOwner owned other = false ∧
    ¬MayWrite owned (.master other) 0 ∧ MayWrite owned (.master .host0) 0 ∧ ¬MayWrite owned .runtime 0 ∧
    (2 : BitVec 2) ≠ owned.mailbox.owner ∧ reaches owned .host0 = true ∧ reaches owned other = false ∧ hasRuntime owned 0 = false ∧
    bits (5 : Word) 0 3 = 5 ∧
    (let s := { owned with mailbox := { state := 1, cand := 1, cred := [(4096, 0xFF)] } }
     ownerCredential s .host0 1 0 = true) ∧
    (let s := { owned with mailbox := { state := 3, owner := 2, cand := 1 } }
     s.mailbox.cand.toNat = masterCode .host0 ∧ ownerCredential s .host0 1 0 = false ∧ ownerLinkIsDown s = true) := by
  unfold MayWrite; decide +kernel

/-- The owner's device with a task that its front end handles. -/
def tasking (t : Task) : State := { owned with tasks := [t] }
def queuedTask : Task := { task0 with record := validRecord, state := .queued, ran := false }

theorem witness_QueuesDoorbellsAndRecords :
    MayWrite owned (.master .host0) 0 ∧ ((owned.part 0).queue 3).en = true ∧ ((owned.part 0).queue 3).qstate = 1 ∧
    ((owned.part 0).queue 4).en = false ∧ ((owned.part 0).queue 4).size < ((owned.part 0).queue 4).backlog ∧
    ((owned.part 0).queue 5).en = false ∧ ((owned.part 0).queue 5).backlog ≤ ((owned.part 0).queue 5).size ∧
    ((16 : BitVec 32) - ((owned.part 0).queue 3).head).toNat ≤ ((owned.part 0).queue 3).size ∧
    ((16 : BitVec 32) - ((owned.part 0).queue 3).tail).toNat ≤ ((owned.part 0).queue 3).size ∧
    ((owned.part 0).queue 3).size < ((17 : BitVec 32) - ((owned.part 0).queue 3).head).toNat ∧
    mayTake owned 0 3 = true ∧ owned.sconce.pwr.toNat ≤ 1 ∧ 2 ≤ ({ pwr := 2 } : Sconce).pwr.toNat ∧ (match readRing owned 0 3 with
      | .got b => b == validRecord
      | _ => false) = true ∧ recordOk (owned.part 0) 3 validRecord = true ∧
    recordOk (owned.part 0) 3 (List.replicate 256 0) = false ∧
    (let t := queuedTask
     let s := tasking t
     oldestQueued s 0 3 = some t ∧ s.task? 0 3 t.seq = some t ∧ barrierSatisfied s t = true ∧ drainHolds (s.part 0) t.record = false ∧
      walkHeld (s.part 0) t = false ∧ walkLeases s 0 ((leasesOf t.record).drop 0) 0 0 = none) ∧
    (let lease : Word := 0xC000000000000002 + 0x1000
     (walkLeases { owned with partitions := [] } 0 [lease] 0 0).isSome = true) := by
  unfold MayWrite; decide +kernel

def dispatching : State :=
  { owned with harts := [], tasks := [{ task0 with record := validRecord, state := .resident, ran := false, blocks := [{ rank := 0, first := 0, stop := 4 }] }] }

/-- A gang that stops, with its hart, and a saved gang that is ready to resume, with an image that fails. -/
def stopping : State := { tasked { hart with run := .stopped } with gangs := [{ gang0 with state := .stopping .preempted }] }
def resuming : State :=
  { tasked hart with harts := [], gangs := [{ gang0 with state := .saved .preempted }]
                     partitions := [(0, { (mapped hart).part 0 with ready := [0], ctxbase := 0x100, ctxn := 720 })] }

/-- The same gang with an image that a restore takes: IMGVER 1 and no partner. -/
def restoring : State := { resuming with mem := resuming.mem ++ [(0x1000000, 1), (0x1000028, 0xFF)] }

theorem witness_GangsArePlacedSavedAndResumed :
    dispatches dispatching = true ∧ nextReady dispatching 0 = none ∧ (chooseQueue dispatching 0).map Prod.fst = some 3 ∧
    (dispatchable dispatching 0 3).isSome = true ∧
    (dispatchable dispatching 0 3).map (fun t => (placeableRanks dispatching 0 t, pickGang 0 3 t.blocks)) =
      some ([0], some (3, [{ rank := 0, first := 0, stop := 3 }])) ∧
    placeGang dispatching 0 1 { tiles := 0, ways := 0 } = some [(0, 0)] ∧ ([(0, 0)].map Prod.snd).Nodup ∧
    (let g := { gang0 with state := .stopping .preempted }
     stopping.gang? 0 = some g ∧ stopping.task? 0 3 5 = some task0 ∧ task0.state.isEnding = false ∧ gangBusy stopping g = false ∧
      imagePinned stopping g = none ∧
      (imagePinned { stopping with pairs := [(3, { pins := [{ slot := 6, line := 0 }] })] } g).isSome = true) ∧
    (let g := { gang0 with state := .saved .preempted }
     dispatches resuming = true ∧ nextReady resuming 0 = some g ∧ resuming.task? 0 3 5 = some task0 ∧ imagePinned resuming g = none ∧
      badImage resuming g = some 0 ∧ (placeResume resuming g).isSome = true ∧ task0.state.canEnd = true ∧
      dispatches restoring = true ∧ nextReady restoring 0 = some g ∧ restoring.task? 0 3 5 = some task0 ∧ imagePinned restoring g = none ∧
      badImage restoring g = none ∧ placeResume restoring g = some (0, [(0, 0)])) := by
  decide +kernel

/-- A hart of a gang that stops, and the record of a saved gang (R16). -/
theorem witness_savedTraps :
    (stopping.hart? 0).isSome = true ∧ gang0.harts = [(0, 0)] ∧ ([((0 : Nat), (0 : Nat))].map Prod.snd).Nodup ∧
    ({ gang0 with traps := [(0, 9, true)] } : Gang).traps.find? (fun y => y.1 == 0) = some (0, 9, true) := by decide +kernel

/-- SIGADDR 0x20000 and an event queue. -/
def signalRecord : List Byte := List.replicate 0x32 0 ++ [2, 0, 0, 0, 0, 0] ++ List.replicate 200 0

theorem witness_TasksRetireEndAndObey :
    MayWrite owned (.master .host0) 0 ∧ owned.task? 0 3 9 = none ∧
    (let t := { task0 with state := .retiring }
     let s := tasking t
     s.task? 0 3 5 = some t ∧ retires t = true ∧ recSigAddr t.record = 0 ∧ t.cause = none ∧ canPreempt t.state = false ∧
      recEvq t.record < 16 ∧ ((s.part 0).events (recEvq t.record)).records.length < 256) ∧
    (let t := { task0 with state := .resident, ran := false }
     emptyTurn (tasking t) t = true) ∧
    (let t := { task0 with state := .ending true, cause := some { code := 0x42 } }
     let s := tasking t
     s.task? 0 3 5 = some t ∧ t.state.isEnding = true ∧ (gangsOf s t).any (gangBusy s) = false ∧
      ((gangsOf s t).filter Gang.isSaved).findSome? (imagePinned s) = none ∧ t.state.canEnd = false) ∧
    (let t := { task0 with state := .retiring, record := signalRecord }
     let s := tasking t
     retires t = true ∧ (recSigAddr t.record).toNat = 0x20000 ∧ t.sigOk = true ∧ signalValid (s.part 0) t.record = true ∧ signalHeld s t = false ∧ signalPinned s t = none ∧ s.sconce.pwr.toNat ≤ 1 ∧
      signalPinned { s with pairs := [(3, { pins := [{ slot := 6, line := 0x400 }] })] } { t with pinned := some (3, 0x20000, 8) } ≠ none ∧
      signalHeld { s with hostStores := [{ slot := 0, stamp := 0, hartid := 0, transfer := none, vec := false, part := 0, gang := 0, queue := 3, seq := 5, pa := 2 ^ 50, n := 8 }] } t = true ∧
      draining (s.part 0) 2 = false ∧ walk s 0 2 = .leaf 0x37 0x20000 ∧ pteWritable 0x37 = true ∧ pteWtype 0x37 ≠ 1 ∧ isHostPa 0x20000 = false ∧
      touchesDecoded s 0x20000 8 = false ∧ pinnedElsewhere s none 0x20000 8 = none ∧
      pinnedElsewhere { s with pairs := [(3, { pins := [{ slot := 6, line := 0x400 }] })] } none 0x20000 8 = some 3 ∧
      walk { s with partitions := [] } 0 2 = .noLeaf) ∧
    canPreempt task0.state = true ∧ isPreempted (.preempted 3) = true ∧ isPreempted task0.state = false ∧ task0.state.canEnd = true := by
  unfold MayWrite; decide +kernel

theorem witness_PartitionsRuntimesAndRegions :
    MayWrite owned (.master .host0) 0 ∧ reaches owned .host0 = true ∧ isOwner owned .host0 = true ∧ owned.sconce.fw = 1 ∧
    owned.sconce.fw ≠ 2 ∧ ({ fw := 2 } : Sconce).fw = 2 ∧ owned.sconce.clearing = none ∧ (owned.part 1).en = false ∧ partitionError owned 1 ≠ 0 ∧
    (let s := { owned with partitions := [(0, { owned.part 0 with en := false, ctxbase := 0x100, ctxn := 720 })] }
     (s.part 0).en = false ∧ partitionError s 0 = 0) ∧
    (owned.part 0).en = true ∧ (owned.part 0).disabling = false ∧
    (let s := { owned with harts := [], partitions := [(0, { owned.part 0 with disabling := true })] }
     (s.part 0).disabling = true ∧ partitionIdle s 0 = true) ∧
    ownsDie (owned.part 0) 0 = true ∧
    (owned.part 0).regs.rtentry.getLsbD 0 = false ∧ owned.sconce.pwr.toNat ≤ 1 ∧ ({ rtentry := 1 } : WindowRegs).rtentry.getLsbD 0 = true ∧
    regionEnabled (owned.part 0) 15 = false ∧
    regionError owned 0 (regionOf (owned.part 0) 15) ≠ 0 ∧
    regionError { owned with partitions := [(0, { owned.part 0 with ctxn := 0 })] } 0 (regionOf (owned.part 0) 15) = 0 ∧
    ownerOfPage owned 0 = some 0 ∧ ownerOfPage State.reset 0 = none ∧
    owned.replicated.contains 0 = false ∧
    ([{ page := 5, rd := 3 }].filter fun (y : ReplPage) => y.page == 5).length = 1 := by
  unfold MayWrite; decide +kernel

theorem witness_InvalidationsRun :
    MayWrite owned (.master .host0) 0 ∧
    (owned.part 0).regs.inv.status = 0 ∧ leaseHeldOver owned 0 0 = false ∧ pinnedThrough owned 0 0 = none ∧ castUnread owned 0 0 = false ∧
    hostStoresOpen owned 0 = false ∧ unsettled owned 0 = false ∧ ({ op := some .drain, status := 1 } : InvCmd).status = 1 ∧
    ({ status := 3 } : InvCmd).status = 3 ∧ ({ status := 2 } : InvCmd).status = 2 ∧ (1 : Word).getLsbD 0 = true ∧
    ({ op := some .confirm, status := 1 } : InvCmd).op = some .confirm ∧ ({ op := some .shootDrain, status := 1 } : InvCmd).op = some .shootDrain ∧
    ({ op := some .shoot, status := 1 } : InvCmd).op = some .shoot ∧ ({ settling := true } : WindowRegs).settling = true := by
  unfold MayWrite; decide +kernel

theorem witness_HostPortCompletes :
    hdmLink owned .host0 = true ∧ isHdm (2 ^ 40) 8 = false ∧ isHdm 0x40000 8 = true ∧ isOwner owned .host0 = true ∧ isOwner owned other = false ∧
    hdmLink { owned with linkUp := 3 } other = true ∧ owned.twoLinks = true ∧ HostFeature.hdmD.supported = false ∧
    -- a store under a pin is not at VA, and the one behind it is accepted first (R310)
    (let e : HostStore := { slot := 0, stamp := 0, hartid := 0, transfer := none, vec := false, part := 0, gang := 0, queue := 3, seq := 5, pa := 2 ^ 50, n := 8 }
     let s := { owned with hostStores := [e, { e with pa := 2 ^ 50 + 8 }]
                           pairs := [(0, { delayed := [{ slot := 0, vec := false, part := 0, pa := 2 ^ 50, n := 8, page := 2, stamp := 0 }] })] }
     s.hostStores.find? (HostStore.atVa s) = some { e with pa := 2 ^ 50 + 8 } ∧ { s with hostStores := [e] }.hostStores.find? (HostStore.atVa s) = none) ∧
    touchesDecoded owned 0x40000 8 = false ∧ pinnedElsewhere owned none 0x40000 8 = none ∧ owned.sconce.pwr ≠ 3 ∧ owned.sconce.dbg ≠ 2 ∧
    ({ dbg := 2 } : Sconce).dbg = 2 ∧
    isDevicePa 0x40000 = true ∧ isDevicePa (2 ^ 40) = false ∧ isRawAlias 0x40000 = false ∧ MayWrite owned (.master .host0) 0 ∧
    ((owned.part 0).queue 4).en = false ∧ (4 : Word).getLsbD 5 = false ∧ ((owned.part 0).queue 3).en = true ∧
    regionEnabled (owned.part 0) 15 = false ∧ regionEnabled { fmtA := [(15, 1)] } 15 = true ∧
    (owned.tasks.any fun t => t.part == 0 && t.state.holdsLeases) = false ∧ ((tasking task0).tasks.any fun t => t.part == 0 && t.state.holdsLeases) = true ∧
    (owned.part 1).en = false ∧ (0x7FFFFFFF : Word).getLsbD 31 = false := by
  unfold MayWrite; decide +kernel

theorem witness_ErrorsAreRecordedAndCleared :
    isDevicePa 0x40000 = true ∧ ownerOfStack owned (stackOf 0x40000) = some 0 ∧ ownerOfDie owned (dieOfPair 39) = some 0 ∧ ownerOfDie owned (homeDie 0) = some 0 ∧ ownerOfDie owned 0 = some 0 ∧
    owned.hart? 0 = some hart ∧ (owned.part 0).regs.errstat.getLsbD 0 = false ∧ ({ errstat := 1 } : WindowRegs).errstat.getLsbD 0 = true ∧
    MayWrite owned (.master .host0) 0 ∧ isOwner owned .host0 = true ∧ reaches owned .host0 = true ∧ bcnEn owned.bcncfg = false ∧
    bcnEn ({ owned with bcncfg := 0x80000001 } : State).bcncfg = true := by
  unfold MayWrite; decide +kernel

theorem witness_PowerDebugAndSecurityMove :
    isOwner owned .host0 = true ∧ reaches owned .host0 = true ∧ owned.sconce.pwr = 0 ∧ (owned.partitions.any fun e => e.2.en) = true ∧
    (State.reset.partitions.any fun e => e.2.en) = false ∧ gangsAway dispatching = true ∧ isOwner owned other = false ∧
    (0 : BitVec 2).toNat < (2 : BitVec 2).toNat ∧
    debugCredential (freshNonce { owned with mailbox := { owned.mailbox with cred := [(4096, 0xFF)] } }) .host0 1 = true ∧
    debugCredential (freshNonce owned) .host0 1 = false ∧
    (tasked hart).gang? 0 = some gang0 ∧ (tasked hart).task? 0 3 5 = some task0 ∧ task0.state.canEnd = true ∧ gang0.state = .running ∧
    ({ gang0 with state := .saved .debug, held := true } : Gang).state = .saved .debug ∧
    State.reset.sconce.sec = 0 ∧ ({ State.reset.sconce with sec := 1 } : Sconce).sec = 1 ∧ (List.replicate 1952 (0 : Byte)).length = 1952 ∧
    ({ State.reset.sconce with attBusy := [0] } : Sconce).attBusy.contains (masterCode .management) = true ∧
    ({ pwrTo := some 1, pwr := 2, pwrReq := 2 } : Sconce).pwrTo = some 1 := by decide +kernel

/-- The two clauses of DeviceResetLeaves about the firmware: what the images hold is open (log entry 7). -/
theorem witness_DeviceResetLeaves : firmwareVerifies = true ∨ firmwareVerifies = false := by
  cases firmwareVerifies <;> simp

theorem witness_StepsKeepMemoryCanonical :
    Memory.wf owned.mem = true ∧ Memory.wf State.reset.mem = true ∧ (match step { State.reset with agenda := [.event .deviceReset] } with
      | .next _ => true
      | _ => false) = true := by decide +kernel

theorem witness_FixedRegistersStand : (63 : SIdx) ≠ 0 ∧ (7 : PIdx) ≠ 0 ∧ (15 : MIdx) ≠ 0 := by decide

/-! ## How a program comes to run (log entry 11) -/

-- the word placed is the next instruction of a hart that runs
theorem test_withFetchWord : (match step (State.reset.withFetchWord 96 0x010001417FC0000000000010) with
    | .next t => t.harts.any fun e => e.2.getS 5 == 16
    | _ => false) = true := by decide +kernel

end Sys2Proof.Tests
end

section
/-! PROOFS. What the Lantern's operations leave alone (R25, R28, R140): of its hart everything but the
Lantern's side, the performance counters and the lines watched, and of the state everything but that hart,
the lines watched, the tracked pages and the numbers given out. -/

namespace Sys2Proof.Machine

/-! ## One hart: what the Lantern meets moves the Lantern's side alone -/

/-- A hart that differs from another in its Lantern's side alone. -/
def Hart.LanternAlone (h g : Hart) : Prop := ∃ l, g = { h with lantern := l }

theorem lanternAlone_refl (h : Hart) : h.LanternAlone h := ⟨h.lantern, rfl⟩

theorem lanternAlone_trans {h g k : Hart} (hg : h.LanternAlone g) (gk : g.LanternAlone k) : h.LanternAlone k := by
  obtain ⟨_, rfl⟩ := hg
  obtain ⟨l, rfl⟩ := gk
  exact ⟨l, rfl⟩

theorem pushPending_alone (share : Nat) (h : Hart) : h.LanternAlone (pushPending share h) := by
  unfold pushPending
  split
  · exact lanternAlone_refl h
  · exact ⟨_, rfl⟩

theorem moveOn_alone (share : Nat) (h : Hart) (c : LanternCopy) (regs : Regs) (ks : List WickKind) :
    h.LanternAlone (moveOn share h c regs ks) :=
  lanternAlone_trans ⟨_, rfl⟩ (pushPending_alone share _)

theorem skipAsPoison_alone (share : Nat) (h : Hart) (c : LanternCopy) (i : Instr) (op : Nat) (ds : List LanternReg) (guard : Bool) :
    h.LanternAlone (skipAsPoison share h c i op ds guard) := moveOn_alone share h _ _ _

theorem waitFor_alone (h : Hart) (k : Nat) (x : LanternReg) : h.LanternAlone (waitFor h k x) := ⟨_, rfl⟩

theorem lanternWalk_alone (s : State) (slot share : Nat) (h : Hart) (c : LanternCopy) (w : StreamWalk) (badMask : Bool)
    (results : List LanternReg) : h.LanternAlone (lanternWalk s slot share h c w badMask results) :=
  lanternAlone_trans (moveOn_alone share h _ _ _) ⟨_, rfl⟩

theorem lanternRestart_alone (h : Hart) (c : LanternCopy) : h.LanternAlone (lanternRestart h c) := by
  unfold lanternRestart
  split
  · exact ⟨_, rfl⟩
  · exact lanternAlone_refl h

/-- Whatever becomes of a decoded instruction, the hart keeps all but its Lantern's side: what the copy computes
stays in the copy (R25, R140). -/
theorem lanternMeets_alone (s : State) (slot : Nat) (h : Hart) (c : LanternCopy) (i : Instr) (ctl : Ctl) (r : Raw) (k id : Nat) :
    h.LanternAlone (lanternMeets s slot h c i ctl r k id) := by
  unfold lanternMeets
  dsimp only
  split
  · exact ⟨_, rfl⟩                                     -- an instruction that stops the Lantern
  split
  · exact waitFor_alone h k _                          -- a loop register is poison
  split
  · exact skipAsPoison_alone _ h c i _ _ _             -- steered to the trailing core
  split
  · split                                              -- the guard is poison
    · exact skipAsPoison_alone _ h c i _ _ _
    · exact waitFor_alone h k _
  split
  · exact moveOn_alone _ h _ _ _                       -- the guard is false
  split
  · exact lanternAlone_trans (skipAsPoison_alone _ h c i _ _ _) (waitFor_alone _ k _)   -- LSYNC
  split
  · exact waitFor_alone h k _                          -- a needed source is poison
  split
  · exact ⟨_, rfl⟩                                     -- the slip limit
  split
  · exact lanternWalk_alone s slot _ h c _ _ _
  split
  · exact skipAsPoison_alone _ h c i _ _ _             -- not executed
  split
  · exact skipAsPoison_alone _ h c i _ _ _             -- dropped
  · split
    · exact lanternAlone_trans (moveOn_alone _ h _ _ _) ⟨_, rfl⟩
    · exact moveOn_alone _ h _ _ _

/-! ## The state: the moves that the Lantern may make -/

/-- From `s` to `t` only what belongs to the Lantern of a slot has moved. -/
structure LanternMoves (slot : Nat) (s t : State) : Prop where
  others : ∀ k, k ≠ slot → t.hart? k = s.hart? k
  outside : { t with watch := s.watch, nextId := s.nextId, tracked := s.tracked }.outside = s.outside
  hart : ∀ h, s.hart? slot = some h → ∃ g, t.hart? slot = some g ∧ { g with lantern := h.lantern, perf := h.perf, watch := h.watch } = h

/-- Where no hart moves, the rest of the state decides. -/
theorem lanternMoves_of_harts {s t : State} (slot : Nat) (hh : t.harts = s.harts)
    (ho : { t with watch := s.watch, nextId := s.nextId, tracked := s.tracked }.outside = s.outside) : LanternMoves slot s t where
  others k _ := by simp [State.hart?, hh]
  outside := ho
  hart h hs := ⟨h, by simpa [State.hart?, hh] using hs, rfl⟩

theorem lanternMoves_refl (slot : Nat) (s : State) : LanternMoves slot s s := lanternMoves_of_harts slot rfl rfl

theorem lanternMoves_trans {slot : Nat} {s t u : State} (st : LanternMoves slot s t) (tu : LanternMoves slot t u) :
    LanternMoves slot s u where
  others k hk := (tu.others k hk).trans (st.others k hk)
  outside := by
    have := congrArg (fun x : State => { x with watch := s.watch, nextId := s.nextId, tracked := s.tracked }) tu.outside
    exact this.trans st.outside
  hart h hs := by
    obtain ⟨g, hg, eg⟩ := st.hart h hs
    obtain ⟨k, hk, ek⟩ := tu.hart g hg
    refine ⟨k, hk, ?_⟩
    have := congrArg (fun x : Hart => { x with lantern := h.lantern, perf := h.perf, watch := h.watch }) ek
    exact this.trans eg

/-- The hart of the slot moves in its Lantern's side, its counters and its watched lines alone. -/
theorem lanternMoves_setHart {slot : Nat} {s : State} {h g : Hart} (hs : s.hart? slot = some h)
    (hg : { g with lantern := h.lantern, perf := h.perf, watch := h.watch } = h) : LanternMoves slot s (s.setHart slot g) where
  others k hk := hart_setHart_other s slot k g hk
  outside := rfl
  hart k hk := ⟨g, hart_setHart_same s slot g, by rw [hs] at hk; cases hk; exact hg⟩

theorem lanternMoves_of_alone {slot : Nat} {s : State} {h g : Hart} (hs : s.hart? slot = some h) (hg : h.LanternAlone g) :
    LanternMoves slot s (s.setHart slot g) := by
  obtain ⟨l, rfl⟩ := hg
  exact lanternMoves_setHart hs rfl

theorem lanternMoves_modHart {slot : Nat} {s : State} {f : Hart → Hart}
    (hf : ∀ h, { f h with lantern := h.lantern, perf := h.perf, watch := h.watch } = h) : LanternMoves slot s (s.modHart slot f) := by
  cases hs : s.hart? slot with
  | none => simpa [State.modHart, hs] using lanternMoves_refl slot s
  | some h => simpa [modHart_eq_setHart hs] using lanternMoves_setHart hs (hf h)

/-- Counting an access to a REPL page moves the tracked pages alone (R227). -/
theorem countRepl_eq (s : State) (die g pa : Nat) (write : Bool) :
    ∃ l, countRepl s die g pa write = { s with tracked := l } := by
  unfold countRepl
  dsimp only
  split
  · exact ⟨_, rfl⟩
  split
  · exact ⟨_, rfl⟩
  split
  · exact ⟨_, rfl⟩
  · exact ⟨_, rfl⟩

theorem countRepl_moves (slot : Nat) (s : State) (die g pa : Nat) (write : Bool) : LanternMoves slot s (countRepl s die g pa write) := by
  obtain ⟨l, e⟩ := countRepl_eq s die g pa write
  rw [e]
  exact lanternMoves_of_harts slot rfl rfl

theorem countPrefetches_moves (s : State) (slot : Nat) (before : List Prefetch) :
    LanternMoves slot s (countPrefetches s slot before) := by
  unfold countPrefetches
  split
  · exact lanternMoves_refl slot s
  · refine List.foldlRecOn _ _ (lanternMoves_refl slot s) fun t ht p _ => ?_
    split
    · exact lanternMoves_trans ht (countRepl_moves slot t _ _ _ _)
    · exact ht

theorem lanternMoves_watch (slot : Nat) (s : State) (l : List (Nat × Nat)) : LanternMoves slot s { s with watch := l } :=
  lanternMoves_of_harts slot rfl rfl

theorem watchBatch_moves (s : State) (slot id : Nat) : LanternMoves slot s (watchBatch s slot id) := by
  unfold watchBatch
  split
  · exact lanternMoves_refl slot s
  next h hs =>
    split
    · exact lanternMoves_refl slot s
    · refine lanternMoves_trans ?_ (lanternMoves_watch slot _ _)
      exact lanternMoves_setHart hs rfl

/-! ## The Lantern's events -/

/-- LANTERN_ISSUE: a fetched instruction is met once a free value and a number are drawn, and then its prefetches
count and its batch is watched; every other outcome moves the hart's Lantern alone, or nothing. -/
theorem lanternIssue_moves (slot : Nat) (s : State) : ∃ t, execLanternIssue slot s = .next t ∧ LanternMoves slot s t := by
  unfold execLanternIssue
  split
  · exact ⟨s, rfl, lanternMoves_refl slot s⟩
  next h hs =>
  split
  · exact ⟨s, rfl, lanternMoves_refl slot s⟩
  next c _ =>
  split
  · exact ⟨s, rfl, lanternMoves_refl slot s⟩
  split
  · exact ⟨_, rfl, lanternMoves_of_alone hs (pushPending_alone _ h)⟩
  split
  · exact ⟨s, rfl, lanternMoves_refl slot s⟩
  split
  · exact ⟨_, rfl, lanternMoves_of_alone hs (lanternRestart_alone h c)⟩
  split
  · exact ⟨_, rfl, lanternMoves_of_alone hs ⟨_, rfl⟩⟩
  split
  · exact ⟨_, rfl, lanternMoves_of_alone hs ⟨_, rfl⟩⟩
  next i _ =>
  split
  · exact ⟨s, rfl, lanternMoves_refl slot s⟩
  next r _ =>
    have drawn : LanternMoves slot s s.draw.2.newId.2 := lanternMoves_of_harts slot rfl rfl
    have met := lanternMoves_of_alone (s := s.draw.2.newId.2) hs
      (lanternMeets_alone s.draw.2.newId.2 slot h c i ((Ctl.parse r).getD {}) r s.draw.1 s.draw.2.newId.1)
    exact ⟨_, rfl, lanternMoves_trans drawn (lanternMoves_trans met
      (lanternMoves_trans (countPrefetches_moves _ slot _) (watchBatch_moves _ slot _)))⟩

theorem lanternForkCopyDone_moves (slot : Nat) (s : State) :
    ∃ t, execLanternForkCopyDone slot s = .next t ∧ LanternMoves slot s t := by
  refine ⟨_, rfl, lanternMoves_modHart fun h => ?_⟩
  split <;> rfl

theorem lanternPublish_moves (slot : Nat) (s : State) : ∃ t, execLanternPublish slot s = .next t ∧ LanternMoves slot s t := by
  unfold execLanternPublish
  split
  · exact ⟨s, rfl, lanternMoves_refl slot s⟩
  next h hs =>
  split
  · exact ⟨s, rfl, lanternMoves_refl slot s⟩
  split
  · exact ⟨s, rfl, lanternMoves_refl slot s⟩
  · exact ⟨_, rfl, lanternMoves_setHart hs rfl⟩

theorem prefetchFill_moves (slot line : Nat) (wasted : Bool) (s : State) :
    ∃ t, execPrefetchFill slot line wasted s = .next t ∧ LanternMoves slot s t := by
  refine ⟨_, rfl, lanternMoves_modHart fun h => ?_⟩
  split
  · rfl
  · dsimp only
    split <;> rfl

/-- Settles O48: each of the Lantern's events makes only moves that the Lantern may make. -/
theorem lanternChangesNothingElse : Obligations.LanternChangesNothingElse := by
  intro s slot i hi
  have key : ∃ t, exec i s = .next t ∧ LanternMoves slot s t := by
    rcases hi with rfl | rfl | rfl | ⟨line, wasted, rfl⟩
    · exact lanternIssue_moves slot s
    · exact lanternForkCopyDone_moves slot s
    · exact lanternPublish_moves slot s
    · exact prefetchFill_moves slot line wasted s
  obtain ⟨t, ht, moves⟩ := key
  exact ⟨t, ht, moves.others, moves.outside, moves.hart⟩

end Sys2Proof.Machine
end

section
/-! PROOFS. The crew of a state: its harts, gangs and tasks. What the front end does beside placing, saving and
resuming a gang (pins, images, barriers, error records) leaves the crew alone, and what a credit to a barrier
does to it. -/

namespace Sys2Proof.Machine

/-- The harts, the gangs and the tasks of a state. -/
def State.crew (s : State) : Tbl Hart × List Gang × List Task := (s.harts, s.gangs, s.tasks)

theorem harts_of_crew {s t : State} (e : t.crew = s.crew) : t.harts = s.harts := congrArg (fun x => x.1) e
theorem hart_of_crew {s t : State} (e : t.crew = s.crew) (k : Nat) : t.hart? k = s.hart? k := by
  simp [State.hart?, harts_of_crew e]
theorem gangs_of_crew {s t : State} (e : t.crew = s.crew) : t.gangs = s.gangs := congrArg (fun x => x.2.1) e
theorem gang_of_gangs {s t : State} (e : t.gangs = s.gangs) (id : Nat) : t.gang? id = s.gang? id := by simp [State.gang?, e]
theorem tasks_of_crew {s t : State} (e : t.crew = s.crew) : t.tasks = s.tasks := congrArg (fun x => x.2.2) e

/-- Steps that each leave the crew alone leave it alone together. -/
theorem crew_foldl {α : Type} {f : State → α → State} (hf : ∀ s a, (f s a).crew = s.crew) (l : List α) (s : State) :
    (l.foldl f s).crew = s.crew :=
  List.foldlRecOn l f (motive := fun t => t.crew = s.crew) rfl fun t ht a _ => (hf t a).trans ht

@[simp] theorem crew_setPair (s : State) (k : Nat) (x : Pair) : (s.setPair k x).crew = s.crew := rfl
@[simp] theorem crew_setBarrier (s : State) (k : Nat) (x : BarrierCell) : (s.setBarrier k x).crew = s.crew := rfl
@[simp] theorem crew_physWrite (s : State) (a : Nat) (bs : List Byte) : (physWrite s a bs).crew = s.crew := rfl
@[simp] theorem crew_poisonByte (s : State) (a : Nat) : (poisonByte s a).crew = s.crew := rfl
@[simp] theorem crew_zeroRange (s : State) (a n : Nat) : (zeroRange s a n).crew = s.crew := rfl
@[simp] theorem crew_putBytes (s : State) (a : Nat) (bs : List Byte) : (putBytes s a bs).crew = s.crew := by
  unfold putBytes
  split <;> rfl
@[simp] theorem crew_settleStores (s : State) (k : Nat) : (settleStores s k).crew = s.crew := by
  unfold settleStores
  split <;> rfl

/-! ## Errors and the reads of a TCAST -/

@[simp] theorem crew_hostLinkError (s : State) (p a : Nat) : (hostLinkError s p a).crew = s.crew := by
  have hr : (recordError s p 6 a).crew = s.crew := by
    unfold recordError
    dsimp only
    split <;> rfl
  exact hr

theorem crew_engineReadLine (s : State) (slot p a n : Nat) : (engineReadLine s slot p a n).1.crew = s.crew := by
  unfold engineReadLine
  dsimp only
  split
  · split
    · exact crew_hostLinkError s p a
    · exact crew_hostLinkError s p a
  · rfl

theorem crew_bindMerge (s : State) (m : MergeWindow) : (bindMerge s m).1.crew = s.crew := by
  unfold bindMerge
  dsimp only
  split
  · exact crew_engineReadLine s _ _ _ _
  · rfl

@[simp] theorem crew_bindMerges (s : State) : (bindMerges s).crew = s.crew := by
  unfold bindMerges
  split
  · rfl
  · exact List.foldlRecOn _ _ (motive := fun r : State × List MergeWindow => r.1.crew = s.crew) rfl
      fun r hr m _ => (crew_bindMerge r.1 m).trans hr

/-! ## Pins -/

@[simp] theorem crew_dropPins (s : State) (slot : Nat) : (dropPins s slot).crew = s.crew := by
  unfold dropPins
  split
  · rfl
  · dsimp only
    split
    · rfl
    · simp

theorem crew_settleFor (n : Nat) (s : State) : (settleFor n s).crew = s.crew := by
  induction n generalizing s with
  | zero => rfl
  | succ n ih =>
    unfold settleFor
    split
    · rfl
    · refine (ih _).trans (crew_foldl (fun t e => ?_) _ s)
      exact crew_setPair t e.1 _

@[simp] theorem crew_settlePins (s : State) : (settlePins s).crew = s.crew := by
  unfold settlePins
  split
  · rfl
  · exact (crew_bindMerges _).trans (crew_settleFor _ s)

@[simp] theorem crew_pendPins (s : State) (slot : Nat) (w : Pending) : (pendPins s slot w).crew = s.crew := by
  unfold pendPins
  split
  · rfl
  · dsimp only
    split
    · rfl
    · simp

@[simp] theorem crew_boundSiblingPins (k : Queues) (s : State) (slot : Nat) : (boundSiblingPins k s slot).crew = s.crew := by
  unfold boundSiblingPins boundPins
  split
  · rfl
  · dsimp only
    split
    · rfl
    · rfl

@[simp] theorem crew_releasePins (s : State) (slot : Nat) : (releasePins s slot).crew = s.crew := by
  unfold releasePins
  split
  · rfl
  · split
    · simp
    · rfl

/-! ## The tasks and gangs of one name -/

/-- A change of the task of a name that keeps the name changes what the name finds. -/
theorem task_modTask {f : Task → Task} (s : State) (p q n : Nat)
    (hf : ∀ t, (f t).part = t.part ∧ (f t).queue = t.queue ∧ (f t).seq = t.seq) :
    (s.modTask p q n f).task? p q n = (s.task? p q n).map f := by
  have last : ∀ (is : Task → Bool), (∀ t, is (f t) = is t) → ∀ l : List Task,
      (modLast f is l).reverse.find? is = (l.reverse.find? is).map f := by
    intro is his l
    induction l with
    | nil => rfl
    | cons t r ih =>
      unfold modLast
      split
      next h =>
        obtain ⟨ht, hr⟩ : is t = true ∧ r.any is = false := by simpa using h
        have none_in : r.reverse.find? is = none := by simpa using hr
        simp [List.find?_append, none_in, his, ht]
      next h =>
        cases hr : r.reverse.find? is with
        | some x => simp [List.find?_append, ih, hr]
        | none =>
          have : is t = false := by
            have none_in : r.any is = false := by simpa using hr
            simpa [none_in] using h
          simp [List.find?_append, ih, hr, this]
  exact last _ (fun t => by simp [hf t]) s.tasks

theorem gang_id {s : State} {id : Nat} {g : Gang} (hg : s.gang? id = some g) : g.id = id := by
  unfold State.gang? at hg
  simpa using List.find?_some hg

/-- A change of the gang of an identifier that keeps the identifier changes what the identifier finds. -/
theorem gang_modGang {f : Gang → Gang} {s : State} {id : Nat} {g : Gang} (hg : s.gang? id = some g)
    (hf : ∀ g, (f g).id = g.id) : (s.modGang id f).gang? id = some (f g) := by
  have same : ((fun g : Gang => g.id == id) ∘ fun g => if g.id == id then f g else g) = fun g => g.id == id := by
    funext g
    simp only [Function.comp_apply]
    split
    · rw [hf]
    · rfl
  have found : s.gangs.find? (fun g => g.id == id) = some g := hg
  simp only [State.gang?, State.modGang, List.find?_map, same, found]
  simp [gang_id hg]

/-! ## Harts that stop -/

theorem tasks_stopHarts (f : Hart → Hart) (s : State) (g : Gang) : (stopHarts f s g).tasks = s.tasks := by
  unfold stopHarts
  split
  · rfl
  · refine List.foldlRecOn _ _ (motive := fun t : State => t.tasks = s.tasks) rfl fun t ht e _ => ?_
    exact (tasks_of_crew (by simp)).trans ((modHart_tasks t e.2 f).trans ht)

/-- A task that may end is ending, with its cause (R403 step 1). -/
theorem beginEnd_task {s : State} {p q n : Nat} {t : Task} (c : EndCause) (ht : s.task? p q n = some t) (hc : t.state.canEnd = true) :
    (beginEnd s p q n c).task? p q n = some { t with state := .ending t.state.holdsLeases, cause := some c } := by
  let f : Task → Task := fun t => { t with state := .ending t.state.holdsLeases, cause := some c }
  have stopped : ∀ (l : List Gang) (u : State), (l.foldl (stopHarts Hart.stop) u).tasks = u.tasks := fun l u =>
    List.foldlRecOn l _ (motive := fun x : State => x.tasks = u.tasks) rfl fun x hx g _ => (tasks_stopHarts _ x g).trans hx
  have ended : (s.modTask p q n f).task? p q n = some (f t) := by
    rw [task_modTask (f := f) s p q n fun _ => ⟨rfl, rfl, rfl⟩, ht]
    rfl
  simp only [beginEnd, ht, hc, if_true]
  unfold State.task? at ended ⊢
  rw [stopped]
  exact ended

/-! ## Credits to a barrier -/

/-- The hart stands in a BARWAIT. -/
def Hart.waits (h : Hart) : Prop := ∃ n b, h.run = .barWait n b

/-- From `s` to `t` no gang moves, and the hart of a slot that stands in no BARWAIT goes on standing in none, with
the registers of trap entry as they were. -/
structure Undisturbed (k : Nat) (s t : State) : Prop where
  gangs : t.gangs = s.gangs
  hart : ∀ h, s.hart? k = some h → ¬h.waits → ∃ g, t.hart? k = some g ∧ g.trap = h.trap ∧ ¬g.waits

theorem undisturbed_of_harts {k : Nat} {s t : State} (hh : t.hart? k = s.hart? k) (hg : t.gangs = s.gangs) : Undisturbed k s t where
  gangs := hg
  hart h hs hw := ⟨h, hh.trans hs, rfl, hw⟩

theorem undisturbed_of_crew (k : Nat) {s t : State} (e : t.crew = s.crew) : Undisturbed k s t :=
  undisturbed_of_harts (hart_of_crew e k) (gangs_of_crew e)

theorem undisturbed_refl (k : Nat) (s : State) : Undisturbed k s s := undisturbed_of_crew k rfl

theorem undisturbed_setBarrier (k : Nat) (s : State) (j : Nat) (x : BarrierCell) : Undisturbed k s (s.setBarrier j x) :=
  undisturbed_of_crew k rfl

theorem undisturbed_modTask (k : Nat) (s : State) (p q n : Nat) (f : Task → Task) : Undisturbed k s (s.modTask p q n f) :=
  undisturbed_of_harts rfl rfl

theorem undisturbed_trans {k : Nat} {s t u : State} (st : Undisturbed k s t) (tu : Undisturbed k t u) : Undisturbed k s u where
  gangs := tu.gangs.trans st.gangs
  hart h hs hw := by
    obtain ⟨g, hg, eg, gw⟩ := st.hart h hs hw
    obtain ⟨y, hy, ey, yw⟩ := tu.hart g hg gw
    exact ⟨y, hy, ey.trans eg, yw⟩

theorem undisturbed_foldl {α : Type} {k : Nat} {f : State → α → State} (hf : ∀ s a, Undisturbed k s (f s a)) (l : List α) (s : State) :
    Undisturbed k s (l.foldl f s) :=
  List.foldlRecOn l f (undisturbed_refl k s) fun t ht a _ => undisturbed_trans ht (hf t a)

/-- A change that leaves no hart in a BARWAIT and keeps its trap registers disturbs none. -/
theorem undisturbed_modHart (k j : Nat) (s : State) {f : Hart → Hart} (ht : ∀ h, (f h).trap = h.trap) (hw : ∀ h, ¬(f h).waits) :
    Undisturbed k s (s.modHart j f) where
  gangs := modHart_gangs s j f
  hart h hs nw := by
    by_cases e : k = j
    · subst e
      exact ⟨f h, hart_modHart_same hs f, ht h, hw h⟩
    · exact ⟨h, (hart_modHart_other s j k f e).trans hs, rfl, nw⟩

theorem stop_trap (h : Hart) : h.stop.trap = h.trap := by
  obtain ⟨p, l, e⟩ := flushLantern_eq h
  simp [Hart.stop, e]

theorem stop_not_waits (h : Hart) : ¬h.stop.waits := by
  rintro ⟨n, b, e⟩
  cases (show RunState.stopped = .barWait n b from e)

theorem undisturbed_stopHarts (k : Nat) (s : State) (g : Gang) : Undisturbed k s (stopHarts Hart.stop s g) := by
  unfold stopHarts
  split
  · exact undisturbed_refl k s
  · refine undisturbed_foldl (fun t e => ?_) _ s
    exact undisturbed_trans (undisturbed_modHart k e.2 t stop_trap stop_not_waits) (undisturbed_of_crew k (by simp))

theorem undisturbed_endTaskOf (k : Nat) (s : State) (h : Hart) (code tcode : BitVec 8) (eval : Word) :
    Undisturbed k s (endTaskOf s h code tcode eval) := by
  unfold endTaskOf beginEnd
  split
  · split
    · split
      · exact undisturbed_trans (undisturbed_modTask k s _ _ _ _) (undisturbed_foldl (undisturbed_stopHarts k) _ _)
      · exact undisturbed_refl k s
    · exact undisturbed_refl k s
  · exact undisturbed_refl k s

/-- The trap of another hart disturbs none: it may stop harts of its task, which their trap registers outlive. -/
theorem undisturbed_takeTrap_other {k slot : Nat} (hk : k ≠ slot) (s : State) (t : Trap) (eval epc : Word) :
    Undisturbed k s (takeTrap s slot t eval epc) := by
  have pins : Undisturbed k s (settleStores (releasePins s slot) slot) := undisturbed_of_crew k (by simp)
  have set : ∀ (u : State) (h : Hart), Undisturbed k u (u.setHart slot h) := fun u h =>
    undisturbed_of_harts (hart_setHart_other u slot k h hk) rfl
  unfold takeTrap
  split
  · exact undisturbed_refl k s
  · dsimp only
    split
    · split
      · exact undisturbed_trans pins (undisturbed_of_harts (tblGet_tblDel_other _ slot k hk) rfl)   -- a runtime stops
      · exact undisturbed_trans pins (set _ _)
    · split
      · exact undisturbed_trans pins (undisturbed_trans (set _ _) (undisturbed_endTaskOf k _ _ _ _ _))
      · exact undisturbed_trans pins (set _ _)

theorem waits_of_waitsOn {s : State} {n slot : Nat} {h : Hart} (hw : waitsOn s n slot = true) (hs : s.hart? slot = some h) : h.waits := by
  simp only [waitsOn, hs] at hw
  split at hw
  next m b e => exact ⟨m, b, e⟩
  · cases hw

/-- Only harts in a BARWAIT trap as the barrier breaks. -/
theorem undisturbed_trapWaiters (k : Nat) (s : State) (die n : Nat) : Undisturbed k s (trapWaiters s die n) := by
  unfold trapWaiters
  refine undisturbed_foldl (fun t slot => ?_) _ s
  split
  next hw =>
    by_cases e : k = slot
    · subst e
      refine ⟨(undisturbed_takeTrap_other (Nat.succ_ne_self k) t .barOver _ _).gangs, fun h hs nw => absurd (waits_of_waitsOn hw hs) nw⟩
    · exact undisturbed_takeTrap_other e t _ _ _
  · exact undisturbed_refl k t

theorem undisturbed_creditBarrier (k : Nat) (s : State) (die n bytes : Nat) : Undisturbed k s (creditBarrier s die n bytes) := by
  unfold creditBarrier settleBarrier
  dsimp only
  split
  · exact undisturbed_refl k s
  split
  · refine undisturbed_trans (undisturbed_setBarrier k s _ _) (undisturbed_foldl (fun t slot => ?_) _ _)
    exact undisturbed_modHart k slot t (fun _ => rfl) fun _ hw => by simp [Hart.waits] at hw
  split
  · exact undisturbed_trans (undisturbed_setBarrier k s _ _) (undisturbed_trapWaiters k _ die n)
  · exact undisturbed_setBarrier k s _ _

end Sys2Proof.Machine
end

section
/-! PROOFS. How gangs come to stand on their slots and leave them: dispatch (R17, R67, R79, R82), saving (R386,
R388) and resumption (R80, R386, R390). -/

namespace Sys2Proof.Machine

/-! ## Harts take their slots -/

theorem hart_takeSlot_same (s : State) (slot : Nat) (h : Hart) : (takeSlot s slot h).hart? slot = some h :=
  hart_setHart_same _ slot h
theorem hart_takeSlot_other (s : State) (slot k : Nat) (h : Hart) (hk : k ≠ slot) : (takeSlot s slot h).hart? k = s.hart? k :=
  hart_setHart_other _ slot k h hk

/-- The harts of a gang take their slots in order: `f` gives the hart of a HARTID. -/
def seatHarts (f : Nat → Hart) (slots : List (Nat × Nat)) (s : State) : State :=
  slots.foldl (fun s e => takeSlot s e.2 (f e.1)) s

theorem seatHarts_rest (f : Nat → Hart) (slots : List (Nat × Nat)) (s : State) :
    (seatHarts f slots s).gangs = s.gangs ∧ (seatHarts f slots s).mem = s.mem ∧ (seatHarts f slots s).nextGang = s.nextGang :=
  List.foldlRecOn slots _ (motive := fun t : State => t.gangs = s.gangs ∧ t.mem = s.mem ∧ t.nextGang = s.nextGang) ⟨rfl, rfl, rfl⟩
    fun _ ht _ _ => ht

/-- Each slot holds one of the gang's harts: the last that took it. -/
theorem hart_seatHarts (f : Nat → Hart) (slots : List (Nat × Nat)) (s : State) {e : Nat × Nat} (he : e ∈ slots) :
    ∃ a ∈ slots, a.2 = e.2 ∧ (seatHarts f slots s).hart? e.2 = some (f a.1) := by
  induction slots using List.reverseRecOn with
  | nil => cases he
  | append_singleton l b ih =>
    have last : seatHarts f (l ++ [b]) s = takeSlot (seatHarts f l s) b.2 (f b.1) := by simp [seatHarts]
    rw [last]
    by_cases hb : e.2 = b.2
    · exact ⟨b, by simp, hb.symm, by rw [hb]; exact hart_takeSlot_same _ _ _⟩
    · have hl : e ∈ l := by
        rcases List.mem_append.mp he with h | h
        · exact h
        · exact absurd (by rw [List.mem_singleton.mp h]) hb
      obtain ⟨a, ha, hs, hf⟩ := ih hl
      exact ⟨a, List.mem_append_left _ ha, hs, (hart_takeSlot_other _ _ _ _ hb).trans hf⟩

/-- Where no two harts share a slot, each slot holds its own. -/
theorem hart_seatHarts_nodup (f : Nat → Hart) {slots : List (Nat × Nat)} (hn : (slots.map Prod.snd).Nodup) (s : State)
    {e : Nat × Nat} (he : e ∈ slots) : (seatHarts f slots s).hart? e.2 = some (f e.1) := by
  obtain ⟨a, ha, hs, hf⟩ := hart_seatHarts f slots s he
  rwa [List.inj_on_of_nodup_map hn ha he hs] at hf

/-! ## Dispatch (R17) -/

/-- What a dispatched gang finds: itself last among the gangs, and a new hart on each of its slots. -/
theorem dispatchGang_spec {s : State} {p rank index : Nat} {t : Task} {left : List GangRun} {slots : List (Nat × Nat)}
    (hp : placeGang s (listGetD (diesOf (s.part p)) rank 0) (recGang t.record) { tiles := recZtiles t.record, ways := recSways t.record } = some slots)
    (hn : (slots.map Prod.snd).Nodup) :
    let x := dispatchGang s p t rank index left
    ∃ g : Gang, x.gangs = s.gangs ++ [g] ∧ x.nextGang = s.nextGang + 1 ∧ x.mem = s.mem ∧
      g.id = s.nextGang ∧ g.part = p ∧ g.gridIdx = index ∧ g.die = listGetD (diesOf (s.part p)) rank 0 ∧
      g.size = recGang t.record ∧ g.harts = slots ∧ g.state = .running ∧
      ∀ e ∈ slots, x.hart? e.2 = some (newHart (s.part p) g t.record e.1) := by
  let g : Gang := { id := s.nextGang, part := p, queue := t.queue, seq := t.seq, gridIdx := index, die := listGetD (diesOf (s.part p)) rank 0,
                    size := recGang t.record, harts := slots, images := (freeImageNumbers (s.part p)).take (recGang t.record) }
  let u := { s with nextGang := s.nextGang + 1, gangs := s.gangs ++ [g] }.modPart p fun x =>
    { x with images := g.images.foldl (fun l i => tblSet l i g.id) x.images }
  let v := seatHarts (newHart (s.part p) g t.record) slots u
  have hv : dispatchGang s p t rank index left = v.modTask p t.queue t.seq fun t =>
      { t with blocks := left, live := t.live + 1, state := if t.state = .resident then .dispatched else t.state } := by
    simp only [dispatchGang, hp]
    rfl
  obtain ⟨hg, hm, hi⟩ := seatHarts_rest (newHart (s.part p) g t.record) slots u
  dsimp only
  rw [hv]
  exact ⟨g, hg, hi, hm, rfl, rfl, rfl, rfl, rfl, rfl, rfl, fun e he => hart_seatHarts_nodup _ hn u he⟩

/-- A round with nothing to resume dispatches the gang that it picks (R67). -/
theorem execDispatchRound_picks {s : State} {p rank pick n lv index : Nat} {t : Task} {left : List GangRun}
    (hd : dispatches s = true) (hr : nextReady s p = none) (hc : chooseQueue s p = some (n, lv)) (ht : dispatchable s p n = some t)
    (hk : rank ∈ placeableRanks s p t) (hg : pickGang rank pick t.blocks = some (index, left)) :
    execDispatchRound p rank pick s = .next (countRound (dispatchGang s p t rank index left) p n lv ((eligible s p).map fun e => e.1)) := by
  simp [execDispatchRound, hd, hr, hc, ht, hk, hg]

section
variable (p : Partition) (g : Gang) (r : List Byte) (id : Nat)

/-- The scalar registers of a new hart are 0 but for s1, which holds ARGS. -/
theorem newHart_getS_one : (newHart p g r id).getS 1 = recArgs r := by
  simp [newHart, Hart.getS, Regs.getS, Regs.setS]

theorem newHart_getS_other {i : SIdx} (hi : i ≠ 1) : (newHart p g r id).getS i = 0 := by
  by_cases h0 : i = 0
  · simp [Hart.getS, Regs.getS, h0]
  · have e : (newHart p g r id).getS i = if i = 0 then 0 else rget (rset (Vector.replicate 64 0) 1 (recArgs r)) i := rfl
    rw [e, if_neg h0, rget_rset_other _ _ _ _ hi]
    simp [rget]

theorem newHart_getV (i : VIdx) : (newHart p g r id).getV i = 0 := by
  simp [newHart, Hart.getV, Hart.initial, overlay, Regs.setS, Regs.initial, rget]

theorem newHart_getM (i : MIdx) : (newHart p g r id).getM i = if i = 0 then BitVec.allOnes 1024 else 0 := by
  by_cases h0 : i = 0#4
  · simp [Hart.getM, Regs.getM, h0]
  · have : ¬(0 = i.toNat) := fun e => h0 (BitVec.eq_of_toNat_eq e.symm)
    simp [newHart, Hart.getM, Regs.getM, Regs.setS, Regs.initial, rget, h0, this]

theorem newHart_getP (i : PIdx) : (newHart p g r id).getP i = decide (i = 0) := by
  by_cases h0 : i = 0#3
  · simp [Hart.getP, Regs.getP, h0]
  · have : ¬(0 = i.toNat) := fun e => h0 (BitVec.eq_of_toNat_eq e.symm)
    simp [newHart, Hart.getP, Regs.getP, Regs.setS, Regs.initial, rget, h0, this]

theorem newHart_getQ (i : QIdx) : (newHart p g r id).getQ i = {} := by
  simp [newHart, Hart.getQ, Regs.setS, Regs.initial, rget]

theorem newHart_cursor (i : EIdx) : rget (newHart p g r id).regs.e i = {} := by
  simp [newHart, Regs.setS, Regs.initial, rget]

theorem newHart_perf (k : BitVec 4) : rget (newHart p g r id).perf k = 0 := by
  simp [newHart, Hart.initial, rget]

end

/-! ## Saving (R386, R388) -/

/-- Writing an image moves memory alone. -/
theorem crew_saveHart (s : State) (base : Nat) (g : Gang) (k : StopKind) (h : Hart) (first : Bool) (bars : Tbl Barrier) (partner : Nat) :
    (saveHart s base g k h first bars partner).crew = s.crew := by
  unfold saveHart
  dsimp only
  refine (crew_foldl (fun _ _ => crew_poisonByte _ _) h.scratchPoison _).trans ?_
  refine (crew_foldl (fun _ _ => crew_poisonByte _ _) (h.poison.filter _) _).trans ?_
  refine (crew_foldl (fun _ _ => crew_putBytes _ _ _) (h.tiles.filter _) _).trans ?_
  refine (crew_foldl (fun _ _ => crew_zeroRange _ _ _) _ _).trans ?_
  refine (crew_foldl (fun _ _ => crew_physWrite _ _ _) h.scratch _).trans ?_
  exact crew_foldl (fun _ _ => crew_putBytes _ _ _) (imagePieces g k h first bars partner) _

theorem crew_poisonBarriers (s : State) (g : Gang) (base : Nat) (t : State) : (poisonBarriers s g base t).crew = t.crew :=
  crew_foldl crew_poisonByte _ t

/-- A released slot is empty, and no other slot, gang or task moves (R84). -/
theorem hart_releaseSlot_same (s : State) (slot : Nat) : (releaseSlot s slot).hart? slot = none := tblGet_tblDel_same _ slot

theorem hart_releaseSlot_other (s : State) {slot k : Nat} (hk : k ≠ slot) : (releaseSlot s slot).hart? k = s.hart? k :=
  (tblGet_tblDel_other _ slot k hk).trans (hart_of_crew (s := s) (by simp) k)

theorem gangs_releaseSlot (s : State) (slot : Nat) : (releaseSlot s slot).gangs = s.gangs :=
  gangs_of_crew (s := s) (t := settleStores (dropPins s slot) slot) (by simp)

theorem releaseSlots_spec (l : List (Nat × Nat)) (s : State) :
    let t := l.foldl (fun t e => releaseSlot t e.2) s
    t.gangs = s.gangs ∧ ∀ e ∈ l, t.hart? e.2 = none := by
  induction l using List.reverseRecOn with
  | nil => simp
  | append_singleton l b ih =>
    obtain ⟨hg, hl⟩ := ih
    simp only [List.foldl_append, List.foldl_cons, List.foldl_nil]
    refine ⟨(gangs_releaseSlot _ _).trans hg, fun e he => ?_⟩
    by_cases hb : e.2 = b.2
    · rw [hb]
      exact hart_releaseSlot_same _ _
    · rcases List.mem_append.mp he with h | h
      · exact (hart_releaseSlot_other _ hb).trans (hl e h)
      · exact absurd (by rw [List.mem_singleton.mp h]) hb

/-- The gang's slots are empty and its record is that of a saved gang, with what the images have no place for (R16). -/
theorem saveGang_spec {s : State} {g : Gang} (hg : s.gang? g.id = some g) (k : StopKind) :
    (∃ g', (saveGang s g k).gang? g.id = some g' ∧ g'.state = .saved k ∧ g'.harts = g.harts ∧
      ∀ e ∈ g.harts, ∀ h, s.hart? e.2 = some h → (e.1, h.trap.evtype, h.trap.suspended) ∈ g'.traps) ∧
    ∀ e ∈ g.harts, (saveGang s g k).hart? e.2 = none := by
  unfold saveGang
  extract_lets bars p low images released reserved
  have hi : images.crew = s.crew := by
    refine crew_foldl (fun t e => ?_) g.harts s
    split
    · dsimp only
      split
      · exact (crew_poisonBarriers _ _ _ _).trans (crew_saveHart _ _ _ _ _ _ _ _)
      · exact crew_saveHart _ _ _ _ _ _ _ _
    · rfl
  obtain ⟨hrg, hrh⟩ := releaseSlots_spec g.harts images
  have hr : reserved.crew = released.crew := crew_foldl (fun _ _ => crew_setBarrier _ _ _) bars released
  have hgangs : reserved.gangs = s.gangs := by rw [gangs_of_crew hr, hrg, gangs_of_crew hi]
  have found : reserved.gang? g.id = some g := (gang_of_gangs hgangs g.id).trans hg
  refine ⟨⟨_, gang_modGang found fun _ => rfl, rfl, rfl, fun e he h hh => ?_⟩, fun e he => (hart_of_crew hr e.2).trans (hrh e he)⟩
  exact List.mem_filterMap.mpr ⟨e, he, by simp [hh]⟩

theorem settleParked_rest (s : State) (p q n : Nat) :
    (settleParked s p q n).gangs = s.gangs ∧ (settleParked s p q n).harts = s.harts := by
  unfold settleParked
  split
  · split
    · exact ⟨rfl, rfl⟩
    · exact ⟨rfl, rfl⟩
  · exact ⟨rfl, rfl⟩

/-- GANG_SAVE of a stopping gang that nothing holds up (R386). -/
theorem gangSave_saves {s : State} {gang : Nat} {g : Gang} {k : StopKind} {t : Task} (hg : s.gang? gang = some g)
    (hs : g.state = .stopping k) (ht : s.task? g.part g.queue g.seq = some t) (he : t.state.isEnding = false)
    (hb : gangBusy s g = false) (hp : imagePinned s g = none) :
    ∃ x, execGangSave gang s = .next x ∧ x.gangs = (saveGang s g k).gangs ∧ x.harts = (saveGang s g k).harts := by
  obtain ⟨hgs, hhs⟩ := settleParked_rest (saveGang s g k) g.part g.queue g.seq
  simp only [execGangSave, hg, hs, ht, he, hb, hp]
  refine ⟨_, rfl, ?_⟩
  split
  · exact ⟨hgs, hhs⟩
  · exact ⟨hgs, hhs⟩

/-- GANG_SAVE of a gang whose images a pin covers waits (R318). -/
theorem gangSave_waits {s : State} {gang n a : Nat} {g : Gang} {k : StopKind} {t : Task} (hg : s.gang? gang = some g)
    (hs : g.state = .stopping k) (ht : s.task? g.part g.queue g.seq = some t) (he : t.state.isEnding = false)
    (hb : gangBusy s g = false) (hp : imagePinned s g = some (n, a)) :
    execGangSave gang s = .next (noteRetry s n a imageSize) := by
  simp [execGangSave, hg, hs, ht, he, hb, hp]

/-! ## Resumption (R80, R386, R390) -/

theorem writeLslip_run (h : Hart) (x : Word) : (h.writeLslip x).run = h.run := by
  unfold Hart.writeLslip
  dsimp only
  split
  · split <;> rfl
  · split <;> rfl

/-- A write of a system register leaves its hart where it stands between issues. -/
theorem sysWrite_run (h : Hart) (n : Nat) (x : Word) : (sysWrite h n x).run = h.run := by
  unfold sysWrite
  split
  case h_2 => exact hart_setVl_run h _
  case h_3 => exact clearPoison_run _ _         -- VTYPE
  case h_4 => exact hart_setVstart_run h _
  case h_5 => exact writeLslip_run h x
  case h_6 => exact clearPoison_run _ _         -- ZDIRTY
  case h_21 => split <;> rfl                    -- a performance counter, or no register
  all_goals rfl

/-- What the restore of an image lays over the registers leaves the hart where it stands between issues. (Stated
for fields as variables: to compare those of `loadHart` themselves would unfold the offsets of the image.) -/
theorem restored_run (h : Hart) (zdirty : BitVec 32) (trap : TrapRegs) (tiles : Tbl VReg) (live shadow : Plane) (defer : List DeferSlot)
    (scratch : Tbl Byte) (scratchPoison : List Nat) (granules : Tbl Granule) (poison : List RegLoc) :
    ({ h with zdirty := zdirty, trap := trap, tiles := tiles, live := live, shadow := shadow, defer := defer, scratch := scratch,
              scratchPoison := scratchPoison, granules := granules, poison := poison } : Hart).run = h.run := rfl

/-- A hart comes from its image ready to issue. -/
theorem loadHart_run (s : State) (g : Gang) (t : Task) (id : Nat) : (loadHart s g t id).run = .running := by
  unfold loadHart
  extract_lets a ways blank fresh words loaded
  have hl : loaded.run = .running :=
    List.foldlRecOn words _ (motive := fun h : Hart => h.run = .running) rfl fun h hh w _ => (sysWrite_run h w.1 _).trans hh
  exact (restored_run loaded ..).trans hl

/-- What the gang's record keeps for a hart is what the hart has again (R16). -/
theorem loadHart_trap {s : State} {g : Gang} {id : Nat} {y : Nat × BitVec 7 × Bool} (t : Task)
    (hy : g.traps.find? (fun y => y.1 == id) = some y) :
    (loadHart s g t id).trap.evtype = y.2.1 ∧ (loadHart s g t id).trap.suspended = y.2.2 := by
  unfold loadHart
  simp only [hy, and_self]

/-- The hart of a gang that resumes, as it takes its slot. -/
def resumedHart (s : State) (g : Gang) (t : Task) (id : Nat) : Hart := (loadHart s g t id).startFork 1

theorem resumedHart_trap (s : State) (g : Gang) (t : Task) (id : Nat) : (resumedHart s g t id).trap = (loadHart s g t id).trap :=
  (startFork_rest _ 1).2.2

theorem resumedHart_not_waits (s : State) (g : Gang) (t : Task) (id : Nat) : ¬(resumedHart s g t id).waits := by
  obtain ⟨p, l, e⟩ := startFork_eq (loadHart s g t id) 1
  rintro ⟨n, b, h⟩
  rw [resumedHart, e] at h
  simp only [loadHart_run] at h
  cases h

theorem crew_moveBarriers (s : State) (g : Gang) (die : Nat) : (moveBarriers s g die).crew = s.crew := by
  refine crew_foldl (fun t b => ?_) _ s
  split
  · rfl
  · rfl

/-- A gang that resumes is Running on its slots, and the credits held for it disturb none of its harts: they stand
in no BARWAIT. -/
theorem resumeGang_spec {s : State} {g : Gang} (hg : s.gang? g.id = some g) (t : Task) (die : Nat) (slots : List (Nat × Nat)) :
    (∃ g', (resumeGang s g t die slots).gang? g.id = some g' ∧ g'.state = .running ∧ g'.die = die ∧ g'.harts = slots) ∧
    ∀ e ∈ slots, ∃ a ∈ slots, a.2 = e.2 ∧ ∃ h, (resumeGang s g t die slots).hart? e.2 = some h ∧ h.trap = (loadHart s g t a.1).trap := by
  unfold resumeGang
  extract_lets low harts bars seated moved owned running ready task
  have hseat : seated = seatHarts (resumedHart s g t) slots s := List.foldl_map ..
  have hmoved : owned.crew = seated.crew :=
    (crew_foldl (fun _ _ => crew_setBarrier _ _ _) bars moved).trans (crew_moveBarriers seated g die)
  have hgangs : owned.gangs = s.gangs := by rw [gangs_of_crew hmoved, hseat, (seatHarts_rest _ slots s).1]
  have found : owned.gang? g.id = some g := (gang_of_gangs hgangs g.id).trans hg
  have credits : ∀ k, Undisturbed k task (g.credits.foldl (fun s c => creditBarrier s die c.1 c.2) task) := fun k =>
    undisturbed_foldl (fun s (c : Nat × Nat) => undisturbed_creditBarrier k s die c.1 c.2) _ _
  constructor
  · have resumed : running.gang? g.id = _ := gang_modGang found fun _ => rfl
    exact ⟨_, (gang_of_gangs (credits 0).gangs g.id).trans resumed, rfl, rfl, rfl⟩
  · intro e he
    obtain ⟨a, ha, has, hh⟩ := hart_seatHarts (resumedHart s g t) slots s he
    have hask : task.hart? e.2 = some (resumedHart s g t a.1) := (hart_of_crew hmoved e.2).trans (hseat ▸ hh)
    obtain ⟨h, hx, htr, -⟩ := (credits e.2).hart _ hask (resumedHart_not_waits s g t a.1)
    exact ⟨a, ha, has, h, hx, htr.trans (resumedHart_trap s g t a.1)⟩

/-- The gang that is next to resume is one of the state's. -/
theorem gang_of_nextReady {s : State} {p : Nat} {g : Gang} (h : nextReady s p = some g) : s.gang? g.id = some g := by
  obtain ⟨id, -, hid⟩ := List.mem_filterMap.mp (List.mem_of_find?_eq_some h)
  rwa [gang_id hid]

section
variable {s : State} {p : Nat} {g : Gang} {t : Task} (hd : dispatches s = true) (hr : nextReady s p = some g)
  (ht : s.task? g.part g.queue g.seq = some t)
include hd hr ht

/-- GANG_RESUME waits while a pin covers an image (R318). -/
theorem gangResume_waits {n a : Nat} (hp : imagePinned s g = some (n, a)) :
    execGangResume p s = .next (noteRetry s n a imageSize) := by
  simp [execGangResume, hd, hr, ht, hp]

/-- GANG_RESUME of images that pass their checks, where slots are found (R390). -/
theorem gangResume_resumes {die : Nat} {slots : List (Nat × Nat)} (hp : imagePinned s g = none) (hb : badImage s g = none)
    (hs : placeResume s g = some (die, slots)) : execGangResume p s = .next (resumeGang s g t die slots) := by
  simp [execGangResume, hd, hr, ht, hp, hb, hs]

/-- GANG_RESUME of an image that fails ends the task (R390). -/
theorem gangResume_ends {n : Nat} (hp : imagePinned s g = none) (hb : badImage s g = some n) :
    execGangResume p s = .next (beginEnd s p g.queue g.seq
      { code := causeImage, gridIdx := BitVec.ofNat 32 g.gridIdx, hartid := BitVec.ofNat 7 n }) := by
  simp [execGangResume, hd, hr, ht, hp, hb]

end

/-! ## The obligation -/

/-- Settles O51: dispatch from `dispatchGang_spec` and the registers of a new hart, saving from `saveGang_spec`, and
resumption from `resumeGang_spec`, or `beginEnd_task` where an image fails. -/
theorem gangsArePlacedSavedAndResumed : Obligations.GangsArePlacedSavedAndResumed := by
  refine ⟨?dispatch, ?save, ?resume⟩
  case dispatch =>
    intro s p rank pick n lv index t left slots hd hr hc ht hk hpick die hplace hnodup
    obtain ⟨g, hgangs, hnext, hmem, hid, hpart, hidx, hdie, hsize, hslots, hrun, hseat⟩ :=
      dispatchGang_spec (t := t) (index := index) (left := left) hplace hnodup
    refine ⟨_, g, execDispatchRound_picks hd hr hc ht hk hpick, hgangs, hid, hnext, hidx, hdie, hsize, hslots, hrun, hmem, fun e he => ?_⟩
    refine ⟨newHart (s.part p) g t.record e.1, hseat e he, rfl, newHart_getS_one _ _ _ _, rfl, hid, rfl, rfl, rfl, rfl, hpart, hidx,
      hsize, rfl, fun _ => newHart_getS_other _ _ _ _, newHart_getV _ _ _ _, newHart_getM _ _ _ _, newHart_getP _ _ _ _,
      newHart_getQ _ _ _ _, newHart_cursor _ _ _ _, rfl, rfl, rfl, rfl, rfl, rfl, rfl, rfl, rfl, rfl, rfl,
      fun _ => rfl, fun _ => rfl, rfl, rfl, rfl, rfl, newHart_perf _ _ _ _, rfl⟩
  case save =>
    intro s gang g k t hg hs ht he hb
    refine ⟨fun n a hp => ⟨_, gangSave_waits hg hs ht he hb hp, rfl, rfl, rfl⟩, fun hp => ?_⟩
    obtain ⟨x, hx, hxg, hxh⟩ := gangSave_saves hg hs ht he hb hp
    have hid := gang_id hg
    subst hid
    obtain ⟨⟨g', hg', hst, hha, htr⟩, hempty⟩ := saveGang_spec hg k
    refine ⟨x, g', hx, (gang_of_gangs hxg g.id).trans hg', hst, hha, fun e he => ⟨?_, htr e he⟩⟩
    rw [State.hart?, hxh]
    exact hempty e he
  case resume =>
    intro s p g t hd hr ht
    refine ⟨fun n a hp => ⟨_, gangResume_waits hd hr ht hp, rfl, rfl, rfl⟩, fun die slots hp hb hs => ?_, fun n hp hb hpart hc => ?_⟩
    · obtain ⟨⟨g', hg', hst, hdie, hha⟩, hseat⟩ := resumeGang_spec (gang_of_nextReady hr) t die slots
      refine ⟨_, g', gangResume_resumes hd hr ht hp hb hs, hg', hst, hdie, hha, fun e he _ => ?_⟩
      obtain ⟨a, ha, has, h, hh, htr⟩ := hseat e he
      refine ⟨h, hh, fun hn y hy => ?_⟩
      rw [htr, List.inj_on_of_nodup_map hn ha he has]
      exact loadHart_trap t hy
    · subst hpart
      exact ⟨_, _, gangResume_ends hd hr ht hp hb, beginEnd_task _ ht hc, rfl, rfl⟩

end Sys2Proof.Machine
end

section
/-! PROOFS. Who may write (R50, R53, R54), and what the election leaves in the mailbox (R51, R52). -/

namespace Sys2Proof.Machine

/-! ## Writers -/

theorem byMaster_of_reaches {s : State} {m : Master} (h : reaches s m = true) (f : State → State) : byMaster s m f = f s := by
  simp [byMaster, h]

theorem byMaster_of_not_reaches {s : State} {m : Master} (h : reaches s m = false) (f : State → State) : byMaster s m f = s := by
  simp [byMaster, h]

theorem byOwner_of_owner {s : State} {m : Master} (hr : reaches s m = true) (ho : isOwner s m = true) (f : State → State) :
    byOwner s m f = f s := by
  simp [byOwner, byMaster_of_reaches hr, ho]

/-- A master that is not the owner has its write counted, if its link is trained (R47, R50). -/
theorem byOwner_of_not_owner {s : State} {m : Master} (ho : isOwner s m = false) (f : State → State) :
    byOwner s m f = refusedWrite s (.master m) := by
  simp [byOwner, byMaster, ho, refusedWrite]

theorem byOwner_of_not_mayWrite {s : State} {m : Master} {p : Nat} (h : ¬MayWrite s (.master m) p) (f : State → State) :
    byOwner s m f = refusedWrite s (.master m) := by
  cases ho : isOwner s m with
  | false => exact byOwner_of_not_owner ho f
  | true =>
    have hr : reaches s m = false := by simpa [MayWrite, ho] using h
    simp [byOwner, byMaster, hr, refusedWrite]

/-- A write of one that may write the window of a partition is made. -/
theorem byWriter_of_mayWrite {s : State} {w : Writer} {p : Nat} (h : MayWrite s w p) (f : State → State) : byWriter s w p f = f s := by
  cases w with
  | master m => exact byOwner_of_owner h.1 h.2 f
  | runtime => exact if_pos h

theorem byWriter_of_not_mayWrite {s : State} {w : Writer} {p : Nat} (h : ¬MayWrite s w p) (f : State → State) :
    byWriter s w p f = refusedWrite s w := by
  cases w with
  | master m => exact byOwner_of_not_mayWrite h f
  | runtime => exact if_neg h

/-- A runtime is always in the privileged view (R56). -/
theorem hasPrivileged_of_hasRuntime {s : State} {p : Nat} (h : hasRuntime s p = true) : hasPrivileged s p = true := by
  obtain ⟨e, he, hp⟩ := List.any_eq_true.mp h
  obtain ⟨hpart, hlamp⟩ := (Bool.and_eq_true _ _).mp hp
  exact List.any_eq_true.mpr ⟨e, he, by simp [hpart, privileged, hlamp]⟩

/-- A doorbell of one that may write the window is taken, of the software of the privileged view only where it is
the runtime (R53). -/
theorem byRinger_of_mayWrite {s : State} {w : Writer} {p : Nat} (h : MayWrite s w p) (hw : w = .runtime → hasRuntime s p = true)
    (f : State → State) : byRinger s w p f = f s := by
  cases w with
  | master m => exact byOwner_of_owner h.1 h.2 f
  | runtime => exact if_pos (hw rfl)

theorem byRinger_of_not_mayWrite {s : State} {w : Writer} {p : Nat} (h : ¬MayWrite s w p) (f : State → State) :
    byRinger s w p f = refusedWrite s w := by
  cases w with
  | master m => exact byOwner_of_not_mayWrite h f
  | runtime => exact if_neg fun hr => h (hasPrivileged_of_hasRuntime hr)

/-! ## The election -/

/-- From `s` to `t` the election has come to a state, an owner and a candidate, with EPOCH counted on or not, and
neither NOWNWR nor the work of the device has moved. -/
def Elects (s t : State) (st owner cand : Nat) (bump : Bool) : Prop :=
  t.mailbox.state.toNat = st ∧ t.mailbox.owner.toNat = owner ∧ t.mailbox.cand.toNat = cand ∧
    t.mailbox.epoch = (if bump then s.mailbox.epoch + 1 else s.mailbox.epoch) ∧
    t.mailbox.nownwr = s.mailbox.nownwr ∧ t.mem = s.mem ∧ t.tasks = s.tasks ∧ t.partitions = s.partitions ∧ t.harts = s.harts

theorem elects_setOwner (s : State) {st owner cand : Nat} (hst : st < 8) (ho : owner < 4) (hc : cand < 4) (bump : Bool) :
    Elects s (setOwner s st owner cand bump) st owner cand bump := by
  have three : (BitVec.ofNat 3 st).toNat = st := Nat.mod_eq_of_lt hst
  have two : ∀ {x : Nat}, x < 4 → (BitVec.ofNat 2 x).toNat = x := fun h => Nat.mod_eq_of_lt h
  exact ⟨three, two ho, two hc, rfl, rfl, rfl, rfl, rfl, rfl⟩

section
variable {s t : State} {st owner cand : Nat} {bump : Bool}

theorem elects_setLast (h : Elects s t st owner cand bump) (m : Master) (r : BitVec 2) : Elects s (setLast t m r) st owner cand bump := h
theorem elects_logSconce (h : Elects s t st owner cand bump) (e : LogEntry) : Elects s (logSconce t e) st owner cand bump := h
theorem elects_after_freshNonce (h : Elects (freshNonce s) t st owner cand bump) : Elects s t st owner cand bump := h
theorem elects_after_logSconce {e : LogEntry} (h : Elects (logSconce s e) t st owner cand bump) : Elects s t st owner cand bump := h

end

theorem last_setLast (s : State) (m : Master) (r : BitVec 2) : tblGetD (setLast s m r).mailbox.last (masterCode m) 0 = r :=
  tblGetD_tblPut_same _ _ _ _

theorem masterCode_lt (m : Master) : masterCode m < 4 := by cases m <;> decide

theorem claim_unowned {s : State} {m : Master} (h : s.mailbox.state = 0) :
    claim s m = setLast (setOwner (freshNonce s) 1 0 (masterCode m) false) m 0 := if_pos h

theorem claim_refused {s : State} {m : Master} (h : s.mailbox.state ≠ 0) : claim s m = setLast s m 1 := if_neg h

theorem respond_valid {s : State} {m : Master} (hs : s.mailbox.state = 1 ∨ s.mailbox.state = 3) (hc : s.mailbox.cand.toNat = masterCode m)
    (hv : ownerCredential s m 1 0 = true) : respond s m = setLast (setOwner s 2 (masterCode m) 0 true) m 0 := by
  simp only [respond, if_pos (And.intro hs hc), if_pos hv]

/-- An invalid credential leaves the device to none, or to the owner before (R52). -/
theorem respond_invalid {s : State} {m : Master} (hs : s.mailbox.state = 1 ∨ s.mailbox.state = 3)
    (hc : s.mailbox.cand.toNat = masterCode m) (hv : ownerCredential s m 1 0 = false) :
    ∃ u, respond s m = setLast u m 2 ∧ (s.mailbox.state = 1 → Elects s u 0 0 0 false) ∧
      (s.mailbox.state = 3 → Elects s u 2 s.mailbox.owner.toNat 0 false) := by
  refine ⟨_, by simp only [respond, if_pos (And.intro hs hc), hv]; rfl, fun h1 => ?_, fun h3 => ?_⟩
  · rw [if_pos h1]
    exact elects_after_logSconce (elects_setOwner _ (by decide) (by decide) (by decide) false)
  · rw [if_neg (by rw [h3]; decide)]
    exact elects_after_logSconce (elects_setOwner _ (by decide) s.mailbox.owner.isLt (by decide) false)

theorem respond_refused {s : State} {m : Master} (h : ¬(s.mailbox.state = 1 ∨ s.mailbox.state = 3) ∨ s.mailbox.cand.toNat ≠ masterCode m) :
    respond s m = setLast s m 1 := if_neg fun x => h.elim (fun n => n x.1) (fun n => n x.2)

theorem handover_names {s : State} {m : Master} {c : BitVec 2} (hs : s.mailbox.state = 2) (hc : c ≠ s.mailbox.owner) :
    handover s m c = setLast (setOwner (freshNonce s) 3 s.mailbox.owner.toNat c.toNat false) m 0 := if_pos ⟨hs, hc⟩

theorem handover_refused {s : State} {m : Master} {c : BitVec 2} (h : s.mailbox.state ≠ 2 ∨ c = s.mailbox.owner) :
    handover s m c = setLast s m 1 := if_neg fun x => h.elim (fun n => n x.1) (fun n => x.2 n)

theorem releaseOwner_owned {s : State} {m : Master} (h : s.mailbox.state = 2) :
    releaseOwner s m = setLast (setOwner s 0 0 0 true) m 0 := if_pos h

theorem releaseOwner_handover {s : State} {m : Master} (h : s.mailbox.state = 3) :
    releaseOwner s m = logSconce (setLast (setOwner s 2 s.mailbox.owner.toNat 0 false) m 0) (.handoverReleased s.mailbox.cand) := by
  simp [releaseOwner, h]

theorem execRespondTimeout_claimed {s : State} (h : s.mailbox.state = 1) :
    execRespondTimeout s = .next (logSconce (setOwner s 0 0 0 false) (.respondTimeout s.mailbox.cand)) := if_pos h

theorem execRespondTimeout_handover {s : State} (h : s.mailbox.state = 3) :
    execRespondTimeout s = .next (logSconce (setOwner s 2 s.mailbox.owner.toNat 0 false) (.respondTimeout s.mailbox.cand)) := by
  simp [execRespondTimeout, h]

theorem execRespondTimeout_idle {s : State} (h1 : s.mailbox.state ≠ 1) (h3 : s.mailbox.state ≠ 3) : execRespondTimeout s = .next s :=
  (if_neg h1).trans (if_neg h3)

/-- The loss of the owner's link gives the device up (R52). -/
theorem execOwnerLinkDown_elects {s : State} (hd : ownerLinkIsDown s = true) (hs : s.mailbox.state = 2 ∨ s.mailbox.state = 3) :
    ∃ t, execOwnerLinkDown s = .next t ∧ Elects s t 0 0 0 true := by
  have released : Elects s (setOwner s 0 0 0 true) 0 0 0 true := elects_setOwner s (by decide) (by decide) (by decide) true
  rcases hs with h | h
  · exact ⟨_, by simp [execOwnerLinkDown, hd, h], elects_logSconce released .ownerLinkDown⟩
  · exact ⟨_, by simp [execOwnerLinkDown, hd, h], released⟩

/-! ## The obligation -/

/-- What an instruction that writes the window of a partition does for one that may not write it. -/
theorem exec_windowWrite_refused {s : State} {w : Writer} {p : Nat} {i : Instr} (h : ¬MayWrite s w p)
    (hi : (∃ f, exec i s = .next (byWriter s w p f)) ∨ ∃ f, exec i s = .next (byRinger s w p f)) :
    exec i s = .next (refusedWrite s w) := by
  rcases hi with ⟨f, e⟩ | ⟨f, e⟩
  · rw [e, byWriter_of_not_mayWrite h]
  · rw [e, byRinger_of_not_mayWrite h]

/-- What a command of the owner alone does for another master. -/
theorem exec_ownerWrite_refused {s : State} {m : Master} {i : Instr} (h : isOwner s m = false)
    (hi : ∃ f, exec i s = .next (byOwner s m f)) : exec i s = .next (refusedWrite s (.master m)) := by
  obtain ⟨f, e⟩ := hi
  rw [e, byOwner_of_not_owner h]

/-- A word written to CMD of the mailbox that names no command is the owner's write all the same (R50, R51). -/
theorem registerWrite_noCommand {s : State} {m : Master} {x : Word} (ho : isOwner s m = false) (hx : bits x 0 3 = 0 ∨ 5 ≤ bits x 0 3) :
    exec (.registerWrite (.master m) 0x108 x) s = .next (refusedWrite s (.master m)) := by
  have cmd : identityWrite s m 0x108 x = byOwner s m fun s => s := by
    unfold identityWrite
    rw [if_pos rfl]
    split
    case h_5 => rfl
    all_goals omega
  have hw : bar0Write s m 0x108 x = byMaster s m fun s => identityWrite s m 0x108 x := by
    simp [bar0Write]
  rw [exec_registerWrite]
  show Host.Outcome.next (bar0Write s m 0x108 x) = _
  rw [hw]
  cases hr : reaches s m with
  | false => simp [byMaster, hr, refusedWrite]
  | true => rw [byMaster_of_reaches hr, cmd, byOwner_of_not_owner ho]

/-- Settles O49: each event of the election by its equation above, and each guarded write by what the guard of its
writer does. -/
theorem ownershipIsDecidedAndGuards : Obligations.OwnershipIsDecidedAndGuards := by
  refine ⟨?election, ?guards⟩
  case election =>
    intro s m
    extract_lets x k ends answers refuses
    have ends_of : ∀ {i st owner cand bump t}, exec i s = .next t → Elects s t st owner cand bump → ends i st owner cand bump :=
      fun ht he => ⟨_, ht, he⟩
    have answers_of : ∀ {i u r}, exec i s = .next (setLast u m r) → answers i r := fun ht => ⟨_, ht, last_setLast _ m _⟩
    have refuses_of : ∀ {i}, exec i s = .next (setLast s m 1) → refuses i := fun ht => ⟨_, ht, last_setLast _ m _, rfl⟩
    refine ⟨fun hr => ⟨?_, ?_⟩, fun hr => ?_, fun h => ?_, fun h => ?_, fun h1 h3 => execRespondTimeout_idle h1 h3, fun hd hs => ?_⟩
    · exact congrArg _ (byMaster_of_not_reaches hr _)
    · exact congrArg _ (byMaster_of_not_reaches hr _)
    · have claims : exec (.claim m) s = .next (claim s m) := congrArg _ (byMaster_of_reaches hr _)
      have responds : exec (.respond m) s = .next (respond s m) := congrArg _ (byMaster_of_reaches hr _)
      refine ⟨fun h => ?_, fun h => ?_, fun hs hc => ⟨fun hv => ?_, fun hv => ?_⟩, fun h => ?_, fun ho => ?_⟩
      · rw [claim_unowned h] at claims
        exact ⟨ends_of claims (elects_setLast (elects_after_freshNonce (elects_setOwner _ (by decide) (by decide) (masterCode_lt m) _)) m 0),
          answers_of claims⟩
      · exact refuses_of (claims.trans (congrArg _ (claim_refused h)))
      · rw [respond_valid hs hc hv] at responds
        exact ⟨ends_of responds (elects_setLast (elects_setOwner s (by decide) (masterCode_lt m) (by decide) _) m 0), answers_of responds⟩
      · obtain ⟨u, hu, h1, h3⟩ := respond_invalid hs hc hv
        rw [hu] at responds
        exact ⟨answers_of responds, fun h => ends_of responds (elects_setLast (h1 h) m 2), fun h => ends_of responds (elects_setLast (h3 h) m 2)⟩
      · exact refuses_of (responds.trans (congrArg _ (respond_refused h)))
      · have hands : ∀ c, exec (.handover m c) s = .next (handover s m c) := fun c => congrArg _ (byOwner_of_owner hr ho _)
        have releases : exec (.release m) s = .next (releaseOwner s m) := congrArg _ (byOwner_of_owner hr ho _)
        refine ⟨fun c => ⟨fun h2 hc => ?_, fun h => ?_⟩, fun h2 => ?_, fun h3 => ?_⟩
        · have e := (hands c).trans (congrArg _ (handover_names h2 hc))
          exact ⟨ends_of e (elects_setLast (elects_after_freshNonce (elects_setOwner _ (by decide) x.owner.isLt c.isLt _)) m 0), answers_of e⟩
        · exact refuses_of ((hands c).trans (congrArg _ (handover_refused h)))
        · rw [releaseOwner_owned h2] at releases
          exact ⟨ends_of releases (elects_setLast (elects_setOwner s (by decide) (by decide) (by decide) _) m 0), answers_of releases⟩
        · rw [releaseOwner_handover h3] at releases
          exact ⟨ends_of releases (elects_logSconce (elects_setLast (elects_setOwner s (by decide) x.owner.isLt (by decide) _) m 0) _),
            _, releases, last_setLast _ m 0⟩
    · exact ends_of (execRespondTimeout_claimed h) (elects_logSconce (elects_setOwner s (by decide) (by decide) (by decide) _) _)
    · exact ends_of (execRespondTimeout_handover h) (elects_logSconce (elects_setOwner s (by decide) x.owner.isLt (by decide) _) _)
    · exact execOwnerLinkDown_elects hd hs
  case guards =>
    intro s
    refine ⟨fun w p i hw hi => exec_windowWrite_refused hw ?_, fun m i ho hi => ?_, fun p n tail hn hr => ?_⟩
    · rcases hi with ⟨n, tail, hn, rfl⟩ | ⟨n, hn, rfl | rfl⟩ | ⟨n, hn, rfl | rfl⟩ | ⟨n, v, hn, rfl⟩ |
        ⟨v, rfl | rfl | rfl | rfl | rfl | rfl⟩ | ⟨q, n, rfl | rfl | rfl⟩ | rfl | rfl | rfl | rfl
      case inl => exact .inr ⟨_, if_pos hn⟩     -- the doorbell
      -- the numbers of queues, format regions and event queues are bounded
      iterate 5 exact .inl ⟨_, congrArg _ (if_pos hn)⟩
      all_goals exact .inl ⟨_, rfl⟩
    · rcases hi with ⟨p, hp, rfl | rfl⟩ | ⟨c, rfl⟩ | rfl | rfl | rfl | rfl | rfl | ⟨x, rfl⟩ | ⟨f, b, rfl⟩ | ⟨x, hx, rfl⟩
      iterate 2 exact exec_ownerWrite_refused ho ⟨_, congrArg _ (if_pos hp)⟩
      iterate 8 exact exec_ownerWrite_refused ho ⟨_, rfl⟩
      exact registerWrite_noCommand ho hx
    · have silent : ∀ f, byRinger s .runtime p f = s := fun f => if_neg (by simp [hr])
      exact (if_pos hn).trans (congrArg _ (silent _))

end Sys2Proof.Machine
end

section
/-! PROOFS. What stays while pins end, harts stop and tasks begin to end: memory, the stores that a host has not
accepted, and the queues of every partition. -/

namespace Sys2Proof.Machine

/-! ## One partition -/

@[simp] theorem part_setPart_same (s : State) (p : Nat) (x : Partition) : (s.setPart p x).part p = x := tblGetD_tblPut_same _ _ _ _

theorem part_setPart_other (s : State) (p k : Nat) (x : Partition) (h : k ≠ p) : (s.setPart p x).part k = s.part k :=
  tblGetD_tblPut_other _ _ _ _ _ h

@[simp] theorem part_modPart_same (s : State) (p : Nat) (f : Partition → Partition) : (s.modPart p f).part p = f (s.part p) :=
  part_setPart_same s p _

@[simp] theorem queue_setQueue_same (x : Partition) (n : Nat) (q : Queue) : (x.setQueue n q).queue n = q := tblGetD_tblPut_same _ _ _ _

theorem queue_setQueue_other (x : Partition) (n k : Nat) (q : Queue) (h : k ≠ n) : (x.setQueue n q).queue k = x.queue k :=
  tblGetD_tblPut_other _ _ _ _ _ h

/-- A change of a partition that leaves its queues alone leaves those of all alone. -/
theorem queues_modPart {f : Partition → Partition} (hf : ∀ x, (f x).queues = x.queues) (s : State) (p k : Nat) :
    ((s.modPart p f).part k).queues = (s.part k).queues := by
  by_cases h : k = p
  · subst h
    rw [part_modPart_same]
    exact hf _
  · rw [State.modPart, part_setPart_other s p k _ h]

/-! ## What stays -/

/-- From `s` to `t` memory, the stores to host memory and the queues of every partition stand. -/
structure Stands (s t : State) : Prop where
  mem : t.mem = s.mem
  hostStores : t.hostStores = s.hostStores
  queues : ∀ p, (t.part p).queues = (s.part p).queues

theorem stands_refl (s : State) : Stands s s := ⟨rfl, rfl, fun _ => rfl⟩

theorem stands_trans {s t u : State} (st : Stands s t) (tu : Stands t u) : Stands s u :=
  ⟨tu.mem.trans st.mem, tu.hostStores.trans st.hostStores, fun p => (tu.queues p).trans (st.queues p)⟩

theorem stands_foldl {α : Type} {f : State → α → State} (hf : ∀ s a, Stands s (f s a)) (l : List α) (s : State) : Stands s (l.foldl f s) :=
  List.foldlRecOn l f (stands_refl s) fun _ ht a _ => stands_trans ht (hf _ a)

theorem stands_setPair (s : State) (k : Nat) (x : Pair) : Stands s (s.setPair k x) := ⟨rfl, rfl, fun _ => rfl⟩

theorem stands_modTask (s : State) (p q n : Nat) (f : Task → Task) : Stands s (s.modTask p q n f) := ⟨rfl, rfl, fun _ => rfl⟩

theorem stands_modHart (s : State) (k : Nat) (f : Hart → Hart) : Stands s (s.modHart k f) := by
  unfold State.modHart
  split
  · exact ⟨rfl, rfl, fun _ => rfl⟩
  · exact stands_refl s

theorem stands_modPart (s : State) (p : Nat) {f : Partition → Partition} (hf : ∀ x, (f x).queues = x.queues := by exact fun _ => rfl) :
    Stands s (s.modPart p f) :=
  ⟨rfl, rfl, queues_modPart hf s p⟩

theorem stands_raiseInterrupt (s : State) (p : Nat) (code : BitVec 8) : Stands s (raiseInterrupt s p code) :=
  stands_modPart s p

theorem stands_recordError (s : State) (p src loc : Nat) : Stands s (recordError s p src loc) := by
  unfold recordError
  dsimp only
  split
  · split
    · exact stands_modPart s p
    · exact stands_trans (stands_modPart s p) (stands_raiseInterrupt _ p _)
  · exact stands_trans (stands_modPart s p) (stands_raiseInterrupt _ p _)

theorem stands_hostLinkError (s : State) (p a : Nat) : Stands s (hostLinkError s p a) := by
  have h := stands_recordError s p 6 a
  unfold hostLinkError
  generalize recordError s p 6 a = t at h ⊢
  exact ⟨h.mem, h.hostStores, h.queues⟩

theorem stands_engineReadLine (s : State) (slot p a n : Nat) : Stands s (engineReadLine s slot p a n).1 := by
  have h := stands_hostLinkError s p a
  unfold engineReadLine
  dsimp only
  generalize hostLinkError s p a = t at h ⊢
  split
  · split
    · exact h
    · exact ⟨h.mem, h.hostStores, h.queues⟩
  · exact stands_refl s

theorem stands_bindMerge (s : State) (m : MergeWindow) : Stands s (bindMerge s m).1 := by
  unfold bindMerge
  dsimp only
  split
  · exact stands_engineReadLine s _ _ _ _
  · exact stands_refl s

theorem stands_bindMerges (s : State) : Stands s (bindMerges s) := by
  unfold bindMerges
  split
  · exact stands_refl s
  · have h := List.foldlRecOn s.merges (fun (r : State × List MergeWindow) m => ((bindMerge r.1 m).1, r.2 ++ [(bindMerge r.1 m).2]))
      (b := (s, [])) (motive := fun r => Stands s r.1) (stands_refl s) fun r hr m _ => stands_trans hr (stands_bindMerge r.1 m)
    exact ⟨h.mem, h.hostStores, h.queues⟩

/-! ## Pins and the harts that stop -/

theorem stands_settleFor (n : Nat) (s : State) : Stands s (settleFor n s) := by
  induction n generalizing s with
  | zero => exact stands_refl s
  | succ n ih =>
    unfold settleFor
    split
    · exact stands_refl s
    · exact stands_trans (stands_foldl (fun t _ => stands_setPair t _ _) _ s) (ih _)

theorem stands_settlePins (s : State) : Stands s (settlePins s) := by
  unfold settlePins
  split
  · exact stands_refl s
  · exact stands_trans (stands_settleFor _ s) (stands_bindMerges _)

theorem stands_pendPins (s : State) (slot : Nat) (w : Pending) : Stands s (pendPins s slot w) := by
  unfold pendPins
  split
  · exact stands_refl s
  · dsimp only
    split
    · exact stands_refl s
    · exact stands_trans (stands_setPair s _ _) (stands_settlePins _)

theorem stands_boundSiblingPins (k : Queues) (s : State) (slot : Nat) : Stands s (boundSiblingPins k s slot) := by
  unfold boundSiblingPins boundPins
  split
  · exact stands_refl s
  · dsimp only
    split
    · exact stands_refl s
    · exact stands_setPair s _ _

theorem stands_releasePins (s : State) (slot : Nat) : Stands s (releasePins s slot) := by
  unfold releasePins
  split
  · exact stands_refl s
  · split
    · exact stands_trans (stands_boundSiblingPins _ s slot) (stands_pendPins _ slot _)
    · exact stands_refl s

theorem stands_stopHarts (f : Hart → Hart) (s : State) (g : Gang) : Stands s (stopHarts f s g) := by
  unfold stopHarts
  split
  · exact stands_refl s
  · refine stands_foldl (fun t e => ?_) _ s
    exact stands_trans (stands_trans (stands_modHart t e.2 f) (stands_boundSiblingPins _ _ _)) (stands_releasePins _ _)

theorem stands_beginEnd (s : State) (p q n : Nat) (c : EndCause) : Stands s (beginEnd s p q n c) := by
  unfold beginEnd
  split
  · split
    · exact stands_trans (stands_modTask s p q n _) (stands_foldl (stands_stopHarts _) _ _)
    · exact stands_refl s
  · exact stands_refl s

/-! ## The youngest task -/

theorem modLast_append_last {f : Task → Task} {is : Task → Bool} (l : List Task) {t : Task} (h : is t = true) :
    modLast f is (l ++ [t]) = l ++ [f t] := by
  induction l with
  | nil => simp [modLast, h]
  | cons a l ih => simp [modLast, h, ih]

/-- Of the tasks the youngest begins to end, and no other moves (R403 step 1). -/
theorem tasks_beginEnd_last {s : State} {l : List Task} {t : Task} (hs : s.tasks = l ++ [t]) (c : EndCause) (hc : t.state.canEnd = true) :
    (beginEnd s t.part t.queue t.seq c).tasks = l ++ [{ t with state := .ending t.state.holdsLeases, cause := some c }] := by
  have found : s.task? t.part t.queue t.seq = some t := by simp [State.task?, hs]
  have stopped : ∀ (gs : List Gang) (u : State), (gs.foldl (stopHarts Hart.stop) u).tasks = u.tasks := fun gs u =>
    List.foldlRecOn gs _ (motive := fun x : State => x.tasks = u.tasks) rfl fun x hx g _ => (tasks_stopHarts _ x g).trans hx
  simp only [beginEnd, found, hc, if_true]
  rw [stopped]
  show modLast _ _ s.tasks = _
  rw [hs]
  exact modLast_append_last l (by simp)

end Sys2Proof.Machine
end

section
/-! PROOFS. Queues and their doorbells (R61 to R64), the taking of records (R38, R41, R65), and the residency walk
(R86 to R88). -/

namespace Sys2Proof.Machine

/-! ## Queues -/

theorem enableQueue_enabled {q : Queue} (h : q.en = true) : enableQueue q = q := if_pos h

theorem enableQueue_fits {q : Queue} (h : q.en = false) (hb : q.backlog ≤ q.size) :
    enableQueue q = { q with en := true, qstate := 1, qerr := 0, upTo := none } := by
  simp only [enableQueue, h, Bool.false_eq_true, if_false]
  exact if_neg (Nat.not_lt.mpr hb)

/-- The stored TAIL is checked once, as EN is set (R64). -/
theorem enableQueue_overfull {q : Queue} (h : q.en = false) (hb : q.size < q.backlog) :
    enableQueue q = { q with en := true, qstate := 2, qerr := 1, upTo := some q.head } := by
  simp only [enableQueue, h, Bool.false_eq_true, if_false]
  exact if_pos hb

theorem disableQueue_enabled {q : Queue} (h : q.en = true) : disableQueue q = { q with en := false, qstate := 0, upTo := none } := if_pos h

theorem disableQueue_disabled {q : Queue} (h : q.en = false) : disableQueue q = q := by simp [disableQueue, h]

theorem ringDoorbell_disabled {q : Queue} (h : q.en = false) (tail : BitVec 32) : ringDoorbell q tail = { q with tail := tail } := by
  simp [ringDoorbell, h]

theorem ringDoorbell_accepted {q : Queue} {tail : BitVec 32} (h : q.en = true) (hh : (tail - q.head).toNat ≤ q.size)
    (ht : (tail - q.tail).toNat ≤ q.size) : ringDoorbell q tail = { q with tail := tail } := by
  simp only [ringDoorbell, h, Bool.not_true, Bool.false_eq_true, if_false, if_pos (And.intro hh ht)]

/-- A TAIL beyond what the ring holds fails the queue (R63). -/
theorem ringDoorbell_failed {q : Queue} {tail : BitVec 32} (h : q.en = true)
    (hb : q.size < (tail - q.head).toNat ∨ q.size < (tail - q.tail).toNat) :
    ringDoorbell q tail = { q with qstate := 2, qerr := 1, upTo := some (q.upTo.getD q.tail) } := by
  have out : ¬((tail - q.head).toNat ≤ q.size ∧ (tail - q.tail).toNat ≤ q.size) := by omega
  simp only [ringDoorbell, h, Bool.not_true, Bool.false_eq_true, if_false, if_neg out, Queue.fail]

/-- What a change of one queue leaves: that queue changed, every other queue of the partition, memory and the tasks. -/
theorem modQueue_spec (s : State) (p n : Nat) (f : Queue → Queue) :
    ((modQueue s p n f).part p).queue n = f ((s.part p).queue n) ∧ (modQueue s p n f).mem = s.mem ∧ (modQueue s p n f).tasks = s.tasks ∧
      ∀ k, k ≠ n → ((modQueue s p n f).part p).queue k = (s.part p).queue k := by
  simp only [modQueue, part_modPart_same, queue_setQueue_same]
  exact ⟨trivial, rfl, rfl, fun k hk => queue_setQueue_other _ n k _ hk⟩

/-! ## TAKE_RECORD -/

/-- The task of the record at HEAD (R65). -/
def taskAtHead (s : State) (p n : Nat) (r : List Byte) : Task where
  part := p
  queue := n
  seq := ((s.part p).queue n).head.toNat
  record := r
  ancestors := launchOf (s.part p) n ((s.part p).queue n).head.toNat
  sigOk := recSigAddr r == 0 || signalValid (s.part p) r

/-- The record at HEAD has been taken, and HEAD has moved on. -/
def takeHead (s : State) (p n : Nat) (r : List Byte) : State :=
  let seq := ((s.part p).queue n).head.toNat
  (modQueue { s with tasks := s.tasks ++ [taskAtHead s p n r] } p n fun q => { q with head := q.head + 1 }).modPart p fun x =>
    { x with launched := x.launched.filter fun l => !(l.queue == n && l.seq == seq) }

/-- A record's validation rests on the dies and the standing ranges of its partition, which a taken record leaves. -/
theorem recordOk_takeHead (s : State) (p n : Nat) (r : List Byte) : recordOk ((takeHead s p n r).part p) n r = recordOk (s.part p) n r := by
  simp only [takeHead, modQueue, part_modPart_same]
  rfl

theorem queue_takeHead (s : State) (p n : Nat) (r : List Byte) :
    ((takeHead s p n r).part p).queue n = { (s.part p).queue n with head := ((s.part p).queue n).head + 1 } := by
  simp only [takeHead, modQueue, part_modPart_same]
  exact queue_setQueue_same _ n _

/-- TAKE_RECORD of a record that could be read (R65, R41). -/
theorem execTakeRecord_got {s : State} {p n : Nat} {r : List Byte} (hm : mayTake s p n = true) (hr : readRing s p n = .got r) :
    execTakeRecord p n s = .next (if recordOk (s.part p) n r then takeHead s p n r
      else beginEnd (takeHead s p n r) p n ((s.part p).queue n).head.toNat (EndCause.plain causeBadrec)) := by
  rw [← recordOk_takeHead s p n r]
  simp only [execTakeRecord, hm, hr, Bool.not_true, Bool.false_eq_true, if_false]
  rfl

/-- Without power no front end acts (R409; log entry 27). -/
theorem frontPowered_of_unpowered {s : State} (h : 2 ≤ s.sconce.pwr.toNat) : frontPowered s = false := by
  simp only [frontPowered, decide_eq_false_iff_not]
  omega

theorem execTakeRecord_unpowered {s : State} (p n : Nat) (h : 2 ≤ s.sconce.pwr.toNat) : execTakeRecord p n s = .next s := by
  simp [execTakeRecord, mayTake, frontPowered_of_unpowered h]

/-! ## RESIDENCY_WALK -/

theorem execResidencyWalk_unpowered {s : State} (p n : Nat) (h : 2 ≤ s.sconce.pwr.toNat) : execResidencyWalk p n s = .next s := by
  unfold execResidencyWalk
  split
  · rfl
  · simp [frontPowered_of_unpowered h]

theorem state_of_oldestQueued {s : State} {p n : Nat} {t : Task} (h : oldestQueued s p n = some t) : t.state = .queued := by
  have := List.find?_some h
  simp only [Bool.and_eq_true, beq_iff_eq] at this
  exact this.2

/-- The front end's translations are all that remembering leases moves. -/
theorem rememberLeases_eq (s : State) (p : Nat) (l : List Word) : ∃ tlb, rememberLeases s p l = { s with tlb := tlb } := by
  refine List.foldlRecOn l _ (motive := fun t : State => ∃ tlb, t = { s with tlb := tlb }) ⟨_, rfl⟩ fun t ht e _ => ?_
  refine List.foldlRecOn (List.range _) _ (motive := fun t : State => ∃ tlb, t = { s with tlb := tlb }) ht fun u hu k _ => ?_
  obtain ⟨tlb, rfl⟩ := hu
  split
  · unfold remember
    split <;> exact ⟨_, rfl⟩
  · exact ⟨_, rfl⟩

/-- The first failing page is recorded where no other is (R87, R88). -/
theorem recordLeaseFault_regs {s : State} {p : Nat} (h : (s.part p).regs.lfstat.getLsbD 0 = false) (queue seq page cause : Nat) :
    ((recordLeaseFault s p false queue seq page cause).part p).regs.lfstat = BitVec.ofNat 64 (1 + cause * 2 + queue * 16 + seq * 2 ^ 32) ∧
    ((recordLeaseFault s p false queue seq page cause).part p).regs.lfva = BitVec.ofNat 64 (page % 2 ^ 39 * 65536) := by
  simp only [recordLeaseFault, h, raiseInterrupt, part_modPart_same, Bool.false_eq_true, if_false, Nat.add_zero, and_self]

theorem recordLeaseFault_tasks (s : State) (p : Nat) (run : Bool) (queue seq page cause : Nat) :
    (recordLeaseFault s p run queue seq page cause).tasks = s.tasks := by
  unfold recordLeaseFault
  dsimp only
  split
  · rfl
  · rfl

/-- The state of a task while its walk stops at page `k` of lease entry `e`. -/
def walkedTo (s : State) (p n seq e k : Nat) : State := s.modTask p n seq fun t => { t with walk := (e, k) }

section
variable {s : State} {p n : Nat} {t : Task} (ho : oldestQueued s p n = some t) (hp : s.sconce.pwr.toNat ≤ 1)
  (hb : barrierSatisfied s t = true) (hd : drainHolds (s.part p) t.record = false) (hw : walkHeld (s.part p) t = false)
include ho hp hb hd hw

theorem execResidencyWalk_resident (hf : walkLeases s p ((leasesOf t.record).drop t.walk.1) t.walk.1 t.walk.2 = none) :
    execResidencyWalk p n s = .next ((rememberLeases s p (leasesOf t.record)).modTask p n t.seq fun x =>
      { x with state := .resident, blocks := splitGrid (s.part p) x.record }) := by
  have powered : frontPowered s = true := decide_eq_true hp
  simp [execResidencyWalk, ho, powered, hb, hd, hw, hf]

theorem execResidencyWalk_fails {e k page c : Nat}
    (hf : walkLeases s p ((leasesOf t.record).drop t.walk.1) t.walk.1 t.walk.2 = some (e, k, page, .fails c)) :
    execResidencyWalk p n s = .next (recordLeaseFault (walkedTo s p n t.seq e k) p false n t.seq page c) := by
  have powered : frontPowered s = true := decide_eq_true hp
  simp [execResidencyWalk, ho, powered, hb, hd, hw, hf, walkedTo]

theorem execResidencyWalk_pinned {e k page j pa : Nat}
    (hf : walkLeases s p ((leasesOf t.record).drop t.walk.1) t.walk.1 t.walk.2 = some (e, k, page, .pinned j pa)) :
    execResidencyWalk p n s = .next (noteRetry (walkedTo s p n t.seq e k) j pa 8) := by
  have powered : frontPowered s = true := decide_eq_true hp
  simp [execResidencyWalk, ho, powered, hb, hd, hw, hf, walkedTo]

end

/-! ## The obligation -/

/-- Settles O50: a queue by the equations of its commands, a record by `execTakeRecord_got`, where one that fails
validation is the youngest task and ends (`tasks_beginEnd_last`), and the walk by where it stops. -/
theorem queuesDoorbellsAndRecords : Obligations.QueuesDoorbellsAndRecords := by
  refine ⟨?queues, ?take, ?unpowered, ?walk⟩
  case queues =>
    intro s w p n hw
    extract_lets q leaves
    have leaves_of : ∀ {i f r}, exec i s = .next (modQueue s p n f) → f q = r → leaves i r := by
      rintro i f r hi rfl
      exact ⟨_, hi, modQueue_spec s p n f⟩
    refine ⟨fun hn => ?_, fun tail hn hr => ?_, fun tail m hn => ?_⟩
    · have enables : exec (.queueEnable w p n) s = .next (modQueue s p n enableQueue) :=
        congrArg _ ((if_pos hn).trans (byWriter_of_mayWrite hw _))
      have disables : exec (.queueDisable w p n) s = .next (modQueue s p n disableQueue) :=
        congrArg _ ((if_pos hn).trans (byWriter_of_mayWrite hw _))
      exact ⟨fun he hb => leaves_of enables (enableQueue_fits he hb), fun he hb => leaves_of enables (enableQueue_overfull he hb),
        fun he => ⟨leaves_of enables (enableQueue_enabled he), leaves_of disables (disableQueue_enabled he)⟩,
        fun he => leaves_of disables (disableQueue_disabled he)⟩
    · have rings : exec (.doorbell w p n tail) s = .next (modQueue s p n fun q => ringDoorbell q tail) :=
        (if_pos hn).trans (congrArg _ (byRinger_of_mayWrite hw hr _))
      exact ⟨fun he => leaves_of rings (ringDoorbell_disabled he tail), fun he hh ht => leaves_of rings (ringDoorbell_accepted he hh ht),
        fun he hb => leaves_of rings (ringDoorbell_failed he hb)⟩
    · exact if_neg (by omega)
  case take =>
    intro s p n r hm hr
    extract_lets q
    have taken := execTakeRecord_got hm hr
    cases ok : recordOk (s.part p) n r with
    | true =>
      rw [ok, if_pos rfl] at taken
      exact ⟨_, taskAtHead s p n r, taken, rfl, rfl, rfl, rfl, rfl, queue_takeHead s p n r, rfl, rfl, fun _ => ⟨rfl, rfl⟩, nofun⟩
    | false =>
      rw [ok, if_neg Bool.false_ne_true] at taken
      have rest := stands_beginEnd (takeHead s p n r) p n q.head.toNat (EndCause.plain causeBadrec)
      refine ⟨_, { taskAtHead s p n r with state := .ending false, cause := some { code := 0x41 } }, taken, ?_, rfl, rfl, rfl, rfl, ?_, rest.mem,
        rfl, nofun, fun _ => ⟨rfl, rfl⟩⟩
      · exact tasks_beginEnd_last (s := takeHead s p n r) (t := taskAtHead s p n r) rfl (EndCause.plain causeBadrec) rfl
      · rw [Partition.queue, rest.queues p]
        exact queue_takeHead s p n r
  case unpowered => exact fun s p n h => ⟨execTakeRecord_unpowered p n h, execResidencyWalk_unpowered p n h⟩
  case walk =>
    intro s p n t ho ht hp hb hd hw
    extract_lets found
    have queued : t.state = .queued := state_of_oldestQueued ho
    have stops : ∀ e k, (walkedTo s p n t.seq e k).task? p n t.seq = some { t with walk := (e, k) } := fun e k =>
      (task_modTask s p n t.seq (by exact fun _ => ⟨rfl, rfl, rfl⟩)).trans (by rw [ht]; rfl)
    refine ⟨fun h => ?_, fun e k page j pa h => ?_, fun e k page c h => ?_⟩
    · obtain ⟨tlb, re⟩ := rememberLeases_eq s p (leasesOf t.record)
      have found_task : (rememberLeases s p (leasesOf t.record)).task? p n t.seq = some t := by rw [re]; exact ht
      refine ⟨_, { t with state := .resident, blocks := splitGrid (s.part p) t.record }, execResidencyWalk_resident ho hp hb hd hw h,
        (task_modTask _ p n t.seq (by exact fun _ => ⟨rfl, rfl, rfl⟩)).trans (by rw [found_task]; rfl), rfl, rfl, ?_⟩
      rw [re]
      rfl
    · exact ⟨_, _, execResidencyWalk_pinned ho hp hb hd hw h, stops e k, queued, rfl, rfl, rfl⟩
    · refine ⟨_, { t with walk := (e, k) }, execResidencyWalk_fails ho hp hb hd hw h, ?_, queued, rfl, fun clear => ?_⟩
      · rw [State.task?, recordLeaseFault_tasks]
        exact stops e k
      · exact recordLeaseFault_regs (s := walkedTo s p n t.seq e k) clear n t.seq page c

end Sys2Proof.Machine
end

section
/-! PROOFS. Partition tables whose keys do not rise, which the statement about partitions takes in: there a write of one
partition's register changes which partition is found to own a page. -/

namespace Sys2Proof.Machine

/-- An enabled partition of stack 0. -/
def ownsStackZero : Partition := { en := true, stackSet := 1 }

/-- The management link owns the device, page 0 is replicated, and the table of partitions lists partition 5 before
partition 3, each of which claims stack 0. -/
def unsortedPartitions : State :=
  { partitions := [(5, ownsStackZero), (3, ownsStackZero)], replicated := [0], mailbox := { state := 2, owner := 0 } }

/-- REPLCTL of partition 3 is written to 0: the write lists partition 3 first, which then owns page 0, and page 0
leaves the replicated mode. -/
theorem replctl_unsortedPartitions : (writeReplctl unsortedPartitions 3 0).replicated = [] := by decide

/-- Before the write partition 5 owned page 0. -/
theorem ownerOfPage_unsortedPartitions : ownerOfPage unsortedPartitions 0 = some 5 := by decide

theorem mayWrite_unsortedPartitions : MayWrite unsortedPartitions (.master .management) 3 := ⟨by decide, by decide⟩

/-- Refutes O53: the clause of REPLCTL with EN 0 names the owner of a page as it was before the write. In a state whose
table of partitions is not in the order of its keys (`unsortedPartitions`; the model's own writes keep a table sorted,
`tblSorted_tblSet`) the write moves its partition to the front, page 0 of partition 5 counts as a page of partition 3,
and leaves the replicated mode. -/
theorem not_partitionsRuntimesAndRegions : ¬ Obligations.PartitionsRuntimesAndRegions := by
  rintro ⟨-, regions⟩
  obtain ⟨-, replctl, -⟩ := regions unsortedPartitions 3
  obtain ⟨t, ht, -, -, -, modes⟩ := replctl (.master .management) 0 mayWrite_unsortedPartitions
  have made : exec (.replctl (.master .management) 3 0) unsortedPartitions = .next (writeReplctl unsortedPartitions 3 0) :=
    congrArg _ (byWriter_of_mayWrite mayWrite_unsortedPartitions _)
  obtain rfl : writeReplctl unsortedPartitions 3 0 = t := Host.Outcome.next.inj (made.symm.trans ht)
  have stays : 0 ∈ (writeReplctl unsortedPartitions 3 0).replicated :=
    (modes (by decide) 0).mpr ⟨by decide, by rw [ownerOfPage_unsortedPartitions]; decide⟩
  rw [replctl_unsortedPartitions] at stays
  exact absurd stays (by decide)

end Sys2Proof.Machine
end

section
/-! PROOFS. A word under the mask of the fields that a register keeps, as the model puts the fields together. -/

namespace Sys2Proof.Machine

theorem testBit_fields {a lo : Nat} (ha : a < 2 ^ lo) (b i : Nat) :
    (a + b * 2 ^ lo).testBit i = if i < lo then a.testBit i else b.testBit (i - lo) := by
  rw [Nat.add_comm, Nat.mul_comm, Nat.testBit_two_pow_mul_add _ ha]

theorem nat_and_fields (x : Nat) {w lo : Nat} (h : w ≤ lo) (n : Nat) :
    x &&& ((2 ^ w - 1) + (2 ^ n - 1) * 2 ^ lo) = x % 2 ^ w + (x >>> lo) % 2 ^ n * 2 ^ lo := by
  have low : ∀ {a}, a < 2 ^ w → a < 2 ^ lo := fun ha => Nat.lt_of_lt_of_le ha (Nat.pow_le_pow_right (by decide) h)
  have mask : 2 ^ w - 1 < 2 ^ lo := low (Nat.sub_one_lt (Nat.two_pow_pos w).ne')
  have rest : x % 2 ^ w < 2 ^ lo := low (Nat.mod_lt _ (Nat.two_pow_pos w))
  refine Nat.eq_of_testBit_eq fun i => ?_
  rw [Nat.testBit_and, testBit_fields mask, testBit_fields rest]
  split
  · rw [Nat.testBit_two_pow_sub_one, Nat.testBit_mod_two_pow, Bool.and_comm]
  · rw [Nat.testBit_two_pow_sub_one, Nat.testBit_mod_two_pow, Nat.testBit_shiftRight, Nat.add_sub_cancel' (by omega), Bool.and_comm]

/-- A word under the mask of a low field and of a field above it. -/
theorem and_fields (x : Word) {w lo : Nat} (h : w ≤ lo) (n : Nat) :
    x &&& BitVec.ofNat 64 ((2 ^ w - 1) + (2 ^ n - 1) * 2 ^ lo) = BitVec.ofNat 64 (bits x 0 w + bits x lo n * 2 ^ lo) := by
  have e := congrArg (BitVec.ofNat 64) (nat_and_fields x.toNat h n)
  rw [BitVec.ofNat_and, BitVec.ofNat_toNat, BitVec.setWidth_eq] at e
  exact e

theorem and_low (x : Word) (w : Nat) : x &&& BitVec.ofNat 64 (2 ^ w - 1) = BitVec.ofNat 64 (bits x 0 w) := by
  simpa [bits, Nat.mod_one] using and_fields x (Nat.le_refl w) 0

theorem and_field (x : Word) (lo n : Nat) : x &&& BitVec.ofNat 64 ((2 ^ n - 1) * 2 ^ lo) = BitVec.ofNat 64 (bits x lo n * 2 ^ lo) := by
  simpa [bits, Nat.mod_one] using and_fields x (Nat.zero_le lo) n

theorem toNat_extract (x : Word) (lo n : Nat) : (x.extractLsb' lo n).toNat = bits x lo n := rfl

theorem getLsbD_zero_toNat (x : Word) : (x.getLsbD 0).toNat = bits x 0 1 := by
  rw [BitVec.getLsbD, Nat.toNat_testBit]
  simp [bits]

/-- A low field as a word of its own. -/
theorem setWidth_extract (x : Word) {w : Nat} : (x.extractLsb' 0 w).setWidth 64 = x &&& BitVec.ofNat 64 (2 ^ w - 1) := by
  rw [and_low]
  exact (BitVec.ofNat_toNat 64 _).symm

end Sys2Proof.Machine
end

section
/-! PROOFS. What a write of a register of a privileged window or of PCFG leaves to be read, and where its BAR0 offset
lies (R47, R55, R57, R61, R98, R172, R216, R227). -/

namespace Sys2Proof.Machine

/-! ## Offsets -/

/-- The tables of the window begin at 0x80. -/
theorem winReg_of_ge {off : Nat} (h : 0x80 ≤ off) (h8 : off % 8 = 0) : winReg off =
    if off < 0xC0 then some (.srange ((off - 0x80) / 8))
    else if 0x100 ≤ off ∧ off < 0x200 then some (if off % 16 = 0 then .fmtA ((off - 0x100) / 16) else .fmtB ((off - 0x100) / 16))
    else if 0x200 ≤ off ∧ off < 0x280 then some (.evqstat ((off - 0x200) / 8))
    else if 0x10000 ≤ off ∧ off < 0x60000 ∧ off % 0x1000 ≤ 0x20 then some (.queue ((off - 0x10000) / 0x1000) (off % 0x1000 / 8))
    else none := by
  unfold winReg
  split
  case h_15 => simp only [h8, h, ne_eq, not_true_eq_false, if_false, true_and]
  all_goals omega

theorem winReg_srange {n : Nat} (hn : n < 8) : winReg (0x80 + 8 * n) = some (.srange n) := by
  rw [winReg_of_ge (by omega) (by omega), if_pos (by omega)]
  congr 2
  omega

theorem winReg_fmtA {n : Nat} (hn : n < 16) : winReg (0x100 + 16 * n) = some (.fmtA n) := by
  rw [winReg_of_ge (by omega) (by omega), if_neg (by omega), if_pos (by omega), if_pos (by omega)]
  congr 2
  omega

theorem winReg_fmtB {n : Nat} (hn : n < 16) : winReg (0x108 + 16 * n) = some (.fmtB n) := by
  rw [winReg_of_ge (by omega) (by omega), if_neg (by omega), if_pos (by omega), if_neg (by omega)]
  congr 2
  omega

theorem winReg_evqstat {n : Nat} (hn : n < 16) : winReg (0x200 + 8 * n) = some (.evqstat n) := by
  rw [winReg_of_ge (by omega) (by omega), if_neg (by omega), if_neg (by omega), if_pos (by omega)]
  congr 2
  omega

theorem winReg_queue {n r : Nat} (hn : n < 80) (hr : r ≤ 4) : winReg (0x10000 + n * 0x1000 + 8 * r) = some (.queue n r) := by
  rw [winReg_of_ge (by omega) (by omega), if_neg (by omega), if_neg (by omega), if_neg (by omega), if_pos (by omega)]
  congr 2
  · omega
  · omega

theorem isDoorbell_of_winReg {off : Nat} {r : WinReg} (h : winReg off = some r) (hr : ∀ n, r ≠ .queue n 2) : isDoorbell off = false := by
  unfold isDoorbell
  split
  next n e => exact absurd (Option.some.inj (h.symm.trans e)) (hr n)
  · rfl

/-! ## A write at a BAR0 offset -/

/-- A window offset at its place in BAR0 (R47). -/
theorem bar0_offset {p off : Nat} (hp : p < 16) (ho : off < 2 ^ 20) (h8 : off % 8 = 0) :
    let a := (0x1000000 + p * 2 ^ 20 + off) / 8 * 8
    (0x1000000 ≤ a ∧ a < 0x2000000) ∧ (a - 0x1000000) / 2 ^ 20 = p ∧ a % 2 ^ 20 = off := by
  dsimp only
  omega

/-- The write of a register at its BAR0 offset by one that may write it; what its rights do not give is counted beside
it (R50, R55). -/
theorem registerWrite_window {s : State} {w : Writer} {p off : Nat} {r : WinReg} (x : Word) (hp : p < 16) (hw : MayWrite s w p)
    (ho : off < 2 ^ 20) (h8 : off % 8 = 0) (hr : winReg off = some r)
    (hd : w = .runtime → isDoorbell off = true → hasRuntime s p = true) :
    ∃ mb, exec (.registerWrite w (0x1000000 + p * 2 ^ 20 + off) x) s = .next (winWrite { s with mailbox := mb } p r x) := by
  obtain ⟨inside, part, place⟩ := bar0_offset hp ho h8
  cases w with
  | master m =>
    have e : bar0Write s m (0x1000000 + p * 2 ^ 20 + off) x = windowMaster s p off x := by
      unfold bar0Write
      rw [byMaster_of_reaches hw.1]
      dsimp only
      rw [if_pos inside, byOwner_of_owner hw.1 hw.2, part, place]
    refine ⟨(if masterDenied r x then countDiscarded s else s).mailbox, ?_⟩
    rw [exec_registerWrite]
    show Host.Outcome.next (bar0Write s m _ x) = _
    rw [e]
    simp only [windowMaster, hr]
    split
    · rfl
    · rfl
  | runtime =>
    have e : runtimeWrite s (0x1000000 + p * 2 ^ 20 + off) x = windowWrite s p off x := by
      unfold runtimeWrite
      dsimp only
      rw [if_pos inside, part, place]
      split
      next bell => exact if_pos (hd rfl bell)
      · exact if_pos hw
    refine ⟨s.mailbox, ?_⟩
    rw [exec_registerWrite]
    show Host.Outcome.next (runtimeWrite s _ x) = _
    rw [e]
    simp only [windowWrite, hr]

/-- A write of a register of a partition's window leaves `y` to be read there, and memory and the tasks as they were. -/
def ReadsBack (s : State) (p : Nat) (r : WinReg) (x y : Word) : Prop :=
  winRead ((winWrite s p r x).part p) r = y ∧ (winWrite s p r x).mem = s.mem ∧ (winWrite s p r x).tasks = s.tasks

theorem registerWrite_readsBack {s : State} {w : Writer} {p off : Nat} {r : WinReg} {x y : Word} (hp : p < 16) (hw : MayWrite s w p)
    (ho : off < 2 ^ 20) (h8 : off % 8 = 0) (hr : winReg off = some r)
    (hd : w = .runtime → isDoorbell off = true → hasRuntime s p = true) (h : ∀ mb, ReadsBack { s with mailbox := mb } p r x y) :
    ∃ t, exec (.registerWrite w (0x1000000 + p * 2 ^ 20 + off) x) s = .next t ∧ windowRead t p off = y ∧ t.mem = s.mem ∧
      t.tasks = s.tasks := by
  obtain ⟨mb, e⟩ := registerWrite_window x hp hw ho h8 hr hd
  obtain ⟨read, mem, tasks⟩ := h mb
  exact ⟨_, e, by rw [windowRead, hr]; exact read, mem, tasks⟩

/-! ## The registers -/

section
variable (s : State) (p : Nat) (x : Word)

theorem readsBack_fectl : ReadsBack s p .fectl x (x &&& 0xFF) := by
  rw [show (0xFF : Word) = BitVec.ofNat 64 (2 ^ 8 - 1) from rfl, and_low]
  exact ⟨by simp only [winWrite, winRead, State.modRegs, part_modPart_same], rfl, rfl⟩

theorem readsBack_invrange : ReadsBack s p .invrange x x :=
  ⟨by simp only [winWrite, winRead, State.modRegs, part_modPart_same], rfl, rfl⟩

theorem readsBack_tvecdef : ReadsBack s p .tvecdef x (x &&& 0x7FFFFFFFFFFFFC) := by
  rw [show (0x7FFFFFFFFFFFFC : Word) = BitVec.ofNat 64 ((2 ^ 53 - 1) * 2 ^ 2) from rfl, and_field]
  exact ⟨by simp only [winWrite, winRead, State.modRegs, part_modPart_same]; rfl, rfl, rfl⟩

theorem readsBack_srange (n : Nat) : ReadsBack s p (.srange n) x x :=
  ⟨by simp only [winWrite, winRead, part_modPart_same, tblGetD_tblPut_same], rfl, rfl⟩

theorem readsBack_evqstat (n : Nat) :
    ReadsBack s p (.evqstat n) x (evqWord { (s.part p).events n with drop := 0, ien := x.getLsbD 32 }) :=
  ⟨by simp only [winWrite, winRead, writeEvqstat, part_modPart_same, Partition.events, Partition.setEvents, tblGetD_tblPut_same], rfl, rfl⟩

/-- A write that changes nothing of the register's state leaves it to be read as it was. -/
theorem readsBack_same {r : WinReg} (h : winWrite s p r x = s) : ReadsBack s p r x (winRead (s.part p) r) := by
  rw [ReadsBack, h]
  exact ⟨rfl, rfl, rfl⟩

theorem readsBack_fmtA {n : Nat} (he : regionEnabled (s.part p) n = false) (hx : x.getLsbD 0 = false) :
    ReadsBack s p (.fmtA n) x (x &&& 0xFFFFFFFFF0000) := by
  rw [show (0xFFFFFFFFF0000 : Word) = BitVec.ofNat 64 ((2 ^ 36 - 1) * 2 ^ 16) from rfl, and_field]
  have hw : winWrite s p (.fmtA n) x = s.modPart p fun y => { y with fmtA := tblPut y.fmtA n (BitVec.ofNat 64 (bits x 16 36 * 65536)) 0 } := by
    simp only [winWrite, writeFmtA, he, hx, Bool.false_eq_true, if_false]
  rw [ReadsBack, hw, winRead, part_modPart_same, tblGetD_tblPut_same]
  exact ⟨rfl, rfl, rfl⟩

theorem readsBack_fmtB {n : Nat} (he : regionEnabled (s.part p) n = false) :
    ReadsBack s p (.fmtB n) x (withBits (winRead (s.part p) (.fmtB n)) 0 32 (bits x 0 32)) := by
  have hw : winWrite s p (.fmtB n) x =
      s.modPart p fun y => { y with fmtB := tblPut y.fmtB n (withBits (tblGetD y.fmtB n 0) 0 32 (bits x 0 32)) 0 } := by
    simp only [winWrite, writeFmtB, he, Bool.false_eq_true, if_false]
  rw [ReadsBack, hw, winRead, part_modPart_same, tblGetD_tblPut_same]
  exact ⟨rfl, rfl, rfl⟩

theorem readsBack_queue (n r : Nat) : ReadsBack s p (.queue n r) x (queueWord (writeQueue n r x ((s.part p).queue n)) r) := by
  obtain ⟨hq, hm, ht, -⟩ := modQueue_spec s p n (writeQueue n r x)
  exact ⟨congrArg (queueWord · r) hq, hm, ht⟩

/-- HEAD and QSTATUS keep their values. -/
theorem readsBack_queue_readOnly (n : Nat) {r : Nat} (hr : r = 3 ∨ r = 4) :
    ReadsBack s p (.queue n r) x (winRead (s.part p) (.queue n r)) := by
  have h := readsBack_queue s p x n r
  rcases hr with rfl | rfl
  · exact h
  · exact h

/-- An enabled queue keeps its ring (R61). -/
theorem readsBack_ring_enabled {n : Nat} (he : ((s.part p).queue n).en = true) :
    ReadsBack s p (.queue n 0) x (winRead (s.part p) (.queue n 0)) := by
  have h := readsBack_queue s p x n 0
  rwa [show writeQueue n 0 x ((s.part p).queue n) = (s.part p).queue n from if_pos he] at h

theorem readsBack_ring {n : Nat} (hn : n < 64) (he : ((s.part p).queue n).en = false) :
    ReadsBack s p (.queue n 0) x (x &&& 0xFFFFFFFFFFF01) := by
  rw [show (0xFFFFFFFFFFF01 : Word) = BitVec.ofNat 64 ((2 ^ 1 - 1) + (2 ^ 44 - 1) * 2 ^ 8) from rfl, and_fields x (by decide)]
  have h := readsBack_queue s p x n 0
  simp only [writeQueue, he, hn, decide_true, Bool.and_true, Bool.false_eq_true, if_false, queueWord, getLsbD_zero_toNat, toNat_extract] at h
  exact h

theorem readsBack_log2n {n : Nat} (he : ((s.part p).queue n).en = false) (hx : x.getLsbD 5 = false) :
    ReadsBack s p (.queue n 1) x (x &&& 0x1F) := by
  rw [show (0x1F : Word) = BitVec.ofNat 64 (2 ^ 5 - 1) from rfl, and_low]
  have h := readsBack_queue s p x n 1
  simp only [writeQueue, he, hx, Bool.false_eq_true, if_false, queueWord, Bool.toNat_false, Nat.zero_mul, Nat.add_zero, toNat_extract] at h
  exact h

theorem readsBack_tail {n : Nat} (hn : n < 64) (he : ((s.part p).queue n).en = false) :
    ReadsBack s p (.queue n 2) x (x &&& 0xFFFFFFFF) := by
  rw [show (0xFFFFFFFF : Word) = BitVec.ofNat 64 (2 ^ 32 - 1) from rfl, ← setWidth_extract]
  have h := readsBack_queue s p x n 2
  rwa [show writeQueue n 2 x ((s.part p).queue n) = ringDoorbell ((s.part p).queue n) (x.extractLsb' 0 32) from if_pos hn,
    ringDoorbell_disabled he] at h

end

/-! ## Translations withdrawn by the way -/

/-- From `s` to `t` no partition, no byte of memory and no task moves. -/
structure KeepsWork (s t : State) : Prop where
  partitions : t.partitions = s.partitions
  mem : t.mem = s.mem
  tasks : t.tasks = s.tasks

theorem keepsWork_refl (s : State) : KeepsWork s s := ⟨rfl, rfl, rfl⟩

theorem keepsWork_foldl {α : Type} {f : State → α → State} (hf : ∀ s a, KeepsWork s (f s a)) (l : List α) (s : State) :
    KeepsWork s (l.foldl f s) :=
  List.foldlRecOn l f (keepsWork_refl s) fun _ ht a _ =>
    have h := hf _ a
    ⟨h.partitions.trans ht.partitions, h.mem.trans ht.mem, h.tasks.trans ht.tasks⟩

theorem keepsWork_remember (s : State) (t : Translation) : KeepsWork s (remember s t) := by
  unfold remember
  split
  · exact keepsWork_refl s
  · exact ⟨rfl, rfl, rfl⟩

theorem keepsWork_relearn (s : State) (p : Nat) (pages : List Nat) : KeepsWork s (relearn s p pages) := by
  refine keepsWork_foldl (fun t g => ?_) pages s
  split
  · exact keepsWork_remember t _
  · exact keepsWork_refl t

theorem keepsWork_withdraw (s : State) (p : Nat) (covers : Nat → Bool) : KeepsWork s (withdraw s p covers) := by
  have h := keepsWork_relearn { s.draw.2 with
    tlb := s.tlb.filter fun t => !(t.part == p && covers t.page)
    harts := s.harts.map fun e => (if e.2.ids.part = p ∧ !isLamp e.1 then (e.1, withdrawAtHart covers s.fresh e.1 e.2) else e) } p
    ((s.tlb.filter fun t => t.part == p && covers t.page).map fun t => t.page).eraseDups
  exact ⟨h.partitions, h.mem, h.tasks⟩

theorem keepsWork_switchMode (s : State) (p page : Nat) : KeepsWork s (switchMode s p page) :=
  have h := keepsWork_withdraw s p (mapsTo s p page)
  ⟨h.partitions, h.mem, h.tasks⟩

/-- A write that sets a register's field and then withdraws translations. -/
theorem readsBack_of_keepsWork {s : State} {p : Nat} {r : WinReg} {x y : Word} {f : WindowRegs → WindowRegs}
    (h : KeepsWork (s.modRegs p f) (winWrite s p r x)) (hy : winRead { s.part p with regs := f (s.part p).regs } r = y) :
    ReadsBack s p r x y := by
  refine ⟨?_, h.mem, h.tasks⟩
  rw [State.part, h.partitions, ← hy]
  exact congrArg (winRead · r) (part_modPart_same s p _)

theorem readsBack_replctl (s : State) (p : Nat) (x : Word) : ReadsBack s p .replctl x (x &&& 0xFFF1) := by
  rw [show (0xFFF1 : Word) = BitVec.ofNat 64 ((2 ^ 1 - 1) + (2 ^ 12 - 1) * 2 ^ 4) from rfl, and_fields x (by decide)]
  refine readsBack_of_keepsWork (f := fun r => { r with replctl := BitVec.ofNat 64 (bits x 0 1 + bits x 4 12 * 16) }) ?_ rfl
  simp only [winWrite, writeReplctl]
  split
  · exact keepsWork_refl _
  · exact keepsWork_foldl (fun t g => keepsWork_switchMode t p g) _ _

/-- PTROOT is written while no task holds leases (R98). -/
theorem readsBack_ptroot {s : State} {p : Nat} (x : Word) (h : (s.tasks.any fun t => t.part == p && t.state.holdsLeases) = false) :
    ReadsBack s p .ptroot x (x &&& 0xFFFFFFFFF0001) := by
  rw [show (0xFFFFFFFFF0001 : Word) = BitVec.ofNat 64 ((2 ^ 1 - 1) + (2 ^ 36 - 1) * 2 ^ 16) from rfl, and_fields x (by decide)]
  refine readsBack_of_keepsWork (f := fun r => { r with ptroot := BitVec.ofNat 64 (bits x 0 1 + bits x 16 36 * 65536) }) ?_ rfl
  simp only [winWrite, writePtroot, h, Bool.false_eq_true, if_false]
  exact keepsWork_withdraw _ p _

/-! ## PCFG -/

/-- A write of a word of PCFG by the owner (R57). -/
theorem registerWrite_pcfg {s : State} {m : Master} {p off : Nat} (x : Word) (hp : p < 16) (hr : reaches s m = true)
    (ho : isOwner s m = true) (hoff : off < 256) (h8 : off % 8 = 0) :
    exec (.registerWrite (.master m) (0x10000 + 256 * p + off) x) s = .next (pcfgWrite s p off x) := by
  have place : (0x10000 + 256 * p + off) / 8 * 8 = 0x10000 + 256 * p + off := by omega
  have e : bar0Write s m (0x10000 + 256 * p + off) x = pcfgWrite s p off x := by
    unfold bar0Write
    rw [byMaster_of_reaches hr]
    dsimp only
    rw [place, if_neg (by omega), if_pos (by omega), byOwner_of_owner hr ho, show (0x10000 + 256 * p + off - 0x10000) / 256 = p by omega,
      show (0x10000 + 256 * p + off) % 256 = off by omega]
  rw [exec_registerWrite]
  exact congrArg _ e

/-- A clear bit above some fields adds nothing to them. -/
theorem toNat_false_append {j m n : Nat} (a : BitVec j) (b : BitVec m) (c : BitVec n) :
    (BitVec.ofBool false ++ a ++ b ++ c).toNat = (a ++ b ++ c).toNat := by
  simp [BitVec.toNat_append]

theorem toNat_append_zero {m n : Nat} (a : BitVec m) : (a ++ 0#n).toNat = a.toNat * 2 ^ n := by
  simp [BitVec.toNat_append, Nat.shiftLeft_eq]

section
variable {s : State} {p : Nat} (x : Word) (he : (s.part p).en = false)
include he

theorem pcfgWrite_parts (hx : x.getLsbD 31 = false) : pcfgWrite s p 0 x =
    s.setPart p { s.part p with dieSet := x.extractLsb' 0 16, stackSet := x.extractLsb' 16 12, perr := x.extractLsb' 28 3 } := by
  simp only [pcfgWrite, he, hx, Bool.false_eq_true, if_false, if_true]

theorem pcfgWrite_ctxbase : pcfgWrite s p 8 x = s.setPart p { s.part p with ctxbase := x.extractLsb' 16 36 } := by
  simp [pcfgWrite, he]

theorem pcfgWrite_ctxn : pcfgWrite s p 16 x = s.setPart p { s.part p with ctxn := x.extractLsb' 0 32 } := by
  simp [pcfgWrite, he]

theorem pcfgRead_parts (hx : x.getLsbD 31 = false) : pcfgRead (pcfgWrite s p 0 x) p 0 = x &&& 0x7FFFFFFF := by
  have parts : x.extractLsb' 28 3 ++ x.extractLsb' 16 12 ++ x.extractLsb' 0 16 = x.extractLsb' 0 31 := by
    rw [BitVec.extractLsb'_append_extractLsb'_eq_extractLsb' (by decide), BitVec.extractLsb'_append_extractLsb'_eq_extractLsb' (by decide)]
  rw [show (0x7FFFFFFF : Word) = BitVec.ofNat 64 (2 ^ 31 - 1) from rfl, ← setWidth_extract, ← parts, pcfgWrite_parts x he hx]
  simp only [pcfgRead, if_true, part_setPart_same, he]
  refine BitVec.eq_of_toNat_eq ?_
  rw [BitVec.toNat_setWidth, BitVec.toNat_setWidth]
  exact congrArg (· % 2 ^ 64) (toNat_false_append _ _ _)

theorem pcfgRead_ctxbase : pcfgRead (pcfgWrite s p 8 x) p 8 = x &&& 0xFFFFFFFFF0000 := by
  rw [show (0xFFFFFFFFF0000 : Word) = BitVec.ofNat 64 ((2 ^ 36 - 1) * 2 ^ 16) from rfl, and_field, pcfgWrite_ctxbase x he]
  have read : pcfgRead (s.setPart p { s.part p with ctxbase := x.extractLsb' 16 36 }) p 8 = (x.extractLsb' 16 36 ++ 0#16).setWidth 64 := by
    simp [pcfgRead]
  rw [read]
  refine BitVec.eq_of_toNat_eq ?_
  rw [BitVec.toNat_setWidth, BitVec.toNat_ofNat]
  exact congrArg (· % 2 ^ 64) (toNat_append_zero _)

theorem pcfgRead_ctxn : pcfgRead (pcfgWrite s p 16 x) p 16 = x &&& 0xFFFFFFFF := by
  rw [show (0xFFFFFFFF : Word) = BitVec.ofNat 64 (2 ^ 32 - 1) from rfl, ← setWidth_extract, pcfgWrite_ctxn x he]
  simp [pcfgRead]

end

end Sys2Proof.Machine
end

section
/-! PROOFS. The host port: links (R44 to R46), the host's and the debugger's accesses to memory (R48, R97, R179, R399),
and the acceptance of stores by the host's coherence (R310). -/

namespace Sys2Proof.Machine

/-! ## Links -/

theorem width_of_linkAt (s : State) (k : Nat) :
    (linkAt s k).width = 8 ∨ (linkAt s k).width = 4 ∨ ((linkAt s k).width = 16 ∧ s.twoLinks = false) := by
  have inside : 0 < (linkWidths s).length := by
    unfold linkWidths
    split <;> decide
  have mem : (linkAt s k).width ∈ linkWidths s := by
    show listGetD (linkWidths s) (Config.linkWidth k % (linkWidths s).length) 8 ∈ linkWidths s
    rw [listGetD, List.getElem?_eq_getElem (Nat.mod_lt _ inside)]
    exact List.getElem_mem _
  cases h : s.twoLinks with
  | true =>
    rw [show linkWidths s = [8, 4] by simp [linkWidths, h]] at mem
    simp only [List.mem_cons, List.not_mem_nil, or_false] at mem
    tauto
  | false =>
    rw [show linkWidths s = [16, 8, 4] by simp [linkWidths, h]] at mem
    simp only [List.mem_cons, List.not_mem_nil, or_false] at mem
    tauto

theorem rate_of_linkAt (s : State) (k : Nat) : (linkAt s k).rate = 64 ∨ (linkAt s k).rate = 32 := by
  unfold linkAt
  dsimp only
  split
  · exact .inl rfl
  · exact .inr rfl

theorem execLinkTraining_absent {s : State} (h : s.twoLinks = false) (b : Bool) : execLinkTraining true b s = .next s := by
  simp [execLinkTraining, h]

theorem execLinkTraining_fails {s : State} {link : Bool} (h : link = false ∨ s.twoLinks = true) :
    execLinkTraining link false s = .next (logSconce s (.linkFailed link)) := by
  rcases h with rfl | h
  · rfl
  · simp [execLinkTraining, h]

theorem execLinkTraining_trains {s : State} {link : Bool} (h : link = false ∨ s.twoLinks = true) :
    execLinkTraining link true s = .next (trainLink s link) := by
  rcases h with rfl | h
  · rfl
  · simp [execLinkTraining, h]

/-! ## Memory -/

/-- Bytes of memory written at a place, and no other byte. -/
theorem sameBytesBut_writeBytes {s t : State} {a : Nat} {bs : List Byte} (h : t.mem = Memory.writeBytes s.mem a bs) :
    SameBytesBut s t a bs.length ∧ ∀ k (hk : k < bs.length), Memory.read t.mem (a + k) = bs[k] := by
  rw [SameBytesBut, h]
  exact ⟨fun b hb => memory_read_writeBytes_other s.mem a b bs (by omega), fun k hk => memory_read_writeBytes_same s.mem a bs k hk⟩

/-- An HDM address has bit 51 clear: it is where its byte is kept (R48, R96). -/
theorem storageOf_of_isHdm {a n : Nat} (h : isHdm a n = true) (hn : n ≠ 0) : storageOf a = a := by
  have high : a + n ≤ 2 ^ 51 := by
    simp only [isHdm, Bool.and_eq_true, decide_eq_true_eq] at h
    exact h.2
  have low : isRawAlias a = false := by
    rw [isRawAlias, Nat.div_eq_of_lt (by omega)]
    rfl
  simp [storageOf, low]

/-- Counting a host's accesses moves the tracked pages alone (R227). -/
theorem countHost_eq (s : State) (a n : Nat) (write : Bool) : ∃ l, countHost s a n write = { s with tracked := l } := by
  unfold countHost
  refine List.foldlRecOn _ _ (motive := fun t : State => ∃ l, t = { s with tracked := l }) ⟨_, rfl⟩ fun t ht k _ => ?_
  obtain ⟨l, rfl⟩ := ht
  dsimp only
  split
  · unfold countArrival
    split
    · obtain ⟨l', e⟩ := countRepl_eq { s with tracked := l } noDie _ _ write
      exact ⟨l', e⟩
    · exact ⟨_, rfl⟩
  · exact ⟨_, rfl⟩

theorem length_beq_zero_of_ne_nil {bs : List Byte} (h : bs ≠ []) : (bs.length == 0) = false := by simpa using h

section
variable {s : State} {m : Master} {a : Nat} {bs : List Byte} (hl : hdmLink s m = true) (hb : bs ≠ [])
include hl hb

theorem execHostHdmWrite_outside (hh : isHdm a bs.length = false) : execHostHdmWrite m a bs s = .fault (.outsideAllMemory a) := by
  simp [execHostHdmWrite, hl, length_beq_zero_of_ne_nil hb, hh]

theorem execHostHdmWrite_counted (hh : isHdm a bs.length = true) (ho : isOwner s m = false) :
    execHostHdmWrite m a bs s = .next (countDiscarded s) := by
  simp [execHostHdmWrite, hl, length_beq_zero_of_ne_nil hb, hh, ho]

theorem execHostHdmWrite_decoded (hh : isHdm a bs.length = true) (ho : isOwner s m = true) (hd : touchesDecoded s a bs.length = true) :
    execHostHdmWrite m a bs s = .next (logSconce s (.hdmWriteIgnored a)) := by
  simp [execHostHdmWrite, hl, length_beq_zero_of_ne_nil hb, hh, ho, hd]

theorem execHostHdmWrite_writes (hh : isHdm a bs.length = true) (ho : isOwner s m = true) (hd : touchesDecoded s a bs.length = false)
    (hp : pinnedElsewhere s none a bs.length = none) :
    execHostHdmWrite m a bs s = .next (physWrite (countHost s a bs.length true) a bs) := by
  simp [execHostHdmWrite, hl, length_beq_zero_of_ne_nil hb, hh, ho, hd, hp]

end

/-- A host's read answers the bytes as they stand and whether one is poisoned (R48, R392). -/
theorem execHostHdmRead_answers {s : State} {m : Master} {a n : Nat} (hl : hdmLink s m = true) (hn : n ≠ 0) (hh : isHdm a n = true)
    (hw : s.sconce.pwr ≠ 3) (hp : pinnedElsewhere s none a n = none) :
    ∃ t, execHostHdmRead m a n s = .next t ∧ t.mem = s.mem ∧
      t.hostReply = some { master := m, addr := a, bytes := physReadBytes s a n, poisoned := (firstPoison s a n).isSome } := by
  have nonzero : (n == 0) = false := by simpa using hn
  obtain ⟨l, e⟩ := countHost_eq s a n false
  simp only [execHostHdmRead, hl, nonzero, hh, if_neg hw, hp, Bool.not_true, Bool.or_self, Bool.false_eq_true, if_false, e]
  cases firstPoison s a n with
  | none => exact ⟨_, rfl, rfl, rfl⟩
  | some b => exact ⟨_, rfl, rfl, rfl⟩

theorem execHostHdmRead_outside {s : State} {m : Master} {a n : Nat} (hl : hdmLink s m = true) (hn : n ≠ 0) (hh : isHdm a n = false) :
    execHostHdmRead m a n s = .fault (.outsideAllMemory a) := by
  simp [execHostHdmRead, hl, hn, hh]

theorem execDebugMemoryWrite_refused {s : State} {m : Master} (a : Nat) (bs : List Byte) (h : reaches s m = false ∨ s.sconce.dbg ≠ 2) :
    execDebugMemoryWrite m a bs s = .next s := by
  rcases h with h | h
  · simp [execDebugMemoryWrite, h]
  · simp only [execDebugMemoryWrite, decide_eq_true h, Bool.or_true, Bool.true_or, if_true]

section
variable {s : State} {m : Master} {a : Nat} {bs : List Byte} (hr : reaches s m = true) (hd : s.sconce.dbg = 2) (hw : s.sconce.pwr ≠ 3)
  (hb : bs ≠ [])
include hr hd hw hb

theorem execDebugMemoryWrite_outside (ha : isDevicePa a = false) : execDebugMemoryWrite m a bs s = .fault (.outsideAllMemory a) := by
  have powered : ¬s.sconce.pwr = 3#2 := hw
  simp [execDebugMemoryWrite, hr, hd, powered, hb, ha]

theorem execDebugMemoryWrite_writes (ha : isDevicePa a = true) (he : isDevicePa (a + bs.length - 1) = true)
    (hv : isRawAlias a = true ∨ touchesDecoded s a bs.length = false) (hp : pinnedElsewhere s none a bs.length = none) :
    execDebugMemoryWrite m a bs s = .next (physWrite s a bs) := by
  have plain : ¬(isRawAlias a = false ∧ touchesDecoded s a bs.length = true) := by
    rcases hv with h | h
    · simp [h]
    · simp [h]
  have powered : ¬s.sconce.pwr = 3#2 := hw
  simp [execDebugMemoryWrite, hr, hd, powered, hb, ha, he, plain, hp]

end

/-! ## The obligation -/

/-- Settles O55: the host port by the equations of its events, and each register by what its write leaves to be read
(`registerWrite_readsBack`). -/
theorem hostPortCompletes : Obligations.HostPortCompletes := by
  refine ⟨?port, ?bar⟩
  case port =>
    intro s
    refine ⟨?links, ?dvsec, ?hdmWrite, ?hdmRead, ?debug, ?noStore, ?accept⟩
    case links =>
      refine fun link => ⟨rfl, ?_, fun h => ⟨execLinkTraining_fails h, _, execLinkTraining_trains h, rfl, ?_, ?_, rfl⟩⟩
      · rintro rfl h b
        exact execLinkTraining_absent h b
      · rw [trainLink, tblGet_tblSet_same]
        rfl
      · exact ⟨_, tblGet_tblSet_same _ _ _, rate_of_linkAt _ _, width_of_linkAt _ _, rfl, by simp [linkAt]⟩
    case dvsec =>
      intro f h
      simp [HostFeature.inDvsec, h]
    case hdmWrite =>
      refine fun m a bs hl hb => ⟨execHostHdmWrite_outside hl hb, execHostHdmWrite_counted hl hb,
        fun hh ho hd => ⟨_, execHostHdmWrite_decoded hl hb hh ho hd, rfl⟩, fun hh ho hd hp => ?_⟩
      obtain ⟨l, e⟩ := countHost_eq s a bs.length true
      refine ⟨_, execHostHdmWrite_writes hl hb hh ho hd hp, sameBytesBut_writeBytes ?_⟩
      rw [e]
      show Memory.writeBytes s.mem (storageOf a) bs = _
      rw [storageOf_of_isHdm hh (by simpa using hb)]
    case hdmRead => exact fun m a n hl hn => ⟨execHostHdmRead_outside hl hn, execHostHdmRead_answers hl hn⟩
    case debug =>
      exact fun m a bs hb => ⟨execDebugMemoryWrite_refused a bs, fun hr hd hw ha => execDebugMemoryWrite_outside hr hd hw hb ha,
        fun hr hd hw ha he hv hp => ⟨_, execDebugMemoryWrite_writes hr hd hw hb ha he hv hp, sameBytesBut_writeBytes rfl⟩⟩
    case noStore =>
      intro h
      simp only [exec_hostCoherenceAccept, execHostCoherenceAccept, h]
    case accept =>
      intro e h
      have settled := stands_settlePins { s with hostStores := s.hostStores.erase e }
      exact ⟨_, by simp only [exec_hostCoherenceAccept, execHostCoherenceAccept, h], settled.hostStores, settled.mem⟩
  case bar =>
    intro s w p x hp hw
    extract_lets back same
    -- a register other than a TAIL, which software in the privileged view may write without being the runtime
    have plain : ∀ {off r y}, winReg off = some r → off < 2 ^ 20 → off % 8 = 0 → (∀ n, r ≠ .queue n 2) →
        (∀ mb, ReadsBack { s with mailbox := mb } p r x y) → back off y := fun hr ho h8 hn h =>
      registerWrite_readsBack hp hw ho h8 hr (fun _ hd => absurd hd (by rw [isDoorbell_of_winReg hr hn]; decide)) h
    have keeps : ∀ {off r}, winReg off = some r → off < 2 ^ 20 → off % 8 = 0 → (∀ n, r ≠ .queue n 2) →
        (∀ mb, ReadsBack { s with mailbox := mb } p r x (winRead (s.part p) r)) → same off := fun {off r} hr ho h8 hn h => by
      have read : windowRead s p off = winRead (s.part p) r := by rw [windowRead, hr]
      exact plain hr ho h8 hn (by rw [read]; exact h)
    refine ⟨?fectl, ?invrange, ?replctl, ?tvecdef, ?srange, ?ptroot, ?held, ?lfva, ?errloc, ?tables, ?queues, ?pcfg, ?ring, ?registers⟩
    case fectl => exact plain (r := .fectl) rfl (by decide) (by decide) nofun fun _ => readsBack_fectl _ p x
    case invrange => exact plain (r := .invrange) rfl (by decide) (by decide) nofun fun _ => readsBack_invrange _ p x
    case replctl => exact plain (r := .replctl) rfl (by decide) (by decide) nofun fun _ => readsBack_replctl _ p x
    case tvecdef => exact plain (r := .tvecdef) rfl (by decide) (by decide) nofun fun _ => readsBack_tvecdef _ p x
    case srange => exact fun k hk => plain (winReg_srange hk) (by omega) (by omega) nofun fun _ => readsBack_srange _ p x k
    case ptroot => exact fun h => plain (r := .ptroot) rfl (by decide) (by decide) nofun fun _ => readsBack_ptroot x h
    case held => exact fun h => keeps (r := .ptroot) rfl (by decide) (by decide) nofun fun _ => readsBack_same _ p x (if_pos h)
    case lfva => exact keeps (r := .lfva) rfl (by decide) (by decide) nofun fun _ => readsBack_same _ p x rfl
    case errloc => exact keeps (r := .errloc) rfl (by decide) (by decide) nofun fun _ => readsBack_same _ p x rfl
    case tables =>
      refine fun n hn => ⟨?_, fun he => ⟨fun hx => ?_, ?_⟩, fun he => ?_⟩
      · exact plain (winReg_evqstat hn) (by omega) (by omega) nofun fun _ => readsBack_evqstat _ p x n
      · exact plain (winReg_fmtA hn) (by omega) (by omega) nofun fun _ => readsBack_fmtA _ p x he hx
      · rw [show windowRead s p (0x108 + 16 * n) = winRead (s.part p) (.fmtB n) by rw [windowRead, winReg_fmtB hn]]
        exact plain (winReg_fmtB hn) (by omega) (by omega) nofun fun _ => readsBack_fmtB _ p x he
      · exact keeps (winReg_fmtB hn) (by omega) (by omega) nofun fun _ => readsBack_same _ p x (if_pos he)
    case queues =>
      refine fun n hn => ⟨?_, ?_, fun he => ?_⟩
      · exact keeps (winReg_queue (r := 3) hn (by decide)) (by omega) (by omega) nofun
          fun _ => readsBack_queue_readOnly _ p x n (.inl rfl)
      · exact keeps (winReg_queue (r := 4) hn (by decide)) (by omega) (by omega) nofun
          fun _ => readsBack_queue_readOnly _ p x n (.inr rfl)
      · exact keeps (winReg_queue (r := 0) hn (by decide)) (by omega) (by omega) nofun fun _ => readsBack_ring_enabled _ p x he
    case pcfg =>
      rintro m rfl he
      obtain ⟨hr, ho⟩ := hw
      refine ⟨fun hx => ⟨_, registerWrite_pcfg x hp hr ho (by decide) (by decide), pcfgRead_parts x he hx, ?_⟩,
        ⟨_, registerWrite_pcfg x hp hr ho (by decide) (by decide), pcfgRead_ctxbase x he, ?_⟩,
        ⟨_, registerWrite_pcfg x hp hr ho (by decide) (by decide), pcfgRead_ctxn x he, ?_⟩⟩
      · rw [pcfgWrite_parts x he hx]
        rfl
      · rw [pcfgWrite_ctxbase x he]
        rfl
      · rw [pcfgWrite_ctxn x he]
        rfl
    case ring =>
      exact fun n hn he => plain (winReg_queue (r := 0) (by omega) (by decide)) (by omega) (by omega) nofun
        fun _ => readsBack_ring _ p x hn he
    case registers =>
      refine fun n hn he hx => ⟨?_, fun hrun => ?_⟩
      · exact plain (winReg_queue (r := 1) (by omega) (by decide)) (by omega) (by omega) nofun
          fun _ => readsBack_log2n _ p x he hx
      · exact registerWrite_readsBack hp hw (by omega) (by omega) (winReg_queue (r := 2) (by omega) (by decide)) (fun h _ => hrun h)
          fun _ => readsBack_tail _ p x hn he

end Sys2Proof.Machine
end

section
/-! PROOFS. The encoding (R105 to R118): the word and its fields, the operands and codes in the fields, each shape's
fields read back, and from these that decoding inverts encoding. -/

namespace Sys2Proof

/-! ## The word and its fields (R105, R106) -/

theorem Raw.unpack_pack (r : Raw) : Raw.unpack r.pack = r := by
  obtain ⟨op, fn, g, d, a, b, m, h, x, imm⟩ := r
  simp (disch := decide) only [Raw.unpack, Raw.pack, BitVec.extractLsb'_append_eq_of_add_le, BitVec.extractLsb'_append_eq_of_le,
    BitVec.extractLsb'_eq_self, Nat.reduceSub]

theorem Raw.pack_unpack (w : BitVec 96) : (Raw.unpack w).pack = w := by
  simp (disch := decide) only [Raw.unpack, Raw.pack, BitVec.extractLsb'_append_extractLsb'_eq_extractLsb', BitVec.extractLsb'_eq_self]

/-- Bytes of a word from byte `j` up, put together from the last to the first, are the word's bits from 8j up. -/
theorem getLsbD_foldr_bytes (w : BitVec 96) (n j i : Nat) :
    (((List.range' j n).map fun k => w.extractLsb' (8 * k) 8).foldr (fun b (x : BitVec 96) => (x <<< 8) ||| b.setWidth 96) 0#96).getLsbD i =
      (decide (i < 8 * n) && decide (i < 96) && w.getLsbD (8 * j + i)) := by
  induction n generalizing j i with
  | zero => simp
  | succ n ih =>
    rw [List.range'_succ, List.map_cons, List.foldr_cons, BitVec.getLsbD_or, BitVec.getLsbD_shiftLeft, ih, BitVec.getLsbD_setWidth,
      BitVec.getLsbD_extractLsb']
    by_cases low : i < 8
    · have below : i < 8 * (n + 1) := by omega
      simp [low, below]
    · have shifted : 8 * (j + 1) + (i - 8) = 8 * j + i := by omega
      have inside : i - 8 < 8 * n ↔ i < 8 * (n + 1) := by omega
      have short : i < 96 → i - 8 < 96 := by omega
      by_cases h : i < 96
      · simp [low, shifted, inside, h, short h]
      · simp [low, h]

theorem wordOfBytes_bytesOfWord (w : BitVec 96) : wordOfBytes (bytesOfWord w) = some (w, []) := by
  have length : (bytesOfWord w).length = 12 := by simp [bytesOfWord]
  have word : (bytesOfWord w).foldr (fun b (x : BitVec 96) => (x <<< 8) ||| b.setWidth 96) 0#96 = w := by
    refine BitVec.eq_of_getLsbD_eq fun i hi => ?_
    rw [bytesOfWord, List.range_eq_range', getLsbD_foldr_bytes]
    simp [hi]
  simp [wordOfBytes, length, List.take_of_length_le, List.drop_of_length_le, word]

/-! ## Codes (R113 to R116, R329) -/

@[simp] theorem Ty.ofCode_code (t : Ty) : Ty.ofCode t.code = t := by cases t <;> rfl
@[simp] theorem Rm.ofCode_code (m : Rm) : Rm.ofCode m.code = some m := by cases m <;> rfl
@[simp] theorem Scope.ofCode_code (c : Scope) : Scope.ofCode c.code = c := by cases c <;> rfl
@[simp] theorem Aop.ofCode_code (a : Aop) : Aop.ofCode a.code = a := by cases a <;> rfl
@[simp] theorem AType.ofCode_code (t : AType) : AType.ofCode t.code = some t := by cases t <;> rfl
@[simp] theorem FenceKind.ofCode_code (k : FenceKind) : FenceKind.ofCode k.code = some k := by cases k <;> rfl
@[simp] theorem Cond.ofCode_code (c : Cond) : Cond.ofCode c.code = some c := by cases c <;> rfl
@[simp] theorem Steer.ofCode_code (t : Steer) : Steer.ofCode t.code = some t := by cases t <;> rfl

/-! ## Operand fields (R107, R109, R111, R211) -/

@[simp] theorem sOf_sField (i : SIdx) : sOf (sField i) = i := by revert i; decide
@[simp] theorem vOf_vField (i : VIdx) : vOf (vField i) = i := by revert i; decide
@[simp] theorem mOf_mField (i : MIdx) : mOf (mField i) = i := by revert i; decide
@[simp] theorem pOf_pField (i : PIdx) : pOf (pField i) = i := by revert i; decide
@[simp] theorem qOf_qField (i : QIdx) : qOf (qField i) = i := by revert i; decide
@[simp] theorem eOf_eField (i : EIdx) : eOf (eField i) = i := by revert i; decide
@[simp] theorem zOf_zField (i : ZIdx) : zOf (zField i) = i := by revert i; decide

/-- No register's field reads as the immediate (R107). -/
theorem sField_ne_imm (i : SIdx) : sField i ≠ 0xFF#8 := by revert i; decide
theorem vField_ne_imm (i : VIdx) : vField i ≠ 0xFF#8 := by revert i; decide

/-- The class of a field (R107) tells a vector register from a scalar register and from a cursor. -/
theorem class_vField (i : VIdx) : (vField i).extractLsb' 6 2 = 0b01#2 := by revert i; decide
theorem class_sField (i : SIdx) : (sField i).extractLsb' 6 2 ≠ 0b01#2 := by revert i; decide
theorem class_eField (i : EIdx) : (eField i).extractLsb' 6 2 ≠ 0b01#2 := by revert i; decide

@[simp] theorem SSrc.of_field (b : SSrc) : SSrc.of b.field b.immField = b := by
  cases b with
  | reg i => simp [SSrc.of, SSrc.field, sField_ne_imm]
  | imm v => simp [SSrc.of, SSrc.field, SSrc.immField]

@[simp] theorem VSrc.of_field (b : VSrc) : VSrc.of b.field b.immField = b := by
  cases b with
  | vec i => simp [VSrc.of, VSrc.field, vField_ne_imm, class_vField]
  | reg i => simp [VSrc.of, VSrc.field, sField_ne_imm, class_sField]
  | imm v => simp [VSrc.of, VSrc.field, VSrc.immField]

@[simp] theorem Mask.on_field_index (z : Bool) (m : MIdx) : (Mask.on z m).field.extractLsb' 0 4 = m := by revert z m; decide
@[simp] theorem Mask.on_field_zeroing (z : Bool) (m : MIdx) : (Mask.on z m).field[4] = z := by revert z m; decide
theorem Mask.on_field_enabled (z : Bool) (m : MIdx) : (Mask.on z m).field[5] = true := by revert z m; decide

@[simp] theorem Mask.of_field (m : Mask) : Mask.of m.field = m := by
  cases m with
  | none => rfl
  | on z m => simp [Mask.of, Mask.on_field_enabled]

@[simp] theorem SysTarget.of_immField (t : SysTarget) : SysTarget.of t.immField = t := by
  cases t with
  | reg n => simp [SysTarget.of, SysTarget.immField, BitVec.extractLsb'_setWidth_of_le]
  | window off =>
    have low : (0x80000000#32).extractLsb' 0 20 = 0#20 := by decide
    simp [SysTarget.of, SysTarget.immField, BitVec.extractLsb'_or, BitVec.extractLsb'_setWidth_of_le, low]

/-! ## Subfields of IMM -/

theorem getLsbD_immAt {w : Nat} (v : BitVec w) (lo i : Nat) :
    (immAt v lo).getLsbD i = (decide (i < 32) && decide (lo ≤ i) && v.getLsbD (i - lo)) := by
  have above : (!decide (i < lo)) = decide (lo ≤ i) := by rw [← decide_not, decide_eq_decide, Nat.not_lt]
  rw [immAt, BitVec.getLsbD_shiftLeft, BitVec.getLsbD_setWidth, above]
  by_cases h : i < 32
  · have short : i - lo < 32 := by omega
    simp [h, short]
  · simp [h]

@[simp] theorem getElem_immAt {w : Nat} (v : BitVec w) (lo i : Nat) (h : i < 32) :
    (immAt v lo)[i] = (decide (lo ≤ i) && v.getLsbD (i - lo)) := by
  rw [← BitVec.getLsbD_eq_getElem, getLsbD_immAt]
  simp [h]

@[simp] theorem extract_immAt_same {w : Nat} (v : BitVec w) (lo : Nat) (h : lo + w ≤ 32) : (immAt v lo).extractLsb' lo w = v := by
  refine BitVec.eq_of_getLsbD_eq fun i hi => ?_
  have inside : lo + i < 32 := by omega
  simp [hi, inside]

@[simp] theorem extract_immAt_apart {w : Nat} (v : BitVec w) (lo l n : Nat) (h : lo + w ≤ l ∨ l + n ≤ lo) :
    (immAt v lo).extractLsb' l n = 0#n := by
  refine BitVec.eq_of_getLsbD_eq fun i hi => ?_
  rw [BitVec.getLsbD_extractLsb', getLsbD_immAt, BitVec.getLsbD_zero]
  rcases h with above | below
  · rw [BitVec.getLsbD_of_ge v _ (by omega), Bool.and_false, Bool.and_false]
  · have out : ¬lo ≤ l + i := by omega
    simp [out]

/-! ## X subfields (R113) -/

/-- A bit of a word by the field of one bit there. -/
theorem getElem_of_extract {w i : Nat} {x : BitVec w} {b : Bool} (h : x.extractLsb' i 1 = BitVec.ofBool b) (hi : i < w) : x[i] = b := by
  have := congrArg (·.getLsbD 0) h
  simpa [hi] using this

section
variable (sat u : Bool) (rm : Rm) (ty : Ty) (scope : Scope) (aop : Aop) (aty : AType) (kind : FenceKind)

@[simp] theorem xA_ty : (xA sat rm ty).extractLsb' 0 4 = ty.code := by
  rw [xA, BitVec.extractLsb'_append_eq_right]
@[simp] theorem xA_rm : (xA sat rm ty).extractLsb' 4 3 = rm.code := by
  rw [xA, BitVec.extractLsb'_append_eq_of_le (by decide), BitVec.extractLsb'_append_eq_right]
@[simp] theorem xA_sat : (xA sat rm ty)[7] = sat := by
  refine getElem_of_extract ?_ (by decide)
  simp (disch := decide) only [xA, BitVec.extractLsb'_append_eq_of_le, BitVec.extractLsb'_eq_self, Nat.reduceSub]

@[simp] theorem xM_ty : (xM scope u ty).extractLsb' 0 4 = ty.code := by
  rw [xM, BitVec.extractLsb'_append_eq_right]
@[simp] theorem xM_scope : (xM scope u ty).extractLsb' 6 2 = scope.code := by
  simp (disch := decide) only [xM, BitVec.extractLsb'_append_eq_of_le, BitVec.extractLsb'_eq_self, Nat.reduceSub]
@[simp] theorem xM_u : (xM scope u ty)[4] = u := by
  refine getElem_of_extract ?_ (by decide)
  simp (disch := decide) only [xM, BitVec.extractLsb'_append_eq_of_le, BitVec.extractLsb'_append_eq_of_add_le,
    BitVec.extractLsb'_eq_self, Nat.reduceSub]

@[simp] theorem xS_aty : (xS scope aop aty).extractLsb' 0 3 = aty.code := by
  rw [xS, BitVec.extractLsb'_append_eq_right]
@[simp] theorem xS_aop : (xS scope aop aty).extractLsb' 3 3 = aop.code := by
  rw [xS, BitVec.extractLsb'_append_eq_of_le (by decide), BitVec.extractLsb'_append_eq_right]
@[simp] theorem xS_scope : (xS scope aop aty).extractLsb' 6 2 = scope.code := by
  simp (disch := decide) only [xS, BitVec.extractLsb'_append_eq_of_le, BitVec.extractLsb'_eq_self, Nat.reduceSub]

@[simp] theorem xF_kind : (xF scope kind).extractLsb' 0 3 = kind.code := by
  rw [xF, BitVec.extractLsb'_append_eq_right]
@[simp] theorem xF_scope : (xF scope kind).extractLsb' 6 2 = scope.code := by
  simp (disch := decide) only [xF, BitVec.extractLsb'_append_eq_of_le, BitVec.extractLsb'_eq_self, Nat.reduceSub]

end

/-! ## Guard and hints (R105, R110, R112) -/

theorem Ctl.parse_fields {r : Raw} {c : Ctl} (hg : r.g = c.g) (hh : r.h = c.h) : Ctl.parse r = some c := by
  have neg : c.g[3] = c.neg := getElem_of_extract BitVec.extractLsb'_append_eq_left (by decide)
  have pred : c.g.extractLsb' 0 3 = c.pred := BitVec.extractLsb'_append_eq_right
  have rd : c.h.extractLsb' 5 3 = c.rd := by
    simp (disch := decide) only [Ctl.h, BitVec.extractLsb'_append_eq_of_le, BitVec.extractLsb'_eq_self, Nat.reduceSub]
  have steer : c.h.extractLsb' 3 2 = c.steer.code := by
    simp (disch := decide) only [Ctl.h, BitVec.extractLsb'_append_eq_of_le, BitVec.extractLsb'_append_eq_of_add_le,
      BitVec.extractLsb'_eq_self, Nat.reduceSub]
  have yld : c.h[2] = c.yld := by
    refine getElem_of_extract ?_ (by decide)
    simp (disch := decide) only [Ctl.h, BitVec.extractLsb'_append_eq_of_le, BitVec.extractLsb'_append_eq_of_add_le,
      BitVec.extractLsb'_eq_self, Nat.reduceSub]
  simp [Ctl.parse, hg, hh, neg, pred, rd, steer, yld]

/-! ## The fields of each shape, read back

What a shape fills, its parser reads, subfield by subfield, by the lemmas above; neither rests on the rest of the word. -/

section
variable (r : Raw)

@[simp] theorem ScalarBin.parse_fill (o : ScalarBin) : ScalarBin.parse (o.fill r) = some o := by simp [ScalarBin.parse, ScalarBin.fill]
@[simp] theorem ScalarUn.parse_fill (o : ScalarUn) : ScalarUn.parse (o.fill r) = some o := by simp [ScalarUn.parse, ScalarUn.fill]
@[simp] theorem ExtForm.parse_fill (o : ExtForm) : ExtForm.parse (o.fill r) = some o := by
  simp [ExtForm.parse, ExtForm.fill, BitVec.extractLsb'_or]
@[simp] theorem MoviForm.parse_fill (o : MoviForm) : MoviForm.parse (o.fill r) = some o := by simp [MoviForm.parse, MoviForm.fill]
@[simp] theorem MovhiForm.parse_fill (o : MovhiForm) : MovhiForm.parse (o.fill r) = some o := by simp [MovhiForm.parse, MovhiForm.fill]
@[simp] theorem AddpcForm.parse_fill (o : AddpcForm) : AddpcForm.parse (o.fill r) = some o := by simp [AddpcForm.parse, AddpcForm.fill]
@[simp] theorem LoadForm.parse_fill (o : LoadForm) : LoadForm.parse (o.fill r) = some o := by simp [LoadForm.parse, LoadForm.fill]
@[simp] theorem StoreForm.parse_fill (o : StoreForm) : StoreForm.parse (o.fill r) = some o := by simp [StoreForm.parse, StoreForm.fill]
@[simp] theorem FloatBin.parse_fill (o : FloatBin) : FloatBin.parse (o.fill r) = some o := by simp [FloatBin.parse, FloatBin.fill]
@[simp] theorem FloatUn.parse_fill (o : FloatUn) : FloatUn.parse (o.fill r) = some o := by simp [FloatUn.parse, FloatUn.fill]
@[simp] theorem ConvertForm.parse_fill (o : ConvertForm) : ConvertForm.parse (o.fill r) = some o := by
  simp [ConvertForm.parse, ConvertForm.fill]
@[simp] theorem BrForm.parse_fill (o : BrForm) : BrForm.parse (o.fill r) = some o := by simp [BrForm.parse, BrForm.fill]
@[simp] theorem BriForm.parse_fill (o : BriForm) : BriForm.parse (o.fill r) = some o := by simp [BriForm.parse, BriForm.fill]
@[simp] theorem CallForm.parse_fill (o : CallForm) : CallForm.parse (o.fill r) = some o := by simp [CallForm.parse, CallForm.fill]
@[simp] theorem CalliForm.parse_fill (o : CalliForm) : CalliForm.parse (o.fill r) = some o := by simp [CalliForm.parse, CalliForm.fill]
@[simp] theorem LsetupForm.parse_fill (o : LsetupForm) : LsetupForm.parse (o.fill r) = some o := by simp [LsetupForm.parse, LsetupForm.fill]
@[simp] theorem SysrdForm.parse_fill (o : SysrdForm) : SysrdForm.parse (o.fill r) = some o := by simp [SysrdForm.parse, SysrdForm.fill]
@[simp] theorem SyswrForm.parse_fill (o : SyswrForm) : SyswrForm.parse (o.fill r) = some o := by simp [SyswrForm.parse, SyswrForm.fill]
@[simp] theorem YieldForm.parse_fill (o : YieldForm) : YieldForm.parse (o.fill r) = some o := by simp [YieldForm.parse, YieldForm.fill]
@[simp] theorem TrapForm.parse_fill (o : TrapForm) : TrapForm.parse (o.fill r) = some o := by simp [TrapForm.parse, TrapForm.fill]
@[simp] theorem PcmpForm.parse_fill (o : PcmpForm) : PcmpForm.parse (o.fill r) = some o := by simp [PcmpForm.parse, PcmpForm.fill]
@[simp] theorem PredBin.parse_fill (o : PredBin) : PredBin.parse (o.fill r) = some o := by simp [PredBin.parse, PredBin.fill]
@[simp] theorem PredUn.parse_fill (o : PredUn) : PredUn.parse (o.fill r) = some o := by simp [PredUn.parse, PredUn.fill]
@[simp] theorem MaskBin.parse_fill (o : MaskBin) : MaskBin.parse (o.fill r) = some o := by simp [MaskBin.parse, MaskBin.fill]
@[simp] theorem MaskUn.parse_fill (o : MaskUn) : MaskUn.parse (o.fill r) = some o := by simp [MaskUn.parse, MaskUn.fill]
@[simp] theorem MaskRead.parse_fill (o : MaskRead) : MaskRead.parse (o.fill r) = some o := by simp [MaskRead.parse, MaskRead.fill]
@[simp] theorem SetForm.parse_fill (o : SetForm) : SetForm.parse (o.fill r) = some o := by simp [SetForm.parse, SetForm.fill]
@[simp] theorem VecBin.parse_fill (o : VecBin) : VecBin.parse (o.fill r) = some o := by simp [VecBin.parse, VecBin.fill]
@[simp] theorem VecNarrow.parse_fill (o : VecNarrow) : VecNarrow.parse (o.fill r) = some o := by simp [VecNarrow.parse, VecNarrow.fill]
@[simp] theorem VecFloatBin.parse_fill (o : VecFloatBin) : VecFloatBin.parse (o.fill r) = some o := by
  simp [VecFloatBin.parse, VecFloatBin.fill]
@[simp] theorem VecFloatUn.parse_fill (o : VecFloatUn) : VecFloatUn.parse (o.fill r) = some o := by simp [VecFloatUn.parse, VecFloatUn.fill]
@[simp] theorem VecConvert.parse_fill (o : VecConvert) : VecConvert.parse (o.fill r) = some o := by simp [VecConvert.parse, VecConvert.fill]
@[simp] theorem VecUn.parse_fill (o : VecUn) : VecUn.parse (o.fill r) = some o := by simp [VecUn.parse, VecUn.fill]
@[simp] theorem VcmpForm.parse_fill (o : VcmpForm) : VcmpForm.parse (o.fill r) = some o := by simp [VcmpForm.parse, VcmpForm.fill]
@[simp] theorem VmergeForm.parse_fill (o : VmergeForm) : VmergeForm.parse (o.fill r) = some o := by simp [VmergeForm.parse, VmergeForm.fill]
@[simp] theorem VsplatForm.parse_fill (o : VsplatForm) : VsplatForm.parse (o.fill r) = some o := by simp [VsplatForm.parse, VsplatForm.fill]
@[simp] theorem VextForm.parse_fill (o : VextForm) : VextForm.parse (o.fill r) = some o := by simp [VextForm.parse, VextForm.fill]
@[simp] theorem VinsForm.parse_fill (o : VinsForm) : VinsForm.parse (o.fill r) = some o := by simp [VinsForm.parse, VinsForm.fill]
@[simp] theorem VmrankForm.parse_fill (o : VmrankForm) : VmrankForm.parse (o.fill r) = some o := by simp [VmrankForm.parse, VmrankForm.fill]
@[simp] theorem VidForm.parse_fill (o : VidForm) : VidForm.parse (o.fill r) = some o := by simp [VidForm.parse, VidForm.fill]
@[simp] theorem VshufForm.parse_fill (o : VshufForm) : VshufForm.parse (o.fill r) = some o := by simp [VshufForm.parse, VshufForm.fill]
@[simp] theorem VslideForm.parse_fill (o : VslideForm) : VslideForm.parse (o.fill r) = some o := by simp [VslideForm.parse, VslideForm.fill]
@[simp] theorem VcompressForm.parse_fill (o : VcompressForm) : VcompressForm.parse (o.fill r) = some o := by
  simp [VcompressForm.parse, VcompressForm.fill]
@[simp] theorem VexpandForm.parse_fill (o : VexpandForm) : VexpandForm.parse (o.fill r) = some o := by
  simp [VexpandForm.parse, VexpandForm.fill]
@[simp] theorem VecReduce.parse_fill (o : VecReduce) : VecReduce.parse (o.fill r) = some o := by simp [VecReduce.parse, VecReduce.fill]
@[simp] theorem VecFloatReduce.parse_fill (o : VecFloatReduce) : VecFloatReduce.parse (o.fill r) = some o := by
  simp [VecFloatReduce.parse, VecFloatReduce.fill]
@[simp] theorem VdeferForm.parse_fill (o : VdeferForm) : VdeferForm.parse (o.fill r) = some o := by
  simp [VdeferForm.parse, VdeferForm.fill, BitVec.extractLsb'_or]
@[simp] theorem VdrainForm.parse_fill (o : VdrainForm) : VdrainForm.parse (o.fill r) = some o := by
  simp [VdrainForm.parse, VdrainForm.fill, BitVec.extractLsb'_or]
@[simp] theorem VdcountForm.parse_fill (o : VdcountForm) : VdcountForm.parse (o.fill r) = some o := by
  simp [VdcountForm.parse, VdcountForm.fill]
@[simp] theorem QsetForm.parse_fill (o : QsetForm) : QsetForm.parse (o.fill r) = some o := by simp [QsetForm.parse, QsetForm.fill]
@[simp] theorem QsetSegForm.parse_fill (o : QsetSegForm) : QsetSegForm.parse (o.fill r) = some o := by
  simp [QsetSegForm.parse, QsetSegForm.fill]
@[simp] theorem QsetIndForm.parse_fill (o : QsetIndForm) : QsetIndForm.parse (o.fill r) = some o := by
  simp [QsetIndForm.parse, QsetIndForm.fill]
@[simp] theorem VloadForm.parse_fill (o : VloadForm) : VloadForm.parse (o.fill r) = some o := by simp [VloadForm.parse, VloadForm.fill]
@[simp] theorem VstoreForm.parse_fill (o : VstoreForm) : VstoreForm.parse (o.fill r) = some o := by simp [VstoreForm.parse, VstoreForm.fill]
@[simp] theorem MopaForm.parse_fill (o : MopaForm) : MopaForm.parse (o.fill r) = some o := by simp [MopaForm.parse, MopaForm.fill]
@[simp] theorem MstageForm.parse_fill (o : MstageForm) : MstageForm.parse (o.fill r) = some o := by simp [MstageForm.parse, MstageForm.fill]
@[simp] theorem MstreamForm.parse_fill (o : MstreamForm) : MstreamForm.parse (o.fill r) = some o := by
  simp [MstreamForm.parse, MstreamForm.fill]
@[simp] theorem ZreadForm.parse_fill (o : ZreadForm) : ZreadForm.parse (o.fill r) = some o := by simp [ZreadForm.parse, ZreadForm.fill]
@[simp] theorem ZwriteForm.parse_fill (o : ZwriteForm) : ZwriteForm.parse (o.fill r) = some o := by simp [ZwriteForm.parse, ZwriteForm.fill]
@[simp] theorem ZzeroForm.parse_fill (o : ZzeroForm) : ZzeroForm.parse (o.fill r) = some o := by simp [ZzeroForm.parse, ZzeroForm.fill]
@[simp] theorem ZmemForm.parseSave_fillSave (o : ZmemForm) : ZmemForm.parseSave (o.fillSave r) = some o := by
  simp [ZmemForm.parseSave, ZmemForm.fillSave]
@[simp] theorem ZmemForm.parseLoad_fillLoad (o : ZmemForm) : ZmemForm.parseLoad (o.fillLoad r) = some o := by
  simp [ZmemForm.parseLoad, ZmemForm.fillLoad]
@[simp] theorem EqintForm.parse_fill (o : EqintForm) : EqintForm.parse (o.fill r) = some o := by simp [EqintForm.parse, EqintForm.fill]
@[simp] theorem EqmrgForm.parse_fill (o : EqmrgForm) : EqmrgForm.parse (o.fill r) = some o := by simp [EqmrgForm.parse, EqmrgForm.fill]
@[simp] theorem EqnzForm.parse_fill (o : EqnzForm) : EqnzForm.parse (o.fill r) = some o := by simp [EqnzForm.parse, EqnzForm.fill]
@[simp] theorem EqnzCursorForm.parse_fill (o : EqnzCursorForm) : EqnzCursorForm.parse (o.fill r) = some o := by
  simp [EqnzCursorForm.parse, EqnzCursorForm.fill]
@[simp] theorem EqspltForm.parse_fill (o : EqspltForm) : EqspltForm.parse (o.fill r) = some o := by simp [EqspltForm.parse, EqspltForm.fill]
@[simp] theorem CursorMemForm.parseSave_fillSave (o : CursorMemForm) : CursorMemForm.parseSave (o.fillSave r) = some o := by
  simp [CursorMemForm.parseSave, CursorMemForm.fillSave]
@[simp] theorem CursorMemForm.parseLoad_fillLoad (o : CursorMemForm) : CursorMemForm.parseLoad (o.fillLoad r) = some o := by
  simp [CursorMemForm.parseLoad, CursorMemForm.fillLoad]
@[simp] theorem TresizeForm.parse_fill (o : TresizeForm) : TresizeForm.parse (o.fill r) = some o := by
  simp [TresizeForm.parse, TresizeForm.fill]
@[simp] theorem TgiveForm.parse_fill (o : TgiveForm) : TgiveForm.parse (o.fill r) = some o := by simp [TgiveForm.parse, TgiveForm.fill]
@[simp] theorem TcopyForm.parse_fill (o : TcopyForm) : TcopyForm.parse (o.fill r) = some o := by
  simp [TcopyForm.parse, TcopyForm.fill, BitVec.extractLsb'_or]
@[simp] theorem TcastForm.parse_fill (o : TcastForm) : TcastForm.parse (o.fill r) = some o := by
  simp [TcastForm.parse, TcastForm.fill, BitVec.extractLsb'_or]
@[simp] theorem AmoForm.parse_fill (o : AmoForm) : AmoForm.parse (o.fill r) = some o := by simp [AmoForm.parse, AmoForm.fill]
@[simp] theorem VamoForm.parse_fill (o : VamoForm) : VamoForm.parse (o.fill r) = some o := by simp [VamoForm.parse, VamoForm.fill]
@[simp] theorem VlockForm.parse_fill (o : VlockForm) : VlockForm.parse (o.fill r) = some o := by simp [VlockForm.parse, VlockForm.fill]
@[simp] theorem VunlockForm.parse_fill (o : VunlockForm) : VunlockForm.parse (o.fill r) = some o := by
  simp [VunlockForm.parse, VunlockForm.fill]
@[simp] theorem FenceForm.parse_fill (o : FenceForm) : FenceForm.parse (o.fill r) = some o := by simp [FenceForm.parse, FenceForm.fill]
@[simp] theorem BarinitForm.parse_fill (o : BarinitForm) : BarinitForm.parse (o.fill r) = some o := by
  simp [BarinitForm.parse, BarinitForm.fill]
@[simp] theorem BararvForm.parse_fill (o : BararvForm) : BararvForm.parse (o.fill r) = some o := by simp [BararvForm.parse, BararvForm.fill]
@[simp] theorem BarForm.parse_fill (o : BarForm) : BarForm.parse (o.fill r) = some o := by simp [BarForm.parse, BarForm.fill]
@[simp] theorem LsyncForm.parse_fill (o : LsyncForm) : LsyncForm.parse (o.fill r) = some o := by simp [LsyncForm.parse, LsyncForm.fill]
@[simp] theorem TlaunchForm.parse_fill (o : TlaunchForm) : TlaunchForm.parse (o.fill r) = some o := by
  simp [TlaunchForm.parse, TlaunchForm.fill]
@[simp] theorem TwaitForm.parse_fill (o : TwaitForm) : TwaitForm.parse (o.fill r) = some o := by simp [TwaitForm.parse, TwaitForm.fill]
@[simp] theorem EvpopForm.parse_fill (o : EvpopForm) : EvpopForm.parse (o.fill r) = some o := by simp [EvpopForm.parse, EvpopForm.fill]
@[simp] theorem RfenceForm.parse_fill (o : RfenceForm) : RfenceForm.parse (o.fill r) = some o := by simp [RfenceForm.parse, RfenceForm.fill]
@[simp] theorem WmapForm.parse_fill (o : WmapForm) : WmapForm.parse (o.fill r) = some o := by simp [WmapForm.parse, WmapForm.fill]
@[simp] theorem WunmapForm.parse_fill (o : WunmapForm) : WunmapForm.parse (o.fill r) = some o := by simp [WunmapForm.parse, WunmapForm.fill]

end

/-! ## The opcode map (R119) -/

/-- A word whose fields are those that a shape fills, under an OP and FN that name the shape, parses to the instruction. -/
theorem parse_of_form {α : Type} {r f : Raw} {c : Ctl} {mk : α → Instr} {o : α} {p : Option α} (h : some f = some r) (hg : f.g = c.g)
    (hh : f.h = c.h) (hop : parseOp c f = p.map mk) (hp : p = some o) : parse r = some (mk o) := by
  obtain rfl := Option.some.inj h
  rw [parse, Ctl.parse_fields hg hh, Option.bind_some, hop, hp, Option.map_some]

/-- An instruction without operands. -/
theorem parse_of_bare {r f : Raw} {c : Ctl} {i : Instr} (h : some f = some r) (hg : f.g = c.g) (hh : f.h = c.h)
    (hop : parseOp c f = some i) : parse r = some i := by
  obtain rfl := Option.some.inj h
  rw [parse, Ctl.parse_fields hg hh, Option.bind_some, hop]

/-- The two forms of EQNZ share an OP and FN: the class of field A tells them apart (R297). -/
theorem parseOp_eqnz (c : Ctl) (o : EqnzForm) :
    parseOp c (o.fill (Raw.base 0xC0 2 c)) = (EqnzForm.parse (o.fill (Raw.base 0xC0 2 c))).map (Instr.eqnz c) :=
  if_pos (class_vField o.a)

theorem parseOp_eqnzCursorForm (c : Ctl) (o : EqnzCursorForm) : parseOp c (o.fill (Raw.base 0xC0 2 c)) =
    (EqnzCursorForm.parse (o.fill (Raw.base 0xC0 2 c))).map (Instr.eqnzCursorForm c) :=
  if_neg (class_eField o.a)

/-- The fields of an instruction parse to it; the events have none. -/
theorem parse_raw {i : Instr} {r : Raw} (h : i.raw = some r) : parse r = some i := by
  cases i with
  | eret c | nop c | halt c | mswap c => exact parse_of_bare h rfl rfl rfl
  | add c o | sub c o | and_ c o | or_ c o | xor_ c o | andn c o | sll c o | srl c o | sra c o | min_ c o | max_ c o | slt c o | mul c o
  | mulh c o | div c o | rem c o =>
    exact parse_of_form h rfl rfl rfl (ScalarBin.parse_fill _ o)
  | mov c o | clz c o | ctz c o | popc c o | brev c o | bswap c o | fclass c o =>
    exact parse_of_form h rfl rfl rfl (ScalarUn.parse_fill _ o)
  | ext_ c o => exact parse_of_form h rfl rfl rfl (ExtForm.parse_fill _ o)
  | movi c o => exact parse_of_form h rfl rfl rfl (MoviForm.parse_fill _ o)
  | movhi c o => exact parse_of_form h rfl rfl rfl (MovhiForm.parse_fill _ o)
  | addpc c o => exact parse_of_form h rfl rfl rfl (AddpcForm.parse_fill _ o)
  | ld c o | lda c o => exact parse_of_form h rfl rfl rfl (LoadForm.parse_fill _ o)
  | st c o | stl c o => exact parse_of_form h rfl rfl rfl (StoreForm.parse_fill _ o)
  | fadd c o | fsub c o | fmul c o | fdiv c o | fmin c o | fmax c o | fcopys c o | fcopyn c o | fxsign c o | fma c o | fms c o | fnma c o
  | fnms c o =>
    exact parse_of_form h rfl rfl rfl (FloatBin.parse_fill _ o)
  | fsqrt c o => exact parse_of_form h rfl rfl rfl (FloatUn.parse_fill _ o)
  | fcvt c o | fcvti c o | icvtf c o => exact parse_of_form h rfl rfl rfl (ConvertForm.parse_fill _ o)
  | br c o => exact parse_of_form h rfl rfl rfl (BrForm.parse_fill _ o)
  | bri c o => exact parse_of_form h rfl rfl rfl (BriForm.parse_fill _ o)
  | call c o => exact parse_of_form h rfl rfl rfl (CallForm.parse_fill _ o)
  | calli c o => exact parse_of_form h rfl rfl rfl (CalliForm.parse_fill _ o)
  | lsetup c o => exact parse_of_form h rfl rfl rfl (LsetupForm.parse_fill _ o)
  | sysrd c o => exact parse_of_form h rfl rfl rfl (SysrdForm.parse_fill _ o)
  | syswr c o => exact parse_of_form h rfl rfl rfl (SyswrForm.parse_fill _ o)
  | yield c o => exact parse_of_form h rfl rfl rfl (YieldForm.parse_fill _ o)
  | trap c o => exact parse_of_form h rfl rfl rfl (TrapForm.parse_fill _ o)
  | pcmp c o => exact parse_of_form h rfl rfl rfl (PcmpForm.parse_fill _ o)
  | pand c o | por c o | pxor c o | pandn c o => exact parse_of_form h rfl rfl rfl (PredBin.parse_fill _ o)
  | pnot c o | pmov c o => exact parse_of_form h rfl rfl rfl (PredUn.parse_fill _ o)
  | mand c o | mor c o | mxor c o | mandn c o => exact parse_of_form h rfl rfl rfl (MaskBin.parse_fill _ o)
  | mnot c o | mmov c o => exact parse_of_form h rfl rfl rfl (MaskUn.parse_fill _ o)
  | mpopc c o | mfirst c o => exact parse_of_form h rfl rfl rfl (MaskRead.parse_fill _ o)
  | vsetl c o | vsett c o => exact parse_of_form h rfl rfl rfl (SetForm.parse_fill _ o)
  | vadd c o | vsub c o | vrsub c o | vmin c o | vmax c o | vabsd c o | vavg c o | vmul c o | vmulh c o | vmacc c o | vdiv c o | vrem c o
  | vand c o | vor c o | vxor c o | vsll c o | vsrl c o | vsra c o | vwadd c o | vwmul c o | vwmacc c o =>
    exact parse_of_form h rfl rfl rfl (VecBin.parse_fill _ o)
  | vnshr c o => exact parse_of_form h rfl rfl rfl (VecNarrow.parse_fill _ o)
  | vfadd c o | vfsub c o | vfmul c o | vfdiv c o | vfmin c o | vfmax c o | vfcopys c o | vfcopyn c o | vfxsign c o | vfma c o | vfms c o
  | vfnma c o | vfnms c o | vfwadd c o | vfwmul c o | vfwma c o =>
    exact parse_of_form h rfl rfl rfl (VecFloatBin.parse_fill _ o)
  | vfsqrt c o => exact parse_of_form h rfl rfl rfl (VecFloatUn.parse_fill _ o)
  | vfcvt c o | vfcvti c o | vicvtf c o => exact parse_of_form h rfl rfl rfl (VecConvert.parse_fill _ o)
  | vfclass c o | vmov c o => exact parse_of_form h rfl rfl rfl (VecUn.parse_fill _ o)
  | vcmp c o => exact parse_of_form h rfl rfl rfl (VcmpForm.parse_fill _ o)
  | vmerge c o => exact parse_of_form h rfl rfl rfl (VmergeForm.parse_fill _ o)
  | vsplat c o => exact parse_of_form h rfl rfl rfl (VsplatForm.parse_fill _ o)
  | vext c o => exact parse_of_form h rfl rfl rfl (VextForm.parse_fill _ o)
  | vins c o => exact parse_of_form h rfl rfl rfl (VinsForm.parse_fill _ o)
  | vmrank c o => exact parse_of_form h rfl rfl rfl (VmrankForm.parse_fill _ o)
  | vid c o => exact parse_of_form h rfl rfl rfl (VidForm.parse_fill _ o)
  | vshuf c o => exact parse_of_form h rfl rfl rfl (VshufForm.parse_fill _ o)
  | vslideup c o | vslidedn c o => exact parse_of_form h rfl rfl rfl (VslideForm.parse_fill _ o)
  | vcompress c o => exact parse_of_form h rfl rfl rfl (VcompressForm.parse_fill _ o)
  | vexpand c o => exact parse_of_form h rfl rfl rfl (VexpandForm.parse_fill _ o)
  | vredsum c o | vredmin c o | vredmax c o | vredand c o | vredor c o | vredxor c o =>
    exact parse_of_form h rfl rfl rfl (VecReduce.parse_fill _ o)
  | vfredo c o | vfredt c o | vfredmin c o | vfredmax c o => exact parse_of_form h rfl rfl rfl (VecFloatReduce.parse_fill _ o)
  | vdefer c o => exact parse_of_form h rfl rfl rfl (VdeferForm.parse_fill _ o)
  | vdrain c o => exact parse_of_form h rfl rfl rfl (VdrainForm.parse_fill _ o)
  | vdcount c o => exact parse_of_form h rfl rfl rfl (VdcountForm.parse_fill _ o)
  | qsetUnit c o | qsetStride c o => exact parse_of_form h rfl rfl rfl (QsetForm.parse_fill _ o)
  | qsetSeg c o => exact parse_of_form h rfl rfl rfl (QsetSegForm.parse_fill _ o)
  | qsetInd c o => exact parse_of_form h rfl rfl rfl (QsetIndForm.parse_fill _ o)
  | vld c o | vldseg c o => exact parse_of_form h rfl rfl rfl (VloadForm.parse_fill _ o)
  | vst c o | vstseg c o | vstc c o => exact parse_of_form h rfl rfl rfl (VstoreForm.parse_fill _ o)
  | mopa c o | mops c o => exact parse_of_form h rfl rfl rfl (MopaForm.parse_fill _ o)
  | mstage c o => exact parse_of_form h rfl rfl rfl (MstageForm.parse_fill _ o)
  | mstream c o => exact parse_of_form h rfl rfl rfl (MstreamForm.parse_fill _ o)
  | zread c o => exact parse_of_form h rfl rfl rfl (ZreadForm.parse_fill _ o)
  | zwrite c o => exact parse_of_form h rfl rfl rfl (ZwriteForm.parse_fill _ o)
  | zzero c o => exact parse_of_form h rfl rfl rfl (ZzeroForm.parse_fill _ o)
  | zsave c o => exact parse_of_form h rfl rfl rfl (ZmemForm.parseSave_fillSave _ o)
  | zload c o => exact parse_of_form h rfl rfl rfl (ZmemForm.parseLoad_fillLoad _ o)
  | eqint c o => exact parse_of_form h rfl rfl rfl (EqintForm.parse_fill _ o)
  | eqmrg c o => exact parse_of_form h rfl rfl rfl (EqmrgForm.parse_fill _ o)
  | eqnz c o => exact parse_of_form h rfl rfl (parseOp_eqnz c o) (EqnzForm.parse_fill _ o)
  | eqnzCursorForm c o => exact parse_of_form h rfl rfl (parseOp_eqnzCursorForm c o) (EqnzCursorForm.parse_fill _ o)
  | eqsplt c o => exact parse_of_form h rfl rfl rfl (EqspltForm.parse_fill _ o)
  | eqsave c o => exact parse_of_form h rfl rfl rfl (CursorMemForm.parseSave_fillSave _ o)
  | eqload c o => exact parse_of_form h rfl rfl rfl (CursorMemForm.parseLoad_fillLoad _ o)
  | tresize c o => exact parse_of_form h rfl rfl rfl (TresizeForm.parse_fill _ o)
  | tgive c o => exact parse_of_form h rfl rfl rfl (TgiveForm.parse_fill _ o)
  | tcopy c o => exact parse_of_form h rfl rfl rfl (TcopyForm.parse_fill _ o)
  | tcast c o => exact parse_of_form h rfl rfl rfl (TcastForm.parse_fill _ o)
  | amo c o => exact parse_of_form h rfl rfl rfl (AmoForm.parse_fill _ o)
  | vamo c o => exact parse_of_form h rfl rfl rfl (VamoForm.parse_fill _ o)
  | vlock c o => exact parse_of_form h rfl rfl rfl (VlockForm.parse_fill _ o)
  | vunlock c o => exact parse_of_form h rfl rfl rfl (VunlockForm.parse_fill _ o)
  | fence c o => exact parse_of_form h rfl rfl rfl (FenceForm.parse_fill _ o)
  | barinit c o => exact parse_of_form h rfl rfl rfl (BarinitForm.parse_fill _ o)
  | bararv c o => exact parse_of_form h rfl rfl rfl (BararvForm.parse_fill _ o)
  | barexp c o | barwait c o => exact parse_of_form h rfl rfl rfl (BarForm.parse_fill _ o)
  | lsync c o => exact parse_of_form h rfl rfl rfl (LsyncForm.parse_fill _ o)
  | tlaunch c o => exact parse_of_form h rfl rfl rfl (TlaunchForm.parse_fill _ o)
  | twait c o => exact parse_of_form h rfl rfl rfl (TwaitForm.parse_fill _ o)
  | evpop c o => exact parse_of_form h rfl rfl rfl (EvpopForm.parse_fill _ o)
  | rfence c o => exact parse_of_form h rfl rfl rfl (RfenceForm.parse_fill _ o)
  | wmap c o => exact parse_of_form h rfl rfl rfl (WmapForm.parse_fill _ o)
  | wunmap c o => exact parse_of_form h rfl rfl rfl (WunmapForm.parse_fill _ o)
  | _ => cases h

/-! ## The obligation -/

theorem decodeWord_pack {i : Instr} {r : Raw} (hwf : i.wf = true) (h : i.raw = some r) : decodeWord r.pack = some i := by
  simp [decodeWord, Raw.unpack_pack, parse_raw h, hwf, h]

/-- R118: a word that decodes is the encoding of what it decodes to. -/
theorem wf_and_encode_of_decodeWord {w : BitVec 96} {i : Instr} (h : decodeWord w = some i) : i.wf = true ∧ encode i = some w := by
  unfold decodeWord at h
  split at h
  next j _ =>
    split at h
    next ok =>
      obtain rfl := Option.some.inj h
      exact ⟨ok.1, by rw [encode, ok.2, Option.map_some, Raw.pack_unpack]⟩
    · cases h
  · cases h

/-- The word of zeros and the word of ones (R117) hold reserved OPs. -/
theorem decodeWord_zeros : decodeWord 0 = none := by decide
theorem decodeWord_ones : decodeWord (BitVec.allOnes 96) = none := by decide

theorem decode_of_decodeWord {w : BitVec 96} {i : Instr} (h : decodeWord w = some i) : decode w = .instr i := by
  have zeros : w ≠ 0 := by
    rintro rfl
    exact absurd (decodeWord_zeros.symm.trans h) nofun
  have ones : w ≠ BitVec.allOnes 96 := by
    rintro rfl
    exact absurd (decodeWord_ones.symm.trans h) nofun
  rw [decode, if_neg zeros, if_neg ones, h]

/-- Settles O17: the fields of an instruction parse to it (`parse_raw`) and fill the word without loss
(`Raw.unpack_pack`); the converse is the check that the decoder makes of every word. -/
theorem encodingRoundTrip : Obligations.EncodingRoundTrip := by
  refine ⟨fun i w hwf he => ?_, fun w i => wf_and_encode_of_decodeWord⟩
  obtain ⟨r, hr, rfl⟩ := Option.map_eq_some_iff.mp he
  have word := decodeWord_pack hwf hr
  have decoded := decode_of_decodeWord word
  exact ⟨word, decoded, by rw [decodeBytes, wordOfBytes_bytesOfWord, Option.map_some, decoded]⟩

end Sys2Proof
end

section
/-! PROOFS. A SHOOT in a state whose table of partitions is not in the order of its keys, which the statement about
invalidations takes in: there the write of INVCMD changes which format region decodes the page tables. -/

namespace Sys2Proof.Machine

/-- A partition of stack 0 whose page tables begin at 0x40000, with one enabled format region there, in BPN form of
64 KiB with some planes (R172). -/
def planedPartition (planes : Nat) : Partition where
  stackSet := 1
  regs := { ptroot := 0x40001 }
  fmtA := [(0, 0x40001)]
  fmtB := [(0, BitVec.ofNat 64 (planes * 2 ^ 28 + 4 * 2 ^ 24))]

/-- A translation of page 0 of partition 3 that core pair 0 holds. -/
def heldOfPageZero : Translation := { pair := 0, part := 3, page := 0, pte := 0, pa := 0 }

/-- The management link owns the device, core pair 0 holds a translation of page 0 of partition 3, and the table of
partitions lists partition 5 before partition 3. The format regions of the two overlap: read with all eight planes,
the first entry of the page tables is a leaf, and with one plane it is 0. -/
def overlappingRegions : State where
  mem := [(0x44000, 0x01), (0x46000, 0x01), (0x4A000, 0x40), (0x4C000, 0x01), (0x4E000, 0x01)]
  partitions := [(5, planedPartition 1), (3, planedPartition 8)]
  tlb := [heldOfPageZero]
  mailbox := { state := 2, owner := 0 }

theorem mayWrite_overlappingRegions : MayWrite overlappingRegions (.master .management) 3 := ⟨by decide, by decide⟩

/-- Before the command the region of partition 5 decodes the tables, and page 0 has no leaf. -/
theorem walk_overlappingRegions : walk overlappingRegions 3 0 = .noLeaf := by decide

/-- The write of INVCMD lists partition 3 first: its region decodes the tables, and the front end learns a leaf. -/
theorem tlb_startShoot_overlappingRegions : (startShoot overlappingRegions 3).tlb =
    [{ pair := frontPair, part := 3, page := 0, pte := 0x0004000000000033, pa := 2 ^ 50 }] := by decide

/-- Refutes O54: the clause of an accepted SHOOT names the leaf that a walk found before the command. In a state whose
table of partitions is not in the order of its keys (`overlappingRegions`; the model's own writes keep a table sorted,
`tblSorted_tblSet`) and where format regions of two partitions overlap on a page table, the write of INVCMD moves its
partition to the front, its region comes to decode the table, and the front end learns a leaf where there was none. -/
theorem not_invalidationsRun : ¬ Obligations.InvalidationsRun := by
  intro h
  obtain ⟨commands, -⟩ := h overlappingRegions 3
  obtain ⟨-, -, idle, -⟩ := commands (.master .management) mayWrite_overlappingRegions
  obtain ⟨⟨t, ht, -, -, -, -, -, relearned⟩, -⟩ := idle (by decide)
  have made : exec (.shoot (.master .management) 3) overlappingRegions = .next (startShoot overlappingRegions 3) :=
    congrArg _ (byWriter_of_mayWrite mayWrite_overlappingRegions _)
  obtain rfl : startShoot overlappingRegions 3 = t := Host.Outcome.next.inj (made.symm.trans ht)
  rw [tlb_startShoot_overlappingRegions] at relearned
  obtain ⟨-, leaf⟩ := relearned _ List.mem_cons_self rfl (by decide)
  exact absurd (walk_overlappingRegions.symm.trans leaf) nofun

end Sys2Proof.Machine
end

section
/-! PROOFS. The fixed registers s0, p0 and m0 under the accessors that write registers (R108). -/

namespace Sys2Proof.Machine

/-! ## What the fixed registers read and what a write of them leaves -/

@[simp] theorem getS_zero (h : Hart) : h.getS 0 = 0 := rfl
@[simp] theorem getP_zero (h : Hart) : h.getP 0 = true := rfl
@[simp] theorem getM_zero (h : Hart) : h.getM 0 = BitVec.allOnes 1024 := rfl

theorem regs_setS_zero (h : Hart) (x : Word) : (h.setS 0 x).regs = h.regs := by simp [Hart.setS, Regs.setS]
theorem regs_setP_zero (h : Hart) (b : Bool) : (h.setP 0 b).regs = h.regs := by simp [Hart.setP, Regs.setP]
theorem regs_setM_zero (h : Hart) (m : MReg) : (h.setM 0 m).regs = h.regs := by simp [Hart.setM, Regs.setM]

/-- Settles O60: a fixed register is fixed by the accessor that reads it, whatever has been written; a write of one
moves no register, and a write of another is read back at its own index alone. -/
theorem fixedRegistersStand : Obligations.FixedRegistersStand := by
  intro h i j k x b m n
  refine ⟨getS_zero _, getP_zero _, getM_zero _, getM_zero _, fun hi => ?_, fun hj => ?_, fun hk => ?_, regs_setS_zero h x,
    regs_setP_zero h b, regs_setM_zero h m, fun r => getS_setS_other h i r x, fun r => getP_setP_other h j r b,
    fun r => getM_setM_other h k r m⟩
  · rw [getS_setS_same, if_neg hi]
  · rw [getP_setP_same, if_neg hj]
  · rw [getM_setM_same, if_neg hk]

end Sys2Proof.Machine
end

section
/-! PROOFS. The guard of an encoded instruction (R110): the form that all encoded instructions share, the guard in their
words, and what one whose guard is false does. -/

namespace Sys2Proof.Machine

/-! ## What the encoded instructions share -/

/-- The fields `r` of an encoded instruction hold the guard and hints `c`, which its well-formedness checks (R110), and
its meaning is to issue under its OP and `c` some body of its own (R117). -/
structure IssuesAs (i : Instr) (r : Raw) (c : Ctl) : Prop where
  guard : r.g = c.g
  hints : r.h = c.h
  ok : i.wf = true → c.ok = true
  meaning : ∀ s, ∃ body, exec i s = issue r.op.toNat c s body

theorem issuesAs_of_form {i : Instr} {r f : Raw} {c : Ctl} (h : some f = some r) (guard : f.g = c.g) (hints : f.h = c.h)
    (ok : i.wf = true → c.ok = true) (meaning : ∀ s, ∃ body, exec i s = issue f.op.toNat c s body) : ∃ c, IssuesAs i r c := by
  obtain rfl := Option.some.inj h
  exact ⟨c, guard, hints, ok, meaning⟩

/-- A well-formedness that checks the operands too checks the guard. -/
theorem left_of_and {a b : Bool} (h : (a && b) = true) : a = true := ((Bool.and_eq_true a b).mp h).1

/-- Each encoded instruction is of that form: without operands, with operands that R118 leaves unchecked, and with
operands that it checks; the events have no word. The names of the meanings are opened one by one, because unification
with an `issue` whose body is still to be found opens the `issue` instead. -/
theorem issuesAs_of_raw {i : Instr} {r : Raw} (h : i.raw = some r) : ∃ c, IssuesAs i r c := by
  cases i with
  | eret c | nop c | halt c | mswap c =>
    refine issuesAs_of_form h rfl rfl id fun s => ?_
    dsimp only [exec]
    delta execEret execNop execHalt execMswap
    exact ⟨_, rfl⟩
  | movhi c o | addpc c o | br c o | bri c o | call c o | calli c o | yield c o | trap c o | pand c o | por c o | pxor c o
  | pandn c o | pnot c o | pmov c o | mand c o | mor c o | mxor c o | mandn c o | mnot c o | mmov c o | mpopc c o | mfirst c o
  | vsetl c o | vmerge c o | vmov c o | vshuf c o | vslideup c o | vslidedn c o | vcompress c o | vexpand c o | qsetUnit c o
  | qsetStride c o | vld c o | mstage c o | zzero c o | eqsplt c o | eqsave c o | eqload c o | tresize c o | tgive c o | fence c o
  | barinit c o | bararv c o | barexp c o | barwait c o | lsync c o | tlaunch c o | twait c o | evpop c o | rfence c o | wmap c o
  | wunmap c o =>
    refine issuesAs_of_form h rfl rfl id fun s => ?_
    dsimp only [exec]
    delta execMovhi execAddpc execBr execBri execCall execCalli execYield execTrap execPand execPor execPxor execPandn execPnot
      execPmov execMand execMor execMxor execMandn execMnot execMmov execMpopc execMfirst execVsetl execVmerge execVmov execVshuf
      execVslideup execVslidedn execVcompress execVexpand execQsetUnit execQsetStride execVld execMstage execZzero execEqsplt
      execEqsave execEqload execTresize execTgive execFence execBarinit execBararv execBarexp execBarwait execLsync execTlaunch
      execTwait execEvpop execRfence execWmap execWunmap
    exact ⟨_, rfl⟩
  | add c o | sub c o | and_ c o | or_ c o | xor_ c o | andn c o | sll c o | srl c o | sra c o | min_ c o | max_ c o | slt c o
  | mov c o | mul c o | mulh c o | div c o | rem c o | clz c o | ctz c o | popc c o | brev c o | bswap c o | ext_ c o | movi c o
  | ld c o | lda c o | st c o | stl c o | fadd c o | fsub c o | fmul c o | fdiv c o | fsqrt c o | fmin c o | fmax c o | fcopys c o
  | fcopyn c o | fxsign c o | fma c o | fms c o | fnma c o | fnms c o | fcvt c o | fcvti c o | icvtf c o | fclass c o | lsetup c o
  | sysrd c o | syswr c o | pcmp c o | vsett c o | vadd c o | vsub c o | vrsub c o | vmin c o | vmax c o | vabsd c o | vavg c o
  | vmul c o | vmulh c o | vmacc c o | vdiv c o | vrem c o | vand c o | vor c o | vxor c o | vsll c o | vsrl c o | vsra c o
  | vwadd c o | vwmul c o | vwmacc c o | vnshr c o | vfadd c o | vfsub c o | vfmul c o | vfdiv c o | vfsqrt c o | vfmin c o
  | vfmax c o | vfcopys c o | vfcopyn c o | vfxsign c o | vfma c o | vfms c o | vfnma c o | vfnms c o | vfwadd c o | vfwmul c o
  | vfwma c o | vfcvt c o | vfcvti c o | vicvtf c o | vfclass c o | vcmp c o | vsplat c o | vext c o | vins c o | vmrank c o
  | vid c o | vredsum c o | vredmin c o | vredmax c o | vredand c o | vredor c o | vredxor c o | vfredo c o | vfredt c o
  | vfredmin c o | vfredmax c o | vdefer c o | vdrain c o | vdcount c o | qsetSeg c o | qsetInd c o | vldseg c o | vst c o
  | vstseg c o | vstc c o | mopa c o | mops c o | mstream c o | zread c o | zwrite c o | zsave c o | zload c o | eqint c o
  | eqmrg c o | eqnz c o | eqnzCursorForm c o | tcopy c o | tcast c o | amo c o | vamo c o | vlock c o | vunlock c o =>
    refine issuesAs_of_form h rfl rfl left_of_and fun s => ?_
    dsimp only [exec]
    delta execAdd execSub execAnd execOr execXor execAndn execSll execSrl execSra execMin execMax execSlt execMov execMul execMulh
      execDiv execRem execClz execCtz execPopc execBrev execBswap execExt execMovi execLd execLda execSt execStl execFadd execFsub
      execFmul execFdiv execFsqrt execFmin execFmax execFcopys execFcopyn execFxsign execFma execFms execFnma execFnms execFcvt
      execFcvti execIcvtf execFclass execLsetup execSysrd execSyswr execPcmp execVsett execVadd execVsub execVrsub execVmin execVmax
      execVabsd execVavg execVmul execVmulh execVmacc execVdiv execVrem execVand execVor execVxor execVsll execVsrl execVsra
      execVwadd execVwmul execVwmacc execVnshr execVfadd execVfsub execVfmul execVfdiv execVfsqrt execVfmin execVfmax execVfcopys
      execVfcopyn execVfxsign execVfma execVfms execVfnma execVfnms execVfwadd execVfwmul execVfwma execVfcvt execVfcvti execVicvtf
      execVfclass execVcmp execVsplat execVext execVins execVmrank execVid execVredsum execVredmin execVredmax execVredand
      execVredor execVredxor intReduce execVfredo execVfredt execVfredmin execVfredmax execVdefer execVdrain execVdcount execQsetSeg
      execQsetInd execVldseg execVst execVstseg execVstc execMopa execMops execMstream execZread execZwrite execZsave execZload
      execEqint execEqmrg execEqnz execEqnzCursorForm execTcopy execTcast execAmo execVamo execVlock execVunlock
    exact ⟨_, rfl⟩
  | _ => cases h

/-! ## The guard in a word -/

theorem neg_and_pred_of_parse {w : BitVec 96} {c : Ctl} (h : Ctl.parse (Raw.unpack w) = some c) :
    c.neg = w.getLsbD 81 ∧ c.pred = w.extractLsb' 78 3 := by
  obtain ⟨st, -, rfl⟩ := Option.map_eq_some_iff.mp h
  refine ⟨?_, ?_⟩
  · simp [Raw.unpack]
  · refine BitVec.eq_of_getLsbD_eq fun k hk => ?_
    have inside : k < 4 := by omega
    simp [Raw.unpack, hk, inside]

/-- The guard (!p0) is malformed (R110). -/
theorem ok_eq_false_of_g {c : Ctl} (h : c.g = 0b1000#4) : c.ok = false := by
  obtain ⟨neg, pred, rd, st, yld⟩ := c
  revert h neg pred
  simp only [Ctl.g, Ctl.ok]
  decide

theorem decodeWord_of_never_guard {w : BitVec 96} (h : w.extractLsb' 78 4 = 0b1000#4) : decodeWord w = none := by
  cases hd : decodeWord w with
  | none => rfl
  | some i =>
    obtain ⟨wf, enc⟩ := wf_and_encode_of_decodeWord hd
    obtain ⟨r, hr, hw⟩ := Option.map_eq_some_iff.mp enc
    obtain ⟨c, form⟩ := issuesAs_of_raw hr
    have field : r.g = w.extractLsb' 78 4 := by rw [← hw]; exact congrArg Raw.g (Raw.unpack_pack r).symm
    have bad := ok_eq_false_of_g (form.guard.symm.trans (field.trans h))
    exact absurd (form.ok wf) (by simp [bad])

/-! ## A false guard -/

theorem skipGuarded_rest (op : Nat) (h : Hart) : (skipGuarded op h).core = h.core ∧ (skipGuarded op h).after = h.after ∧
    (skipGuarded op h).instret = h.instret := by
  unfold skipGuarded
  split
  · obtain ⟨regs, instret, trap⟩ := consume_rest h (.branch false 0)
    exact ⟨core_consume h _, by simp only [Hart.after, Hart.pc, regs, trap], instret⟩
  · exact ⟨rfl, rfl, rfl⟩

/-- An instruction with a false guard completes with its hart at VSTART 0, whatever its body (R110). -/
theorem issue_skips {op : Nat} {c : Ctl} {s : State} {slot : Nat} {h : Hart} (turn : s.turn = some slot) (hart : s.hart? slot = some h)
    (lamp : isLamp slot = true → lampRuns op = true) (guard : guardTrue h c = false) (body : State → Nat → Hart → Res) :
    ∃ t, issue op c s body = .next t ∧ CompletedAs (noteRunning s h) slot (h.setVstart 0) t := by
  let g := skipGuarded op (h.setVstart 0)
  have runs : (isLamp slot && !lampRuns op) = false := by
    cases hb : isLamp slot
    · rfl
    · simp [lamp hb]
  have skipped : issue op c s body = .next (close slot (.done ((noteRunning s h).setHart slot g))) := by
    simp [issue, State.current, turn, hart, runs, guard, g]
  obtain ⟨core, after, instret⟩ := skipGuarded_rest op (h.setVstart 0)
  have retired := completedAs_setHart (retire_spec (hart_setHart_same (noteRunning s h) slot g))
  -- a skipped instruction lends no lanes, as one of OP 0x00 would lend none
  exact ⟨_, skipped, completedAs_through 0 (completedAs_congr retired core.symm after.symm instret.symm)⟩

/-- Settles O9: every encoded instruction issues, and `issue` skips its body where the guard is false. -/
theorem falseGuardHasNoEffect : Obligations.FalseGuardHasNoEffect := by
  refine ⟨fun _ _ => rfl, fun _ => decodeWord_of_never_guard, fun w i c _ => neg_and_pred_of_parse,
    fun i r c s slot h hr hc turn hart lamp guard => ?_⟩
  obtain ⟨c', form⟩ := issuesAs_of_raw hr
  obtain rfl : c' = c := Option.some.inj ((Ctl.parse_fields form.guard form.hints).symm.trans hc)
  obtain ⟨body, issued⟩ := form.meaning s
  rw [issued]
  exact issue_skips turn hart lamp guard body

end Sys2Proof.Machine
end

section
/-! PROOFS. The words that the spec writes out. -/

namespace Sys2Proof

/-- The word of a well-formed encoded instruction decodes to it. -/
theorem decodeWord_of_encode {i : Instr} {w : BitVec 96} (wf : i.wf = true) (word : encode i = some w) : decodeWord w = some i :=
  (encodingRoundTrip.1 i w wf word).1

/-- Settles O18: each word is the encoding of its instruction, or holds the guard (!p0). -/
theorem writtenWordsDecode : Obligations.WrittenWordsDecode := by
  refine ⟨?_, ?_, ?_, ?_, ?_, ?_, ?_, ?_, ?_, ?_, ?_⟩
  case refine_4 => exact Machine.decodeWord_of_never_guard (by decide)
  all_goals exact decodeWord_of_encode (by decide) (by decide)

end Sys2Proof
end

section
/-! PROOFS. The step of an agent (R117): the fetch of the word at its PC, what its turn begins with, what keeps its
instruction from issuing, and what the slice table sees of it. -/

namespace Sys2Proof.Machine

/-! ## What a fetch leaves behind (R99) -/

theorem crew_touchWords (s : State) (pa n : Nat) : (touchWords s pa n).crew = s.crew :=
  crew_foldl (f := fun t k => touchCombining t (pa / 8 * 8 + 8 * k)) (fun _ _ => rfl) _ s

theorem crew_rememberAt (s : State) (slot part va pa : Nat) (pte : Word) : (rememberAt s slot part va pa pte).crew = s.crew := by
  unfold rememberAt remember
  split
  · rfl
  · split <;> rfl

theorem crew_meetPage (s : State) (part va pa : Nat) (pte : Word) : (meetPage s part va pa pte).crew = s.crew := by
  obtain ⟨l, e⟩ := meetPage_eq s part va pa pte
  rw [e]
  rfl

theorem crew_countRepl (s : State) (die g pa : Nat) (write : Bool) : (countRepl s die g pa write).crew = s.crew := by
  obtain ⟨l, e⟩ := countRepl_eq s die g pa write
  rw [e]
  rfl

theorem crew_noteTouch (s : State) (slot part va pa n : Nat) (pte : Word) (write : Bool) :
    (noteTouch s slot part va pa n pte write).crew = s.crew := by
  have met : (meetPage (if pteAtom pte then touchWords s pa n else s) part va pa pte).crew = s.crew := by
    rw [crew_meetPage]
    split
    · exact crew_touchWords s pa n
    · rfl
  unfold noteTouch
  dsimp only
  split
  · exact (crew_countRepl _ _ _ _ _).trans met
  · exact met

@[simp] theorem crew_noteAccess (s : State) (slot part va pa n : Nat) (pte : Word) (write : Bool) :
    (noteAccess s slot part va pa n pte write).crew = s.crew :=
  (crew_noteTouch _ _ _ _ _ _ _ _).trans (crew_rememberAt s slot part va pa pte)

theorem crew_rememberFetch (s : State) (slot : Nat) (h : Hart) : (rememberFetch s slot h).crew = s.crew := by
  refine crew_foldl (fun t e => ?_) _ s
  split
  · dsimp only
    split <;> simp
  · rfl

/-- The state in which the word at a PC is there: as it was where the hart held its packets, else with what their
fetch leaves (R120). -/
def wordArrives (s : State) (slot : Nat) (h : Hart) : State :=
  if (wordIn h.packets h.pc.toNat).isSome then s else rememberFetch s slot h

theorem hart_wordArrives (s : State) (slot : Nat) (h : Hart) (k : Nat) : (wordArrives s slot h).hart? k = s.hart? k := by
  refine hart_of_crew ?_ k
  unfold wordArrives
  split
  · rfl
  · exact crew_rememberFetch s slot h

/-! ## The turn of an agent -/

/-- An agent of slot `slot` takes its turn with the hart `h`, which nothing keeps from its fetch: it may issue, waits
for nothing, came with no poisoned control state (R392) and takes no interrupt (R56); the word at its PC is `bs`. -/
structure Fetches (s s' : State) (slot : Nat) (budget : Option Nat) (h : Hart) (bs : List Byte) : Prop where
  turn : nextTurn s = some (.agent slot budget, s')
  hart : s'.hart? slot = some h
  issues : canIssue slot h = true
  held : h.held = none
  clean : h.marked firstWords = false
  quiet : pendingInterrupt s' slot h = none
  word : fetchWord { s' with turn := some slot } slot h = .ok bs

/-- The hart as it issues: the packets that the next word does not need are dropped (R120). -/
def Hart.issuesWord (h : Hart) : Hart := { h with packets := keepPackets h.packets h.pc.toNat, held := none }

/-- The state in which the hart of a slot issues the instruction at its PC. -/
def wordIssues (s : State) (slot : Nat) (h : Hart) : State :=
  (wordArrives { s with turn := some slot } slot h).setHart slot h.issuesWord

section
variable {s s' : State} {slot : Nat} {budget : Option Nat} {h : Hart} {bs : List Byte}

/-- The turn is over where the word does not decode to an instruction (R117 steps 4 to 6). -/
theorem step_of_no_instr (f : Fetches s s' slot budget h bs) {d : Denied} (hd : decodeFetched bs = .error d) :
    step s = .next (deny (wordArrives { s' with turn := some slot } slot h) slot d) := by
  have hart : ({ s' with turn := some slot } : State).hart? slot = some h := f.hart
  have quiet : pendingInterrupt { s' with turn := some slot } slot h = none := f.quiet
  simp [step, f.turn, beginTurn, hart, f.issues, stillHeld, f.held, f.clean, quiet, f.word, hd, wordArrives]

/-- The turn up to the instruction that the word decodes to (R117 step 6). -/
theorem beginTurn_of_instr (f : Fetches s s' slot budget h bs) {i : Instr} (hd : decodeFetched bs = .ok i) :
    (∀ t, notIssued (wordIssues s' slot h) slot h.issuesWord i = some t → beginTurn s' slot budget = .over t) ∧
    (notIssued (wordIssues s' slot h) slot h.issuesWord i = none →
      beginTurn s' slot budget = .instr { noteFeeds (wordIssues s' slot h) slot h.issuesWord i with budget := budget } i) := by
  have hart : ({ s' with turn := some slot } : State).hart? slot = some h := f.hart
  have quiet : pendingInterrupt { s' with turn := some slot } slot h = none := f.quiet
  refine ⟨fun t waits => ?_, fun free => ?_⟩
  · simp only [wordIssues, wordArrives, Hart.issuesWord] at waits
    simp [beginTurn, hart, f.issues, stillHeld, f.held, f.clean, quiet, f.word, hd, waits]
  · simp only [wordIssues, wordArrives, Hart.issuesWord] at free ⊢
    simp [beginTurn, hart, f.issues, stillHeld, f.held, f.clean, quiet, f.word, hd, free]

theorem step_of_notIssued (f : Fetches s s' slot budget h bs) {i : Instr} (hd : decodeFetched bs = .ok i) {t : State}
    (waits : notIssued (wordIssues s' slot h) slot h.issuesWord i = some t) : step s = .next t := by
  simp only [step, f.turn, (beginTurn_of_instr f hd).1 t waits]

theorem step_of_issued (f : Fetches s s' slot budget h bs) {i : Instr} (hd : decodeFetched bs = .ok i)
    (free : notIssued (wordIssues s' slot h) slot h.issuesWord i = none) :
    step s = exec i { noteFeeds (wordIssues s' slot h) slot h.issuesWord i with budget := budget } := by
  simp only [step, f.turn, (beginTurn_of_instr f hd).2 free]

/-- A bad word traps at the hart that fetched it (R117 steps 4 to 6). -/
theorem step_of_bad_word (f : Fetches s s' slot budget h bs) {t : Trap} (hd : decodeFetched bs = .error (.trap t 0)) :
    step s = .next (takeTrap (wordArrives { s' with turn := some slot } slot h) slot t 0 h.pc) := by
  have hart : (wordArrives { s' with turn := some slot } slot h).hart? slot = some h := (hart_wordArrives _ slot h slot).trans f.hart
  rw [step_of_no_instr f hd]
  simp only [deny, hart]

end

/-- Settles O16: a bad word is one that `decodeFetched` answers with its trap, and an event at the head of the agenda is
the next turn. -/
theorem stepMeetsBadWordsAndEvents : Obligations.StepMeetsBadWordsAndEvents := by
  refine ⟨fun s s' slot budget h bs rest turn hart issues held clean quiet word => ?_, fun s i rest head => ?_⟩
  · have f : Fetches s s' slot budget h bs := ⟨turn, hart, issues, held, clean, quiet, word⟩
    refine ⟨fun zeros => ?_, fun ones => ?_, fun bad => ?_⟩
    · exact step_of_bad_word f (by rw [decodeFetched, zeros])
    · exact step_of_bad_word f (by rw [decodeFetched, ones])
    · exact step_of_bad_word f (by rw [decodeFetched, bad])
  · simp [step, nextTurn, head]

/-! ## What keeps an instruction from issuing -/

section
variable {s : State} {slot : Nat} {h : Hart} {i : Instr}

theorem notIssued_of_poisoned (bad : h.controlPoisoned i = true) :
    notIssued s slot h i = some (takeTrap s slot .poison (BitVec.allOnes 64) h.pc) := by
  simp [notIssued, bad]

theorem notIssued_of_fenced (good : h.controlPoisoned i = false) (fence : fenced s slot h i = true) :
    notIssued s slot h i = some (boundStorePins h.fencedQueues s slot) := by
  simp [notIssued, good, fence]

theorem notIssued_of_awaits (good : h.controlPoisoned i = false) (free : fenced s slot h i = false) (waits : awaitsLantern h i = true) :
    notIssued s slot h i = some (s.setHart slot { h with lantern := { h.lantern with awaits := true } }) := by
  simp [notIssued, good, free, waits]

theorem notIssued_eq_none (good : h.controlPoisoned i = false) (free : fenced s slot h i = false) (met : awaitsLantern h i = false) :
    notIssued s slot h i = none := by
  simp [notIssued, good, free, met]

/-- An operation that has nothing to wait for is over (R315). -/
theorem over_nothing (s : State) (slot : Nat) (gone : List PinKey) : Pending.over s slot gone {} = true := by
  have hosts : ∀ vec, hostOpen s slot vec 0 = false := by simp [hostOpen]
  unfold Pending.over
  split
  · simp [hosts]
  · simp [hosts]

theorem fenced_of_no_fence (scalar : h.fenceS = {}) (vector : h.fenceV = {}) : fenced s slot h i = false := by
  unfold fenced
  split
  · rfl
  · simp [scalar, vector, over_nothing]

theorem controlPoisoned_of_clean (clean : h.poison = []) : h.controlPoisoned i = false := by simp [Hart.controlPoisoned, clean]

end

/-! ## The word from packets that are held, and from memory -/

theorem fetchWord_of_held {s : State} {slot : Nat} {h : Hart} {bs : List Byte} (held : wordIn h.packets h.pc.toNat = some bs)
    (clean : poisonIn h.packets h.pc.toNat = none) : fetchWord s slot h = .ok bs := by
  simp [fetchWord, held, clean]

/-- A word whose 12 bytes lie in one packet (R120). -/
theorem packetsOf_one {a : Nat} (ha : a % 32 ≤ 20) : packetsOf a = [(a / 32 * 32, a, a + 11)] := by
  have inside : a + 11 < a / 32 * 32 + 32 := by omega
  simp [packetsOf, inside]

theorem packetAt_one {p : Packet} {a : Nat} (low : p.va ≤ a) (high : a < p.va + 32) : packetAt [p] a = some p := by
  simp [packetAt, low, high]

/-- The word in a packet of 32 bytes of memory is the 12 bytes at its place. -/
theorem wordIn_one {s : State} {p : Packet} {a x : Nat} (bytes : p.bytes = physReadBytes s x 32) (low : p.va ≤ a)
    (high : a + 11 < p.va + 32) : wordIn [p] a = some (physReadBytes s (x + (a - p.va)) 12) := by
  have at_ : ∀ k, k < 12 → packetAt [p] (a + k) = some p := fun k hk => packetAt_one (by omega) (by omega)
  have first : packetAt [p] a = some p := at_ 0 (by omega)
  simp only [wordIn, first, at_ 11 (by omega), physReadBytes]
  refine congrArg some (List.map_congr_left fun k hk => ?_)
  have small : k < 12 := List.mem_range.mp hk
  have place : x + (a + k - p.va) = x + (a - p.va) + k := by omega
  have inside : a + k - p.va < 32 := by omega
  simp [at_ k small, bytes, physReadBytes, listGetD, inside, place]

/-- The task record of the hart's gang, by which its accesses are granted; none for a Lamplighter (R56). -/
def recordOf (s : State) (h : Hart) : List Byte :=
  match hartTask s h with
  | some k => k.record
  | none => []

/-- A check of steps 1 and 2 of R117 that a Lamplighter does not make (R56). -/
theorem none_of_lamp {α : Type} {slot : Nat} {o : Option α} (h : isLamp slot = false → o = none) :
    (if isLamp slot then none else o) = none := by
  cases lamp : isLamp slot with
  | true => rfl
  | false => simpa using h lamp

/-- A word in one packet, of a page that is granted and walks, whose bytes pass step 3 of R117, comes from memory. -/
theorem fetchWord_of_memory {s : State} {slot : Nat} {h : Hart} {pg : Nat} {e : Word} (absent : wordIn h.packets h.pc.toNat = none)
    (inside : h.pc.toNat % 32 ≤ 20)
    (granted : isLamp slot = false → (∀ k, k < 12 → inScratchWindow (h.pc.toNat + k) = false) ∧
      leaseFailure (s.part h.ids.part) (recordOf s h) h.pc.toNat 12 false = none)
    (leaf : translatePage s slot h (recordOf s h) h.pc.toNat false = .ok (pg, e))
    (link : hostReadFails s (pg + h.pc.toNat % 65536) 12 = false)
    (unpinned : pinnedElsewhere s (pairOfAgent slot) (pg + h.pc.toNat % 65536) 12 = none)
    (clean : readPoison s slot (pg + h.pc.toNat % 65536) 12 = none) :
    fetchWord s slot h = .ok (physReadBytes s (pg + h.pc.toNat % 65536) 12) := by
  generalize ha : h.pc.toNat = a at *
  have scratch := none_of_lamp (o := (List.range 12).find? fun k => inScratchWindow (a + k)) fun lamp => by simpa using (granted lamp).1
  have lease := none_of_lamp fun lamp => (granted lamp).2
  -- the packet at `b`, of 32 bytes from `x` in memory, and the place of the word in it
  obtain ⟨b, hb⟩ : ∃ b, b = a / 32 * 32 := ⟨_, rfl⟩
  obtain ⟨x, hx⟩ : ∃ x, x = pg + b % 65536 := ⟨_, rfl⟩
  have place : x + (a - b) = pg + a % 65536 := by omega
  have length : a + 11 - b - (a - b) + 1 = 12 := by omega
  obtain ⟨bad, read⟩ : ∃ bad, fetchPacketRead s slot a x (a - b) (a + 11 - b) = .ok (physReadBytes s x 32, bad) := by
    simp [fetchPacketRead, place, length, link, unpinned, clean]
  have fetched : fetch s slot h = .ok [{ va := b, bytes := physReadBytes s x 32, poison := bad }] := by
    cases task : hartTask s h
    all_goals
      simp only [recordOf, task] at leaf lease
      simp only [fetch, ha, task, scratch, lease, packetsOf_one inside, ← hb, fetchPlaces, leaf, ← hx, fetchReads, read]
  have word : wordIn [{ va := b, bytes := physReadBytes s x 32, poison := bad }] a = some (physReadBytes s (x + (a - b)) 12) :=
    wordIn_one rfl (by simp only; omega) (by simp only; omega)
  simp only [fetchWord, ha, absent, fetched, word, place, Option.getD_some]

/-! ## What the slice table sees (R141) -/

/-- Between `s` and `t` only the slice tables and what the registers of the hart of a slot carry may differ. -/
structure SeesSlices (s : State) (slot : Nat) (h : Hart) (t : State) : Prop where
  hart : ∃ f, t.hart? slot = some { h with lantern := { h.lantern with feeds := f } }
  others : ∀ k, k ≠ slot → t.hart? k = s.hart? k
  pins : ∀ k, (t.pair k).pins = (s.pair k).pins
  rest : { t with harts := [], pairs := [] } = { s with harts := [], pairs := [] }

theorem seesSlices_refl {s : State} {slot : Nat} {h : Hart} (hs : s.hart? slot = some h) : SeesSlices s slot h s :=
  ⟨⟨h.lantern.feeds, hs⟩, fun _ _ => rfl, fun _ => rfl, rfl⟩

theorem seesSlices_set (s : State) (slot : Nat) (h : Hart) (n : Nat) (l : List SliceEntry)
    (f : List (LanternReg × List Feed)) : SeesSlices s slot h
      ((s.setPair n { s.pair n with slices := l }).setHart slot { h with lantern := { h.lantern with feeds := f } }) where
  hart := ⟨f, hart_setHart_same _ slot _⟩
  others k hk := hart_setHart_other _ slot k _ hk
  pins k := by
    show (tblGetD (tblPut s.pairs n _ {}) k {}).pins = (s.pair k).pins
    by_cases hk : k = n
    · subst hk
      rw [tblGetD_tblPut_same]
    · rw [tblGetD_tblPut_other _ _ _ _ _ hk]
      rfl
  rest := rfl

theorem noteFeeds_seesSlices {s : State} {slot : Nat} {h : Hart} (hs : s.hart? slot = some h) (i : Instr) :
    SeesSlices s slot h (noteFeeds s slot h i) := by
  unfold noteFeeds
  split
  · exact seesSlices_refl hs
  · dsimp only
    split
    · exact seesSlices_refl hs
    · rw [modHart_eq_setHart (s := s.setPair _ _) hs]
      exact seesSlices_set s slot h _ _ _

/-- Settles O15: the turn brings the decoded instruction unless one of the three checks of `notIssued` holds it, which are
made in that order. -/
theorem stepRunsTheDecodedInstruction : Obligations.StepRunsTheDecodedInstruction := by
  refine ⟨?_, ?_, ?_, ?_, fun s slot h i hs => ?_⟩
  · intro s s' slot budget h bs i turn hart issues held clean quiet u word decoded v g w
    have f : Fetches s s' slot budget h bs := ⟨turn, hart, issues, held, clean, quiet, word⟩
    have hd : decodeFetched bs = .ok i := by rw [decodeFetched, decoded]
    exact ⟨step_of_issued f hd, fun bad => step_of_notIssued f hd (notIssued_of_poisoned bad),
      fun good fence => step_of_notIssued f hd (notIssued_of_fenced good fence),
      fun good free waits => step_of_notIssued f hd (notIssued_of_awaits good free waits)⟩
  · intro w slot g i clean scalar vector lantern
    refine notIssued_eq_none (controlPoisoned_of_clean clean) (fenced_of_no_fence scalar vector) ?_
    rcases lantern with quiet | abreast | met
    · simp [awaitsLantern, quiet]
    · simp [awaitsLantern, abreast]
    · simp [awaitsLantern, met]
  · exact fun u slot h bs => fetchWord_of_held
  · exact fun u slot h pg e absent inside granted leaf link unpinned clean =>
      fetchWord_of_memory absent inside granted leaf link unpinned clean
  · obtain ⟨feeds, others, pins, rest⟩ := noteFeeds_seesSlices hs i
    exact ⟨feeds, others, pins, rest⟩

end Sys2Proof.Machine
end

section
/-! PROOFS. A pin at its bound beside one that ends already, by a release that waits for the transfer of another hart:
the statement about packets, forks and pin bounds takes such a state in, and the second pin stands on. -/

namespace Sys2Proof.Machine

/-- A transfer that the hart in slot 2 has in flight. -/
def transferOfSlotTwo : Transfer := { id := 7, slot := 2, gang := 0, work := .copy false [] [], bar := none, bytes := 0 }

/-- A pin of the hart in slot 0 that a RETRY has met, and that no release is ending yet. -/
def retriedPin : Pin := { slot := 0, line := 5, retried := true }

/-- A pin of the same hart that is ending as by a release of kind all, which waits for transfer 7. -/
def awaitingPin : Pin := { slot := 0, line := 6, ending := [{ transfers := [7], whole := true }] }

/-- The hart in slot 0 holds both pins, and has itself no transfer in flight and nothing under a pin of its sibling. -/
def crossedRelease : State where
  harts := [(0, Hart.initial)]
  pairs := [(0, { pins := [retriedPin, awaitingPin] })]
  transfers := [transferOfSlotTwo]

theorem exec_pinTimeout_crossedRelease :
    exec (.pinTimeout (pairOf 0) 5) crossedRelease = .next (releasePins (boundSiblingPins .both crossedRelease 0) 0) := rfl

/-- The bound of the one pin gives the other no new release (`pendPins`), and what it waits for is not over. -/
theorem awaitingPin_stands :
    awaitingPin ∈ ((releasePins (boundSiblingPins .both crossedRelease 0) 0).pair (pairOf 0)).pins := by decide

/-- Refutes O47: the clause of a pin's bound has every pin of the hart gone where the hart has no transfer in flight and
nothing under a pin of its sibling. A pin that a whole release is ending already keeps what that release waits for; where
that is a transfer of another hart (`crossedRelease`; `releasePins` itself names only transfers of the pin's hart), the
pin stands. -/
theorem not_packetsAreFetchedAndForked : ¬ Obligations.PacketsAreFetchedAndForked := by
  rintro ⟨-, events⟩
  obtain ⟨-, -, -, bounds⟩ := events crossedRelease 0 Hart.initial rfl
  obtain ⟨t, ht, -, -, released⟩ := bounds 5 retriedPin (by decide) rfl (by decide)
  obtain rfl := Host.Outcome.next.inj (exec_pinTimeout_crossedRelease.symm.trans ht)
  obtain ⟨-, gone⟩ := released (by decide)
  exact gone (by decide) (by decide) awaitingPin awaitingPin_stands rfl

end Sys2Proof.Machine
end

section
/-! PROOFS. Integers of a type's width (R159, R160, R190, R192): what a word is read as, what narrowing gives back, and
the quotient, the high half and the shifts. -/

namespace Sys2Proof

open Machine

theorem Ty.width_pos (t : Ty) : 0 < t.width := by cases t <;> decide

theorem Ty.width_le (t : Ty) : t.width ≤ 64 := by cases t <;> decide

/-- Every width is a power of two, so that a shift amount may be cut to the width before it is reduced. -/
theorem Ty.width_dvd (t : Ty) : t.width ∣ 2 ^ t.width := by cases t <;> decide

theorem toNat_low (w : Nat) (x : Word) : (low w x).toNat = x.toNat % 2 ^ w := by
  unfold low
  have := Nat.mod_le x.toNat (2 ^ w)
  simp only [BitVec.toNat_setWidth]
  omega

theorem setWidth_wrap {w : Nat} (hw : w ≤ 64) (x : Int) : (wrap w x).setWidth w = BitVec.ofInt w x := by
  unfold wrap
  rw [BitVec.setWidth_setWidth_of_le _ hw, BitVec.setWidth_eq]

theorem setWidth_low {w : Nat} (hw : w ≤ 64) (x : Word) : (low w x).setWidth w = x.setWidth w := by
  unfold low
  rw [BitVec.setWidth_setWidth_of_le _ hw, BitVec.setWidth_eq]

/-- The sign bit's weight doubles to the modulus, in a form that `omega` uses. -/
theorem Ty.pow_width (t : Ty) : (2 : Int) ^ t.width = 2 * 2 ^ (t.width - 1) := by
  rw [← pow_succ', Nat.sub_add_cancel t.width_pos]

theorem Ty.pow_pred_width_pos (t : Ty) : (0 : Int) < 2 ^ (t.width - 1) := by positivity

theorem Ty.range_eq (t : Ty) :
    t.minInt = 0 ∧ t.maxInt = 2 * 2 ^ (t.width - 1) - 1 ∨ t.minInt = -2 ^ (t.width - 1) ∧ t.maxInt = 2 ^ (t.width - 1) - 1 := by
  unfold Ty.minInt Ty.maxInt
  rw [t.pow_width]
  cases t.isSigned
  · exact .inl ⟨rfl, rfl⟩
  · exact .inr ⟨rfl, rfl⟩

theorem Ty.zero_mem_range (t : Ty) : t.minInt ≤ 0 ∧ 0 ≤ t.maxInt := by
  have := t.pow_pred_width_pos
  obtain ⟨hmin, hmax⟩ | ⟨hmin, hmax⟩ := t.range_eq <;> omega

theorem Ty.int_low (t : Ty) (x : Word) : t.int (low t.width x) = t.int x := by
  unfold Ty.int
  rw [setWidth_low t.width_le]

theorem Ty.int_bounds (t : Ty) (x : Word) : t.minInt ≤ t.int x ∧ t.int x ≤ t.maxInt := by
  unfold Ty.int Ty.minInt Ty.maxInt
  split
  · exact ⟨BitVec.le_toInt _, Int.le_sub_one_of_lt BitVec.toInt_lt⟩
  · have := (x.setWidth t.width).isLt
    refine ⟨Int.natCast_nonneg _, Int.le_sub_one_of_lt ?_⟩
    exact_mod_cast this

/-- A number in the type's range is what its pattern reads as. -/
theorem Ty.int_wrap (t : Ty) {x : Int} (lo : t.minInt ≤ x) (hi : x ≤ t.maxInt) : t.int (wrap t.width x) = x := by
  have hp := t.pow_width
  unfold Ty.minInt at lo
  unfold Ty.maxInt at hi
  unfold Ty.int
  rw [setWidth_wrap t.width_le]
  split <;> rename_i signed <;> simp only [signed, if_true, if_false, Bool.false_eq_true] at lo hi
  · exact BitVec.toInt_ofInt_eq_self t.width_pos lo (by omega)
  · rw [BitVec.toNat_ofInt, Int.toNat_of_nonneg (Int.emod_nonneg _ (by positivity))]
    exact Int.emod_eq_of_lt lo (by push_cast; omega)

theorem Ty.clamp_of_mem (t : Ty) {x : Int} (lo : t.minInt ≤ x) (hi : x ≤ t.maxInt) : t.clamp x = x := by
  unfold Ty.clamp
  rw [if_neg (by omega), if_neg (by omega)]

theorem Ty.clamp_of_lt (t : Ty) {x : Int} (h : x < t.minInt) : t.clamp x = t.minInt := if_pos h

theorem Ty.clamp_of_gt (t : Ty) {x : Int} (h : t.maxInt < x) : t.clamp x = t.maxInt := by
  obtain ⟨_, _⟩ := t.zero_mem_range
  unfold Ty.clamp
  rw [if_neg (by omega), if_pos h]

theorem Ty.clamp_eq_max_min (t : Ty) (x : Int) : t.clamp x = max t.minInt (min x t.maxInt) := by
  obtain ⟨_, _⟩ := t.zero_mem_range
  unfold Ty.clamp
  split
  · omega
  · split <;> omega

theorem Ty.int_narrow_of_mem (t : Ty) {x : Int} (lo : t.minInt ≤ x) (hi : x ≤ t.maxInt) : t.int (t.narrow true x) = x := by
  rw [Ty.narrow, if_pos rfl, t.clamp_of_mem lo hi, t.int_wrap lo hi]

theorem Ty.int_narrow_of_lt (t : Ty) {x : Int} (h : x < t.minInt) : t.int (t.narrow true x) = t.minInt := by
  obtain ⟨_, _⟩ := t.zero_mem_range
  rw [Ty.narrow, if_pos rfl, t.clamp_of_lt h, t.int_wrap le_rfl (by omega)]

theorem Ty.int_narrow_of_gt (t : Ty) {x : Int} (h : t.maxInt < x) : t.int (t.narrow true x) = t.maxInt := by
  obtain ⟨_, _⟩ := t.zero_mem_range
  rw [Ty.narrow, if_pos rfl, t.clamp_of_gt h, t.int_wrap (by omega) le_rfl]

theorem Ty.int_place (t : Ty) (x : Word) : t.int (t.place x) = t.int x := by
  unfold Ty.place
  split
  · unfold Ty.int
    rw [show ((x.setWidth t.width).signExtend 64).setWidth t.width = x.setWidth t.width from by
      apply BitVec.eq_of_getLsbD_eq
      intro i hi
      have := t.width_le
      simp only [BitVec.getLsbD_setWidth, BitVec.getLsbD_signExtend]
      grind]
  · exact t.int_low x

theorem Ty.toInt_place (t : Ty) (signed : t.isSigned = true) (x : Word) : (t.place x).toInt = t.int x := by
  unfold Ty.place Ty.int
  rw [if_pos signed, if_pos signed, BitVec.toInt_signExtend_of_le t.width_le]

theorem Ty.toNat_place (t : Ty) (unsigned : t.isSigned = false) (x : Word) : ((t.place x).toNat : Int) = t.int x := by
  unfold Ty.place Ty.int
  simp only [unsigned, Bool.false_eq_true, if_false, toNat_low, BitVec.toNat_setWidth]

theorem wrap_neg_one {w : Nat} (hw : w ≤ 64) : wrap w (-1) = low w (BitVec.allOnes 64) := by
  have ones : (BitVec.allOnes 64).setWidth w = BitVec.allOnes w := by
    ext i hi
    have : i < 64 := by omega
    simp only [BitVec.getElem_setWidth, BitVec.getLsbD_allOnes, BitVec.getElem_allOnes, this, decide_true]
  rw [wrap, low, ones, BitVec.ofInt_neg, ← BitVec.neg_one_eq_allOnes]
  rfl

theorem Ty.int_lesser (t : Ty) (a b : Word) : t.int (t.lesser a b) = min (t.int a) (t.int b) := by
  unfold Ty.lesser
  rw [t.int_low]
  split <;> omega

theorem Ty.int_greater (t : Ty) (a b : Word) : t.int (t.greater a b) = max (t.int a) (t.int b) := by
  unfold Ty.greater
  rw [t.int_low]
  split <;> omega

/-- The exact product over 2^w, rounded down, lies in the type's range. -/
theorem Ty.mul_bounds (t : Ty) (a b : Word) :
    t.minInt * 2 ^ t.width ≤ t.int a * t.int b ∧ t.int a * t.int b < (t.maxInt + 1) * 2 ^ t.width := by
  obtain ⟨loA, hiA⟩ := t.int_bounds a
  obtain ⟨loB, hiB⟩ := t.int_bounds b
  have half := t.pow_pred_width_pos
  obtain ⟨hmin, hmax⟩ | ⟨hmin, hmax⟩ := t.range_eq
  all_goals
    rw [hmin] at loA loB ⊢
    rw [hmax] at hiA hiB ⊢
    rw [t.pow_width]
    constructor <;> nlinarith

theorem Ty.int_mulHigh (t : Ty) (a b : Word) : t.int (t.mulHigh a b) = t.int a * t.int b / 2 ^ t.width := by
  obtain ⟨lo, hi⟩ := t.mul_bounds a b
  have pos : (0 : Int) < 2 ^ t.width := by positivity
  rw [Ty.mulHigh, Int.fdiv_eq_ediv_of_nonneg _ pos.le]
  refine t.int_wrap ((Int.le_ediv_iff_mul_le pos).mpr lo) ?_
  rw [← Int.lt_add_one_iff]
  exact (Int.ediv_lt_iff_lt_mul pos).mpr hi

theorem Ty.low_mod_width (t : Ty) (b : Word) : (low t.width b).toNat % t.width = b.toNat % t.width := by
  rw [toNat_low, Nat.mod_mod_of_dvd _ t.width_dvd]

theorem Ty.getLsbD_shiftLeft (t : Ty) (a b : Word) {i : Nat} (hi : i < t.width) :
    (t.shiftLeft a b).getLsbD i = (decide (b.toNat % t.width ≤ i) && a.getLsbD (i - b.toNat % t.width)) := by
  have := t.width_le
  unfold Ty.shiftLeft
  rw [t.low_mod_width, getLsbD_low, BitVec.getLsbD_shiftLeft]
  grind

theorem Ty.getLsbD_shiftRight (t : Ty) (a b : Word) (i : Nat) :
    (t.shiftRight a b).getLsbD i = (decide (i + b.toNat % t.width < t.width) && a.getLsbD (i + b.toNat % t.width)) := by
  have := t.width_le
  unfold Ty.shiftRight
  rw [t.low_mod_width, BitVec.getLsbD_ushiftRight, getLsbD_low]
  grind

theorem Ty.getLsbD_shiftRightA (t : Ty) (a b : Word) {i : Nat} (hi : i < t.width) :
    (t.shiftRightA a b).getLsbD i = a.getLsbD (min (i + b.toNat % t.width) (t.width - 1)) := by
  have := t.width_le
  unfold Ty.shiftRightA
  rw [t.low_mod_width, BitVec.getLsbD_setWidth, BitVec.getLsbD_sshiftRight, BitVec.msb_eq_getLsbD_last]
  simp only [BitVec.getLsbD_setWidth]
  grind

/-! ### Counting and reversing bits (R193) -/

theorem leadingZeros_le (w : Nat) (x : Word) : leadingZeros w x ≤ w := by
  induction w with
  | zero => exact Nat.le_refl 0
  | succ w ih =>
    unfold leadingZeros
    split <;> omega

theorem getLsbD_leadingZeros (w : Nat) (x : Word) :
    (∀ i, w ≤ i + leadingZeros w x → i < w → x.getLsbD i = false) ∧
      (leadingZeros w x < w → x.getLsbD (w - 1 - leadingZeros w x) = true) := by
  induction w with
  | zero => exact ⟨fun i _ hi => absurd hi (Nat.not_lt_zero i), fun h => absurd h (Nat.not_lt_zero _)⟩
  | succ w ih =>
    obtain ⟨zeros, one⟩ := ih
    unfold leadingZeros
    split
    · rename_i set
      exact ⟨fun i _ _ => by omega, fun _ => set⟩
    · rename_i clear
      refine ⟨fun i reached below => ?_, fun h => ?_⟩
      · obtain rfl | lower := Nat.eq_or_lt_of_le (Nat.le_of_lt_succ below)
        · exact Bool.not_eq_true _ ▸ clear
        · exact zeros i (by omega) lower
      · rw [show w + 1 - 1 - (1 + leadingZeros w x) = w - 1 - leadingZeros w x by omega]
        exact one (by omega)

theorem trailingZeros_le (n i : Nat) (x : Word) : trailingZeros n i x ≤ n := by
  induction n generalizing i with
  | zero => exact Nat.le_refl 0
  | succ n ih =>
    have := ih (i + 1)
    unfold trailingZeros
    split <;> omega

theorem getLsbD_trailingZeros (n i : Nat) (x : Word) :
    (∀ j, i ≤ j → j < i + trailingZeros n i x → x.getLsbD j = false) ∧
      (trailingZeros n i x < n → x.getLsbD (i + trailingZeros n i x) = true) := by
  induction n generalizing i with
  | zero => exact ⟨fun j lo hi => absurd hi (Nat.not_lt.mpr lo), fun h => absurd h (Nat.not_lt_zero _)⟩
  | succ n ih =>
    obtain ⟨zeros, one⟩ := ih (i + 1)
    unfold trailingZeros
    split
    · rename_i set
      exact ⟨fun j lo hi => by omega, fun _ => set⟩
    · rename_i clear
      refine ⟨fun j lo hi => ?_, fun h => ?_⟩
      · obtain rfl | higher := Nat.eq_or_lt_of_le lo
        · exact Bool.not_eq_true _ ▸ clear
        · exact zeros j higher (by omega)
      · rw [← Nat.add_assoc]
        exact one (by omega)

theorem popCount_eq_countP (w : Nat) (x : Word) : popCount w x = (List.range w).countP (fun i => x.getLsbD i) := by
  induction w with
  | zero => rfl
  | succ w ih =>
    rw [popCount, ih, List.range_succ, List.countP_append, List.countP_singleton, Nat.add_comm]

/-- The lowest `n` bits, moved to the top `n` places of `w`. -/
theorem getLsbD_bitReverse {w n : Nat} (hw : w ≤ 64) (hn : n ≤ w) (x : Word) (i : Nat) :
    (bitReverse w n x).getLsbD i = (decide (i < w ∧ w ≤ i + n) && x.getLsbD (w - 1 - i)) := by
  induction n with
  | zero =>
    simp [bitReverse]
  | succ n ih =>
    have moved : (if x.getLsbD n then BitVec.ofNat 64 (2 ^ (w - 1 - n)) else (0 : Word)).getLsbD i =
        (decide (i = w - 1 - n) && x.getLsbD n) := by
      split
      · rename_i set
        rw [BitVec.getLsbD_ofNat, Nat.testBit_two_pow]
        grind
      · rename_i clear
        simp [clear]
    rw [bitReverse, BitVec.getLsbD_or, ih (by omega), moved]
    by_cases at_place : i = w - 1 - n
    · subst at_place
      rw [show w - 1 - (w - 1 - n) = n by omega]
      grind
    · grind

theorem testBit_leNat (bs : List Byte) (j : Nat) {k : Nat} (hk : k < 8) :
    (leNat bs).testBit (8 * j + k) = (bs.getD j 0).getLsbD k := by
  induction bs generalizing j with
  | nil => simp [leNat]
  | cons b bs ih =>
    rw [leNat, Nat.add_comm b.toNat, show 256 = 2 ^ 8 from rfl, Nat.testBit_two_pow_mul_add _ b.isLt]
    cases j with
    | zero => simp [hk, BitVec.getLsbD]
    | succ j =>
      rw [if_neg (by omega), show 8 * (j + 1) + k - 8 = 8 * j + k by omega, ih, List.getD_cons_succ]

theorem getD_leBytes (n v j : Nat) : (leBytes n v).getD j 0 = if j < n then BitVec.ofNat 8 (v / 2 ^ (8 * j)) else 0 := by
  induction n generalizing v j with
  | zero => simp [leBytes]
  | succ n ih =>
    cases j with
    | zero => simp [leBytes]
    | succ j =>
      rw [leBytes, List.getD_cons_succ, ih, Nat.div_div_eq_div_mul, Nat.mul_succ, Nat.pow_add, Nat.mul_comm 256]
      simp only [Nat.add_lt_add_iff_right]

theorem length_leBytes (n v : Nat) : (leBytes n v).length = n := by
  induction n generalizing v with
  | zero => rfl
  | succ n ih => rw [leBytes, List.length_cons, ih]

theorem getLsbD_byteSwap {n : Nat} (hn : n ≤ 8) (x : Word) (j : Nat) {k : Nat} (hk : k < 8) :
    (byteSwap n x).getLsbD (8 * j + k) = (decide (j < n) && x.getLsbD (8 * (n - 1 - j) + k)) := by
  rw [byteSwap, BitVec.getLsbD_ofNat, testBit_leNat _ _ hk, List.getD_eq_getElem?_getD]
  by_cases inside : j < n
  · rw [List.getElem?_reverse (by rw [length_leBytes]; exact inside), length_leBytes, ← List.getD_eq_getElem?_getD, getD_leBytes,
      if_pos (by omega), BitVec.getLsbD_ofNat, Nat.testBit_div_two_pow, Nat.add_comm k]
    have : 8 * j + k < 64 := by omega
    simp [hk, inside, this, BitVec.getLsbD]
  · rw [List.getElem?_eq_none (by rw [List.length_reverse, length_leBytes]; omega)]
    simp [inside]

end Sys2Proof
end

section
/-! PROOFS. One rounding (R161, R163, R164, R166): an exact magnitude known to within its last unit, the multiple of a
unit that each mode takes, and the pattern that the multiple is packed into. -/

namespace Sys2Proof

open Machine

/-! ### The multiple that a mode takes (R163) -/

/-- `v` is `m` units of 2^e, or lies strictly between `m` and `m + 1` of them where `sticky` says so. -/
def Near (v : ℝ) (m : ℕ) (e : ℤ) (sticky : Bool) : Prop :=
  if sticky then (m : ℝ) * 2 ^ e < v ∧ v < (m + 1) * 2 ^ e else v = m * 2 ^ e

/-- `w` lies in the unit above `kept`: `rem` out of `2 * half`, with `sticky` for more below, say where. -/
structure Splits (w : ℝ) (kept rem half : ℕ) (sticky : Bool) : Prop where
  lower : (kept : ℝ) ≤ w
  upper : w < kept + 1
  exact_iff : w = kept ↔ rem = 0 ∧ sticky = false
  below_iff : w < kept + 1 / 2 ↔ rem < half
  tie_iff : w = kept + 1 / 2 ↔ rem = half ∧ sticky = false

theorem near_exact (m : ℕ) (e : ℤ) : Near ((m : ℝ) * 2 ^ e) m e false := rfl

theorem Near.le {v : ℝ} {m : ℕ} {e : ℤ} {sticky : Bool} (h : Near v m e sticky) : (m : ℝ) * 2 ^ e ≤ v := by
  cases sticky
  · exact h.ge
  · exact h.1.le

theorem Near.lt {v : ℝ} {m : ℕ} {e : ℤ} {sticky : Bool} (h : Near v m e sticky) : v < (m + 1) * 2 ^ e := by
  cases sticky
  · have : (0 : ℝ) < 2 ^ e := by positivity
    exact (show v = m * 2 ^ e from h) ▸ by linarith
  · exact h.2

/-- A whole number that a magnitude does not pass, its rounding does not pass. -/
theorem Round.Takes.le {r : Round} {neg : Bool} {w : ℝ} {n k : ℕ} (h : r.Takes neg w n) (le : w ≤ k) : n ≤ k := by
  have : (n : ℝ) < k + 1 := by
    cases r with
    | rne => linarith [abs_le.mp h.1]
    | rmm => linarith [h.1]
    | rtz => linarith [h.1]
    | rup => cases neg <;> linarith [h.1, h.2]
    | rdn => cases neg <;> linarith [h.1, h.2]
  exact Nat.lt_succ_iff.mp (by exact_mod_cast this)

theorem Round.Takes.ge {r : Round} {neg : Bool} {w : ℝ} {n k : ℕ} (h : r.Takes neg w n) (ge : (k : ℝ) ≤ w) : k ≤ n := by
  have : (k : ℝ) < n + 1 := by
    cases r with
    | rne => linarith [abs_le.mp h.1]
    | rmm => linarith [h.2]
    | rtz => linarith [h.2]
    | rup => cases neg <;> linarith [h.1, h.2]
    | rdn => cases neg <;> linarith [h.1, h.2]
  exact Nat.lt_succ_iff.mp (by exact_mod_cast this)

section
variable {w : ℝ} {kept rem half : ℕ} {sticky : Bool} (h : Splits w kept rem half sticky)
include h

theorem Splits.inexact_iff : (rem != 0 || sticky) = true ↔ w ≠ kept := by
  rw [Ne, h.exact_iff]
  cases sticky <;> simp

/-- Half a unit, and half of it decided by `odd`: what rounding to nearest takes. -/
theorem Splits.takes_rne (neg : Bool) :
    Round.rne.Takes neg w (if Round.rne.up neg (kept % 2 == 1) rem half sticky then kept + 1 else kept) := by
  obtain ⟨lower, upper, -, below_iff, tie_iff⟩ := h
  obtain below | tie | above := lt_trichotomy w (kept + 1 / 2)
  · have hrem := below_iff.mp below
    rw [if_neg (by simp only [Round.up]; grind), Round.Takes, abs_of_nonneg (by linarith)]
    exact ⟨by linarith, fun h => absurd h (by linarith)⟩
  · obtain ⟨hrem, hsticky⟩ := tie_iff.mp tie
    have odd_iff : Round.rne.up neg (kept % 2 == 1) rem half sticky = (kept % 2 == 1) := by simp [Round.up, hrem, hsticky]
    rw [odd_iff]
    split
    · rw [Round.Takes, abs_of_nonpos (by push_cast; linarith)]
      exact ⟨by push_cast; linarith, fun _ => by grind⟩
    · rw [Round.Takes, abs_of_nonneg (by linarith)]
      exact ⟨by linarith, fun _ => by grind⟩
  · have hrem := mt below_iff.mpr above.not_gt
    have htie := mt tie_iff.mpr above.ne'
    rw [if_pos (by simp only [Round.up]; grind), Round.Takes, abs_of_nonpos (by push_cast; linarith)]
    push_cast
    exact ⟨by linarith, fun h => absurd h (by linarith)⟩

theorem Splits.takes_rmm (neg : Bool) :
    Round.rmm.Takes neg w (if Round.rmm.up neg (kept % 2 == 1) rem half sticky then kept + 1 else kept) := by
  obtain ⟨lower, upper, -, below_iff, -⟩ := h
  simp only [Round.up, decide_eq_true_eq]
  split
  · rename_i above
    have := not_lt.mp (mt below_iff.mp (not_lt.mpr above))
    exact ⟨by push_cast; linarith, by push_cast; linarith⟩
  · rename_i below
    exact ⟨by linarith, below_iff.mpr (not_le.mp below)⟩

/-- The least multiple that is not below the magnitude. -/
theorem Splits.takes_up :
    w ≤ ((if rem != 0 || sticky then kept + 1 else kept : ℕ) : ℝ) ∧
      ((if rem != 0 || sticky then kept + 1 else kept : ℕ) : ℝ) < w + 1 := by
  have upper := h.upper
  split
  · rename_i inexact
    have := lt_of_le_of_ne h.lower (h.inexact_iff.mp inexact).symm
    exact ⟨by push_cast; linarith, by push_cast; linarith⟩
  · rename_i exact'
    have := not_not.mp (mt h.inexact_iff.mpr exact')
    exact ⟨this.le, by linarith⟩

/-- Every mode takes one of the two multiples beside the magnitude, as `Round.up` says. -/
theorem Splits.takes (r : Round) (neg : Bool) :
    r.Takes neg w (if r.up neg (kept % 2 == 1) rem half sticky then kept + 1 else kept) := by
  cases r with
  | rne => exact h.takes_rne neg
  | rmm => exact h.takes_rmm neg
  | rtz => exact ⟨h.lower, h.upper⟩
  | rup =>
    cases neg
    · exact h.takes_up
    · exact ⟨h.lower, h.upper⟩
  | rdn =>
    cases neg
    · exact ⟨h.lower, h.upper⟩
    · exact h.takes_up

/-- What is discarded is nothing exactly where the multiple taken is the magnitude itself. -/
theorem Splits.inexact_iff_ne_taken (r : Round) (neg : Bool) :
    (rem != 0 || sticky) = true ↔ w ≠ ((if r.up neg (kept % 2 == 1) rem half sticky then kept + 1 else kept : ℕ) : ℝ) := by
  have takes := h.takes r neg
  have upper := h.upper
  rw [h.inexact_iff, not_iff_not]
  constructor
  · intro eq
    rw [eq] at takes ⊢
    exact_mod_cast le_antisymm (takes.ge le_rfl) (takes.le le_rfl)
  · split
    · intro eq
      push_cast at eq
      exact absurd eq upper.ne
    · exact id

end

/-- An exact magnitude cut at a place below its last one: nothing is discarded. -/
theorem splits_mul (m : ℕ) {e q : ℤ} (le : q ≤ e) {half : ℕ} (pos : 0 < half) :
    Splits ((m : ℝ) * 2 ^ e / 2 ^ q) (m * 2 ^ (e - q).toNat) 0 half false := by
  have whole : (m : ℝ) * 2 ^ e / 2 ^ q = ((m * 2 ^ (e - q).toNat : ℕ) : ℝ) := by
    obtain ⟨s, rfl⟩ := Int.le.dest le
    rw [show (q + s - q).toNat = s by omega, zpow_add₀ two_ne_zero, mul_comm (2 ^ q : ℝ), ← mul_assoc,
      mul_div_cancel_right₀ _ (by positivity)]
    push_cast
    rw [zpow_natCast]
  rw [whole]
  constructor <;> simp [pos, pos.ne]

/-- The discarded part as `t` out of `2 * p`. -/
theorem Splits.of_fraction {w t p : ℝ} {kept rem half : ℕ} {sticky : Bool} (pos : 0 < p) (hw : w = kept + t / (2 * p)) (lower : 0 ≤ t)
    (upper : t < 2 * p) (exact_iff : t = 0 ↔ rem = 0 ∧ sticky = false) (below_iff : t < p ↔ rem < half)
    (tie_iff : t = p ↔ rem = half ∧ sticky = false) : Splits w kept rem half sticky := by
  subst hw
  have pos2 : 0 < 2 * p := by linarith
  constructor
  · exact le_add_of_nonneg_right (div_nonneg lower pos2.le)
  · rw [add_lt_add_iff_left, div_lt_one pos2]
    exact upper
  · rw [add_eq_left, div_eq_zero_iff, or_iff_left pos2.ne']
    exact exact_iff
  · rw [add_lt_add_iff_left, div_lt_iff₀ pos2, show 1 / 2 * (2 * p) = p by ring]
    exact below_iff
  · rw [add_right_inj, div_eq_iff pos2.ne', show 1 / 2 * (2 * p) = p by ring]
    exact tie_iff

/-- A magnitude of `m` units, or between `m` and `m + 1`, cut at `s + 1` places above. -/
theorem splits_of_units {u : ℝ} {m : ℕ} {sticky : Bool} (h : Near u m 0 sticky) (s : ℕ) :
    Splits (u / 2 ^ (s + 1)) (m / 2 ^ (s + 1)) (m % 2 ^ (s + 1)) (2 ^ s) sticky := by
  have parts : (m : ℝ) = 2 * 2 ^ s * ((m / 2 ^ (s + 1) : ℕ) : ℝ) + ((m % 2 ^ (s + 1) : ℕ) : ℝ) := by
    rw [← pow_succ']
    exact_mod_cast (Nat.div_add_mod m (2 ^ (s + 1))).symm
  have rem_lt : m % 2 ^ (s + 1) < 2 ^ (s + 1) := Nat.mod_lt m (by positivity)
  generalize m / 2 ^ (s + 1) = kept at *
  generalize m % 2 ^ (s + 1) = rem at *
  have half_pos : (0 : ℝ) < 2 ^ s := by positivity
  have rem_nonneg : (0 : ℝ) ≤ rem := Nat.cast_nonneg rem
  have rem_le : (rem : ℝ) + 1 ≤ 2 * 2 ^ s := by
    rw [← pow_succ']
    exact_mod_cast rem_lt
  have fraction : u / 2 ^ (s + 1) = kept + (u - m + rem) / (2 * 2 ^ s) := by
    rw [pow_succ', parts]
    field_simp
    ring
  cases sticky
  · have exact' : u = m := by simpa [Near] using h
    rw [exact', sub_self, zero_add] at fraction
    refine .of_fraction half_pos (exact' ▸ fraction) rem_nonneg (by linarith) ?_ ?_ ?_
    · simp
    · norm_cast
    · rw [and_iff_left rfl]
      norm_cast
  · obtain ⟨lo, hi⟩ : (m : ℝ) < u ∧ u < m + 1 := by simpa [Near] using h
    have below_iff : rem < 2 ^ s ↔ (rem : ℝ) + 1 ≤ 2 ^ s := by norm_cast
    have above : ¬rem < 2 ^ s → (2 : ℝ) ^ s ≤ rem := fun h => by exact_mod_cast not_lt.mp h
    refine .of_fraction half_pos fraction (by linarith) (by linarith) ?_ ?_ ?_
    · exact ⟨fun h => by linarith, fun h => absurd h.2 (by decide)⟩
    · refine ⟨fun h => ?_, fun h => by linarith [below_iff.mp h]⟩
      by_contra high
      linarith [above high]
    · refine ⟨fun h => ?_, fun h => absurd h.2 (by decide)⟩
      by_cases low : rem < 2 ^ s
      · linarith [below_iff.mp low]
      · linarith [above low]

/-- A magnitude cut at a place at or above its own last one. -/
theorem Near.splits_div {v : ℝ} {m : ℕ} {e q : ℤ} {sticky : Bool} (h : Near v m e sticky) (le : e ≤ q) (lt : sticky = true → e < q) :
    Splits (v / 2 ^ q) (m / 2 ^ (q - e).toNat) (m % 2 ^ (q - e).toNat) (if (q - e).toNat = 0 then 1 else 2 ^ ((q - e).toNat - 1)) sticky := by
  obtain ⟨s, rfl⟩ := Int.le.dest le
  rw [show (e + s - e).toNat = s by omega]
  cases s with
  | zero =>
    obtain rfl : sticky = false := by simpa using lt
    obtain rfl : v = m * 2 ^ e := h
    simpa [Nat.mod_one] using splits_mul m (le_refl e) one_pos
  | succ s =>
    have unit : (0 : ℝ) < 2 ^ e := by positivity
    have units : Near (v / 2 ^ e) m 0 sticky := by
      unfold Near at *
      simpa only [zpow_zero, mul_one, lt_div_iff₀ unit, div_lt_iff₀ unit, div_eq_iff unit.ne'] using h
    simpa only [zpow_add₀ (two_ne_zero' ℝ), zpow_natCast, div_mul_eq_div_div, Nat.succ_ne_zero, if_false, Nat.add_sub_cancel]
      using splits_of_units units s

/-! ### Patterns (R157) -/

/-- A format whose results R157 to R166 speak of: one with infinities whose bias stands in the middle, or E4M3. -/
structure Fmt.Standard (f : Fmt) : Prop where
  width_le : f.width ≤ 64
  special : f.special = .ieee ∧ 2 ^ f.ebits = 2 * f.bias + 2 ∨ f = .e4m3

theorem Fmt.Standard.eq_e4m3 {f : Fmt} (hf : f.Standard) (hs : f.special = .e4m3) : f = .e4m3 := by
  refine hf.special.resolve_left fun ieee => ?_
  rw [hs] at ieee
  cases ieee.1

theorem Ty.fmt_standard (t : Ty) : t.fmt.Standard := by
  cases t <;> exact ⟨by decide, by decide⟩

theorem Fmt.toNat_make {f : Fmt} (hf : f.width ≤ 64) (neg : Bool) {e m : ℕ} (he : e < 2 ^ f.ebits) (hm : m < 2 ^ f.fbits) :
    (f.make neg e m).toNat = (neg.toNat * 2 ^ f.ebits + e) * 2 ^ f.fbits + m ∧ (f.make neg e m).toNat < 2 ^ f.width := by
  have eq : (if neg then 2 ^ (f.ebits + f.fbits) else 0) + e * 2 ^ f.fbits + m = (neg.toNat * 2 ^ f.ebits + e) * 2 ^ f.fbits + m := by
    cases neg
    · simp
    · simp only [if_true, Bool.toNat_true]
      ring
  have top : neg.toNat * 2 ^ f.ebits + e + 1 ≤ 2 ^ (1 + f.ebits) := by
    have := Nat.mul_le_mul_right (2 ^ f.ebits) neg.toNat_le
    rw [pow_add]
    omega
  have lt : (neg.toNat * 2 ^ f.ebits + e) * 2 ^ f.fbits + m < 2 ^ f.width := by
    have := Nat.mul_le_mul_right (2 ^ f.fbits) top
    rw [← pow_add, Nat.add_mul] at this
    unfold Fmt.width
    omega
  have fits : 2 ^ f.width ≤ 2 ^ 64 := Nat.pow_le_pow_right two_pos hf
  rw [Fmt.make, BitVec.toNat_ofNat, eq, Nat.mod_eq_of_lt (by omega)]
  exact ⟨rfl, lt⟩

theorem Fmt.fields_make {f : Fmt} (hf : f.width ≤ 64) (neg : Bool) {e m : ℕ} (he : e < 2 ^ f.ebits) (hm : m < 2 ^ f.fbits) :
    f.sign (f.make neg e m) = neg ∧ f.expo (f.make neg e m) = e ∧ f.frac (f.make neg e m) = m := by
  obtain ⟨eq, -⟩ := Fmt.toNat_make hf neg he hm
  have upper : (f.make neg e m).toNat / 2 ^ f.fbits = neg.toNat * 2 ^ f.ebits + e := by
    rw [eq, Nat.mul_comm, Nat.mul_add_div (by positivity), Nat.div_eq_of_lt hm, Nat.add_zero]
  refine ⟨?_, ?_, ?_⟩
  · rw [Fmt.sign, BitVec.getLsbD, Nat.testBit_eq_decide_div_mod_eq, Nat.add_comm, Nat.pow_add, ← Nat.div_div_eq_div_mul, upper,
      Nat.mul_comm, Nat.mul_add_div (by positivity), Nat.div_eq_of_lt he]
    cases neg <;> rfl
  · rw [Fmt.expo, Nat.shiftRight_eq_div_pow, upper, Nat.mul_comm, Nat.mul_add_mod, Nat.mod_eq_of_lt he]
  · rw [Fmt.frac, eq, Nat.mul_comm, Nat.mul_add_mod, Nat.mod_eq_of_lt hm]

/-- The exponent of the last place of a subnormal. -/
def Fmt.last (f : Fmt) : ℤ := 1 - (f.bias : ℤ) - f.fbits

theorem Fmt.value_make {f : Fmt} (hf : f.width ≤ 64) (neg : Bool) {e m : ℕ} (he : e < 2 ^ f.ebits) (hm : m < 2 ^ f.fbits)
    (ordinary : e = 2 ^ f.ebits - 1 → f.special ≠ .ieee ∧ ¬(f.special = .e4m3 ∧ m = 2 ^ f.fbits - 1)) :
    f.value (f.make neg e m) = if e = 0 then if m = 0 then .zero neg else .fin neg m f.last
      else .fin neg (2 ^ f.fbits + m) ((e : ℤ) - f.bias - f.fbits) := by
  obtain ⟨hs, he', hm'⟩ := Fmt.fields_make hf neg he hm
  simp only [Fmt.value, hs, he', hm']
  rw [if_neg (fun h => (ordinary h.1).1 h.2), if_neg (fun h => (ordinary h.1).2 h.2)]
  rfl

/-- `n` units of 2^q as a format keeps them: at most `fbits + 1` bits, and fewer at the last place alone. -/
structure Fmt.Cut (f : Fmt) (q : ℤ) (n : ℕ) : Prop where
  last_le : f.last ≤ q
  lt : n < 2 ^ (f.fbits + 1)
  subnormal : n < 2 ^ f.fbits → q = f.last

/-- The exponent field of `n` units of 2^q, without regard to the largest one. -/
def Fmt.field (f : Fmt) (q : ℤ) (n : ℕ) : ℕ := if decide (2 ^ f.fbits ≤ n) then (q + f.fbits + f.bias).toNat else 0

/-- How `Fmt.round` packs `n` units of 2^q, inexact or not. -/
def Fmt.pack (f : Fmt) (r : Round) (neg : Bool) (q : ℤ) (n : ℕ) (inexact tiny : Bool) : Word × FFlags :=
  if 2 ^ f.ebits - (if f.special = .ieee then 2 else 1) < f.field q n then f.overflow r neg
  else
    (f.make neg (f.field q n) (if decide (2 ^ f.fbits ≤ n) then n - 2 ^ f.fbits else n),
      (if inexact then FFlags.nx else 0) ||| (if tiny && inexact then FFlags.uf else 0))

theorem Fmt.field_of_normal {f : Fmt} {q : ℤ} {n : ℕ} (normal : 2 ^ f.fbits ≤ n) : f.field q n = (q + f.fbits + f.bias).toNat :=
  if_pos (decide_eq_true normal)

theorem Fmt.field_of_subnormal {f : Fmt} {q : ℤ} {n : ℕ} (sub : ¬2 ^ f.fbits ≤ n) : f.field q n = 0 :=
  if_neg (by simpa using sub)

theorem Fmt.Cut.field_eq {f : Fmt} {q : ℤ} {n : ℕ} (h : f.Cut q n) (normal : 2 ^ f.fbits ≤ n) :
    ((f.field q n : ℕ) : ℤ) = q + f.fbits + f.bias ∧ 0 < f.field q n := by
  have := h.last_le
  unfold Fmt.last at this
  rw [Fmt.field_of_normal normal]
  omega

/-- The magnitude of a normal value stands between two powers of two. -/
theorem Fmt.Cut.normal_bounds {f : Fmt} {q : ℤ} {n : ℕ} (h : f.Cut q n) (normal : 2 ^ f.fbits ≤ n) :
    (2 : ℝ) ^ (q + f.fbits) ≤ n * 2 ^ q ∧ (n : ℝ) * 2 ^ q < 2 ^ (q + f.fbits + 1) := by
  have unit : (0 : ℝ) < 2 ^ q := by positivity
  have lower : (2 : ℝ) ^ f.fbits ≤ n := by exact_mod_cast normal
  have upper : (n : ℝ) < 2 ^ (f.fbits + 1) := by exact_mod_cast h.lt
  rw [add_assoc, zpow_add₀ two_ne_zero, zpow_add₀ two_ne_zero, mul_comm (2 ^ q : ℝ), mul_comm (2 ^ q : ℝ)]
  exact ⟨mul_le_mul_of_nonneg_right (by exact_mod_cast lower) unit.le, mul_lt_mul_of_pos_right (by exact_mod_cast upper) unit⟩

theorem Fmt.Cut.subnormal_lt {f : Fmt} {q : ℤ} {n : ℕ} (h : f.Cut q n) (sub : n < 2 ^ f.fbits) :
    (n : ℝ) * 2 ^ q < 2 ^ (1 - (f.bias : ℤ)) := by
  have unit : (0 : ℝ) < 2 ^ q := by positivity
  have upper : (n : ℝ) < 2 ^ f.fbits := by exact_mod_cast sub
  calc (n : ℝ) * 2 ^ q < 2 ^ f.fbits * 2 ^ q := mul_lt_mul_of_pos_right upper unit
    _ = 2 ^ (1 - (f.bias : ℤ)) := by
      rw [h.subnormal sub, Fmt.last, ← zpow_natCast, ← zpow_add₀ two_ne_zero]
      congr 1
      omega

/-- Past the largest exponent of a format with infinities: at or above 2^(bias + 1). -/
theorem Fmt.Cut.overflow_iff {f : Fmt} {q : ℤ} {n : ℕ} (h : f.Cut q n) (bias : 2 ^ f.ebits = 2 * f.bias + 2) :
    2 ^ f.ebits - 2 < f.field q n ↔ (2 : ℝ) ^ (f.bias + 1) ≤ n * 2 ^ q := by
  have two : (1 : ℝ) ≤ 2 := one_le_two
  have limit : (2 : ℝ) ^ (f.bias + 1) = 2 ^ ((f.bias : ℤ) + 1) := by norm_cast
  rw [bias, limit]
  by_cases normal : 2 ^ f.fbits ≤ n
  · obtain ⟨eq, -⟩ := h.field_eq normal
    obtain ⟨lower, upper⟩ := h.normal_bounds normal
    constructor
    · intro past
      exact (zpow_le_zpow_right₀ two (by omega)).trans lower
    · intro reached
      have := (zpow_lt_zpow_iff_right₀ (one_lt_two (α := ℝ))).mp (reached.trans_lt upper)
      omega
  · have sub := h.subnormal_lt (not_le.mp normal)
    rw [Fmt.field_of_subnormal normal]
    refine ⟨fun past => absurd past (Nat.not_lt_zero _), fun reached => ?_⟩
    have := (zpow_lt_zpow_iff_right₀ (one_lt_two (α := ℝ))).mp (reached.trans_lt sub)
    omega

/-- Up to 448, E4M3 has a pattern that is no NaN. -/
theorem Fmt.Cut.e4m3_fits {q : ℤ} {n : ℕ} (h : Fmt.e4m3.Cut q n) (le : (n : ℝ) * 2 ^ q ≤ 448) (normal : 8 ≤ n) :
    q ≤ 5 ∧ (q = 5 → n ≤ 14) := by
  obtain ⟨lower, -⟩ := h.normal_bounds normal
  have : (2 : ℝ) ^ (q + 3) < 2 ^ (9 : ℤ) := (lower.trans le).trans_lt (by norm_num)
  have := (zpow_lt_zpow_iff_right₀ (one_lt_two (α := ℝ))).mp this
  refine ⟨by omega, fun five => ?_⟩
  subst five
  norm_num at le
  exact_mod_cast (show (n : ℝ) ≤ 14 by linarith)

theorem Fmt.pack_overflow {f : Fmt} (hf : f.Standard) {q : ℤ} {n : ℕ} (h : f.Cut q n) (ieee : f.special = .ieee)
    (beyond : (2 : ℝ) ^ (f.bias + 1) ≤ n * 2 ^ q) (r : Round) (neg inexact tiny : Bool) :
    f.pack r neg q n inexact tiny =
      (if r.toInf neg then f.make neg (2 ^ f.ebits - 1) 0 else f.maxBits neg, FFlags.of ||| FFlags.nx) := by
  obtain ⟨-, bias⟩ | rfl := hf.special
  · rw [Fmt.pack, if_pos ieee, if_pos ((h.overflow_iff bias).mpr beyond)]
    cases r <;> rfl
  · cases ieee

/-- Without overflow the field is one of an ordinary value. -/
theorem Fmt.Cut.field_ordinary {f : Fmt} (hf : f.Standard) {q : ℤ} {n : ℕ} (h : f.Cut q n)
    (fits : ¬(f.special = .ieee ∧ (2 : ℝ) ^ (f.bias + 1) ≤ n * 2 ^ q)) (small : f.special = .e4m3 → (n : ℝ) * 2 ^ q ≤ 448) :
    f.field q n ≤ 2 ^ f.ebits - (if f.special = .ieee then 2 else 1) ∧
      (f.field q n = 2 ^ f.ebits - 1 → f.special ≠ .ieee ∧
        ¬(f.special = .e4m3 ∧ (if 2 ^ f.fbits ≤ n then n - 2 ^ f.fbits else n) = 2 ^ f.fbits - 1)) := by
  obtain ⟨ieee, bias⟩ | rfl := hf.special
  · have le := not_lt.mp (mt (h.overflow_iff bias).mp fun reached => fits ⟨ieee, reached⟩)
    rw [if_pos ieee]
    exact ⟨le, fun top => by omega⟩
  · change _ ≤ 15 ∧ (_ = 15 → _ ∧ ¬(_ ∧ (if 8 ≤ n then n - 8 else n) = 7))
    by_cases normal : 8 ≤ n
    · obtain ⟨eq, -⟩ := h.field_eq normal
      obtain ⟨le, at_top⟩ := h.e4m3_fits (small rfl) normal
      change _ = q + (3 : ℕ) + (7 : ℕ) at eq
      rw [if_pos normal]
      exact ⟨by omega, fun top => ⟨by decide, fun hn => by have := at_top (by omega); omega⟩⟩
    · rw [Fmt.field_of_subnormal (f := .e4m3) normal]
      exact ⟨by omega, fun top => by omega⟩

theorem Fmt.pack_fits {f : Fmt} (hf : f.Standard) {q : ℤ} {n : ℕ} (h : f.Cut q n)
    (fits : ¬(f.special = .ieee ∧ (2 : ℝ) ^ (f.bias + 1) ≤ n * 2 ^ q)) (small : f.special = .e4m3 → (n : ℝ) * 2 ^ q ≤ 448)
    (r : Round) (neg inexact tiny : Bool) :
    let x := f.pack r neg q n inexact tiny
    x.1.toNat < 2 ^ f.width ∧ f.value x.1 = (if n = 0 then .zero neg else .fin neg n q) ∧
      x.2 = (if inexact then FFlags.nx else 0) ||| (if tiny && inexact then FFlags.uf else 0) := by
  obtain ⟨le, ordinary⟩ := h.field_ordinary hf fits small
  have top : f.field q n < 2 ^ f.ebits := by
    have : 0 < 2 ^ f.ebits := by positivity
    split at le <;> omega
  have frac : (if 2 ^ f.fbits ≤ n then n - 2 ^ f.fbits else n) < 2 ^ f.fbits := by
    have := h.lt
    rw [pow_succ] at this
    split <;> omega
  rw [Fmt.pack, if_neg (not_lt.mpr le)]
  simp only [decide_eq_true_eq, and_true]
  refine ⟨(Fmt.toNat_make hf.width_le neg top frac).2, ?_⟩
  rw [Fmt.value_make hf.width_le neg top frac ordinary]
  by_cases normal : 2 ^ f.fbits ≤ n
  · obtain ⟨eq, pos⟩ := h.field_eq normal
    have : n ≠ 0 := (lt_of_lt_of_le (by positivity) normal).ne'
    rw [if_neg pos.ne', if_neg this, if_pos normal, Nat.add_sub_cancel' normal, eq]
    congr 1
    omega
  · rw [if_neg normal, Fmt.field_of_subnormal normal, if_pos rfl, h.subnormal (not_le.mp normal)]

/-- The place at which a magnitude with its leading bit at `top` is cut. -/
def Fmt.cutAt (f : Fmt) (top : ℤ) : ℤ := max (top - f.fbits) f.last

/-- `Fmt.round` cuts the magnitude, takes one of the two multiples beside it, carries into the next place where it has
become too long, and packs it. -/
theorem Fmt.round_eq (f : Fmt) (r : Round) (flush neg : Bool) (m : ℕ) (e : ℤ) (sticky : Bool) :
    f.round r flush neg m e sticky =
      let top : ℤ := e + Nat.log2 m
      let tiny : Bool := decide (top < 1 - (f.bias : ℤ))
      let q := f.cutAt top
      let s := (q - e).toNat
      let kept := if e ≤ q then m / 2 ^ s else m * 2 ^ (e - q).toNat
      let rem := if e ≤ q then m % 2 ^ s else 0
      let n := if r.up neg (kept % 2 == 1) rem (if s = 0 then 1 else 2 ^ (s - 1)) sticky then kept + 1 else kept
      let carry := n == 2 ^ (f.fbits + 1)
      if tiny && flush then (f.zeroBits neg, FFlags.uf ||| FFlags.nx)
      else if f.special = .e4m3 ∧ cmpNat m e sticky 448 = .gt then e4m3Beyond r neg (cmpNat m e sticky 464)
      else f.pack r neg (if carry then q + 1 else q) (if carry then 2 ^ f.fbits else n) (rem != 0 || sticky) tiny := rfl

/-! ### Comparing with 448 and 464 (R164) -/

/-- No multiple of 16 below 512 lies strictly between two neighbouring multiples of a power of two from the 32nd on. -/
theorem succ_mul_two_pow_le {m t k : ℕ} (long : 32 ≤ m) (dvd : 16 ∣ k) (small : k < 512) (lt : m * 2 ^ t < k) : (m + 1) * 2 ^ t ≤ k := by
  have short : 2 ^ t < 2 ^ 4 := by
    have := Nat.mul_le_mul_right (2 ^ t) long
    omega
  have t_lt := (Nat.pow_lt_pow_iff_right one_lt_two).mp short
  obtain ⟨c, rfl⟩ : 2 ^ t ∣ k := (pow_dvd_pow 2 t_lt.le).trans dvd
  rw [Nat.mul_comm] at lt ⊢
  exact Nat.mul_le_mul_left _ (Nat.lt_of_mul_lt_mul_left lt)

/-- A magnitude known to within its last unit compares with 448 and with 464 as `cmpNat` says. -/
theorem Near.cmpNat_compares {v : ℝ} {m : ℕ} {e : ℤ} {sticky : Bool} (h : Near v m e sticky) (long : sticky = true → 32 ≤ m) {k : ℕ}
    (dvd : 16 ∣ k) (small : k < 512) : (cmpNat m e sticky k).Compares v k := by
  have pos : (0 : ℝ) < 2 ^ (-e).toNat := by positivity
  have unit : (2 : ℝ) ^ e * 2 ^ (-e).toNat = 2 ^ e.toNat := by
    rw [← zpow_natCast, ← zpow_natCast, ← zpow_add₀ two_ne_zero]
    congr 1
    omega
  have lower : ((m * 2 ^ e.toNat : ℕ) : ℝ) ≤ v * 2 ^ (-e).toNat := by
    push_cast
    rw [← unit, ← mul_assoc]
    exact mul_le_mul_of_nonneg_right h.le pos.le
  have upper : v * 2 ^ (-e).toNat < (((m + 1) * 2 ^ e.toNat : ℕ) : ℝ) := by
    push_cast
    rw [← unit, ← mul_assoc]
    exact mul_lt_mul_of_pos_right h.lt pos
  have exact_iff : v * 2 ^ (-e).toNat = ((m * 2 ^ e.toNat : ℕ) : ℝ) ↔ sticky = false := by
    push_cast
    rw [← unit, ← mul_assoc, mul_left_inj' pos.ne']
    cases sticky
    · exact iff_of_true h rfl
    · exact iff_of_false h.1.ne' (by decide)
  have below (lt : v * 2 ^ (-e).toNat < ((k * 2 ^ (-e).toNat : ℕ) : ℝ)) : v < k := by
    push_cast at lt
    exact lt_of_mul_lt_mul_right lt pos.le
  have above (lt : ((k * 2 ^ (-e).toNat : ℕ) : ℝ) < v * 2 ^ (-e).toNat) : (k : ℝ) < v := by
    push_cast at lt
    exact lt_of_mul_lt_mul_right lt pos.le
  unfold cmpNat
  dsimp only
  split
  · rename_i lt
    refine below ?_
    cases sticky
    · rw [exact_iff.mpr rfl]
      exact_mod_cast lt
    · refine upper.trans_le (Nat.cast_le.mpr ?_)
      obtain negative | positive := Int.le_total e 0
      · rw [Int.toNat_of_nonpos negative] at lt ⊢
        omega
      · rw [Int.toNat_of_nonpos (show -e ≤ 0 by omega), pow_zero, Nat.mul_one] at lt ⊢
        exact succ_mul_two_pow_le (long rfl) dvd small lt
  · split
    · rename_i gt
      exact above (lower.trans_lt' (by exact_mod_cast gt))
    · rename_i not_lt not_gt
      have eq : m * 2 ^ e.toNat = k * 2 ^ (-e).toNat := by omega
      rw [eq] at exact_iff lower
      cases sticky
      · have := exact_iff.mpr rfl
        push_cast at this
        exact mul_right_cancel₀ pos.ne' this
      · exact above (lt_of_le_of_ne lower fun h => absurd (exact_iff.mp h.symm) (by decide))

theorem e4m3Beyond_eq {o : Ordering} {v : ℝ} (h : o.Compares v 464) (r : Round) (neg : Bool) :
    (r.beyond neg v → e4m3Beyond r neg o = (Fmt.e4m3.canonicalNan, FFlags.of ||| FFlags.nx)) ∧
      (¬r.beyond neg v → e4m3Beyond r neg o = (Fmt.e4m3.maxBits neg, FFlags.nx)) := by
  have gt : o = .gt ↔ 464 < v := h.eq_gt
  have ge : o ≠ .lt ↔ 464 ≤ v := by rw [Ne, h.eq_lt, not_lt]
  cases r with
  | rne => cases o <;> simp_all [e4m3Beyond, Round.beyond]
  | rmm => cases o <;> simp_all [e4m3Beyond, Round.beyond]
  | rtz => exact ⟨False.elim, fun _ => rfl⟩
  | rup => cases neg <;> simp [e4m3Beyond, Round.beyond]
  | rdn => cases neg <;> simp [e4m3Beyond, Round.beyond]

/-! ### The rounding -/

theorem Near.top_bounds {v : ℝ} {m : ℕ} {e : ℤ} {sticky : Bool} (h : Near v m e sticky) (pos : 0 < m) :
    (2 : ℝ) ^ (e + Nat.log2 m) ≤ v ∧ v < 2 ^ (e + Nat.log2 m + 1) := by
  have unit : (0 : ℝ) < 2 ^ e := by positivity
  have lower : (2 : ℝ) ^ Nat.log2 m ≤ m := by exact_mod_cast Nat.log2_self_le pos.ne'
  have upper : (m : ℝ) + 1 ≤ 2 ^ (Nat.log2 m + 1) := by exact_mod_cast Nat.lt_log2_self
  rw [add_assoc, zpow_add₀ two_ne_zero, zpow_add₀ two_ne_zero, mul_comm (2 ^ e : ℝ), mul_comm (2 ^ e : ℝ)]
  exact ⟨(mul_le_mul_of_nonneg_right (by exact_mod_cast lower) unit.le).trans h.le,
    h.lt.trans_le (mul_le_mul_of_nonneg_right (by exact_mod_cast upper) unit.le)⟩

theorem Fmt.cutAt_bounds (f : Fmt) {v : ℝ} {top : ℤ} (lower : (2 : ℝ) ^ top ≤ v) (upper : v < 2 ^ (top + 1)) :
    f.last ≤ f.cutAt top ∧ v < 2 ^ (f.cutAt top + f.fbits + 1) ∧ ((2 : ℝ) ^ (f.cutAt top + f.fbits) ≤ v ∨ f.cutAt top = f.last) := by
  have two : (1 : ℝ) ≤ 2 := one_le_two
  unfold Fmt.cutAt
  refine ⟨le_max_right _ _, upper.trans_le (zpow_le_zpow_right₀ two (by omega)), ?_⟩
  by_cases deep : top - f.fbits ≤ f.last
  · exact .inr (max_eq_right deep)
  · refine .inl ((zpow_le_zpow_right₀ two ?_).trans lower)
    omega

/-- The cut of `Fmt.round`, at whichever side of the magnitude's own last place it falls. -/
theorem Near.splits_at {v : ℝ} {m : ℕ} {e : ℤ} {sticky : Bool} (h : Near v m e sticky) (q : ℤ) (lt : sticky = true → e < q) :
    Splits (v / 2 ^ q) (if e ≤ q then m / 2 ^ (q - e).toNat else m * 2 ^ (e - q).toNat) (if e ≤ q then m % 2 ^ (q - e).toNat else 0)
      (if (q - e).toNat = 0 then 1 else 2 ^ ((q - e).toNat - 1)) sticky := by
  by_cases le : e ≤ q
  · rw [if_pos le, if_pos le]
    exact h.splits_div le lt
  · rw [if_neg le, if_neg le]
    obtain rfl : sticky = false := by
      by_contra on
      exact le (lt (by simpa using on)).le
    obtain rfl : v = m * 2 ^ e := h
    refine splits_mul m (by omega) ?_
    split <;> positivity

/-- `n` is what a mode takes of the magnitude `v` in units of 2^q, and 2^q is the last place that the format has for
`v` (R163). -/
structure Fmt.Taken (f : Fmt) (r : Round) (neg : Bool) (v : ℝ) (q : ℤ) (n : ℕ) : Prop where
  last_le : f.last ≤ q
  upper : v < 2 ^ (q + f.fbits + 1)
  lower : (2 : ℝ) ^ (q + f.fbits) ≤ v ∨ q = f.last
  takes : r.Takes neg (v / 2 ^ q) n

/-- The place and the number of units that are packed: `n` of 2^q, carried into the next place where `n` has become too
long. -/
def Fmt.carried (f : Fmt) (q : ℤ) (n : ℕ) : ℤ × ℕ :=
  let carry := n == 2 ^ (f.fbits + 1)
  (if carry then q + 1 else q, if carry then 2 ^ f.fbits else n)

/-- What is packed is one that the format keeps, and stands for the same number. -/
theorem Fmt.Taken.cut {f : Fmt} {r : Round} {neg : Bool} {v : ℝ} {q : ℤ} {n : ℕ} (h : f.Taken r neg v q n) :
    f.Cut (f.carried q n).1 (f.carried q n).2 ∧ ((f.carried q n).2 : ℝ) * 2 ^ (f.carried q n).1 = n * 2 ^ q ∧
      ((f.carried q n).2 = 0 ↔ n = 0) := by
  obtain ⟨last_le, upper, lower, takes⟩ := h
  have unit : (0 : ℝ) < 2 ^ q := by positivity
  have le : n ≤ 2 ^ (f.fbits + 1) := by
    refine takes.le ?_
    rw [div_le_iff₀ unit]
    push_cast
    rw [← zpow_natCast, ← zpow_add₀ two_ne_zero]
    convert upper.le using 2
    push_cast
    omega
  have subnormal : n < 2 ^ f.fbits → q = f.last := fun short => by
    refine lower.resolve_left fun reached => absurd (takes.ge (k := 2 ^ f.fbits) ?_) (not_le.mpr short)
    rw [le_div_iff₀ unit]
    push_cast
    rw [← zpow_natCast, ← zpow_add₀ two_ne_zero, add_comm]
    exact reached
  have grows : 2 ^ f.fbits < 2 ^ (f.fbits + 1) := Nat.pow_lt_pow_right one_lt_two (Nat.lt_succ_self _)
  simp only [Fmt.carried, beq_iff_eq]
  by_cases long : n = 2 ^ (f.fbits + 1)
  · rw [if_pos long, if_pos long]
    refine ⟨⟨by omega, grows, fun h => absurd h (lt_irrefl _)⟩, ?_, by simp [long]⟩
    rw [long, zpow_add_one₀ two_ne_zero]
    push_cast
    ring
  · rw [if_neg long, if_neg long]
    exact ⟨⟨last_le, lt_of_le_of_ne le long, subnormal⟩, rfl, Iff.rfl⟩

/-- A magnitude up to 448 rounds to one up to 448 in E4M3: there 448 is a whole number of units. -/
theorem Fmt.Taken.le_448 {r : Round} {neg : Bool} {v : ℝ} {q : ℤ} {n : ℕ} (h : Fmt.e4m3.Taken r neg v q n) (le : v ≤ 448) :
    (n : ℝ) * 2 ^ q ≤ 448 := by
  have unit : (0 : ℝ) < 2 ^ q := by positivity
  have low : q ≤ 5 := by
    obtain reached | rfl := h.lower
    · have : (2 : ℝ) ^ (q + (3 : ℕ)) < 2 ^ (9 : ℤ) := (reached.trans le).trans_lt (by norm_num)
      have := (zpow_lt_zpow_iff_right₀ (one_lt_two (α := ℝ))).mp this
      omega
    · decide
  obtain ⟨s, rfl⟩ : ∃ s : ℕ, q = 5 - s := ⟨(5 - q).toNat, by omega⟩
  have units : ((14 * 2 ^ s : ℕ) : ℝ) * 2 ^ (5 - s : ℤ) = 448 := by
    rw [zpow_sub₀ two_ne_zero, zpow_natCast]
    push_cast
    field_simp
    norm_num
  have := h.takes.le (k := 14 * 2 ^ s) (by rw [div_le_iff₀ unit, units]; exact le)
  rw [← units]
  exact mul_le_mul_of_nonneg_right (by exact_mod_cast this) unit.le

theorem fin_is_iff {n : Bool} {m : ℕ} {e : ℤ} {x : ℝ} :
    (FVal.fin n m e).Is x ↔ 0 < m ∧ x = if n then -((m : ℝ) * 2 ^ e) else m * 2 ^ e := by
  cases n <;> simp [FVal.Is]

/-- The pattern of the multiple taken: infinity or the largest value for an overflow, else the multiple itself, with NX
and UF as the exactness and the tininess say (R163). -/
theorem Fmt.Taken.pack_rounds {f : Fmt} (hf : f.Standard) {r : Round} {neg : Bool} {v : ℝ} {q : ℤ} {n : ℕ} (h : f.Taken r neg v q n)
    (small : f.special = .e4m3 → v ≤ 448) {inexact tiny : Bool} (inexact_iff : inexact = true ↔ v ≠ n * 2 ^ q)
    (tiny_iff : tiny = true ↔ v < 2 ^ (1 - (f.bias : ℤ))) :
    let y := (n : ℝ) * 2 ^ q
    let x := f.pack r neg (f.carried q n).1 (f.carried q n).2 inexact tiny
    (f.special = .ieee → (2 : ℝ) ^ (f.bias + 1) ≤ y →
      x = (if r.toInf neg then f.make neg (2 ^ f.ebits - 1) 0 else f.maxBits neg, FFlags.of ||| FFlags.nx)) ∧
    (¬(f.special = .ieee ∧ (2 : ℝ) ^ (f.bias + 1) ≤ y) → x.1.toNat < 2 ^ f.width ∧ (n = 0 → f.value x.1 = .zero neg) ∧
      (n ≠ 0 → (f.value x.1).neg = neg ∧ (f.value x.1).Is (if neg then -y else y)) ∧
      (v = y → x.2 = 0) ∧ (v ≠ y → v < 2 ^ (1 - (f.bias : ℤ)) → x.2 = FFlags.uf ||| FFlags.nx) ∧
      (v ≠ y → ¬v < 2 ^ (1 - (f.bias : ℤ)) → x.2 = FFlags.nx)) := by
  obtain ⟨cut, same, zero_iff⟩ := h.cut
  intro y x
  refine ⟨fun ieee beyond => Fmt.pack_overflow hf cut ieee (same ▸ beyond) r neg inexact tiny, fun fits => ?_⟩
  have le_448 : f.special = .e4m3 → (n : ℝ) * 2 ^ q ≤ 448 := fun hs => by
    obtain rfl := hf.eq_e4m3 hs
    exact h.le_448 (small rfl)
  obtain ⟨width, value, flags⟩ := Fmt.pack_fits hf cut (same.symm ▸ fits) (same.symm ▸ le_448) r neg inexact tiny
  rw [flags, value]
  refine ⟨width, fun zero => if_pos (zero_iff.mpr zero), fun nonzero => ?_, fun eq => ?_, fun ne low => ?_, fun ne high => ?_⟩
  · rw [if_neg (mt zero_iff.mp nonzero)]
    exact ⟨rfl, fin_is_iff.mpr ⟨Nat.pos_of_ne_zero (mt zero_iff.mp nonzero), by rw [same]⟩⟩
  · rw [Bool.eq_false_iff.mpr (fun on => inexact_iff.mp on eq), Bool.and_false]
    rfl
  · rw [inexact_iff.mpr ne, tiny_iff.mpr low]
    rfl
  · rw [inexact_iff.mpr ne, Bool.eq_false_iff.mpr (mt tiny_iff.mp high)]
    rfl

/-- A magnitude two bits longer than the format is cut above its own last place. -/
theorem Fmt.lt_cutAt (f : Fmt) {m : ℕ} (long : 2 ^ (f.fbits + 2) ≤ m) (e : ℤ) : e < f.cutAt (e + Nat.log2 m) := by
  have pos : 0 < m := lt_of_lt_of_le (by positivity) long
  have : f.fbits + 2 ≤ Nat.log2 m := (Nat.le_log2 pos.ne').mpr long
  have := le_max_left (e + Nat.log2 m - f.fbits) f.last
  unfold Fmt.cutAt
  omega

section
variable {f : Fmt} {v : ℝ} {m : ℕ} {e : ℤ} {sticky : Bool} (h : Near v m e sticky) (pos : 0 < m)
include h pos

theorem Near.tiny_iff : decide (e + Nat.log2 m < 1 - (f.bias : ℤ)) = true ↔ v < 2 ^ (1 - (f.bias : ℤ)) := by
  obtain ⟨lower, upper⟩ := h.top_bounds pos
  rw [decide_eq_true_eq]
  exact ⟨fun lt => upper.trans_le (zpow_le_zpow_right₀ one_le_two (by omega)),
    fun lt => (zpow_lt_zpow_iff_right₀ (one_lt_two (α := ℝ))).mp (lower.trans_lt lt)⟩

variable (long : sticky = true → 2 ^ (f.fbits + 2) ≤ m)
include long

/-- The rounding of an exact magnitude known to within its last unit: the one-rounding rules hold of `Fmt.round`. The
magnitude must be two bits longer than the format where a part of it is known by `sticky` alone. -/
theorem Fmt.round_rounds (hf : f.Standard) (r : Round) (flush neg : Bool) : f.Rounds r flush neg v (f.round r flush neg m e sticky) := by
  obtain ⟨lower, upper⟩ := h.top_bounds pos
  obtain ⟨last_le, below, above⟩ := f.cutAt_bounds lower upper
  have splits := h.splits_at (f.cutAt (e + Nat.log2 m)) fun on => f.lt_cutAt (long on) e
  have taken := Fmt.Taken.mk last_le below above (splits.takes r neg)
  have inexact := splits.inexact_iff_ne_taken r neg
  have tiny_iff := h.tiny_iff (f := f) pos
  rw [f.round_eq]
  dsimp only
  generalize decide (e + Nat.log2 m < 1 - (f.bias : ℤ)) = tiny at *
  generalize f.cutAt (e + Nat.log2 m) = q at *
  generalize (if r.up neg _ _ _ _ = true then _ else _ : ℕ) = n at *
  generalize (_ != 0 || sticky) = ix at *
  have unit : (0 : ℝ) < 2 ^ q := by positivity
  have ix_iff : ix = true ↔ v ≠ n * 2 ^ q := by rw [inexact, Ne, div_eq_iff unit.ne']
  have flushes : (tiny && flush) = true ↔ v < 2 ^ (1 - (f.bias : ℤ)) ∧ flush = true := by rw [Bool.and_eq_true, tiny_iff]
  have past_448 (hs : f.special = .e4m3) : cmpNat m e sticky 448 = .gt ↔ 448 < v := by
    obtain rfl := hf.eq_e4m3 hs
    exact (h.cmpNat_compares long (k := 448) (by decide) (by decide)).eq_gt
  refine ⟨fun low on => if_pos (flushes.mpr ⟨low, on⟩), fun hs big => ?_, fun kept small => ?_⟩
  · obtain rfl := hf.eq_e4m3 hs
    have not_tiny : ¬v < 2 ^ (1 - (Fmt.e4m3.bias : ℤ)) := by
      refine not_lt.mpr (le_trans ?_ big.le)
      norm_num [Fmt.e4m3]
    rw [if_neg (fun h => not_tiny (flushes.mp h).1), if_pos ⟨rfl, (past_448 rfl).mpr big⟩]
    exact e4m3Beyond_eq (h.cmpNat_compares long (k := 464) (by decide) (by decide)) r neg
  · rw [if_neg (mt flushes.mp kept), if_neg fun h => small ⟨h.1, (past_448 h.1).mp h.2⟩]
    exact ⟨q, n, taken.last_le, taken.upper, taken.lower, taken.takes,
      taken.pack_rounds hf (fun hs => not_lt.mp fun gt => small ⟨hs, gt⟩) ix_iff tiny_iff⟩

end

end Sys2Proof
end

section
/-! PROOFS. The floating operations and conversions on finite values (R161, R165, R199): each gives its exact result
to one rounding. -/

namespace Sys2Proof

open Machine

/-! ### Finite values -/

/-- A finite value is a zero, or a magnitude with a sign. -/
theorem FVal.Is.zero_or_fin {v : FVal} {x : ℝ} (h : v.Is x) :
    (∃ n, v = .zero n ∧ x = 0) ∨ ∃ n m e, v = .fin n m e ∧ 0 < m ∧ x = if n then -((m : ℝ) * 2 ^ e) else m * 2 ^ e := by
  cases v with
  | nan s => exact h.elim
  | inf n => exact h.elim
  | zero n => exact .inl ⟨n, rfl, h⟩
  | fin n m e => exact .inr ⟨n, m, e, rfl, fin_is_iff.mp h⟩

theorem FVal.Is.not_signalling {v : FVal} {x : ℝ} (h : v.Is x) : v.isSignalling = false := by
  obtain ⟨n, rfl, -⟩ | ⟨n, m, e, rfl, -, -⟩ := h.zero_or_fin <;> rfl

theorem fin_ne_zero {n : Bool} {m : ℕ} {e : ℤ} {x : ℝ} (h : (FVal.fin n m e).Is x) : x ≠ 0 := by
  obtain ⟨pos, rfl⟩ := fin_is_iff.mp h
  have : (0 : ℝ) < m * 2 ^ e := by positivity
  cases n
  · exact this.ne'
  · exact neg_ne_zero.mpr this.ne'

theorem FVal.Is.negate {v : FVal} {x : ℝ} (h : v.Is x) : v.negate.Is (-x) ∧ v.negate.neg = !v.neg ∧ v.negate.isZero = v.isZero := by
  obtain ⟨n, rfl, rfl⟩ | ⟨n, m, e, rfl, pos, rfl⟩ := h.zero_or_fin
  · exact ⟨neg_zero, rfl, rfl⟩
  · refine ⟨fin_is_iff.mpr ⟨pos, ?_⟩, rfl, rfl⟩
    cases n
    · rfl
    · exact neg_neg _

/-- A sign changed on a condition, as the forms of the fused multiply-add do. -/
theorem FVal.Is.negate_if {v : FVal} {x : ℝ} (h : v.Is x) (c : Bool) :
    (if c then v.negate else v).Is (if c then -x else x) ∧ (if c then v.negate else v).neg = (v.neg != c) ∧
      (if c then v.negate else v).isZero = v.isZero := by
  cases c
  · simpa using h
  · simpa using h.negate

theorem Fmt.Gives.congr_sign {f : Fmt} {r : Round} {fo z z' : Bool} {v : ℝ} {x : Word × FFlags} (h : f.Gives r fo z v x)
    (same : v = 0 → z = z') : f.Gives r fo z' v x :=
  ⟨h.1, h.2.1, fun zero => same zero ▸ h.2.2 zero⟩

/-- A magnitude known to within its last unit, with a sign, is rounded as the rules say. -/
theorem Fmt.gives_round {f : Fmt} (hf : f.Standard) (r : Round) (fo neg z : Bool) {v : ℝ} {m : ℕ} {e : ℤ} {sticky : Bool}
    (h : Near v m e sticky) (pos : 0 < m) (long : sticky = true → 2 ^ (f.fbits + 2) ≤ m) :
    f.Gives r fo z (if neg then -v else v) (f.round r fo neg m e sticky) := by
  have v_pos : 0 < v := lt_of_lt_of_le (by positivity) h.le
  have rounds := Fmt.round_rounds h pos long hf r fo neg
  cases neg
  · exact ⟨fun _ => rounds, fun neg => absurd neg v_pos.not_gt, fun zero => absurd zero v_pos.ne'⟩
  · refine ⟨fun pos => absurd pos (by simpa using v_pos.le), fun _ => ?_, fun zero => absurd zero (by simpa using v_pos.ne')⟩
    simpa using rounds

/-- An exact zero takes the sign that stands beside it, with no flag. -/
theorem Fmt.gives_zero (f : Fmt) (r : Round) (fo z : Bool) : f.Gives r fo z 0 (f.zeroBits z, 0) :=
  ⟨fun pos => absurd pos (lt_irrefl _), fun neg => absurd neg (lt_irrefl _), fun _ => rfl⟩

theorem Fmt.gives_result {f : Fmt} (hf : f.Standard) (r : Round) (fo : Bool) {v : FVal} {x : ℝ} (h : v.Is x) :
    f.Gives r fo v.neg x (f.result r fo v) := by
  obtain ⟨n, rfl, rfl⟩ | ⟨n, m, e, rfl, pos, rfl⟩ := h.zero_or_fin
  · exact f.gives_zero r fo n
  · exact f.gives_round hf r fo n n (near_exact m e) pos (by simp)

/-! ### Sums and products -/

theorem scaled_eq {neg : Bool} {m : ℕ} {e e0 : ℤ} (le : e0 ≤ e) :
    (scaled neg m e e0 : ℝ) * 2 ^ e0 = if neg then -((m : ℝ) * 2 ^ e) else m * 2 ^ e := by
  obtain ⟨s, rfl⟩ := Int.le.dest le
  unfold scaled
  rw [show (e0 + s - e0).toNat = s by omega, zpow_add₀ two_ne_zero, zpow_natCast]
  cases neg <;> simp <;> ring

/-- An integer as a sign and a magnitude. -/
theorem sign_natAbs (k e : ℤ) : (if decide (k < 0) then -((k.natAbs : ℝ) * 2 ^ e) else (k.natAbs : ℝ) * 2 ^ e) = k * 2 ^ e := by
  obtain neg | nonneg := lt_or_ge k 0
  · rw [if_pos (decide_eq_true neg), Nat.cast_natAbs, abs_of_neg neg]
    push_cast
    ring
  · rw [if_neg (by simpa using nonneg), Nat.cast_natAbs, abs_of_nonneg nonneg]

theorem dyadic_is (r : Round) (n e : ℤ) : (dyadic r n e).Is (n * 2 ^ e) ∧ (n = 0 → (dyadic r n e).neg = (r == .rdn)) := by
  unfold dyadic
  split
  · rename_i zero
    exact ⟨by simp [FVal.Is, zero], fun _ => rfl⟩
  · rename_i nonzero
    exact ⟨fin_is_iff.mpr ⟨Int.natAbs_pos.mpr nonzero, (sign_natAbs n e).symm⟩, fun zero => absurd zero nonzero⟩

/-- The exact sum, and the sign of one that is zero. -/
theorem FVal.add_is (r : Round) {a b : FVal} {x y : ℝ} (ha : a.Is x) (hb : b.Is y) :
    (FVal.add r a b).2 = 0 ∧ (FVal.add r a b).1.Is (x + y) ∧
      (x + y = 0 → (FVal.add r a b).1.neg = zeroSign r (a.isZero && b.isZero) a.neg b.neg) := by
  obtain ⟨n, rfl, rfl⟩ | ⟨n, m, e, rfl, pos, hx⟩ := ha.zero_or_fin
  · rw [zero_add]
    obtain ⟨n', rfl, rfl⟩ | ⟨n', m', e', rfl, pos', hy⟩ := hb.zero_or_fin
    · refine ⟨rfl, hb, fun _ => ?_⟩
      cases n <;> cases n' <;> rfl
    · exact ⟨rfl, hb, fun zero => absurd zero (fin_ne_zero hb)⟩
  · obtain ⟨n', rfl, rfl⟩ | ⟨n', m', e', rfl, pos', hy⟩ := hb.zero_or_fin
    · rw [add_zero]
      exact ⟨rfl, ha, fun zero => absurd zero (fin_ne_zero ha)⟩
    · obtain ⟨is, sign⟩ := dyadic_is r (scaled n m e (min e e') + scaled n' m' e' (min e e')) (min e e')
      have sum : ((scaled n m e (min e e') + scaled n' m' e' (min e e') : ℤ) : ℝ) * 2 ^ min e e' = x + y := by
        push_cast
        rw [add_mul, scaled_eq (min_le_left e e'), scaled_eq (min_le_right e e'), ← hx, ← hy]
      rw [sum] at is
      refine ⟨rfl, is, fun zero => sign ?_⟩
      rw [zero, mul_eq_zero, or_iff_left (by positivity)] at sum
      exact_mod_cast sum

/-- The exact product, with its sign also where it is zero. -/
theorem FVal.mul_is {a b : FVal} {x y : ℝ} (ha : a.Is x) (hb : b.Is y) :
    (FVal.mul a b).2 = 0 ∧ (FVal.mul a b).1.Is (x * y) ∧ (FVal.mul a b).1.neg = (a.neg != b.neg) ∧
      (FVal.mul a b).1.isZero = (a.isZero || b.isZero) := by
  obtain ⟨n, rfl, rfl⟩ | ⟨n, m, e, rfl, pos, hx⟩ := ha.zero_or_fin
  · rw [zero_mul]
    obtain ⟨n', rfl, -⟩ | ⟨n', m', e', rfl, -, -⟩ := hb.zero_or_fin <;> exact ⟨rfl, rfl, rfl, rfl⟩
  · obtain ⟨n', rfl, rfl⟩ | ⟨n', m', e', rfl, pos', hy⟩ := hb.zero_or_fin
    · rw [mul_zero]
      exact ⟨rfl, rfl, rfl, rfl⟩
    · refine ⟨rfl, fin_is_iff.mpr ⟨Nat.mul_pos pos pos', ?_⟩, rfl, rfl⟩
      rw [hx, hy, zpow_add₀ two_ne_zero]
      cases n <;> cases n' <;> simp [FVal.neg] <;> ring

theorem near_units_iff {u : ℝ} {m : ℕ} {sticky : Bool} :
    Near u m 0 sticky ↔ if sticky then (m : ℝ) < u ∧ u < m + 1 else u = m := by
  simp only [Near, zpow_zero, mul_one]

theorem Near.mul_two_zpow {u : ℝ} {m : ℕ} {sticky : Bool} (h : Near u m 0 sticky) (e : ℤ) : Near (u * 2 ^ e) m e sticky := by
  have unit : (0 : ℝ) < 2 ^ e := by positivity
  unfold Near at *
  simpa only [zpow_zero, mul_one, mul_lt_mul_iff_left₀ unit, mul_left_inj' unit.ne'] using h

theorem near_div (a : ℕ) {d : ℕ} (hd : 0 < d) : Near ((a : ℝ) / d) (a / d) 0 (a % d != 0) := by
  have divisor : (0 : ℝ) < d := by exact_mod_cast hd
  have parts : d * (a / d) + a % d = a := Nat.div_add_mod a d
  have rem_lt : a % d < d := Nat.mod_lt a hd
  rw [near_units_iff]
  split
  · rename_i inexact
    have pos : a % d ≠ 0 := by simpa using inexact
    rw [lt_div_iff₀ divisor, div_lt_iff₀ divisor, add_mul, one_mul]
    norm_cast
    rw [Nat.mul_comm]
    omega
  · rename_i exact'
    have zero : a % d = 0 := by simpa using exact'
    rw [div_eq_iff divisor.ne']
    norm_cast
    rw [Nat.mul_comm]
    omega

/-- A quotient of two magnitudes, developed to two bits more than a format keeps. -/
theorem near_quotient {m m' : ℕ} (hm : 0 < m) (hm' : 0 < m') (e e' : ℤ) (fbits : ℕ) :
    let k : ℕ := fbits + 3 + Nat.log2 m'
    Near ((m : ℝ) * 2 ^ e / (m' * 2 ^ e')) (m * 2 ^ k / m') (e - e' - k) (m * 2 ^ k % m' != 0) ∧ 2 ^ (fbits + 2) ≤ m * 2 ^ k / m' := by
  intro k
  have divisor : (0 : ℝ) < m' := by exact_mod_cast hm'
  have unit : (0 : ℝ) < 2 ^ (e - e' - k) := by positivity
  have quotient : (m : ℝ) * 2 ^ e / (m' * 2 ^ e') = ((m * 2 ^ k : ℕ) : ℝ) / m' * 2 ^ (e - e' - k) := by
    rw [zpow_sub₀ two_ne_zero, zpow_sub₀ two_ne_zero, zpow_natCast]
    push_cast
    field_simp
  constructor
  · rw [quotient]
    exact (near_div (m * 2 ^ k) hm').mul_two_zpow _
  · rw [Nat.le_div_iff_mul_le hm']
    have : m' ≤ 2 ^ (Nat.log2 m' + 1) := Nat.lt_log2_self.le
    calc 2 ^ (fbits + 2) * m' ≤ 2 ^ (fbits + 2) * 2 ^ (Nat.log2 m' + 1) := Nat.mul_le_mul_left _ this
      _ = 1 * 2 ^ k := by rw [← pow_add, Nat.one_mul]; congr 1; omega
      _ ≤ m * 2 ^ k := Nat.mul_le_mul_right _ hm

section
variable {f : Fmt} (hf : f.Standard) (r : Round) (fo : Bool) {a b : FVal} {x y : ℝ} (ha : a.Is x) (hb : b.Is y)
include hf ha

theorem Fmt.gives_convert : f.Gives r fo a.neg x (f.convert r fo a) := by
  simpa [Fmt.convert, ha.not_signalling, nvOf] using Fmt.gives_result hf r fo ha

include hb

theorem Fmt.gives_add : f.Gives r fo (zeroSign r (a.isZero && b.isZero) a.neg b.neg) (x + y) (f.add r fo a b) := by
  obtain ⟨flags, is, sign⟩ := FVal.add_is r ha hb
  have := (Fmt.gives_result hf r fo is).congr_sign sign
  simpa [Fmt.add, flags, ha.not_signalling, hb.not_signalling, nvOf] using this

theorem Fmt.gives_sub : f.Gives r fo (zeroSign r (a.isZero && b.isZero) a.neg (!b.neg)) (x - y) (f.sub r fo a b) := by
  obtain ⟨is, sign, zero⟩ := hb.negate
  rw [sub_eq_add_neg, ← sign, ← zero]
  exact Fmt.gives_add hf r fo ha is

theorem Fmt.gives_mul : f.Gives r fo (a.neg != b.neg) (x * y) (f.mul r fo a b) := by
  obtain ⟨flags, is, sign, -⟩ := FVal.mul_is ha hb
  have := Fmt.gives_result hf r fo is
  rw [sign] at this
  simpa [Fmt.mul, flags, ha.not_signalling, hb.not_signalling, nvOf] using this

theorem Fmt.gives_fma {c : FVal} {z : ℝ} (hc : c.Is z) (np nc : Bool) :
    f.Gives r fo (zeroSign r ((a.isZero || b.isZero) && c.isZero) ((a.neg != b.neg) != np) (c.neg != nc))
      ((if np then -(x * y) else x * y) + if nc then -z else z) (f.fma r fo np nc a b c) := by
  obtain ⟨flags, product, sign, zero⟩ := FVal.mul_is ha hb
  obtain ⟨is_p, sign_p, zero_p⟩ := product.negate_if np
  obtain ⟨is_c, sign_c, zero_c⟩ := hc.negate_if nc
  obtain ⟨flags', sum, sign'⟩ := FVal.add_is r is_p is_c
  rw [sign_p, sign_c, zero_p, zero_c, sign, zero] at sign'
  have := (Fmt.gives_result hf r fo sum).congr_sign sign'
  simpa [Fmt.fma, flags, flags', ha.not_signalling, hb.not_signalling, hc.not_signalling, nvOf] using this

theorem Fmt.gives_div (nonzero : y ≠ 0) : f.Gives r fo (a.neg != b.neg) (x / y) (f.div r fo a b) := by
  obtain ⟨n', rfl, zero⟩ | ⟨n', m', e', rfl, hm', rfl⟩ := hb.zero_or_fin
  · exact absurd zero nonzero
  · obtain ⟨n, rfl, rfl⟩ | ⟨n, m, e, rfl, hm, rfl⟩ := ha.zero_or_fin
    · rw [zero_div]
      exact f.gives_zero r fo (n != n')
    · obtain ⟨near, long⟩ := near_quotient hm hm' e e' f.fbits
      rw [show ((if n then -((m : ℝ) * 2 ^ e) else m * 2 ^ e) / if n' then -((m' : ℝ) * 2 ^ e') else m' * 2 ^ e') =
        if n != n' then -((m : ℝ) * 2 ^ e / (m' * 2 ^ e')) else m * 2 ^ e / (m' * 2 ^ e') by
          cases n <;> cases n' <;> simp [neg_div, div_neg]]
      exact f.gives_round hf r fo (n != n') (n != n') near (lt_of_lt_of_le (by positivity) long) (fun _ => long)

end

/-! ### The square root -/

/-- Bit by bit, the root closes in: with `i` bits left it lies below `s + 2 ^ i`. -/
theorem isqrtFrom_bounds (x i : ℕ) {s : ℕ} (lower : s * s ≤ x) (upper : x < (s + 2 ^ i) * (s + 2 ^ i)) :
    isqrtFrom x i s * isqrtFrom x i s ≤ x ∧ x < (isqrtFrom x i s + 1) * (isqrtFrom x i s + 1) := by
  induction i generalizing s with
  | zero => exact ⟨lower, upper⟩
  | succ i ih =>
    rw [isqrtFrom]
    split
    · rename_i fits
      refine ih fits ?_
      rwa [Nat.add_assoc, ← Nat.two_mul, ← pow_succ']
    · rename_i past
      exact ih lower (not_le.mp past)

/-- The integer root of the model, from its highest bit. -/
theorem isqrtFrom_log2 (x : ℕ) : isqrtFrom x (Nat.log2 x / 2 + 1) 0 = Nat.sqrt x := by
  obtain ⟨lower, upper⟩ := isqrtFrom_bounds x (Nat.log2 x / 2 + 1) (s := 0) (Nat.zero_le _) (by
    rw [Nat.zero_add, ← pow_add]
    exact Nat.lt_log2_self.trans_le (Nat.pow_le_pow_right two_pos (by omega)))
  exact (Nat.eq_sqrt.mpr ⟨lower, upper⟩)

theorem near_sqrt (x : ℕ) : Near (Real.sqrt x) (Nat.sqrt x) 0 (Nat.sqrt x * Nat.sqrt x != x) := by
  have lower : ((Nat.sqrt x * Nat.sqrt x : ℕ) : ℝ) ≤ x := by exact_mod_cast Nat.sqrt_le x
  have upper : (x : ℝ) < (((Nat.sqrt x + 1) * (Nat.sqrt x + 1) : ℕ) : ℝ) := by exact_mod_cast Nat.lt_succ_sqrt x
  push_cast at lower upper
  rw [near_units_iff]
  split
  · rename_i inexact
    have ne : Nat.sqrt x * Nat.sqrt x ≠ x := by simpa using inexact
    have lower := lt_of_le_of_ne lower (by exact_mod_cast ne)
    exact ⟨Real.lt_sqrt_of_sq_lt (by rwa [sq]), (Real.sqrt_lt' (by positivity)).mpr (by rwa [sq])⟩
  · rename_i exact'
    have eq : Nat.sqrt x * Nat.sqrt x = x := by simpa using exact'
    rw [Real.sqrt_eq_iff_mul_self_eq (by positivity) (by positivity)]
    exact_mod_cast eq.symm

/-- The root of a magnitude, developed to two bits more than a format keeps; an odd exponent is made even first. -/
theorem near_root {m : ℕ} (hm : 0 < m) (e : ℤ) (fbits : ℕ) :
    let k : ℕ := 2 * (fbits + 4) + (if (e % 2 : ℤ) = 0 then 0 else 1)
    let x := m * 2 ^ k
    Near (Real.sqrt (m * 2 ^ e)) (Nat.sqrt x) ((e - k) / 2) (Nat.sqrt x * Nat.sqrt x != x) ∧ 2 ^ (fbits + 2) ≤ Nat.sqrt x := by
  intro k x
  obtain ⟨j, hj⟩ : ∃ j : ℤ, e = k + 2 * j := ⟨(e - k) / 2, by grind⟩
  have half : (e - k) / 2 = j := by omega
  have root : Real.sqrt (m * 2 ^ e) = Real.sqrt x * 2 ^ j := by
    rw [hj, zpow_add₀ two_ne_zero, zpow_natCast, ← mul_assoc, Real.sqrt_mul (by positivity), mul_comm 2 j, zpow_mul]
    push_cast [x]
    congr 1
    exact Real.sqrt_sq (by positivity)
  refine ⟨?_, Nat.le_sqrt.mpr ?_⟩
  · rw [root, half]
    exact (near_sqrt x).mul_two_zpow j
  · rw [← pow_add]
    calc 2 ^ (fbits + 2 + (fbits + 2)) ≤ 1 * 2 ^ k := by rw [one_mul]; exact Nat.pow_le_pow_right two_pos (by omega)
      _ ≤ x := Nat.mul_le_mul_right _ hm

theorem Fmt.gives_sqrt {f : Fmt} (hf : f.Standard) (r : Round) (fo : Bool) {a : FVal} {x : ℝ} (ha : a.Is x) (nonneg : 0 ≤ x) :
    f.Gives r fo a.neg (Real.sqrt x) (f.sqrt r fo a) := by
  obtain ⟨n, rfl, rfl⟩ | ⟨n, m, e, rfl, hm, rfl⟩ := ha.zero_or_fin
  · rw [Real.sqrt_zero]
    exact f.gives_zero r fo n
  · cases n
    · obtain ⟨near, long⟩ := near_root hm e f.fbits
      have := f.gives_round hf r fo false false near (lt_of_lt_of_le (by positivity) long) (fun _ => long)
      simp only [← isqrtFrom_log2] at this
      exact this
    · have : (0 : ℝ) < m * 2 ^ e := by positivity
      exact absurd nonneg (by simpa using this)

theorem Fmt.gives_ofInt {f : Fmt} (hf : f.Standard) (r : Round) (fo : Bool) (k : ℤ) : f.Gives r fo false (k : ℝ) (f.ofInt r fo k) := by
  unfold Fmt.ofInt
  split
  · rename_i zero
    subst zero
    rw [Int.cast_zero]
    exact f.gives_zero r fo false
  · rename_i nonzero
    rw [show (k : ℝ) = k * 2 ^ (0 : ℤ) by simp, ← sign_natAbs]
    exact f.gives_round hf r fo (decide (k < 0)) false (near_exact k.natAbs 0) (Int.natAbs_pos.mpr nonzero) (by simp)

/-! ### Conversions to integers (R165) -/

theorem takes_zero (r : Round) (neg : Bool) : r.Takes neg 0 0 := by
  cases r <;> cases neg <;> norm_num [Round.Takes]

/-- The whole number that `roundToInt` takes of a magnitude, and whether it is inexact. -/
theorem roundToInt_takes (r : Round) (neg : Bool) (m : ℕ) (e : ℤ) :
    ∃ (n : ℕ) (inexact : Bool), roundToInt r neg m e = (if neg then -(n : ℤ) else n, inexact) ∧ r.Takes neg (m * 2 ^ e) n ∧
      (inexact = true ↔ (m : ℝ) * 2 ^ e ≠ n) := by
  have splits : Splits ((m : ℝ) * 2 ^ e) (if 0 ≤ e then m * 2 ^ e.toNat else m / 2 ^ (-e).toNat) (if 0 ≤ e then 0 else m % 2 ^ (-e).toNat)
      (if (-e).toNat = 0 then 1 else 2 ^ ((-e).toNat - 1)) false := by
    by_cases whole : 0 ≤ e
    · have := splits_mul m whole (half := if (-e).toNat = 0 then 1 else 2 ^ ((-e).toNat - 1)) (by split <;> positivity)
      simpa [whole] using this
    · have := (near_exact m e).splits_div (q := 0) (by omega) (by simp)
      simpa [whole] using this
  refine ⟨_, _, rfl, splits.takes r neg, ?_⟩
  have := splits.inexact_iff_ne_taken r neg
  rwa [Bool.or_false] at this

/-- A conversion to an integer: the whole number that the mode takes, or the nearest end of the range with NV. -/
theorem FVal.toInt_takes (u : Ty) (r : Round) {a : FVal} {x : ℝ} (ha : a.Is x) :
    ∃ n : ℕ, r.Takes a.neg |x| n ∧ let k : Int := if a.neg then -(n : Int) else n
      (u.minInt ≤ k → k ≤ u.maxInt → (x = k → FVal.toInt u r a = (wrap u.width k, 0)) ∧
        (x ≠ k → FVal.toInt u r a = (wrap u.width k, FFlags.nx))) ∧
      (k < u.minInt → FVal.toInt u r a = (wrap u.width u.minInt, FFlags.nv)) ∧
      (u.maxInt < k → FVal.toInt u r a = (wrap u.width u.maxInt, FFlags.nv)) := by
  obtain ⟨min_le, le_max⟩ := u.zero_mem_range
  obtain ⟨neg, rfl, rfl⟩ | ⟨neg, m, e, rfl, pos, hx⟩ := ha.zero_or_fin
  · refine ⟨0, by rw [abs_zero]; exact takes_zero r neg, ?_⟩
    simp only [Nat.cast_zero, neg_zero, ite_self, Int.cast_zero]
    refine ⟨fun _ _ => ⟨fun _ => ?_, fun ne => absurd rfl ne⟩, fun low => absurd low (not_lt.mpr min_le),
      fun high => absurd high (not_lt.mpr le_max)⟩
    simp [FVal.toInt, wrap]
  · obtain ⟨n, inexact, eq, takes, inexact_iff⟩ := roundToInt_takes r neg m e
    have magnitude : |x| = m * 2 ^ e := by
      have : (0 : ℝ) < m * 2 ^ e := by positivity
      rw [hx]
      cases neg
      · exact abs_of_pos this
      · exact (abs_neg _).trans (abs_of_pos this)
    have exact_iff : inexact = true ↔ x ≠ ((if neg then -(n : ℤ) else n : ℤ) : ℝ) := by
      rw [inexact_iff, hx]
      cases neg <;> simp
    rw [show (FVal.fin neg m e).neg = neg from rfl]
    refine ⟨n, magnitude ▸ takes, ?_⟩
    simp only [FVal.toInt, eq]
    generalize (if neg then -(n : ℤ) else n : ℤ) = k at *
    refine ⟨fun lo hi => ?_, fun low => ?_, fun high => ?_⟩
    · rw [if_neg (by omega)]
      exact ⟨fun same => by rw [if_neg fun on => exact_iff.mp on same], fun other => by rw [if_pos (exact_iff.mpr other)]⟩
    · rw [if_pos (.inl low), u.clamp_of_lt low]
    · rw [if_pos (.inr high), u.clamp_of_gt high]

end Sys2Proof
end

section
/-! PROOFS. Sums of products (R182, R184 to R187, R282, R286): the exact sum that is gathered, the cells of the matrix
pipe, and the additions of a floating reduction. -/

namespace Sys2Proof

open Machine

/-! ### The exact sum of finite products -/

/-- A sum in the making of finite terms whose exact value is `x`. -/
structure Acc.Holds (s : Acc) (x : ℝ) : Prop where
  nan : s.nan = false
  posInf : s.posInf = false
  negInf : s.negInf = false
  flags : s.flags = 0
  value : (s.n : ℝ) * 2 ^ s.e = x
  zeros : s.mixed = false → x = 0

theorem Acc.holds_empty : Acc.Holds {} 0 := ⟨rfl, rfl, rfl, rfl, by simp, fun _ => rfl⟩

theorem Acc.Holds.add {s : Acc} {x y : ℝ} {v : FVal} (h : s.Holds x) (hv : v.Is y) : (s.add v).Holds (x + y) := by
  obtain ⟨nan, posInf, negInf, flags, value, zeros⟩ := h
  obtain ⟨n, rfl, rfl⟩ | ⟨n, m, e, rfl, -, rfl⟩ := hv.zero_or_fin
  · rw [add_zero]
    unfold Acc.add
    dsimp only
    split
    · split
      · exact ⟨nan, posInf, negInf, flags, value, zeros⟩
      · exact ⟨nan, posInf, negInf, flags, value, fun h => by cases h⟩
    · exact ⟨nan, posInf, negInf, flags, value, zeros⟩
  · refine ⟨nan, posInf, negInf, flags, ?_, fun h => by cases h⟩
    change ((scaled (decide (s.n < 0)) s.n.natAbs s.e (min s.e e) + scaled n m e (min s.e e) : ℤ) : ℝ) * 2 ^ min s.e e = _
    push_cast
    rw [add_mul, scaled_eq (min_le_left s.e e), scaled_eq (min_le_right s.e e), sign_natAbs, value]

theorem Acc.Holds.addProduct {s : Acc} {x y z : ℝ} {a b : FVal} (h : s.Holds x) (ha : a.Is y) (hb : b.Is z) :
    (s.addProduct a b).Holds (x + y * z) := by
  obtain ⟨flags, product, -, -⟩ := FVal.mul_is ha hb
  obtain ⟨nan, posInf, negInf, flags', value, zeros⟩ := h.add product
  refine ⟨nan, posInf, negInf, ?_, value, zeros⟩
  change (s.add (FVal.mul a b).1).flags ||| (FVal.mul a b).2 ||| nvOf (a.isSignalling || b.isSignalling) = 0
  rw [flags', flags, ha.not_signalling, hb.not_signalling]
  rfl

theorem Acc.Holds.total {s : Acc} {x : ℝ} (h : s.Holds x) (r : Round) : (s.total r).1.Is x ∧ (s.total r).2 = 0 := by
  obtain ⟨nan, posInf, negInf, flags, value, zeros⟩ := h
  unfold Acc.total
  rw [nan, posInf, negInf, flags]
  cases mixed : s.mixed
  · exact ⟨zeros mixed, rfl⟩
  · exact ⟨value ▸ (dyadic_is r s.n s.e).1, rfl⟩

/-- Products gathered over a list of positions. -/
theorem Acc.holds_foldl {l : List ℕ} {p q : ℕ → FVal} {a b : ℕ → ℝ} (ha : ∀ t ∈ l, (p t).Is (a t) ∧ (q t).Is (b t))
    {s : Acc} {x : ℝ} (h : s.Holds x) : (l.foldl (fun s t => s.addProduct (p t) (q t)) s).Holds (x + (l.map fun t => a t * b t).sum) := by
  induction l generalizing s x with
  | nil => simpa using h
  | cons t l ih =>
    obtain ⟨hp, hq⟩ := ha t List.mem_cons_self
    rw [List.foldl_cons, List.map_cons, List.sum_cons, ← add_assoc]
    exact ih (fun t ht => ha t (List.mem_cons_of_mem _ ht)) (h.addProduct hp hq)

/-- The exact sum of the products, as the matrix pipe takes it up (R184, R185). -/
theorem sum_of_products {l : List ℕ} {p q : ℕ → FVal} {a b : ℕ → ℝ} (h : ∀ t ∈ l, (p t).Is (a t) ∧ (q t).Is (b t)) (r : Round) :
    ((l.foldl (fun (s : Acc) t => s.addProduct (p t) (q t)) {}).total r).1.Is (l.map fun t => a t * b t).sum ∧
      ((l.foldl (fun (s : Acc) t => s.addProduct (p t) (q t)) {}).total r).2 = 0 := by
  have := (Acc.holds_foldl h Acc.holds_empty).total r
  rwa [zero_add] at this

/-! ### Cells -/

theorem sum_range_eq_list {α : Type} [AddCommMonoid α] (n : ℕ) (f : ℕ → α) : Finset.sum (Finset.range n) f = ((List.range n).map f).sum := rfl

section
variable (h : Hart) {o : MopaForm} {i j : ℕ} {a b : ℕ → ℝ}
  (operands : ∀ t, t < perCell o.ty → (o.ty.fmt.read h.flush (opElem h o.ty o.a i t)).Is (a t) ∧
    (o.ty.fmt.read h.flush (opElem h o.ty o.b j t)).Is (b t))
include operands

theorem productSum_is (r : Round) :
    (productSum h o.ty o.a o.b i j r).1.Is (Finset.sum (Finset.range (perCell o.ty)) fun t => a t * b t) ∧
      (productSum h o.ty o.a o.b i j r).2 = 0 := by
  rw [sum_range_eq_list]
  exact sum_of_products (fun t ht => operands t (List.mem_range.mp ht)) r

theorem outerCell_float (minus : Bool) {cell : Word} (float : o.ty.isFloat = true) {c : ℝ} (old : ((cellTy o.ty).fmt.read h.flush cell).Is c) :
    let p := Finset.sum (Finset.range (perCell o.ty)) fun t => a t * b t
    ∃ z, (cellTy o.ty).fmt.Gives (h.round o.rm) h.flush.output z (if minus then c - p else c + p) (outerCell h o minus i j cell) := by
  intro p
  obtain ⟨sum, flags⟩ := productSum_is h operands (h.round o.rm)
  simp only [outerCell, float, if_true, flags]
  cases minus
  · exact ⟨_, by simpa using Fmt.gives_add (Ty.fmt_standard _) (h.round o.rm) h.flush.output old sum⟩
  · exact ⟨_, by simpa using Fmt.gives_sub (Ty.fmt_standard _) (h.round o.rm) h.flush.output old sum⟩

end

theorem intSum_eq (h : Hart) (t : Ty) (a b : VIdx) (i j : ℕ) :
    intSum h t a b i j = Finset.sum (Finset.range (perCell t)) fun k => t.int (opElem h t a i k) * t.int (opElem h t b j k) := by
  rw [sum_range_eq_list, List.sum_eq_foldl, List.foldl_map]
  rfl

theorem outerCell_int (h : Hart) (o : MopaForm) (minus : Bool) (i j : ℕ) (cell : Word) (int : o.ty.isFloat = false) :
    let p := Finset.sum (Finset.range (perCell o.ty)) fun t => o.ty.int (opElem h o.ty o.a i t) * o.ty.int (opElem h o.ty o.b j t)
    let ct := cellTy o.ty
    let x := if minus then ct.int cell - p else ct.int cell + p
    outerCell h o minus i j cell = (wrap ct.width (if o.sat then max ct.minInt (min x ct.maxInt) else x), 0) := by
  intro p ct x
  simp only [outerCell, int, Bool.false_eq_true, if_false, intSum_eq, Ty.narrow, ← Ty.clamp_eq_max_min]
  rfl

/-- What a group of activation elements does to a column's cell and the flags gathered so far (R286). -/
def streamGroup (h : Hart) (r : Round) (v : VIdx) (j : ℕ) (z : Word × FFlags) (g : List ℕ) : Word × FFlags :=
  let s := (g.foldl (fun (s : Acc) t =>
    s.addProduct (Fmt.bf16.read h.flush (elemGet (h.getV v) 16 t)) (Fmt.bf16.read h.flush (h.live.weight t j))) {}).total r
  let y := Fmt.f32.add r h.flush.output (Fmt.f32.read h.flush z.1) s.1
  (y.1, z.2 ||| s.2 ||| y.2)

theorem streamColumn_eq_foldl (h : Hart) (r : Round) (v : VIdx) (l : List (List ℕ)) (j : ℕ) (cell : Word) :
    streamColumn h r v l j cell = l.foldl (streamGroup h r v j) (cell, 0) := rfl

/-- The flags gathered before a group only stand beside what it raises. -/
theorem foldl_streamGroup_flags (h : Hart) (r : Round) (v : VIdx) (j : ℕ) (l : List (List ℕ)) (x : Word) (p : FFlags) :
    l.foldl (streamGroup h r v j) (x, p) =
      ((l.foldl (streamGroup h r v j) (x, 0)).1, p ||| (l.foldl (streamGroup h r v j) (x, 0)).2) := by
  induction l generalizing x p with
  | nil => simp
  | cons g l ih =>
    simp only [List.foldl_cons, streamGroup]
    rw [ih, ih (p := 0 ||| _ ||| _)]
    simp [BitVec.or_assoc]

/-- MSTREAM's groups in order: the first is added to the cell, the rest to what it leaves (R286). -/
theorem streamColumn_cons (h : Hart) (r : Round) (v : VIdx) (g : List ℕ) (l : List (List ℕ)) (j : ℕ) (cell : Word) :
    let x := streamColumn h r v [g] j cell
    let y := streamColumn h r v l j x.1
    streamColumn h r v (g :: l) j cell = (y.1, x.2 ||| y.2) :=
  foldl_streamGroup_flags h r v j l _ _

theorem streamColumn_one (h : Hart) (r : Round) (v : VIdx) (g : List ℕ) (j : ℕ) (cell : Word) {a b : ℕ → ℝ} {c : ℝ}
    (operands : ∀ t ∈ g, (Fmt.bf16.read h.flush (elemGet (h.getV v) 16 t)).Is (a t) ∧ (Fmt.bf16.read h.flush (h.live.weight t j)).Is (b t))
    (old : (Fmt.f32.read h.flush cell).Is c) :
    ∃ z, Fmt.f32.Gives r h.flush.output z (c + (g.map fun t => a t * b t).sum) (streamColumn h r v [g] j cell) := by
  obtain ⟨sum, flags⟩ := sum_of_products operands r
  have added := Fmt.gives_add (f := .f32) Ty.f32.fmt_standard r h.flush.output old sum
  rw [streamColumn_eq_foldl, List.foldl_cons, List.foldl_nil, streamGroup]
  simp only [flags]
  exact ⟨_, by simpa using added⟩

/-! ### Floating reductions (R186, R187) -/

theorem reduceAdd_eq (f : Fmt) (r : Round) (fl : Flush) (x y : Word) (p q : FFlags) :
    reduceAdd f r fl (x, p) (y, q) = ((reduceAdd f r fl (x, 0) (y, 0)).1, p ||| q ||| (reduceAdd f r fl (x, 0) (y, 0)).2) := by
  simp [reduceAdd]

theorem reduceAdd_gives (t : Ty) (r : Round) (fl : Flush) (x y : Word) {a b : ℝ} (ha : (t.fmt.read fl x).Is a) (hb : (t.fmt.read fl y).Is b) :
    ∃ s, t.fmt.Gives r fl.output s (a + b) (reduceAdd t.fmt r fl (x, 0) (y, 0)) :=
  ⟨_, by simpa [reduceAdd] using Fmt.gives_add t.fmt_standard r fl.output ha hb⟩

theorem treeLevel_append {α : Type} (f : α → α → α) (n : ℕ) {l : List (Option α)} (hl : l.length = 2 * n) (m : List (Option α)) :
    treeLevel f (l ++ m) = treeLevel f l ++ treeLevel f m ∧ (treeLevel f l).length = n := by
  induction n generalizing l with
  | zero =>
    obtain rfl := List.length_eq_zero_iff.mp hl
    exact ⟨rfl, rfl⟩
  | succ n ih =>
    match l, hl with
    | a :: b :: l, hl =>
      obtain ⟨append, length⟩ := ih (l := l) (by simp at hl; omega)
      exact ⟨congrArg _ append, congrArg (· + 1) length⟩

theorem treeSum_succ {α : Type} (f : α → α → α) (n : ℕ) (l : List (Option α)) : treeSum f (n + 1) l = treeSum f n (treeLevel f l) := rfl

/-- The tree over 2^n positions has one sum, and over two halves it joins theirs (R187). -/
theorem treeSum_append {α : Type} (f : α → α → α) (n : ℕ) {l m : List (Option α)} (hl : l.length = 2 ^ n) (hm : m.length = 2 ^ n) :
    ∃ x y, treeSum f n l = [x] ∧ treeSum f n m = [y] ∧ treeSum f (n + 1) (l ++ m) = [Option.merge f x y] := by
  induction n generalizing l m with
  | zero =>
    obtain ⟨x, rfl⟩ := List.length_eq_one_iff.mp hl
    obtain ⟨y, rfl⟩ := List.length_eq_one_iff.mp hm
    refine ⟨x, y, rfl, rfl, ?_⟩
    cases x <;> cases y <;> rfl
  | succ n ih =>
    rw [pow_succ'] at hl hm
    obtain ⟨-, hl'⟩ := treeLevel_append f _ hl []
    obtain ⟨-, hm'⟩ := treeLevel_append f _ hm []
    rw [treeSum_succ f n l, treeSum_succ f n m, treeSum_succ f (n + 1), (treeLevel_append f _ hl m).1]
    exact ih hl' hm'

end Sys2Proof
end

section
/-! PROOFS. What integer, floating and summing operations are: the pieces above, put together. -/

namespace Sys2Proof.Machine

/-- Settles O2: the integer operations and the bit counts by their own laws; every finite floating result through the
rounding of an exact magnitude (`Fmt.round_rounds`); sums of products through the exact sum in the making
(`Acc.Holds`); the tree of VFREDT by induction on its levels. -/
theorem integerOperationsMean : Obligations.IntegerOperationsMean := by
  unfold Obligations.IntegerOperationsMean
  refine ⟨⟨fun t _ => ?_, fun w x hw => ?_⟩, fun t r fo => ?_, ⟨fun h o minus i j cell => ⟨?_, ?_⟩, fun h r v j cell => ?_,
    fun t r fl x y p q => ?_, fun f n l m hl hm => ?_⟩⟩
  · refine ⟨fun x => rfl, fun x lo hi => ?_, fun x low => ?_, fun x high => ?_,
      fun x => ⟨t.int_place x, fun signed => t.toInt_place signed x, fun unsigned => t.toNat_place unsigned x⟩,
      fun a b nonzero => ⟨if_neg nonzero, if_neg nonzero⟩, fun a b zero => ⟨?_, if_pos zero⟩,
      fun a b => ⟨t.int_lesser a b, t.int_greater a b⟩, t.int_mulHigh,
      fun a b i hi => ⟨t.getLsbD_shiftLeft a b hi, t.getLsbD_shiftRight a b i, t.getLsbD_shiftRightA a b hi⟩⟩
    · exact t.int_narrow_of_mem lo hi
    · exact t.int_narrow_of_lt low
    · exact t.int_narrow_of_gt high
    · exact (if_pos zero).trans (wrap_neg_one t.width_le)
  · obtain ⟨trailing_zeros, trailing_one⟩ := getLsbD_trailingZeros w 0 x
    refine ⟨⟨leadingZeros_le w x, getLsbD_leadingZeros w x⟩, ⟨trailingZeros_le w 0 x, fun i hi => ?_, fun h => ?_⟩,
      popCount_eq_countP w x, fun i => ?_, fun n j k hn hk => getLsbD_byteSwap hn x j hk⟩
    · exact trailing_zeros i (Nat.zero_le i) (by omega)
    · exact Nat.zero_add (trailingZeros w 0 x) ▸ trailing_one h
    · rw [getLsbD_bitReverse hw le_rfl]
      simp
  · have hf := t.fmt_standard
    refine ⟨fun a b x y ha hb => ⟨Fmt.gives_add hf r fo ha hb, Fmt.gives_sub hf r fo ha hb, Fmt.gives_mul hf r fo ha hb,
      Fmt.gives_div hf r fo ha hb, fun c z hc np nc => Fmt.gives_fma hf r fo ha hb hc np nc⟩, fun a x ha => ?_, Fmt.gives_ofInt hf r fo⟩
    exact ⟨Fmt.gives_convert hf r fo ha, Fmt.gives_sqrt hf r fo ha, fun u _ => FVal.toInt_takes u r ha⟩
  · exact fun float a b c operands old => outerCell_float h operands minus float old
  · exact outerCell_int h o minus i j cell
  · exact ⟨rfl, fun g l => streamColumn_cons h r v g l j cell, fun g a b c => streamColumn_one h r v g j cell⟩
  · exact ⟨reduceAdd_eq t.fmt r fl x y p q, fun a b => reduceAdd_gives t r fl x y⟩
  · obtain ⟨x, y, left, right, joined⟩ := treeSum_append f n hl hm
    refine ⟨x, y, left, right, joined.trans ?_⟩
    cases x <;> cases y <;> rfl

end Sys2Proof.Machine
end

section
/-! PROOFS. The moulds of the scalar, predicate and mask instructions, brought to what the instruction as a whole answers,
and the results of integers, predicates and masks (R189 to R195, R202 to R204). -/

namespace Sys2Proof.Machine

/-! ## From a mould to its instruction -/

section
variable {i : Instr} {op : Nat} {c : Ctl} {s : State} {slot : Nat} {h : Hart}

theorem completes_scalarBin {o : ScalarBin} {f : Ty → Word → Word → Word} (he : exec i s = scalarBin op c o s f)
    (hi : Issues op c s slot h) (hp : h.poisoned (.s o.a :: ssrcReads o.b) = false) :
    Completes i s slot h (h.setS o.d (o.ty.place (f o.ty (low o.ty.width (h.getS o.a)) (low o.ty.width (h.ssrc o.ty o.b))))) := by
  obtain ⟨t, ht, hc⟩ := scalarBin_done f hi hp
  exact ⟨t, he.trans ht, hc⟩

theorem completes_scalarUn {o : ScalarUn} {f : Ty → Word → Word} (he : exec i s = scalarUn op c o s f)
    (hi : Issues op c s slot h) (hp : h.poisoned [.s o.a] = false) :
    Completes i s slot h (h.setS o.d (o.ty.place (f o.ty (low o.ty.width (h.getS o.a))))) := by
  obtain ⟨t, ht, hc⟩ := scalarUn_done f hi hp
  exact ⟨t, he.trans ht, hc⟩

theorem completes_predLogic {d a b : PIdx} {f : Bool → Bool → Bool} (he : exec i s = predLogic c d a b s f)
    (hi : Issues 0x51 c s slot h) : Completes i s slot h (h.setP d (f (h.getP a) (h.getP b))) := by
  obtain ⟨t, ht, hc⟩ := predLogic_done f hi
  exact ⟨t, he.trans ht, hc⟩

theorem completes_maskLogic {d a b : MIdx} {f : MReg → MReg → MReg} (he : exec i s = maskLogic c d a b s f)
    (hi : Issues 0x52 c s slot h) (hp : h.poisoned [.m a, .m b] = false) :
    Completes i s slot h (h.setM d (f (h.getM a) (h.getM b))) := by
  obtain ⟨t, ht, hc⟩ := maskLogic_done f hi hp
  exact ⟨t, he.trans ht, hc⟩

theorem completes_floatBin {o : FloatBin} {readsD : Bool} {f : Fmt → Round → Word → Word → Word → Word × FFlags}
    (he : exec i s = floatBin op c o s readsD f) (hi : Issues op c s slot h)
    (hp : h.poisoned ((if readsD then [.s o.d] else []) ++ .s o.a :: ssrcReads o.b) = false) :
    let r := f o.ty.fmt (h.round o.rm) (low o.ty.width (h.getS o.a)) (low o.ty.width (h.ssrc o.ty o.b)) (low o.ty.width (h.getS o.d))
    Completes i s slot h ((h.setS o.d (low o.ty.width r.1)).raise r.2) := by
  obtain ⟨t, ht, hc⟩ := floatBin_done readsD f hi hp
  exact ⟨t, he.trans ht, hc⟩

theorem completes_floatUn {t : Ty} {d a : SIdx} {w : Nat} {f : Hart → Word → Word × FFlags}
    (he : exec i s = floatUn op c t d a w s f) (hi : Issues op c s slot h) (hp : h.poisoned [.s a] = false) :
    Completes i s slot h ((h.setS d (t.place (f h (low w (h.getS a))).1)).raise (f h (low w (h.getS a))).2) := by
  obtain ⟨u, hu, hc⟩ := floatUn_done f hi hp
  exact ⟨u, he.trans hu, hc⟩

end

/-! ## Integers -/

/-- Settles O1: each instruction by the mould that it shares, and EXT, MOVI, MOVHI and ADDPC by their bodies. -/
theorem scalarIntegerResults : Obligations.ScalarIntegerResults := by
  refine ⟨fun c o s slot h hp => ⟨fun hi => ?_, fun hi => ?_⟩,
    fun c s slot h => ⟨fun o hp => ⟨fun hi => ?_, fun hi => ?_⟩, fun o hp hi => ?_, fun o hi => ?_, fun o hp hi => ?_, fun o hi => ?_⟩⟩
  · exact ⟨(completes_scalarBin (exec_add c o s) hi hp :), (completes_scalarBin (exec_sub c o s) hi hp :),
      (completes_scalarBin (exec_and_ c o s) hi hp :), (completes_scalarBin (exec_or_ c o s) hi hp :),
      (completes_scalarBin (exec_xor_ c o s) hi hp :), (completes_scalarBin (exec_andn c o s) hi hp :),
      (completes_scalarBin (exec_sll c o s) hi hp :), (completes_scalarBin (exec_srl c o s) hi hp :),
      (completes_scalarBin (exec_sra c o s) hi hp :), (completes_scalarBin (exec_min_ c o s) hi hp :),
      (completes_scalarBin (exec_max_ c o s) hi hp :), (completes_scalarBin (exec_slt c o s) hi hp :)⟩
  · exact ⟨(completes_scalarBin (exec_mul c o s) hi hp :), (completes_scalarBin (exec_mulh c o s) hi hp :),
      (completes_scalarBin (exec_div c o s) hi hp :), (completes_scalarBin (exec_rem c o s) hi hp :)⟩
  · exact (completes_scalarUn (exec_mov c o s) hi hp :)
  · exact ⟨(completes_scalarUn (exec_clz c o s) hi hp :), (completes_scalarUn (exec_ctz c o s) hi hp :),
      (completes_scalarUn (exec_popc c o s) hi hp :), (completes_scalarUn (exec_brev c o s) hi hp :),
      (completes_scalarUn (exec_bswap c o s) hi hp :)⟩
  · exact completes_of (exec_ext_ c o s) hi (unpoisoned_clean hp)
  · exact completes_of (exec_movi c o s) hi rfl
  · exact completes_of (exec_movhi c o s) hi (unpoisoned_clean hp)
  · exact completes_of (exec_addpc c o s) hi rfl

/-! ## Predicates and masks -/

theorem maskCount_eq_countP (n : Nat) (m : MReg) : maskCount n m = (List.range n).countP fun i => m.getLsbD i := by
  induction n with
  | zero => rfl
  | succ n ih => simp [maskCount, ih, List.range_succ, List.countP_append, List.countP_singleton]

theorem maskFirst_eq_find (n i : Nat) (m : MReg) : maskFirst n i m = (List.range' i n).find? fun k => m.getLsbD k := by
  induction n generalizing i with
  | zero => rfl
  | succ n ih =>
    rw [maskFirst, List.range'_succ, List.find?_cons, ih]
    cases m.getLsbD i <;> rfl

theorem poisoned_twice {h : Hart} {x : Src} (hp : h.poisoned [x] = false) : h.poisoned [x, x] = false := by
  rw [show [x, x] = [x] ++ [x] from rfl, poisoned_append, hp]
  rfl

/-- An integer condition raises no flag. -/
theorem condOf_int {t : Ty} (int : t.isFloat = false) (c : Cond) (fl : Flush) (a b : Word) :
    condOf c t fl a b = (intCond c t a b, 0) := by simp [condOf, int]

/-- Settles O4: each instruction by the mould that it shares; the counts over a mask as what `List.range` gives; and the
conditions by the kind of TYPE. -/
theorem predicateAndMaskResults : Obligations.PredicateAndMaskResults := by
  refine ⟨fun c s slot h => ⟨fun o hp hi => ?_, fun hi => ⟨fun o => ?_, fun o => ?_⟩, fun hi => ⟨fun o hp => ?_, fun o hp => ?_⟩,
    fun hi o hp => ?_⟩, fun t fl a b => ⟨fun int => ?_, fun float c => ?_⟩⟩
  · exact completes_of (exec_pcmp c o s) hi (unpoisoned_clean hp)
  · exact ⟨(completes_predLogic (exec_pand c o s) hi :), (completes_predLogic (exec_por c o s) hi :),
      (completes_predLogic (exec_pxor c o s) hi :), (completes_predLogic (exec_pandn c o s) hi :)⟩
  · exact ⟨(completes_predLogic (exec_pnot c o s) hi :), (completes_predLogic (exec_pmov c o s) hi :)⟩
  · exact ⟨(completes_maskLogic (exec_mand c o s) hi hp :), (completes_maskLogic (exec_mor c o s) hi hp :),
      (completes_maskLogic (exec_mxor c o s) hi hp :), (completes_maskLogic (exec_mandn c o s) hi hp :)⟩
  · exact ⟨(completes_maskLogic (exec_mnot c o s) hi (poisoned_twice hp) :), (completes_maskLogic (exec_mmov c o s) hi (poisoned_twice hp) :)⟩
  · rw [← maskCount_eq_countP, List.range_eq_range', ← maskFirst_eq_find]
    exact ⟨completes_of (exec_mpopc c o s) hi (unpoisoned_clean hp), completes_of (exec_mfirst c o s) hi (unpoisoned_clean hp)⟩
  · simp only [condOf_int int, intCond, bne, Ty.int, decide_not]
    exact ⟨rfl, rfl, rfl, rfl⟩
  · simp [condOf, float]

end Sys2Proof.Machine
end

section
/-! PROOFS. Branches, calls and hardware loops (R205 to R209). -/

namespace Sys2Proof.Machine

/-! ## Redirects (R121, R205, R208) -/

section
variable {i : Instr} {op : Nat} {c : Ctl} {s : State} {slot : Nat} {h : Hart} {target : Word} {link : Hart → Hart}
  {body : State → Nat → Hart → Res}

theorem redirects_of (he : exec i s = issue op c s body) (hi : Issues op c s slot h)
    (hb : body (noteRunning s h) slot h = redirect (noteRunning s h) slot h target link) (aligned : target.toNat % 4 = 0) :
    ∃ t, exec i s = .next t ∧ RedirectedAs (noteRunning s h) slot (branchOut (link h) h.pc target) target t := by
  obtain ⟨t, ht, hr⟩ := redirect_done link body hi hb aligned
  exact ⟨t, he.trans ht, hr⟩

theorem jumps_of {s' : State} {g : Hart} {pc : Word} (he : exec i s = issue op c s body) (hi : Issues op c s slot h)
    (hb : body (noteRunning s h) slot h = .jump s' pc) (hg : s'.hart? slot = some g) :
    ∃ t, exec i s = .next t ∧ RedirectedAs s' slot g pc t := by
  obtain ⟨t, ht, hr⟩ := issue_jump hi body hb hg
  exact ⟨t, he.trans ht, hr⟩

theorem traps_of_misaligned (he : exec i s = issue op c s body) (hi : Issues op c s slot h)
    (hb : body (noteRunning s h) slot h = redirect (noteRunning s h) slot h target link) (misaligned : target.toNat % 4 ≠ 0) :
    Traps i s slot h .align target := traps_of he hi (hb.trans (if_pos misaligned))

end

/-- Settles O5: the four are redirects; an aligned one goes to its target, and another traps. -/
theorem branchesRedirectOrTrap : Obligations.BranchesRedirectOrTrap := by
  refine ⟨fun c s slot h => ⟨fun hi => ⟨fun o => ?_, fun o hp => ?_⟩, fun hi => ⟨fun o => ?_, fun o hp => ?_⟩⟩,
    fun c s slot h => ⟨fun o hi => ?_, fun o hi => ?_, fun o hi hp => ?_, fun o hi hp => ?_⟩⟩
  · exact redirects_of (link := id) (exec_br c o s) hi rfl
  · exact redirects_of (link := id) (exec_bri c o s) hi (unpoisoned_clean hp)
  · exact redirects_of (link := fun h => h.setS o.d (h.pc + 12)) (exec_call c o s) hi rfl
  · exact redirects_of (link := fun h => h.setS o.d (h.pc + 12)) (exec_calli c o s) hi (unpoisoned_clean hp)
  · exact traps_of_misaligned (exec_br c o s) hi rfl
  · exact traps_of_misaligned (exec_call c o s) hi rfl
  · exact traps_of_misaligned (exec_bri c o s) hi (unpoisoned_clean hp)
  · exact traps_of_misaligned (exec_calli c o s) hi (unpoisoned_clean hp)

/-! ## LSETUP (R206) -/

/-- Clearing poison looks at nothing that a completion moves. -/
theorem core_clearPoison (h : Hart) (p : RegLoc → Bool) : (clearPoison h p).core = clearPoison h.core p := by
  have hp : h.core.poison = h.poison := rfl
  unfold clearPoison
  rw [hp]
  cases h.poison <;> rfl

/-- What LSETUP leaves of its hart: loop registers `l`, those of its own loop clean. -/
def Hart.looped (h : Hart) (loop1 : Bool) (l : LoopRegs) : Hart :=
  clearPoison { h with regs := { h.regs with loops := l } } (RegLoc.controlIn (loopOffsets loop1))

/-- A zero trip's hart before its poison is cleared: LOOPBIG, and the outcomes of the other loop checked. -/
def Hart.zeroTrip (h : Hart) (big : Nat) (l : LoopRegs) (seen : List Bool) : Hart :=
  Hart.consumeLoops { (if big = 0 then h else h.bump 8 (BitVec.ofNat 64 big)) with regs := { h.regs with loops := l } } seen

theorem zeroTrip_core (h : Hart) (big : Nat) (l : LoopRegs) (seen : List Bool) :
    (h.zeroTrip big l seen).core = ({ h with regs := { h.regs with loops := l } } : Hart).core := by
  unfold Hart.zeroTrip
  rw [core_consumeLoops]
  split <;> rfl

theorem zeroTrip_rest (h : Hart) (big : Nat) (l : LoopRegs) (seen : List Bool) :
    (h.zeroTrip big l seen).regs.loops = l ∧ (h.zeroTrip big l seen).instret = h.instret := by
  obtain ⟨regs, instret, -⟩ := consumeLoops_rest seen
    { (if big = 0 then h else h.bump 8 (BitVec.ofNat 64 big)) with regs := { h.regs with loops := l } }
  refine ⟨congrArg Regs.loops regs, instret.trans ?_⟩
  split <;> rfl

/-- A zero trip goes where the step of the other loop puts it. -/
theorem redirectedAs_zeroTrip {s t : State} {slot : Nat} {h : Hart} {loop1 : Bool} {big : Nat} {l : LoopRegs} {seen : List Bool} {pc : Word}
    (hr : RedirectedAs (s.setHart slot (clearPoison (h.zeroTrip big l seen) (RegLoc.controlIn (loopOffsets loop1)))) slot
      (clearPoison (h.zeroTrip big l seen) (RegLoc.controlIn (loopOffsets loop1))) pc t) :
    RedirectedAs s slot (h.looped loop1 l) pc t := by
  obtain ⟨loops, instret⟩ := zeroTrip_rest h big l seen
  have core : (h.looped loop1 l).core = (clearPoison (h.zeroTrip big l seen) (RegLoc.controlIn (loopOffsets loop1))).core := by
    rw [Hart.looped, core_clearPoison, core_clearPoison, zeroTrip_core]
  refine redirectedAs_congr hr core ?_ ?_ (elsewhere_setHart _ _ _)
  · simp [Hart.looped, loops]
  · simp [Hart.looped, instret]

section
variable {c : Ctl} {o : LsetupForm} {s : State} {slot : Nat} {h : Hart}

theorem lsetup_zeroTrip (hi : Issues 0x32 c s slot h) (hp : h.poisoned [.s o.a] = false) (zero : h.getS o.a = 0) :
    let le := h.pc + sext32 o.off
    let l := armLoop h.regs.loops o.loop1 (h.getS o.a) (h.pc + 12) le
    let r := if h.trap.suspended then (l, le + 12, []) else stepOther l (!o.loop1) le (le + 12)
    ∃ t, exec (.lsetup c o) s = .next t ∧ RedirectedAs (noteRunning s h) slot (h.looped o.loop1 r.1) r.2.1 t := by
  intro le l r
  obtain ⟨t, ht, hr⟩ := jumps_of (exec_lsetup c o s) hi ((unpoisoned_clean hp).trans (if_pos zero)) (hart_setHart_same _ _ _)
  exact ⟨t, ht, redirectedAs_zeroTrip hr⟩

end

/-! ## The loop-end action (R207) -/

section
variable {r : LoopRegs} {x : Word} (next : Word)

theorem loopEnd_loop1_again (armed : r.lc1 ≠ 0) (at_ : x = r.le1) (more : 1 < r.lc1.toNat) :
    loopEnd r x next = ({ r with lc1 := r.lc1 - 1 }, r.lb1, [true]) := by
  unfold loopEnd
  rw [if_pos ⟨armed, at_⟩, if_pos more]
  rfl

/-- Where loop 1 does not go round, loop 0 steps alone, on the registers that loop 1 leaves. -/
theorem loopEnd_loop0 {q : LoopRegs} (left : (r.lc1 = 1 ∧ x = r.le1 ∧ q = { r with lc1 := 0 }) ∨ ((r.lc1 = 0 ∨ x ≠ r.le1) ∧ q = r)) :
    ((loopEnd r x next).1, (loopEnd r x next).2.1) =
      if q.lc0 ≠ 0 ∧ x = q.le0 then
        if 1 < q.lc0.toNat then ({ q with lc0 := q.lc0 - 1 }, q.lb0) else ({ q with lc0 := 0 }, next)
      else (q, next) := by
  unfold loopEnd
  obtain ⟨one, at_, rfl⟩ | ⟨no, rfl⟩ := left
  · rw [if_pos ⟨by simp [one], at_⟩, if_neg (by simp [one])]
    simp only [Bool.not_false, Bool.true_and, Bool.and_eq_true, bne_iff_ne, beq_iff_eq]
    split_ifs <;> rfl
  · rw [if_neg (by tauto)]
    simp only [Bool.not_false, Bool.true_and, Bool.and_eq_true, bne_iff_ne, beq_iff_eq]
    split_ifs <;> rfl

end

/-- A NOP does the loop-end action and nothing else. -/
theorem nop_completes {c : Ctl} {s : State} {slot : Nat} {h : Hart} (hi : Issues 0x43 c s slot h) : Completes (.nop c) s slot h h :=
  completesIn_of (exec_nop c s) hi rfl ((noteRunning_hart s h slot).trans hi.hart)

/-- Settles O6: LSETUP by its body, on a zero trip by `redirectedAs_zeroTrip`; the loop-end action by its two equations. -/
theorem hardwareLoopsRun : Obligations.HardwareLoopsRun := by
  refine ⟨fun c o s slot h hi hp => ⟨fun some => ?_, fun zero held => ?_, fun zero free => ?_⟩,
    fun c s slot h hi free => ?_, fun r x next => ⟨fun armed at_ more => ?_, fun q left => ?_⟩⟩
  · exact completes_of (exec_lsetup c o s) hi ((unpoisoned_clean hp).trans (if_neg some))
  · have trip := lsetup_zeroTrip hi hp zero
    simp only [held, if_true] at trip
    exact trip
  · have trip := lsetup_zeroTrip hi hp zero
    simp only [free, Bool.false_eq_true, if_false] at trip
    exact trip
  · obtain ⟨t, ht, ⟨u, hu, -, after, -⟩, -⟩ := nop_completes hi
    simp only [Hart.after, free, Bool.false_eq_true, if_false, Prod.mk.injEq] at after
    exact ⟨t, u, ht, hu, after⟩
  · rw [loopEnd_loop1_again next armed at_ more]
    exact ⟨rfl, rfl⟩
  · have steps := loopEnd_loop0 next left
    refine ⟨fun armed at_ more => ?_, fun one at_ => ?_, fun no => ?_⟩
    · rw [if_pos ⟨armed, at_⟩, if_pos more] at steps
      exact Prod.mk.inj steps
    · rw [if_pos ⟨by simp [one], at_⟩, if_neg (by simp [one])] at steps
      exact Prod.mk.inj steps
    · rw [if_neg (by tauto)] at steps
      exact Prod.mk.inj steps

end Sys2Proof.Machine
end

section
/-! PROOFS. The patterns of the floating formats and their special values (R157, R158, R161, R162, R165), comparison as
the order of the extended reals (R202), the classes and the sign copies (R199, R201). -/

namespace Sys2Proof

open Machine

/-! ### Patterns (R157, R158) -/

theorem Fmt.Standard.top_pos {f : Fmt} (hf : f.Standard) : 0 < 2 ^ f.ebits - 1 := by
  obtain ⟨-, bias⟩ | rfl := hf.special
  · omega
  · decide

theorem Fmt.value_make_zero {f : Fmt} (hf : f.Standard) (s : Bool) {m : ℕ} (hm : m < 2 ^ f.fbits) :
    f.value (f.make s 0 m) = if m = 0 then .zero s else .fin s m f.last := by
  have top := hf.top_pos
  rw [Fmt.value_make hf.width_le s (by omega) hm (by omega), if_pos rfl]

theorem Fmt.value_make_top {f : Fmt} (hf : f.Standard) (s : Bool) {m : ℕ} (hm : m < 2 ^ f.fbits) (ieee : f.special = .ieee) :
    f.value (f.make s (2 ^ f.ebits - 1) m) = if m = 0 then .inf s else .nan (m < 2 ^ (f.fbits - 1)) := by
  have top := hf.top_pos
  obtain ⟨sign, expo, frac⟩ := Fmt.fields_make hf.width_le s (e := 2 ^ f.ebits - 1) (by omega) hm
  simp [Fmt.value, sign, expo, frac, ieee]

theorem Fmt.value_make_e4m3_nan {f : Fmt} (hf : f.Standard) (s : Bool) (e4m3 : f.special = .e4m3) :
    f.value (f.make s (2 ^ f.ebits - 1) (2 ^ f.fbits - 1)) = .nan false := by
  obtain rfl := hf.eq_e4m3 e4m3
  cases s <;> decide

/-! ### Results with a NaN, an infinity or a zero among their sources (R161, R165) -/

@[simp] theorem nvOf_false : nvOf false = 0 := rfl
@[simp] theorem nvOf_true : nvOf true = FFlags.nv := rfl

theorem FVal.isSignalling_negate (a : FVal) : a.negate.isSignalling = a.isSignalling := by cases a <;> rfl
theorem FVal.isNan_negate (a : FVal) : a.negate.isNan = a.isNan := by cases a <;> rfl

theorem FVal.isSignalling_of_not_nan {a : FVal} (h : a.isNan = false) : a.isSignalling = false := by
  cases a with
  | nan s => cases h
  | _ => rfl

theorem FVal.add_nan {a b : FVal} (r : Round) (h : a.isNan = true ∨ b.isNan = true) : FVal.add r a b = (.nan false, 0) := by
  obtain ha | hb := h
  · cases a with
    | nan s => rfl
    | _ => cases ha
  · cases b with
    | nan s => cases a <;> rfl
    | _ => cases hb

theorem FVal.mul_nan {a b : FVal} (h : a.isNan = true ∨ b.isNan = true) : FVal.mul a b = (.nan false, 0) := by
  obtain ha | hb := h
  · cases a with
    | nan s => rfl
    | _ => cases ha
  · cases b with
    | nan s => cases a <;> rfl
    | _ => cases hb

/-- A product of infinity and zero. -/
def FVal.Crossed (a b : FVal) : Prop := ∃ i z, (a = .inf i ∧ b = .zero z) ∨ (a = .zero z ∧ b = .inf i)

theorem FVal.mul_crossed {a b : FVal} (h : a.Crossed b) : FVal.mul a b = (.nan false, FFlags.nv) := by
  obtain ⟨i, z, ⟨rfl, rfl⟩ | ⟨rfl, rfl⟩⟩ := h <;> rfl

theorem FVal.mul_of_not_nan {a b : FVal} (ha : a.isNan = false) (hb : b.isNan = false) (h : ¬a.Crossed b) :
    ∃ p, FVal.mul a b = (p, 0) := by
  cases a with
  | nan s => cases ha
  | inf i =>
    cases b with
    | nan s => cases hb
    | zero z => exact absurd ⟨i, z, .inl ⟨rfl, rfl⟩⟩ h
    | _ => exact ⟨_, rfl⟩
  | zero z =>
    cases b with
    | nan s => cases hb
    | inf i => exact absurd ⟨i, z, .inr ⟨rfl, rfl⟩⟩ h
    | _ => exact ⟨_, rfl⟩
  | fin n m e =>
    cases b with
    | nan s => cases hb
    | _ => exact ⟨_, rfl⟩

section
variable (f : Fmt) (r : Round) (fo : Bool) {a b : FVal}

theorem Fmt.add_nan (h : a.isNan = true ∨ b.isNan = true) :
    f.add r fo a b = (f.canonicalNan, nvOf (a.isSignalling || b.isSignalling)) := by
  simp [Fmt.add, FVal.add_nan r h, Fmt.result]

theorem Fmt.sub_nan (h : a.isNan = true ∨ b.isNan = true) :
    f.sub r fo a b = (f.canonicalNan, nvOf (a.isSignalling || b.isSignalling)) := by
  rw [Fmt.sub, f.add_nan r fo (by rwa [b.isNan_negate]), b.isSignalling_negate]

theorem Fmt.mul_nan (h : a.isNan = true ∨ b.isNan = true) :
    f.mul r fo a b = (f.canonicalNan, nvOf (a.isSignalling || b.isSignalling)) := by
  simp [Fmt.mul, FVal.mul_nan h, Fmt.result]

theorem Fmt.div_nan (h : a.isNan = true ∨ b.isNan = true) :
    f.div r fo a b = (f.canonicalNan, nvOf (a.isSignalling || b.isSignalling)) := by
  obtain ha | hb := h
  · cases a with
    | nan s => rfl
    | _ => cases ha
  · cases b with
    | nan s => cases a <;> rfl
    | _ => cases hb

/-- A fused form with a product or an addend that is a NaN. -/
theorem Fmt.fma_nan (np nc : Bool) {c p : FVal} {fl : FFlags} (product : FVal.mul a b = (p, fl)) (h : p.isNan = true ∨ c.isNan = true) :
    f.fma r fo np nc a b c = (f.canonicalNan, fl ||| nvOf (a.isSignalling || b.isSignalling || c.isSignalling)) := by
  have sum : FVal.add r (if np then p.negate else p) (if nc then c.negate else c) = (.nan false, 0) := by
    refine FVal.add_nan r (h.imp (fun hp => ?_) fun hc => ?_)
    · split
      · rwa [p.isNan_negate]
      · exact hp
    · split
      · rwa [c.isNan_negate]
      · exact hc
  simp [Fmt.fma, product, sum, Fmt.result]

end

/-! ### Infinities (R161) -/

section
variable (f : Fmt) (r : Round) (fo : Bool) {a b v : FVal}

theorem Fmt.add_of_sum {fl : FFlags} (sum : FVal.add r a b = (v, fl)) (ha : a.isSignalling = false) (hb : b.isSignalling = false) :
    f.add r fo a b = ((f.result r fo v).1, fl ||| (f.result r fo v).2) := by
  simp [Fmt.add, sum, ha, hb]

theorem Fmt.mul_of_product {fl : FFlags} (product : FVal.mul a b = (v, fl)) (ha : a.isSignalling = false) (hb : b.isSignalling = false) :
    f.mul r fo a b = ((f.result r fo v).1, fl ||| (f.result r fo v).2) := by
  simp [Fmt.mul, product, ha, hb]

theorem FVal.add_inf_inf (i j : Bool) :
    FVal.add r (.inf i) (.inf j) = if i = j then (.inf i, 0) else (.nan false, FFlags.nv) := rfl

theorem Fmt.add_inf_inf (i j : Bool) :
    f.add r fo (.inf i) (.inf j) = if i = j then f.infBits i else (f.canonicalNan, FFlags.nv) := by
  have sum := FVal.add_inf_inf r i j
  split at sum <;> rename_i same
  · rw [f.add_of_sum r fo sum rfl rfl, if_pos same]
    simp [Fmt.result]
  · rw [f.add_of_sum r fo sum rfl rfl, if_neg same]
    simp [Fmt.result]

theorem Fmt.sub_inf_inf (i j : Bool) :
    f.sub r fo (.inf i) (.inf j) = if i = j then (f.canonicalNan, FFlags.nv) else f.infBits i := by
  have sum := f.add_inf_inf r fo i (!j)
  rw [Fmt.sub]
  cases i <;> cases j <;> exact sum

theorem Fmt.infBits_eq (i : Bool) :
    f.infBits i = if f.special = .e4m3 then (f.canonicalNan, FFlags.nv) else (f.make i (2 ^ f.ebits - 1) 0, 0) := by
  unfold Fmt.infBits
  cases f.special <;> rfl

variable {y : ℝ} (hb : b.Is y)
include hb

theorem FVal.Is.add_inf (i : Bool) : FVal.add r (.inf i) b = (.inf i, 0) ∧ FVal.add r b (.inf i) = (.inf i, 0) := by
  obtain ⟨n, rfl, -⟩ | ⟨n, m, e, rfl, -, -⟩ := hb.zero_or_fin <;> exact ⟨rfl, rfl⟩

theorem Fmt.add_inf (i : Bool) : f.add r fo (.inf i) b = f.infBits i ∧ f.add r fo b (.inf i) = f.infBits i := by
  obtain ⟨left, right⟩ := hb.add_inf r i
  rw [f.add_of_sum r fo left rfl hb.not_signalling, f.add_of_sum r fo right hb.not_signalling rfl]
  simp [Fmt.result]

theorem Fmt.sub_inf (i : Bool) : f.sub r fo (.inf i) b = f.infBits i ∧ f.sub r fo b (.inf i) = f.infBits (!i) :=
  ⟨(f.add_inf r fo hb.negate.1 i).1, (f.add_inf r fo hb (!i)).2⟩

theorem Fmt.div_inf (i : Bool) :
    f.div r fo (.inf i) b = f.infBits (i != b.neg) ∧ f.div r fo b (.inf i) = (f.zeroBits (b.neg != i), 0) := by
  obtain ⟨n, rfl, -⟩ | ⟨n, m, e, rfl, -, -⟩ := hb.zero_or_fin <;> exact ⟨rfl, rfl⟩

theorem FVal.Is.fin_of_ne_zero (nonzero : y ≠ 0) : ∃ n m e, b = .fin n m e := by
  obtain ⟨n, rfl, zero⟩ | ⟨n, m, e, rfl, -, -⟩ := hb.zero_or_fin
  · exact absurd zero nonzero
  · exact ⟨n, m, e, rfl⟩

theorem Fmt.mul_inf (nonzero : y ≠ 0) (i : Bool) :
    f.mul r fo (.inf i) b = f.infBits (i != b.neg) ∧ f.mul r fo b (.inf i) = f.infBits (b.neg != i) := by
  obtain ⟨n, m, e, rfl⟩ := hb.fin_of_ne_zero nonzero
  rw [f.mul_of_product r fo (v := .inf (i != n)) (fl := 0) rfl rfl rfl, f.mul_of_product r fo (v := .inf (n != i)) (fl := 0) rfl rfl rfl]
  simp [Fmt.result, FVal.neg]

theorem Fmt.div_zero (nonzero : y ≠ 0) (z : Bool) :
    f.div r fo b (.zero z) = ((f.infBits (b.neg != z)).1, (f.infBits (b.neg != z)).2 ||| FFlags.dz) := by
  obtain ⟨n, m, e, rfl⟩ := hb.fin_of_ne_zero nonzero
  rfl

theorem Fmt.sqrt_of_neg (below : y < 0) : f.sqrt r fo b = (f.canonicalNan, FFlags.nv) := by
  obtain ⟨n, rfl, rfl⟩ | ⟨n, m, e, rfl, -, rfl⟩ := hb.zero_or_fin
  · exact absurd below (lt_irrefl _)
  · cases n with
    | false =>
      have : (0 : ℝ) ≤ m * 2 ^ e := by positivity
      exact absurd below this.not_gt
    | true => rfl

end

/-! ### Comparison (R162, R202) -/

theorem FVal.At.inf_or_is {v : FVal} {x : EReal} (h : v.At x) :
    (∃ n, v = .inf n ∧ x = if n then ⊥ else ⊤) ∨ ∃ y : ℝ, v.Is y ∧ x = y := by
  cases v with
  | inf n => exact .inl ⟨n, rfl, h⟩
  | _ => exact .inr h

theorem FVal.Is.not_nan {v : FVal} {x : ℝ} (h : v.Is x) : v.isNan = false := by
  obtain ⟨n, rfl, -⟩ | ⟨n, m, e, rfl, -, -⟩ := h.zero_or_fin <;> rfl

theorem FVal.At.not_nan {v : FVal} {x : EReal} (h : v.At x) : v.isNan = false := by
  obtain ⟨n, rfl, -⟩ | ⟨y, is, -⟩ := h.inf_or_is
  · rfl
  · exact is.not_nan

/-- The order of finite values is that of the numbers that they are. -/
theorem FVal.Is.lt_iff {a b : FVal} {x y : ℝ} (ha : a.Is x) (hb : b.Is y) : a.lt b = true ↔ x < y := by
  obtain ⟨n, rfl, rfl⟩ | ⟨n, m, e, rfl, pos, hx⟩ := ha.zero_or_fin
  · obtain ⟨n', rfl, rfl⟩ | ⟨n', m', e', rfl, pos', rfl⟩ := hb.zero_or_fin
    · simp [FVal.lt]
    · have : (0 : ℝ) < m' * 2 ^ e' := by positivity
      cases n' <;> simp [FVal.lt, this, this.le]
  · obtain ⟨n', rfl, rfl⟩ | ⟨n', m', e', rfl, pos', hy⟩ := hb.zero_or_fin
    · have : (0 : ℝ) < m * 2 ^ e := by positivity
      subst hx
      cases n <;> simp [FVal.lt, this, this.le]
    · have unit : (0 : ℝ) < 2 ^ min e e' := by positivity
      rw [hx, hy, ← scaled_eq (min_le_left e e'), ← scaled_eq (min_le_right e e'), mul_lt_mul_iff_left₀ unit, Int.cast_lt]
      simp [FVal.lt]

theorem FVal.lt_iff {a b : FVal} {x y : EReal} (ha : a.At x) (hb : b.At y) : a.lt b = true ↔ x < y := by
  obtain ⟨n, rfl, rfl⟩ | ⟨x, isx, rfl⟩ := ha.inf_or_is
  · obtain ⟨n', rfl, rfl⟩ | ⟨y, isy, rfl⟩ := hb.inf_or_is
    · cases n <;> cases n' <;> simp [FVal.lt]
    · obtain ⟨n', rfl, -⟩ | ⟨n', m', e', rfl, -, -⟩ := isy.zero_or_fin <;> cases n <;> simp [FVal.lt]
  · obtain ⟨n', rfl, rfl⟩ | ⟨y, isy, rfl⟩ := hb.inf_or_is
    · obtain ⟨n, rfl, -⟩ | ⟨n, m, e, rfl, -, -⟩ := isx.zero_or_fin <;> cases n' <;> simp [FVal.lt]
    · rw [isx.lt_iff isy, EReal.coe_lt_coe_iff]

theorem FVal.eq_iff {a b : FVal} {x y : EReal} (ha : a.At x) (hb : b.At y) : a.eq b = true ↔ x = y := by
  have lt := FVal.lt_iff ha hb
  have gt := FVal.lt_iff hb ha
  simp only [FVal.eq, ha.not_nan, hb.not_nan, Bool.not_false, Bool.true_and, Bool.and_eq_true, Bool.not_eq_true', Bool.eq_false_iff,
    ne_eq, lt, gt, not_lt]
  exact ⟨fun ⟨ge, le⟩ => le_antisymm le ge, fun eq => ⟨eq.ge, eq.le⟩⟩

theorem FVal.compare_of_at {a b : FVal} {x y : EReal} (ha : a.At x) (hb : b.At y) :
    (((FVal.compare .eq a b).1 = true ↔ x = y) ∧ ((FVal.compare .ne a b).1 = true ↔ x ≠ y) ∧ ((FVal.compare .lt a b).1 = true ↔ x < y) ∧
      ((FVal.compare .ge a b).1 = true ↔ y ≤ x) ∧ (FVal.compare .un a b).1 = false) ∧ ∀ c, (FVal.compare c a b).2 = 0 := by
  have eq := FVal.eq_iff ha hb
  have lt := FVal.lt_iff ha hb
  have nan : (a.isNan || b.isNan) = false := by simp [ha.not_nan, hb.not_nan]
  have sig : (a.isSignalling || b.isSignalling) = false := by
    simp [FVal.isSignalling_of_not_nan ha.not_nan, FVal.isSignalling_of_not_nan hb.not_nan]
  refine ⟨⟨eq, ?_, ?_, ?_, nan⟩, fun c => ?_⟩
  · simpa [FVal.compare] using not_congr eq
  · simpa [FVal.compare, nan] using lt
  · simpa [FVal.compare, nan] using not_congr lt
  · cases c <;> simp [FVal.compare, nan, sig]

theorem FVal.compare_nan {a b : FVal} (h : a.isNan = true ∨ b.isNan = true) : let q := nvOf (a.isSignalling || b.isSignalling)
    FVal.compare .eq a b = (false, q) ∧ FVal.compare .ne a b = (true, q) ∧ FVal.compare .un a b = (true, q) ∧
      FVal.compare .lt a b = (false, FFlags.nv) ∧ FVal.compare .ge a b = (false, FFlags.nv) := by
  have nan : (a.isNan || b.isNan) = true := by simpa using h
  have eq : a.eq b = false := by
    obtain ha | hb := h
    · simp [FVal.eq, ha]
    · simp [FVal.eq, hb]
  simp [FVal.compare, nan, eq]

theorem FVal.At.eq_zero {v : FVal} {x : EReal} (h : v.At x) (zero : v.isZero = true) : x = 0 := by
  cases v with
  | zero n =>
    obtain ⟨y, is, rfl⟩ := h
    exact congrArg _ is
  | _ => cases zero

theorem FVal.before_of_lt {a b : FVal} {x y : EReal} (ha : a.At x) (hb : b.At y) (below : x < y) : a.before b = true ∧ b.before a = false := by
  have zeros : (b.isZero && a.isZero) = false := by
    by_contra both
    simp only [Bool.not_eq_false, Bool.and_eq_true] at both
    exact below.ne ((ha.eq_zero both.2).trans (hb.eq_zero both.1).symm)
  have lt := (FVal.lt_iff ha hb).mpr below
  have gt : b.lt a = false := Bool.eq_false_iff.mpr ((FVal.lt_iff hb ha).not.mpr below.not_gt)
  simp [FVal.before, lt, gt, zeros]

section
variable {f : Fmt} {x y : Word} {isMax : Bool}

theorem Fmt.minMax_of_not_nan (ha : (f.value x).isNan = false) (hb : (f.value y).isNan = false) :
    f.minMax isMax x y =
      (low f.width (if (if isMax then (f.value y).before (f.value x) else (f.value x).before (f.value y)) ||
        (!(f.value x).before (f.value y) && !(f.value y).before (f.value x)) then x else y), 0) := by
  simp [Fmt.minMax, ha, hb, FVal.isSignalling_of_not_nan]

theorem Fmt.minMax_of_before (ha : (f.value x).isNan = false) (hb : (f.value y).isNan = false)
    (before : (f.value x).before (f.value y) = true ∧ (f.value y).before (f.value x) = false) :
    f.minMax isMax x y = (low f.width (if isMax then y else x), 0) := by
  rw [Fmt.minMax_of_not_nan ha hb, before.1, before.2]
  cases isMax <;> rfl

theorem Fmt.minMax_of_after (ha : (f.value x).isNan = false) (hb : (f.value y).isNan = false)
    (after : (f.value y).before (f.value x) = true ∧ (f.value x).before (f.value y) = false) :
    f.minMax isMax x y = (low f.width (if isMax then x else y), 0) := by
  rw [Fmt.minMax_of_not_nan ha hb, after.1, after.2]
  cases isMax <;> rfl

theorem Fmt.minMax_same (same : low f.width x = low f.width y) (ha : (f.value x).isNan = false) :
    (f.minMax isMax x y).1 = low f.width x := by
  cases hb : (f.value y).isNan with
  | false =>
    rw [Fmt.minMax_of_not_nan ha hb, apply_ite (low f.width), same, ite_self]
  | true => simp [Fmt.minMax, ha, hb]

end

/-! ### Classes and sign copies (R199, R201) -/

theorem Fmt.value_of_subnormal {f : Fmt} (hf : f.Standard) {x : Word} (sub : f.isSubnormal x = true) :
    f.value x = .fin (f.sign x) (f.frac x) f.last := by
  have top := hf.top_pos
  obtain ⟨expo, frac⟩ : f.expo x = 0 ∧ f.frac x ≠ 0 := by simpa [Fmt.isSubnormal] using sub
  simp [Fmt.value, expo, frac, top.ne, Fmt.last]

theorem Fmt.not_subnormal {f : Fmt} (hf : f.Standard) {x : Word} (h : ∀ s m e, f.value x ≠ .fin s m e) : f.isSubnormal x = false :=
  Bool.eq_false_iff.mpr fun sub => h _ _ _ (Fmt.value_of_subnormal hf sub)

/-- The bit of R201 for a value whose pattern is not subnormal. -/
def FVal.ordinaryClass : FVal → ℕ
  | .inf n => if n then 0 else 7
  | .fin n _ _ => if n then 1 else 6
  | .zero n => if n then 3 else 4
  | .nan s => if s then 8 else 9

theorem Fmt.classBits_of_value {f : Fmt} {x : Word} {v : FVal} (fl : Flush) (hv : f.value x = v) (sub : f.isSubnormal x = false) :
    f.classBits fl x = BitVec.ofNat 64 (2 ^ v.ordinaryClass) := by
  simp only [Fmt.classBits, Fmt.read, sub, hv, Bool.and_false, Bool.false_and, Bool.false_eq_true, if_false]
  cases v <;> rfl

theorem Fmt.classBits_of_subnormal {f : Fmt} (hf : f.Standard) {x : Word} (fl : Flush) (sub : f.isSubnormal x = true) :
    f.classBits fl x = BitVec.ofNat 64 (2 ^ (if fl.input then (if f.sign x then 3 else 4) else if f.sign x then 2 else 5)) := by
  cases input : fl.input <;> simp [Fmt.classBits, Fmt.read, sub, input, Fmt.value_of_subnormal hf sub]

theorem Fmt.getLsbD_signCopy {f : Fmt} (hf : f.width ≤ 64) (s : Bool) (x : Word) {i : ℕ} (hi : i < 64) :
    (f.signCopy s x).getLsbD i = if i + 1 = f.width then s else decide (i + 1 < f.width) && x.getLsbD i := by
  have width : 0 < f.width := by
    unfold Fmt.width
    omega
  have top : (BitVec.ofNat 64 (2 ^ (f.width - 1))).getLsbD i = decide (i + 1 = f.width) := by
    rw [BitVec.getLsbD_ofNat, Nat.testBit_two_pow]
    simp only [hi, decide_true, Bool.true_and, decide_eq_decide]
    omega
  have low_bit := getLsbD_low f.width x i
  rw [decide_eq_true hi, Bool.true_and] at low_bit
  have copy : (f.signCopy s x).getLsbD i =
      ((decide (i < f.width) && x.getLsbD i && !decide (i + 1 = f.width)) || (s && decide (i + 1 = f.width))) := by
    cases s <;> simp only [Fmt.signCopy, Bool.false_eq_true, if_false, if_true, BitVec.getLsbD_or, BitVec.getLsbD_and, BitVec.getLsbD_not,
      low_bit, top, hi, decide_true, Bool.true_and, Bool.false_and, Bool.or_false]
  rw [copy]
  split
  · rename_i last
    simp [last]
  · rename_i below
    have same : i < f.width ↔ i + 1 < f.width := by omega
    simp [below, same]

/-! ### The instructions -/

/-- Settles O3: the instructions by their moulds, and what the arithmetic gives by the kinds of its sources. -/
theorem scalarFloatResults : Obligations.ScalarFloatResults := by
  refine ⟨fun c s slot h => ⟨fun o hp => ⟨fun hi => ?_, fun hi hd => ?_⟩, fun o hp hi => ?_, fun o hp hi => ?_, fun o hp hi => ?_⟩,
    fun t r fo => ?_⟩
  · exact ⟨(completes_floatBin (exec_fadd c o s) hi hp :), (completes_floatBin (exec_fsub c o s) hi hp :),
      (completes_floatBin (exec_fmul c o s) hi hp :), (completes_floatBin (exec_fdiv c o s) hi hp :),
      (completes_floatBin (exec_fmin c o s) hi hp :), (completes_floatBin (exec_fmax c o s) hi hp :),
      (completes_floatBin (exec_fcopys c o s) hi hp :), (completes_floatBin (exec_fcopyn c o s) hi hp :),
      (completes_floatBin (exec_fxsign c o s) hi hp :)⟩
  · have reads : h.poisoned ((if true then [.s o.d] else []) ++ .s o.a :: ssrcReads o.b) = false := by
      rw [if_pos rfl, poisoned_append, hd, hp]
      rfl
    exact ⟨(completes_floatBin (exec_fma c o s) hi reads :), (completes_floatBin (exec_fms c o s) hi reads :),
      (completes_floatBin (exec_fnma c o s) hi reads :), (completes_floatBin (exec_fnms c o s) hi reads :)⟩
  · exact (completes_floatUn (exec_fsqrt c o s) hi hp :)
  · exact ⟨(completes_floatUn (exec_fcvt c o s) hi hp :), (completes_floatUn (exec_fcvti c o s) hi hp :),
      (completes_floatUn (exec_icvtf c o s) hi hp :)⟩
  · exact completes_of (exec_fclass c o s) hi (unpoisoned_clean hp)
  have hf := t.fmt_standard
  revert hf
  generalize t.fmt = f
  intro hf
  have top := hf.top_pos
  refine ⟨fun s e m he hm => ?_, fun a b c => ?_, fun i j z => ?_, fun a b x y ha hb => FVal.compare_of_at ha hb,
    fun a b h => FVal.compare_nan h, fun x y isMax => ?_, fun fl x => ?_, fun s x i hi => Fmt.getLsbD_signCopy hf.width_le s x hi⟩
  · refine ⟨?_, ?_, fun he0 ordinary => ?_, ?_, ?_⟩
    · rintro rfl rfl
      exact Fmt.value_make_zero hf s hm
    · rintro rfl hm0
      exact (Fmt.value_make_zero hf s hm).trans (if_neg hm0)
    · have := Fmt.value_make hf.width_le s (e := e) (m := m) (by omega) hm fun h => by
        obtain below | ⟨e4m3, below⟩ := ordinary
        · omega
        · exact ⟨by simp [e4m3], by omega⟩
      exact this.trans (if_neg he0)
    · rintro rfl ieee
      have := Fmt.value_make_top hf s hm ieee
      exact ⟨fun h => this.trans (if_pos h), fun h => this.trans (if_neg h)⟩
    · rintro rfl e4m3 rfl
      exact Fmt.value_make_e4m3_nan hf s e4m3
  · refine ⟨fun h => ?_, fun h => ?_, fun np nc => ⟨fun h => ?_, fun h => ?_, fun hc ha hb h => ?_⟩⟩
    · simpa using ⟨f.add_nan r fo h, f.sub_nan r fo h, f.mul_nan r fo h, f.div_nan r fo h⟩
    · cases a with
      | nan s => simp [Fmt.sqrt, Fmt.convert, Fmt.result, FVal.toInt, FVal.isSignalling]
      | _ => cases h
    · simpa [Bool.or_assoc] using f.fma_nan r fo np nc (c := c) (FVal.mul_nan h) (.inl rfl)
    · have := f.fma_nan r fo np nc (c := c) (FVal.mul_crossed h) (.inl rfl)
      rw [this]
      cases a.isSignalling || b.isSignalling || c.isSignalling <;> rfl
    · obtain ⟨p, product⟩ := FVal.mul_of_not_nan ha hb h
      simpa [FVal.isSignalling_of_not_nan ha, FVal.isSignalling_of_not_nan hb] using f.fma_nan r fo np nc product (.inr hc)
  · refine ⟨f.add_inf_inf r fo i j, f.sub_inf_inf r fo i j, ?_, ?_, ?_, rfl, rfl, rfl, rfl, rfl, ?_, fun u => rfl, f.infBits_eq i,
      fun b y hb => ⟨(f.add_inf r fo hb i).1, (f.add_inf r fo hb i).2, (f.sub_inf r fo hb i).1, (f.sub_inf r fo hb i).2,
        (f.div_inf r fo hb i).1, (f.div_inf r fo hb i).2, fun nonzero => ⟨(f.mul_inf r fo hb nonzero i).1,
          (f.mul_inf r fo hb nonzero i).2, f.div_zero r fo hb nonzero z⟩, f.sqrt_of_neg r fo hb⟩⟩
    · simp [Fmt.mul, FVal.mul, Fmt.result, FVal.isSignalling]
    · simp [Fmt.mul, FVal.mul, Fmt.result, FVal.isSignalling]
    · rw [f.mul_of_product r fo (v := .inf (i != j)) (fl := 0) rfl rfl rfl]
      simp [Fmt.result]
    · simp [Fmt.convert, Fmt.result, FVal.isSignalling]
  · refine ⟨fun ha hb => ?_, fun ha hb => ?_, fun ha hb => ?_, fun u v ha hb => ⟨fun below => ?_, fun above => ?_⟩, fun ha hb => ?_,
      fun ha hb => ?_, fun same => ?_⟩
    · simp [Fmt.minMax, ha, hb]
    · simp [Fmt.minMax, ha, hb]
    · simp [Fmt.minMax, ha, hb]
    · exact Fmt.minMax_of_before ha.not_nan hb.not_nan (FVal.before_of_lt ha hb below)
    · exact Fmt.minMax_of_after ha.not_nan hb.not_nan (FVal.before_of_lt hb ha above)
    · exact Fmt.minMax_of_before (ha ▸ rfl) (hb ▸ rfl) (by rw [ha, hb]; decide)
    · exact Fmt.minMax_of_after (ha ▸ rfl) (hb ▸ rfl) (by rw [ha, hb]; decide)
    · cases ha : (f.value x).isNan with
      | false => exact .inl (Fmt.minMax_same same ha)
      | true => exact .inr rfl
  · refine ⟨fun s hv => ?_, fun s hv => ?_, fun s hv => ?_, fun s m e hv => ⟨fun sub => ?_, fun sub input => ?_, fun sub input => ?_⟩⟩
    · exact Fmt.classBits_of_value fl hv (Fmt.not_subnormal hf (by simp [hv]))
    · exact Fmt.classBits_of_value fl hv (Fmt.not_subnormal hf (by simp [hv]))
    · exact Fmt.classBits_of_value fl hv (Fmt.not_subnormal hf (by simp [hv]))
    · exact Fmt.classBits_of_value fl hv sub
    · obtain ⟨rfl, -, -⟩ := FVal.fin.inj ((Fmt.value_of_subnormal hf sub).symm.trans hv)
      rw [Fmt.classBits_of_subnormal hf fl sub, input]
      rfl
    · obtain ⟨rfl, -, -⟩ := FVal.fin.inj ((Fmt.value_of_subnormal hf sub).symm.trans hv)
      rw [Fmt.classBits_of_subnormal hf fl sub, input]
      rfl

end Sys2Proof
end

section
/-! PROOFS. System registers: their access (R55, R211), what a write leaves to be read (R209, R216), and ERET (R212). -/

namespace Sys2Proof.Machine

/-! ## Access -/

@[simp] theorem noteRunning_partitions (s : State) (h : Hart) : (noteRunning s h).partitions = s.partitions := by
  unfold noteRunning
  repeat' split
  all_goals rfl

@[simp] theorem noteRunning_pairs (s : State) (h : Hart) : (noteRunning s h).pairs = s.pairs := by
  unfold noteRunning
  repeat' split
  all_goals rfl

theorem sysRead_noteRunning (s : State) (k : Hart) (slot : Nat) (h : Hart) (n : Nat) :
    sysRead (noteRunning s k) slot h n = sysRead s slot h n := by
  simp [sysRead, State.pair]

theorem windowRead_noteRunning (s : State) (k : Hart) (p off : Nat) : windowRead (noteRunning s k) p off = windowRead s p off := by
  simp [windowRead, State.part]

/-- An instruction that completes in a state that has moved by a drawn number alone. -/
theorem completes_of_draw {i : Instr} {op : Nat} {c : Ctl} {s : State} {slot : Nat} {h g : Hart} {body : State → Nat → Hart → Res}
    (he : exec i s = issue op c s body) (hi : Issues op c s slot h)
    (hb : body (noteRunning s h) slot h = doneWith (noteRunning s h).draw.2 slot g) : Completes i s slot h g := by
  obtain ⟨t, ht, hart, others, rest⟩ := issue_doneIn hi body hb (hart_setHart_same _ _ _)
  exact ⟨t, he.trans ht, hart, fun k hk => (others k hk).trans (hart_setHart_other _ _ _ _ hk), rest⟩

section
variable {c : Ctl} {s : State} {slot : Nat} {h : Hart}

section
variable {d : SIdx} {n : BitVec 12} {r : Rights}

theorem sysrd_reads (hi : Issues 0x40 c s slot h) (hr : sysRights n.toNat (privileged slot h) = some r) (read : r.read = true)
    (has : (isLamp slot && noLampRegister n.toNat) = false) (clean : h.marked (controlOffset n.toNat) = false) :
    Completes (.sysrd c { d := d, target := .reg n }) s slot h (h.setS d (sysRead s slot h n.toNat)) := by
  refine completes_of (exec_sysrd c _ s) hi ?_
  simp [hr, read, has, clean, sysRead_noteRunning]

theorem sysrd_poisoned (hi : Issues 0x40 c s slot h) (hr : sysRights n.toNat (privileged slot h) = some r) (read : r.read = true)
    (has : (isLamp slot && noLampRegister n.toNat) = false) (bad : h.marked (controlOffset n.toNat) = true) :
    Traps (.sysrd c { d := d, target := .reg n }) s slot h .poison (BitVec.allOnes 64) := by
  refine traps_of (exec_sysrd c _ s) hi ?_
  simp [hr, read, has, bad, trapRes, poisonTrap]

theorem sysrd_lamp (hi : Issues 0x40 c s slot h) (hr : sysRights n.toNat (privileged slot h) = some r) (read : r.read = true)
    (lacks : (isLamp slot && noLampRegister n.toNat) = true) :
    ∃ x, Completes (.sysrd c { d := d, target := .reg n }) s slot h (h.setS d x) := by
  refine ⟨Config.lampRegister (noteRunning s h).draw.1, completes_of_draw (exec_sysrd c _ s) hi ?_⟩
  simp [hr, read, lacks]

end

section
variable {a : SIdx} {n : BitVec 12} {r : Rights}

theorem syswr_lamp (hi : Issues 0x41 c s slot h) (hp : h.poisoned [.s a] = false)
    (hr : sysRights n.toNat (privileged slot h) = some r) (write : r.write = true)
    (lacks : (isLamp slot && noLampRegister n.toNat) = true) : Completes (.syswr c { a := a, target := .reg n }) s slot h h := by
  refine completesIn_of (exec_syswr c _ s) hi ?_ ((noteRunning_hart s h slot).trans hi.hart)
  simp [hr, write, lacks, hp]

theorem syswr_writes (hi : Issues 0x41 c s slot h) (hp : h.poisoned [.s a] = false)
    (hr : sysRights n.toNat (privileged slot h) = some r) (write : r.write = true)
    (has : (isLamp slot && noLampRegister n.toNat) = false) (clean : h.marked (writeReads n.toNat) = false) :
    Completes (.syswr c { a := a, target := .reg n }) s slot h
      (clearPoison (sysWrite h n.toNat (h.getS a)) (RegLoc.controlIn (controlOffset n.toNat))) := by
  refine completes_of (exec_syswr c _ s) hi ?_
  simp [hr, write, has, clean, hp]

end

/-- A body that has made the state `s'`, whether or not the hart still stands in it. -/
theorem issue_completes {i : Instr} {op : Nat} {s' : State} {body : State → Nat → Hart → Res} (he : exec i s = issue op c s body)
    (hi : Issues op c s slot h) (hb : body (noteRunning s h) slot h = .done s') :
    ∃ t, exec i s = .next t ∧ ∀ g, s'.hart? slot = some g → CompletedAs s' slot g t := by
  refine ⟨_, he.trans (issue_runs hi body), fun g hg => ?_⟩
  rw [hb]
  exact completedAs_through op (retire_spec hg)

theorem syswr_window {a : SIdx} {off : BitVec 20} (hi : Issues 0x41 c s slot h) (hp : h.poisoned [.s a] = false)
    (priv : privileged slot h = true) (allowed : ∀ r, winReg off.toNat = some r → r.readOnly = false) :
    let u := if isDoorbell off.toNat = true ∧ isLamp slot = false then noteRunning s h
      else windowWrite (noteRunning s h) h.ids.part off.toNat (h.getS a)
    ∃ t, exec (.syswr c { a := a, target := .window off }) s = .next t ∧ ∀ g, u.hart? slot = some g → CompletedAs u slot g t := by
  refine issue_completes (exec_syswr c _ s) hi ?_
  cases hw : winReg off.toNat with
  | none => simp [priv, hp, hw]
  | some r => simp [priv, hp, hw, allowed r hw]

theorem syswr_window_priv {a : SIdx} {off : BitVec 20} (hi : Issues 0x41 c s slot h)
    (denied : privileged slot h = false ∨ ∃ r, winReg off.toNat = some r ∧ r.readOnly = true) :
    Traps (.syswr c { a := a, target := .window off }) s slot h .priv 0 := by
  refine traps_of (exec_syswr c _ s) hi ?_
  obtain kernel | ⟨r, hw, readOnly⟩ := denied
  · simp [kernel]
  · simp [hw, readOnly]

end

/-- Settles O10: by the number or the offset that the instruction names, and the rights of its view. -/
theorem systemRegisterAccess : Obligations.SystemRegisterAccess := by
  refine ⟨fun c d s slot h hi => ⟨fun n r hr read => ⟨fun has => ?_, fun lamp lacks => ?_⟩, fun off priv => ?_⟩,
    fun c a s slot h hi hp => ⟨fun n r hr write clean => ?_, fun off priv allowed => syswr_window hi hp priv allowed⟩,
    fun c x s slot h => ⟨fun hi => ⟨fun n hr => ?_, fun n r hr read => ?_, fun off kernel => ?_⟩,
      fun hi => ⟨fun n hr => ?_, fun n r hr write => ?_, fun off denied => syswr_window_priv hi denied⟩⟩⟩
  · have has : (isLamp slot && noLampRegister n.toNat) = false := Bool.and_eq_false_iff.mpr has
    exact ⟨sysrd_reads hi hr read has, sysrd_poisoned hi hr read has⟩
  · exact sysrd_lamp hi hr read (by simp [lamp, lacks])
  · refine completes_of (exec_sysrd c _ s) hi ?_
    simp [priv, windowRead_noteRunning]
  · split
    · rename_i lacks
      exact syswr_lamp hi hp hr write (by simpa using lacks)
    · rename_i has
      exact syswr_writes hi hp hr write (by simpa using has) clean
  · exact traps_of (exec_sysrd c _ s) hi (by simp [hr])
  · exact traps_of (exec_sysrd c _ s) hi (by simp [hr, read])
  · exact traps_of (exec_sysrd c _ s) hi (by simp [kernel])
  · exact traps_of (exec_syswr c _ s) hi (by simp [hr])
  · exact traps_of (exec_syswr c _ s) hi (by simp [hr, write])

/-! ## ERET -/

/-- A body that completes with the PC as it set it. -/
theorem placed_of {i : Instr} {op : Nat} {c : Ctl} {s s' : State} {slot : Nat} {h g : Hart} {body : State → Nat → Hart → Res}
    (he : exec i s = issue op c s body) (hi : Issues op c s slot h) (hb : body (noteRunning s h) slot h = .placed s')
    (hg : s'.hart? slot = some g) :
    ∃ t u, exec i s = .next t ∧ t.hart? slot = some u ∧ u.core = g.core ∧ u.regs = g.regs ∧ u.instret = g.instret + 1 ∧
      Elsewhere s' slot t := by
  obtain ⟨others, rest, mine⟩ := lendLanes_spec op slot (close slot (.placed s'))
  have stands : (close slot (.placed s')).hart? slot = some (g.count (Config.cycleTick s'.fresh)) :=
    (hart_settleStores _ _ _).trans (hart_modHart_same (s := s'.draw.2) hg _)
  obtain ⟨u, hu, core, regs, count⟩ := mine _ stands
  refine ⟨_, u, he.trans (issue_runs hi body), by rwa [hb], core, regs, count, fun k hk => ?_, ?_⟩
  · rw [hb, others k hk]
    exact (hart_settleStores _ _ _).trans (hart_modHart_other _ _ _ _ hk)
  · rw [hb, rest]
    exact (outside_settleStores _ _).trans (outside_modHart _ _ _)

theorem ofNat_bits_low (x : Word) (w : Nat) : BitVec.ofNat w (bits x 0 w) = x.setWidth w := by
  apply BitVec.eq_of_toNat_eq
  simp [bits]

theorem returnFromTrap_hart (s : State) (slot : Nat) (h : Hart) :
    let g := { h with regs := h.regs.retype h.trap.evtype, priv := isLamp slot || h.trap.estat.getLsbD 0, trap := { h.trap with suspended := false } }
    ∃ u, (returnFromTrap s slot h).hart? slot = some u ∧ u.core = ((g.setPc h.trap.epc).setVstart (bits h.trap.evstart 0 11)).core ∧
      u.regs = { g.regs with pc := h.trap.epc, vstart := h.trap.evstart.setWidth 11 } ∧ u.instret = h.instret := by
  refine ⟨_, hart_setHart_same _ _ _, ?_⟩
  split
  · simp [Hart.setPc, ofNat_bits_low]
  · obtain ⟨regs, instret, -⟩ := startFork_rest _ 1
    rw [core_startFork, regs, instret]
    simp [Hart.setPc, ofNat_bits_low]

/-- Settles O12: by what the trap registers hold, in the order of the traps. -/
theorem eretRestoresOrTraps : Obligations.EretRestoresOrTraps := by
  refine ⟨fun c s slot h hi priv clean aligned => ?_, fun c s slot h hi => ⟨fun kernel => ?_, fun priv bad => ?_, fun priv clean odd => ?_⟩⟩
  · obtain ⟨g, hg, core, regs, instret⟩ := returnFromTrap_hart (noteRunning s h) slot h
    obtain ⟨t, u, ht, hu, ucore, uregs, uinstret, others, rest⟩ := placed_of (exec_eret c s) hi (by simp [priv, clean, aligned]) hg
    refine ⟨t, u, ht, hu, ?_, ?_, uinstret.trans (by rw [instret]), ?_, ?_, ?_⟩
    · rw [Hart.pc, uregs, regs]
    · rw [uregs, regs]
      rfl
    · rw [ucore, core, Hart.setVstart, core_clearPoison, core_clearPoison]
      rw [ofNat_bits_low]
      rfl
    · exact fun k hk => (others k hk).trans (hart_setHart_other _ _ _ _ hk)
    · exact rest
  · exact traps_of (exec_eret c s) hi (by simp [kernel])
  · exact traps_of (exec_eret c s) hi (by simp [priv, bad, poisonTrap, trapRes])
  · exact traps_of (exec_eret c s) hi (by simp [priv, clean, odd])

/-! ## What a SYSWR leaves to be read -/

theorem vlmaxOf_le (c : BitVec 4) : vlmaxOf c ≤ 2048 := by
  revert c
  decide

theorem extract_low {n : Nat} (x : BitVec n) (w : Nat) : x.extractLsb' 0 w = x.setWidth w := by
  apply BitVec.eq_of_toNat_eq
  simp

/-- The low bits of a word, kept in a register of their width. -/
theorem setWidth_setWidth_low {w : Nat} (x : Word) : (x.setWidth w).setWidth 64 = x &&& BitVec.ofNat 64 (2 ^ w - 1) := by
  rw [← setWidth_extract, extract_low]

theorem fcsrOf_setWidth (x : Word) : (fcsrOf x).setWidth 64 = if 4 < (x &&& 7).toNat then x &&& 0xF8 else x &&& 0xFF := by
  have mode : x &&& 7 = BitVec.ofNat 64 (bits x 0 3) := and_low x 3
  have flags : x &&& 0xF8 = BitVec.ofNat 64 (bits x 3 5 * 8) := and_field x 3 5
  have both : x &&& 0xFF = BitVec.ofNat 64 (bits x 0 3 + bits x 3 5 * 8) := and_fields x (Nat.le_refl 3) 5
  have mode_lt : bits x 0 3 < 8 := Nat.mod_lt _ (by decide)
  have flags_lt : bits x 3 5 < 32 := Nat.mod_lt _ (by decide)
  rw [mode, flags, both, BitVec.toNat_ofNat, Nat.mod_eq_of_lt (by omega), fcsrOf]
  apply BitVec.eq_of_toNat_eq
  split
  · simp [BitVec.toNat_setWidth, *]
    omega
  · simp [BitVec.toNat_setWidth, *]
    omega

theorem lslipOf_setWidth (x : Word) :
    (lslipOf x).setWidth 64 = (x &&& 0x80) ||| BitVec.ofNat 64 (max 1 (min 64 (x.toNat % 128))) := by
  have off : x &&& 0x80 = BitVec.ofNat 64 (bits x 7 1 * 128) := and_field x 7 1
  have off_lt : bits x 7 1 < 2 := Nat.mod_lt _ (by decide)
  have depth : bits x 0 7 = x.toNat % 128 := rfl
  have stored : (if x.toNat % 128 = 0 then 1 else min (x.toNat % 128) 64) = max 1 (min 64 (x.toNat % 128)) := by
    split <;> omega
  have small : max 1 (min 64 (x.toNat % 128)) < 2 ^ 7 := by omega
  rw [off, lslipOf, depth, stored]
  generalize max 1 (min 64 (x.toNat % 128)) = m at small
  apply BitVec.eq_of_toNat_eq
  rw [BitVec.toNat_or, BitVec.toNat_setWidth, BitVec.toNat_ofNat, BitVec.toNat_ofNat, BitVec.toNat_ofNat, Nat.mod_eq_of_lt (a := m) (by omega),
    Nat.mod_eq_of_lt (a := bits x 7 1 * 128) (by omega), Nat.mul_comm, ← Nat.two_pow_add_eq_or_of_lt small (bits x 7 1)]
  omega

theorem lslip_writeLslip (h : Hart) (x : Word) : (h.writeLslip x).lslip = lslipOf x := by
  unfold Hart.writeLslip
  dsimp only
  repeat' split
  all_goals rfl

theorem row_writeZdirty (h : Hart) (x : Word) {k r : Nat} (hk : k < 32) (hr : r < 256) :
    (h.writeZdirty x).row k r =
      if h.zdirty.getLsbD k = true ∧ (decide (k < h.ids.zshare) && x.getLsbD k) = false then 0 else h.row k r := by
  have tile : (k * 256 + r) / 256 = k := by omega
  have kept : (BitVec.ofNat 32 (x.toNat % 2 ^ h.ids.zshare)).getLsbD k = (decide (k < h.ids.zshare) && x.getLsbD k) := by
    rw [BitVec.getLsbD_ofNat, Nat.testBit_mod_two_pow, decide_eq_true hk, Bool.true_and]
    rfl
  rw [Hart.writeZdirty, Hart.row, clearPoison_tiles, Hart.row, tblGetD, tblGetD]
  split
  · rename_i gone
    rw [tblGet_filter_none fun a => by simp [tile, kept, gone.1, gone.2]]
    rfl
  · rename_i stays
    rw [tblGet_filter fun a => by simpa [tile, kept, imp_iff_not_or] using stays]

theorem sysWrite_above (h : Hart) {n : Nat} (hn : 0x100 ≤ n) (x : Word) :
    sysWrite h n x = if n ≤ 0x10B then { h with perf := rset h.perf (BitVec.ofNat 4 (n - 0x100)) x } else h := by
  unfold sysWrite
  split
  case h_21 => simp only [hn, true_and]
  all_goals omega

theorem sysRead_above (s : State) (slot : Nat) (h : Hart) {n : Nat} (hn : 0x100 ≤ n) :
    sysRead s slot h n = if n ≤ 0x10B then rget h.perf (BitVec.ofNat 4 (n - 0x100)) else 0 := by
  unfold sysRead
  split
  case h_28 => simp only [hn, true_and]
  all_goals omega

/-- Settles O11: register by register. -/
theorem systemRegistersReadBack : Obligations.SystemRegistersReadBack := by
  intro s slot h x
  refine ⟨fcsrOf_setWidth x, ?_, ⟨?_, ?_⟩, fun share => ?_, fun k r hk hr => row_writeZdirty h x hk hr, ?_, ?_, ?_, ?_, (and_low x 8).symm,
    (and_low x 1).symm, fun n lo hi => ?_, fun n lo hi => ?_⟩
  · have le := vlmaxOf_le h.etypeCode
    change (((h.setVl _).regs.vl).setWidth 64).toNat = _
    rw [hart_setVl_regs]
    simp
    omega
  · change ((h.setVtype _).regs.vtype).setWidth 64 = _
    rw [Hart.setVtype, clearPoison_regs]
    exact setWidth_setWidth_low x
  · have le : h.vl < 2 ^ 12 := h.regs.vl.isLt
    have etype : (x.setWidth 7).extractLsb' 0 4 = x.extractLsb' 0 4 := by
      rw [extract_low, extract_low, BitVec.setWidth_setWidth_of_le _ (by decide)]
    change (h.setVtype _).regs.vl.toNat = _
    rw [Hart.setVtype, clearPoison_regs, Regs.retype, etype, BitVec.toNat_ofNat]
    exact Nat.mod_eq_of_lt (lt_of_le_of_lt (min_le_left _ _) le)
  · have lt : x.toNat % 2 ^ h.ids.zshare < 2 ^ 32 :=
      lt_of_lt_of_le (Nat.mod_lt _ (Nat.two_pow_pos _)) (Nat.pow_le_pow_right two_pos share)
    change ((h.writeZdirty x).zdirty).setWidth 64 = _
    apply BitVec.eq_of_toNat_eq
    rw [Hart.writeZdirty, clearPoison_zdirty, BitVec.toNat_setWidth, BitVec.toNat_ofNat, BitVec.toNat_ofNat, Nat.mod_eq_of_lt lt]
  · change ((h.setVstart _).regs.vstart).setWidth 64 = _
    rw [hart_setVstart_regs]
    rw [ofNat_bits_low]
    exact setWidth_setWidth_low x
  · change (h.writeLslip x).lslip.setWidth 64 = _
    rw [lslip_writeLslip, lslipOf_setWidth]
  · rintro n (rfl | rfl | rfl | rfl | rfl | rfl | rfl) <;> rfl
  · rintro n (rfl | rfl | rfl | rfl | rfl) <;> rfl
  · simp only [sysRead_above _ _ _ lo, sysWrite_above _ lo, if_pos hi, rget_rset_same]
  · simp only [sysRead_above _ _ _ (show 0x100 ≤ n by omega), if_neg (show ¬n ≤ 0x10B by omega)]

end Sys2Proof.Machine
end

section
/-! PROOFS. What a load or a store of an agent leaves behind beside its bytes (R99, R222, R227, R317, R367), and the
scalar loads (R196, R197). -/

namespace Sys2Proof.Machine

/-! ## What an access leaves behind -/

theorem rememberAt_eq (s : State) (slot part va pa : Nat) (pte : Word) : ∃ l, rememberAt s slot part va pa pte = { s with tlb := l } := by
  unfold rememberAt remember
  split
  · exact ⟨_, rfl⟩
  · split <;> exact ⟨_, rfl⟩

theorem touchWords_eq (s : State) (pa n : Nat) : ∃ l, touchWords s pa n = { s with combining := l } := by
  unfold touchWords
  refine List.foldlRecOn _ _ (motive := fun t : State => ∃ l, t = { s with combining := l }) ⟨s.combining, rfl⟩ fun t ht k _ => ?_
  obtain ⟨l, rfl⟩ := ht
  exact ⟨_, rfl⟩

theorem delayed_meetPage (s : State) (part va pa : Nat) (pte : Word) (k : Nat) :
    ((meetPage s part va pa pte).pair k).delayed = (s.pair k).delayed := by
  unfold meetPage
  dsimp only
  split
  · rfl
  split
  · rfl
  by_cases same : k = pteAux pte % 1024
  · subst same
    simp only [State.pair, State.setPair, tblGetD_tblPut_same]
  · simp only [State.pair, State.setPair, tblGetD_tblPut_other _ _ _ _ _ same]

/-- Between `s` and `t` only the translations held, the combining windows, the tracked pages and the records of the core
pairs may differ, and not the stores that a pin holds back. -/
structure Touches (s t : State) : Prop where
  rest : ∃ a b c d, t = { s with tlb := a, combining := b, tracked := c, pairs := d }
  delayed : ∀ k, (t.pair k).delayed = (s.pair k).delayed

theorem touches_noteAccess (s : State) (slot part va pa n : Nat) (pte : Word) (write : Bool) :
    Touches s (noteAccess s slot part va pa n pte write) := by
  obtain ⟨a, remembered⟩ := rememberAt_eq s slot part va pa pte
  obtain ⟨b, touched⟩ : ∃ b, (if pteAtom pte then touchWords (rememberAt s slot part va pa pte) pa n
      else rememberAt s slot part va pa pte) = { s with tlb := a, combining := b } := by
    rw [remembered]
    split
    · exact touchWords_eq _ pa n
    · exact ⟨_, rfl⟩
  have delayed := delayed_meetPage { s with tlb := a, combining := b } part va pa pte
  obtain ⟨d, met⟩ := meetPage_eq { s with tlb := a, combining := b } part va pa pte
  unfold noteAccess noteTouch
  dsimp only
  rw [touched]
  split
  · obtain ⟨c, counted⟩ := countRepl_eq (meetPage { s with tlb := a, combining := b } part va pa pte) (dieOf slot) (leafPage pte) pa write
    rw [counted]
    refine ⟨⟨a, b, c, d, by rw [met]⟩, delayed⟩
  · exact ⟨⟨a, b, s.tracked, d, met⟩, delayed⟩

section
variable {s t : State} (touches : Touches s t)
include touches

theorem Touches.mem : t.mem = s.mem := by
  obtain ⟨a, b, c, d, rfl⟩ := touches.rest
  rfl

theorem Touches.harts : t.harts = s.harts := by
  obtain ⟨a, b, c, d, rfl⟩ := touches.rest
  rfl

theorem Touches.egress : t.egress = s.egress := by
  obtain ⟨a, b, c, d, rfl⟩ := touches.rest
  rfl

end

theorem markPinRead_eq (s : State) (slot pa n : Nat) : ∃ l, markPinRead s slot pa n = { s with pairs := l } := by
  unfold markPinRead
  split
  · exact ⟨_, rfl⟩
  · dsimp only
    split <;> exact ⟨_, rfl⟩

/-- A load notes what it touched, and the stores under a pin that it read. -/
theorem noteLoad_mem_harts (s : State) (slot part va pa n : Nat) (pte : Word) :
    (noteAccess (markPinRead s slot pa n) slot part va pa n pte false).mem = s.mem ∧
      (noteAccess (markPinRead s slot pa n) slot part va pa n pte false).harts = s.harts := by
  have touches := touches_noteAccess (markPinRead s slot pa n) slot part va pa n pte false
  obtain ⟨l, marked⟩ := markPinRead_eq s slot pa n
  rw [touches.mem, touches.harts, marked]
  exact ⟨rfl, rfl⟩

theorem load_mem_harts {s s' : State} {slot : Nat} {h : Hart} {va : Word} {n : Nat} {bs : List Byte}
    (loaded : load s slot h va n = .ok (s', bs)) : s'.mem = s.mem ∧ s'.harts = s.harts := by
  unfold load at loaded
  split at loaded
  · cases loaded
  · split at loaded
    · cases loaded
    · obtain ⟨rfl, -⟩ := Prod.mk.inj (Except.ok.inj loaded)
      exact ⟨rfl, rfl⟩
  · split at loaded
    · cases loaded
    split at loaded
    · cases loaded
    split at loaded
    · cases loaded
    obtain ⟨rfl, -⟩ := Prod.mk.inj (Except.ok.inj loaded)
    exact noteLoad_mem_harts _ _ _ _ _ _ _

section
variable {s : State} {slot : Nat} {h : Hart} {va : Word} {n : Nat}

theorem loaded_scratch {off : Nat} (placed : place s slot h va n false = .ok (.scratch off))
    (clean : poisonedIn h.scratchPoison off n = none) : load s slot h va n = .ok (s, h.readScratch off n) := by
  simp only [load, placed, clean]

theorem loaded_mem {pa : Nat} {pte : Word} (placed : place s slot h va n false = .ok (.mem pa pte))
    (link : hostReadFails s pa n = false) (unpinned : pinnedElsewhere s (pairOfAgent slot) pa n = none)
    (clean : readPoison s slot pa n = none) :
    load s slot h va n =
      .ok (noteAccess (markPinRead s slot pa n) slot h.ids.part va.toNat pa n pte false, physReadBytes s pa n) := by
  simp [load, placed, link, unpinned, clean]

end

theorem noteRunning_mem (s : State) (h : Hart) : (noteRunning s h).mem = s.mem := by
  unfold noteRunning
  repeat' split
  all_goals rfl

theorem noteRunning_harts (s : State) (h : Hart) : (noteRunning s h).harts = s.harts := by
  unfold noteRunning
  repeat' split
  all_goals rfl

/-! ## Scalar loads -/

/-- The prefetched lines that a load has read are of the Lantern's side (R151). -/
theorem readAt_eq (s : State) (slot va n : Nat) (h : Hart) : ∃ l, readAt s slot va n h = { h with lantern := l } := by
  unfold readAt
  split
  · exact ⟨_, rfl⟩
  · split <;> exact ⟨_, rfl⟩

section
variable {i : Instr} {c : Ctl} {o : LoadForm} {s : State} {slot : Nat} {h : Hart}
  (he : exec i s = scalarLoad c o s) (hi : Issues 0x08 c s slot h) (hp : h.poisoned [.s o.a] = false)
include he hi hp

theorem scalarLoad_misaligned (odd : (effective h o.a o.off).toNat % o.ty.bytes ≠ 0) :
    Traps i s slot h .align (effective h o.a o.off) := by
  refine traps_of he hi ?_
  simp only [unpoisoned_clean hp, scalarRead, alignCheck, if_neg odd]
  rfl

theorem scalarLoad_completes (aligned : (effective h o.a o.off).toNat % o.ty.bytes = 0) {s' : State} {bs : List Byte}
    (loaded : load (noteRunning s h) slot h (effective h o.a o.off) o.ty.bytes = .ok (s', bs)) :
    CompletesIn i s s' slot (h.setS o.d (o.ty.place (BitVec.ofNat 64 (leNat bs)))) := by
  obtain ⟨l, noted⟩ := readAt_eq s' slot (effective h o.a o.off).toNat o.ty.bytes (h.setS o.d (o.ty.place (BitVec.ofNat 64 (leNat bs))))
  obtain ⟨t, ht, completed⟩ := completesIn_of (s' := s'.setHart slot (readAt s' slot (effective h o.a o.off).toNat o.ty.bytes
      (h.setS o.d (o.ty.place (BitVec.ofNat 64 (leNat bs)))))) he hi
    (by simp only [unpoisoned_clean hp, scalarRead, alignCheck, if_pos aligned, loaded, Except.map, doneWith]) (hart_setHart_same _ _ _)
  exact ⟨t, ht, completedAs_congr (completedAs_setHart completed) (congrArg Hart.core noted).symm (congrArg Hart.after noted).symm
    (congrArg Hart.instret noted).symm⟩

end

/-- Settles O7: LD and LDA by the mould that they share. -/
theorem loadsComplete : Obligations.LoadsComplete := by
  intro c o s slot h hi hp ea n u
  refine ⟨fun va k s' bs loaded => ?_, ?_⟩
  · obtain ⟨mem, harts⟩ := load_mem_harts loaded
    exact ⟨mem.trans (noteRunning_mem s h), harts.trans (noteRunning_harts s h)⟩
  intro ends
  suffices all : ∀ i, exec i s = scalarLoad c o s → ends i from ⟨all _ (exec_ld c o s), all _ (exec_lda c o s)⟩
  intro i he
  refine ⟨scalarLoad_misaligned he hi hp, fun aligned => ⟨fun off placed clean => ?_, fun pa pte placed link unpinned clean => ⟨?_, ?_⟩⟩⟩
  · exact scalarLoad_completes he hi hp aligned (loaded_scratch placed clean)
  · exact (noteLoad_mem_harts _ _ _ _ _ _ _).1.trans (noteRunning_mem s h)
  · exact scalarLoad_completes he hi hp aligned (loaded_mem placed link unpinned clean)

end Sys2Proof.Machine
end

section
/-! PROOFS. The bits of a word after a field of it is replaced, and what an error of a host link leaves in ERRSTAT (R97,
R393). -/

namespace Sys2Proof.Machine

/-! ## Fields of a word -/

theorem toNat_withBits (x : Word) {lo w : Nat} (fits : lo + w ≤ 64) (v : Nat) :
    (withBits x lo w v).toNat = 2 ^ lo * (2 ^ w * (x.toNat / 2 ^ (lo + w)) + v % 2 ^ w) + x.toNat % 2 ^ lo := by
  obtain ⟨a, ha⟩ : ∃ a, a = x.toNat % 2 ^ lo := ⟨_, rfl⟩
  obtain ⟨b, hb⟩ : ∃ b, b = x.toNat / 2 ^ lo % 2 ^ w := ⟨_, rfl⟩
  obtain ⟨c, hc⟩ : ∃ c, c = x.toNat / 2 ^ (lo + w) := ⟨_, rfl⟩
  obtain ⟨d, hd⟩ : ∃ d, d = v % 2 ^ w := ⟨_, rfl⟩
  have split : x.toNat = 2 ^ lo * (2 ^ w * c + b) + a := by
    rw [ha, hb, hc, pow_add, ← Nat.div_div_eq_div_mul, Nat.div_add_mod, Nat.div_add_mod]
  have c_lt : 2 ^ (lo + w) * c ≤ x.toNat := hc ▸ Nat.mul_div_le _ _
  have high : c < 2 ^ (64 - (lo + w)) := by
    rw [hc, Nat.div_lt_iff_lt_mul (by positivity), ← pow_add, Nat.sub_add_cancel fits]
    exact x.isLt
  have low : a < 2 ^ lo := ha ▸ Nat.mod_lt _ (by positivity)
  have field : d < 2 ^ w := hd ▸ Nat.mod_lt _ (by positivity)
  have bound : 2 ^ lo * (2 ^ w * c + d) + a < 2 ^ 64 := by
    have upper : 2 ^ w * c + d < 2 ^ w * 2 ^ (64 - (lo + w)) := by
      have := Nat.mul_le_mul_left (2 ^ w) high
      rw [Nat.mul_succ] at this
      omega
    have := Nat.mul_le_mul_left (2 ^ lo) upper
    rw [Nat.mul_succ, ← pow_add, ← pow_add, show lo + (w + (64 - (lo + w))) = 64 by omega] at this
    omega
  have kept : x.toNat - b * 2 ^ lo + d * 2 ^ lo = 2 ^ lo * (2 ^ w * c + d) + a := by
    rw [split]
    simp only [Nat.mul_add, Nat.mul_comm _ (2 ^ lo)]
    omega
  rw [← ha, ← hc, ← hd, withBits, BitVec.toNat_ofNat, Nat.shiftRight_eq_div_pow, Nat.shiftLeft_eq, Nat.shiftLeft_eq, ← hb, ← hd, kept,
    Nat.mod_eq_of_lt bound]

theorem getLsbD_withBits (x : Word) {lo w : Nat} (fits : lo + w ≤ 64) (v i : Nat) :
    (withBits x lo w v).getLsbD i = if lo ≤ i ∧ i < lo + w then v.testBit (i - lo) else x.getLsbD i := by
  rw [BitVec.getLsbD, toNat_withBits x fits, Nat.testBit_two_pow_mul_add _ (Nat.mod_lt _ (by positivity)),
    Nat.testBit_two_pow_mul_add _ (Nat.mod_lt _ (by positivity)), Nat.testBit_mod_two_pow, Nat.testBit_mod_two_pow,
    Nat.testBit_div_two_pow, BitVec.getLsbD]
  by_cases below : i < lo
  · simp [below, Nat.not_le.mpr below]
  · by_cases inside : i < lo + w
    · rw [if_neg below, if_pos (by omega), if_pos ⟨by omega, inside⟩, decide_eq_true (by omega), Bool.true_and]
    · rw [if_neg below, if_neg (by omega), if_neg (by omega), show i - lo - w + (lo + w) = i by omega]

theorem testBit_bits (x : Word) (lo w i : Nat) : (bits x lo w).testBit i = (decide (i < w) && x.getLsbD (lo + i)) := by
  rw [bits, Nat.testBit_mod_two_pow, Nat.testBit_shiftRight]
  rfl

theorem bits_withBits_same (x : Word) {lo w : Nat} (fits : lo + w ≤ 64) {v : Nat} (hv : v < 2 ^ w) : bits (withBits x lo w v) lo w = v := by
  refine Nat.eq_of_testBit_eq fun i => ?_
  rw [testBit_bits, getLsbD_withBits x fits]
  by_cases inside : i < w
  · rw [if_pos ⟨by omega, by omega⟩, decide_eq_true inside, Bool.true_and, Nat.add_sub_cancel_left]
  · rw [decide_eq_false inside, Bool.false_and, Nat.testBit_lt_two_pow (lt_of_lt_of_le hv (Nat.pow_le_pow_right two_pos (by omega)))]

theorem bits_withBits_other (x : Word) {lo w lo' w' : Nat} (fits : lo + w ≤ 64) (v : Nat) (apart : lo' + w' ≤ lo ∨ lo + w ≤ lo') :
    bits (withBits x lo w v) lo' w' = bits x lo' w' := by
  refine Nat.eq_of_testBit_eq fun i => ?_
  rw [testBit_bits, testBit_bits, getLsbD_withBits x fits]
  by_cases inside : i < w'
  · rw [if_neg (by omega)]
  · simp [inside]

/-! ## Errors of a host link -/

theorem part_raiseInterrupt_regs (s : State) (p : Nat) (code : BitVec 8) : ((raiseInterrupt s p code).part p).regs = (s.part p).regs := by
  rw [raiseInterrupt, part_modPart_same]

/-- ERRSTAT and ERRLOC after an error of source `src`: counted, and kept where it is the first (R393). -/
theorem recordError_regs (s : State) (p : Nat) {src : Nat} (hs : src < 8) (loc : Nat) :
    let r := (s.part p).regs
    let r' := ((recordError s p src loc).part p).regs
    bits r'.errstat 48 16 = min (bits r.errstat 48 16 + 1) 65535 ∧
    (r.errstat.getLsbD 0 = false →
      r'.errstat.getLsbD 0 = true ∧ bits r'.errstat 1 3 = src ∧ r'.errloc = BitVec.ofNat 64 (loc % 2 ^ 52)) := by
  have count : satAdd 16 (bits (s.part p).regs.errstat 48 16) 1 = min (bits (s.part p).regs.errstat 48 16 + 1) 65535 := rfl
  have count_lt : min (bits (s.part p).regs.errstat 48 16 + 1) 65535 < 2 ^ 16 := by omega
  have first := getLsbD_zero_toNat (s.part p).regs.errstat
  unfold recordError
  dsimp only
  rw [count]
  split
  · rename_i known
    have noted : (s.part p).regs.errstat.getLsbD 0 = true := by
      rw [known] at first
      exact Bool.toNat_eq_one.mp first
    refine ⟨?_, fun clear => absurd (noted.symm.trans clear) nofun⟩
    split
    · rw [part_modPart_same]
      exact bits_withBits_same _ (by decide) count_lt
    · rw [part_raiseInterrupt_regs, part_modPart_same]
      exact bits_withBits_same _ (by decide) count_lt
  · rw [part_raiseInterrupt_regs, part_modPart_same]
    refine ⟨?_, fun _ => ⟨?_, ?_, rfl⟩⟩
    · rw [bits_withBits_other _ (by decide) _ (.inr (by decide)), bits_withBits_other _ (by decide) _ (.inr (by decide)),
        bits_withBits_same _ (by decide) count_lt]
    · rw [getLsbD_withBits _ (by decide), if_neg (by decide), getLsbD_withBits _ (by decide), if_pos (by decide)]
      rfl
    · exact bits_withBits_same _ (by decide) hs

theorem hostLinkError_regs (s : State) (p pa : Nat) : ((hostLinkError s p pa).part p).regs = ((recordError s p 6 pa).part p).regs := rfl

theorem egress_hostLinkError (s : State) (p pa : Nat) : (hostLinkError s p pa).egress = s.egress := by
  have recorded : (recordError s p 6 pa).egress = s.egress := by
    unfold recordError
    dsimp only
    repeat' split
    all_goals rfl
  exact recorded

end Sys2Proof.Machine
end

section
/-! PROOFS. Where a store goes: memory, host memory, the scratch and the transmit windows (R97, R197, R310, R356, R358). -/

namespace Sys2Proof.Machine

/-! ## A store to memory -/

theorem delayStore_eq (s : State) (slot : Nat) (vec : Bool) (part page pa n : Nat) :
    ∃ l, delayStore s slot vec part page pa n = { s with pairs := l } := by
  unfold delayStore
  split
  · exact ⟨_, rfl⟩
  · dsimp only
    split <;> exact ⟨_, rfl⟩

theorem coverMemory_eq (s : State) (slot a n : Nat) :
    ∃ p o, coverMemory s slot a n = { s with memPoison := p, overwritten := o } := by
  unfold coverMemory
  split <;> exact ⟨_, _, rfl⟩

section
variable (s : State) (m : Maker) (part : Nat) {pa : Nat} (bs : List Byte)

theorem writePhys_device (device : isHostPa pa = false) : ∃ p o w, writePhys s m part pa bs =
    { s with mem := Memory.writeBytes s.mem (storageOf pa) bs, memPoison := p, overwritten := o, watch := w } := by
  obtain ⟨p, o, covered⟩ := coverMemory_eq (physWrite s pa bs) m.key (storageOf pa) bs.length
  rw [writePhys, if_neg (by simp [device]), covered]
  exact ⟨p, o, _, rfl⟩

theorem writePhys_host (host : isHostPa pa = true) (link : hostWriteFails s pa bs.length = false) : ∃ p o w, writePhys s m part pa bs =
    { s with mem := Memory.writeBytes s.mem (storageOf pa) bs, memPoison := p, overwritten := o, watch := w
             hostStores := s.hostStores ++ [hostStoreOf s m part pa bs.length], hostStamp := s.hostStamp + 1 } := by
  obtain ⟨p, o, covered⟩ := coverMemory_eq (physWrite s pa bs) m.key (storageOf pa) bs.length
  rw [writePhys, if_pos host, if_neg (by simp [link]), covered]
  exact ⟨p, o, _, rfl⟩

theorem writePhys_failed (host : isHostPa pa = true) (link : hostWriteFails s pa bs.length = true) :
    writePhys s m part pa bs = hostLinkError s part pa := by
  rw [writePhys, if_pos host, if_pos link]

theorem writePhys_harts_egress (pa : Nat) :
    (writePhys s m part pa bs).harts = s.harts ∧ (writePhys s m part pa bs).egress = s.egress := by
  cases host : isHostPa pa with
  | false =>
    obtain ⟨p, o, w, written⟩ := writePhys_device s m part bs host
    rw [written]
    exact ⟨rfl, rfl⟩
  | true =>
    cases link : hostWriteFails s pa bs.length with
    | false =>
      obtain ⟨p, o, w, written⟩ := writePhys_host s m part bs host link
      rw [written]
      exact ⟨rfl, rfl⟩
    | true =>
      rw [writePhys_failed s m part bs host link]
      exact ⟨harts_of_crew (crew_hostLinkError s part pa), egress_hostLinkError s part pa⟩

end

theorem hostStoreOf_fields (s : State) (m : Maker) (part pa n : Nat) :
    let e := hostStoreOf s m part pa n
    e.slot = m.slot ∧ e.vec = m.vec ∧ e.transfer = m.transfer ∧ e.pa = pa ∧ e.n = n ∧ e.stamp = s.hostStamp := by
  unfold hostStoreOf
  dsimp only
  split <;> exact ⟨rfl, rfl, rfl, rfl, rfl, rfl⟩

/-- A store through a leaf that names no transmit window: written in a state where only what it touched and what a pin
holds back differ. -/
theorem performStore_local (s : State) (slot part : Nat) (vec : Bool) (va : Word) (bs : List Byte) (pa : Nat) {pte : Word}
    (wtype : pteWtype pte ≠ 1) : ∃ a b c d, performStore s slot vec part (.mem pa pte) va bs =
      writePhys { s with tlb := a, combining := b, tracked := c, pairs := d } (.instr slot vec) part pa bs := by
  obtain ⟨a, b, c, d, touched⟩ := (touches_noteAccess s slot part va.toNat pa bs.length pte true).rest
  simp only [performStore, beq_false_of_ne wtype, Bool.false_eq_true, if_false, storeLocal, touched]
  obtain ⟨l, delayed⟩ := delayStore_eq { s with tlb := a, combining := b, tracked := c, pairs := d } slot vec part (va.toNat / 65536) pa bs.length
  exact ⟨a, b, c, l, congrArg (writePhys · (.instr slot vec) part pa bs) delayed⟩

/-! ## A store through a transmit window -/

theorem fixRoute_eq (s : State) (dev : BitVec 16) (rwin : BitVec 12) : ∃ l, fixRoute s dev rwin = { s with routes := l } := by
  unfold fixRoute
  split <;> exact ⟨_, rfl⟩

theorem sendOne_eq (s : State) (slot part w : Nat) (e : BitVec 512) (k off : Nat) (pl : Payload) :
    ∃ r i x, sendOne s slot part w e k off pl = { s with routes := r, nextId := i, egress := s.egress ++ [x] } := by
  obtain ⟨l, routed⟩ := fixRoute_eq s (winDev e k) (winRwin e k)
  unfold sendOne
  rw [routed]
  exact ⟨l, _, _, rfl⟩

/-- One packet for each path of the entry. -/
theorem reflect_eq (s : State) (slot part w : Nat) (e : BitVec 512) (va : Nat) (pl : Payload) :
    ∃ r i l, reflect s slot part w e va pl = { s with routes := r, nextId := i, egress := s.egress ++ l } ∧ l.length = winNdest e := by
  unfold reflect
  induction winNdest e with
  | zero => exact ⟨s.routes, s.nextId, [], by simp, rfl⟩
  | succ n ih =>
    obtain ⟨r, i, l, sent, length⟩ := ih
    rw [List.range_succ, List.foldl_append, List.foldl_cons, List.foldl_nil, sent]
    obtain ⟨r', i', x, next⟩ := sendOne_eq { s with routes := r, nextId := i, egress := s.egress ++ l } slot part w e n (va - winTva e) pl
    exact ⟨r', i', l ++ [x], by rw [next]; simp, by simp [length]⟩

section
variable (s : State) (slot part : Nat) (vec : Bool) (va : Word) (bs : List Byte) (pa : Nat) {pte : Word} {w : BitVec 512}
  (wtype : pteWtype pte = 1) (window : s.window (pteAux pte) = some w)
include wtype window

/-- A store through a transmit window: what it sends, and the state in which its local bytes are written where LB is 1. -/
theorem performStore_window : ∃ u, u.mem = s.mem ∧ u.harts = s.harts ∧ u.egress.length = s.egress.length + winNdest w ∧
    (∀ k, (u.pair k).delayed = (s.pair k).delayed) ∧
    performStore s slot vec part (.mem pa pte) va bs =
      if winLb w then writePhys u (.instr slot vec) part pa bs else u := by
  obtain ⟨u, hu⟩ : ∃ u, u = reflect (rememberAt s slot part va.toNat pa pte) slot part (pteAux pte) w va.toNat (.store bs []) := ⟨_, rfl⟩
  obtain ⟨mem, harts, pairs, egress⟩ : u.mem = s.mem ∧ u.harts = s.harts ∧ u.pairs = s.pairs ∧
      u.egress.length = s.egress.length + winNdest w := by
    obtain ⟨l, remembered⟩ := rememberAt_eq s slot part va.toNat pa pte
    obtain ⟨r, i, x, sent, length⟩ := reflect_eq { s with tlb := l } slot part (pteAux pte) w va.toNat (.store bs [])
    rw [hu, remembered, sent]
    exact ⟨rfl, rfl, rfl, by rw [← length, ← List.length_append]⟩
  have delayed : ∀ k, (u.pair k).delayed = (s.pair k).delayed := fun k => by rw [State.pair, pairs, State.pair]
  simp only [performStore, wtype, beq_self_eq_true, if_true, window, ← hu]
  cases lb : winLb w with
  | false => exact ⟨u, mem, harts, egress, delayed, rfl⟩
  | true =>
    have touches := touches_noteAccess u slot part va.toNat pa bs.length pte true
    exact ⟨_, touches.mem.trans mem, touches.harts.trans harts, (congrArg List.length touches.egress).trans egress,
      fun k => (touches.delayed k).trans (delayed k), rfl⟩

end

/-- A store to memory leaves the harts as they were. -/
theorem performStore_harts (s : State) (slot part : Nat) (vec : Bool) (va : Word) (bs : List Byte) (pa : Nat) (pte : Word) :
    (performStore s slot vec part (.mem pa pte) va bs).harts = s.harts := by
  by_cases wtype : pteWtype pte = 1
  · cases window : s.window (pteAux pte) with
    | none =>
      simp only [performStore, wtype, beq_self_eq_true, if_true, window]
    | some w =>
      obtain ⟨u, -, harts, -, -, performed⟩ := performStore_window s slot part vec va bs pa wtype window
      rw [performed]
      split
      · exact (writePhys_harts_egress u _ part bs pa).1.trans harts
      · exact harts
  · obtain ⟨a, b, c, d, performed⟩ := performStore_local s slot part vec va bs pa wtype
    rw [performed]
    exact (writePhys_harts_egress _ _ part bs pa).1

end Sys2Proof.Machine
end

section
/-! PROOFS. Stores to the scratch (R219, R392), where each kind of store goes (R197, R269, R356, R358), and the scalar
stores (R196, R197, R316 to R319). -/

namespace Sys2Proof.Machine

/-! ## Bytes of the scratch -/

theorem writeScratchFrom_eq (bs : List Byte) (h : Hart) (o : Nat) : ∃ m, writeScratchFrom h o bs = { h with scratch := m } := by
  induction bs generalizing h o with
  | nil => exact ⟨_, rfl⟩
  | cons b bs ih => exact ih (h.setScratchByte o b) (o + 1)

theorem scratchByte_setScratchByte (h : Hart) (o : Nat) (b : Byte) (x : Nat) :
    (h.setScratchByte o b).scratchByte x = if x = o then b else h.scratchByte x := by
  split
  · subst_vars
    exact tblGetD_tblPut_same _ _ _ _
  · rename_i other
    exact tblGetD_tblPut_other _ _ _ _ _ other

theorem scratchByte_writeScratchFrom (bs : List Byte) (h : Hart) (o x : Nat) :
    (writeScratchFrom h o bs).scratchByte x = if o ≤ x ∧ x < o + bs.length then listGetD bs (x - o) 0 else h.scratchByte x := by
  induction bs generalizing h o with
  | nil => exact (if_neg (by simp)).symm
  | cons b bs ih =>
    rw [writeScratchFrom, ih, scratchByte_setScratchByte, List.length_cons]
    by_cases first : x = o
    · subst first
      simp [listGetD]
    · by_cases inside : o + 1 ≤ x ∧ x < o + 1 + bs.length
      · rw [if_pos inside, if_pos (by omega), show x - o = x - (o + 1) + 1 by omega]
        simp [listGetD]
      · rw [if_neg inside, if_neg first, if_neg (by omega)]

/-! ## Words overwritten whole (R392) -/

/-- A mask of eight bits that is full has each of its bits. -/
theorem eight_bits_full : ∀ b0 b1 b2 b3 b4 b5 b6 b7 : Bool,
    ([(0, b0), (1, b1), (2, b2), (3, b3), (4, b4), (5, b5), (6, b6), (7, b7)].filter Prod.snd).foldl (fun m k => m + 2 ^ k.1) 0 = 255 →
      b0 = true ∧ b7 = true := by decide

theorem whole_of_coveredMask {w a n : Nat} (full : coveredMask w a n = 255) : a ≤ w ∧ w + 8 ≤ a + n := by
  have bits : coveredMask w a n =
      (((List.range 8).map fun k => (k, decide (a ≤ w + k) && decide (w + k < a + n))).filter Prod.snd).foldl (fun m k => m + 2 ^ k.1) 0 := by
    rw [List.filter_map, List.foldl_map]
    rfl
  obtain ⟨first, last⟩ := eight_bits_full _ _ _ _ _ _ _ _ (bits.symm.trans full)
  simp only [Bool.and_eq_true, decide_eq_true_eq] at first last
  omega

/-- An instruction that had overwritten nothing in part has overwritten of each word the bytes of its store. -/
theorem mask_addCovered {l : List Overwrite} {key : Nat} (fresh : ∀ e ∈ l, e.slot ≠ key) (scratch : Bool) (poisoned : List Nat) (a n : Nat) :
    ∀ e ∈ addCovered l key scratch poisoned a n, e.slot = key → e.mask = coveredMask e.word a n := by
  refine List.foldlRecOn poisoned _ (motive := fun t : List Overwrite => ∀ e ∈ t, e.slot = key → e.mask = coveredMask e.word a n)
    (fun e he same => absurd same (fresh e he)) fun t ih w _ => ?_
  dsimp only
  split
  · exact ih
  split
  · intro e he same
    obtain ⟨x, hx, rfl⟩ := List.mem_map.mp he
    by_cases is : (x.slot == key && x.scratch == scratch && x.word == w) = true
    · rw [if_pos is]
      simp only [Bool.and_eq_true, beq_iff_eq] at is
      obtain ⟨⟨slot, -⟩, rfl⟩ := is
      rw [ih x hx slot]
      exact Nat.or_self _
    · rw [if_neg is] at same ⊢
      exact ih x hx same
  · intro e he same
    obtain old | new := List.mem_append.mp he
    · exact ih e old same
    · rw [List.mem_singleton.mp new]

theorem mem_clearWords {l : List Nat} {o n w : Nat} (h : w ∈ clearWords l o n) : ¬(o ≤ w ∧ w + 8 ≤ o + n) := by
  unfold clearWords at h
  split at h
  · exact absurd h List.not_mem_nil
  · have part := (List.mem_filter.mp h).2
    simp only [Bool.not_eq_true', Bool.and_eq_false_iff, decide_eq_false_iff_not] at part
    omega

/-- A word that one store left poisoned is not overwritten whole by that store. -/
theorem not_covered {l : List Overwrite} {key : Nat} (fresh : ∀ e ∈ l, e.slot ≠ key) (poisoned : List Nat) {p : List Nat} {o n w : Nat}
    (h : w ∈ clearWords p o n) : (coveredWords (addCovered l key true poisoned o n) key true).contains w = false := by
  rw [Bool.eq_false_iff]
  intro covered
  obtain ⟨e, he, rfl⟩ := List.mem_map.mp (List.contains_iff_mem.mp covered)
  obtain ⟨he, full⟩ := List.mem_filter.mp he
  simp only [Bool.and_eq_true, beq_iff_eq] at full
  obtain ⟨⟨slot, -⟩, mask⟩ := full
  exact mem_clearWords h (whole_of_coveredMask ((mask_addCovered fresh true poisoned o n e he slot).symm.trans mask))

/-! ## A store to the scratch -/

/-- The hart after a store to its scratch which leaves `p` poisoned. -/
def Hart.scratched (h : Hart) (o : Nat) (bs : List Byte) (p : List Nat) : Hart := { h.writeScratch o bs with scratchPoison := p }

theorem scratched_eq (h : Hart) (o : Nat) (bs : List Byte) (p : List Nat) :
    ∃ m, h.scratched o bs p = { h with scratch := m, scratchPoison := p, watch := unwritten h.watch o bs.length } := by
  obtain ⟨m, written⟩ := writeScratchFrom_eq bs h o
  refine ⟨m, ?_⟩
  rw [Hart.scratched, Hart.writeScratch, written]

theorem scratchByte_scratched (h : Hart) (o : Nat) (bs : List Byte) (p : List Nat) (x : Nat) :
    (h.scratched o bs p).scratchByte x = if o ≤ x ∧ x < o + bs.length then listGetD bs (x - o) 0 else h.scratchByte x :=
  scratchByte_writeScratchFrom bs h o x

theorem scratchPoison_writeScratch (h : Hart) (o : Nat) (bs : List Byte) :
    (h.writeScratch o bs).scratchPoison = clearWords h.scratchPoison o bs.length := by
  obtain ⟨m, written⟩ := writeScratchFrom_eq bs h o
  rw [Hart.writeScratch, written]

/-- What a store to the scratch of the hart `h` makes of the state. -/
structure Scratches (s : State) (slot : Nat) (h : Hart) (o : Nat) (bs : List Byte) (t : State) (p : List Nat) : Prop where
  hart : t.hart? slot = some (h.scratched o bs p)
  others : ∀ k, k ≠ slot → t.hart? k = s.hart? k
  mem : t.mem = s.mem
  egress : t.egress = s.egress
  poison : ∀ w ∈ p, w ∈ clearWords h.scratchPoison o bs.length
  whole : (∀ e ∈ s.overwritten, e.slot ≠ slot) → p = clearWords h.scratchPoison o bs.length

theorem scratches_storeScratch {s : State} {slot : Nat} {h : Hart} (hs : s.hart? slot = some h) (o : Nat) (bs : List Byte) :
    ∃ p, Scratches s slot h o bs (storeScratch s slot o bs) p := by
  have written : s.modHart slot (fun h => h.writeScratch o bs) = s.setHart slot (h.writeScratch o bs) := modHart_eq_setHart hs _
  have stands := hart_setHart_same s slot (h.writeScratch o bs)
  have poison := scratchPoison_writeScratch h o bs
  have unchanged : Scratches s slot h o bs (s.setHart slot (h.writeScratch o bs)) (clearWords h.scratchPoison o bs.length) :=
    ⟨by rw [stands, Hart.scratched, ← poison], fun k hk => hart_setHart_other _ _ _ _ hk, rfl, rfl, fun _ hw => hw, fun _ => rfl⟩
  unfold storeScratch storeScratchAs
  simp only [written, stands, Option.map_some, poison]
  split
  · exact ⟨_, unchanged⟩
  · exact ⟨_, unchanged⟩
  · rename_i l _ hl
    obtain rfl := Option.some.inj hl
    rw [modHart_eq_setHart stands]
    refine ⟨_, hart_setHart_same _ _ _, fun k hk => ?_, rfl, rfl, fun w hw => List.mem_of_mem_filter hw, fun fresh => ?_⟩
    · exact (hart_setHart_other _ _ _ _ hk).trans (hart_setHart_other _ _ _ _ hk)
    · exact List.filter_eq_self.mpr fun w hw => by rw [setHart_overwritten, not_covered fresh _ hw]; rfl

/-! ## Where stores go -/

theorem listGetD_eq_getElem {α : Type} (l : List α) {k : Nat} (hk : k < l.length) (d : α) : listGetD l k d = l[k] := by
  rw [listGetD, List.getElem?_eq_getElem hk, Option.getD_some]

/-- Settles O32: by the place of the store, and for memory by whether it is the host's. -/
theorem storesWriteOnlyTheirBytes : Obligations.StoresWriteOnlyTheirBytes := by
  intro s slot part vec va bs writes
  refine ⟨fun pa pte wtype device => ?_, fun pa pte wtype host => ?_, fun off h hs => ?_, fun pa pte w wtype window => ?_⟩
  · obtain ⟨a, b, c, d, performed⟩ := performStore_local s slot part vec va bs pa wtype
    obtain ⟨p, o, x, written⟩ := writePhys_device { s with tlb := a, combining := b, tracked := c, pairs := d } (.instr slot vec) part bs device
    rw [performed, written]
    exact ⟨sameBytesBut_writeBytes rfl, rfl, rfl, rfl⟩
  · obtain ⟨a, b, c, d, performed⟩ := performStore_local s slot part vec va bs pa wtype
    obtain ⟨u, hu⟩ : ∃ u : State, u = { s with tlb := a, combining := b, tracked := c, pairs := d } := ⟨_, rfl⟩
    rw [← hu] at performed
    obtain ⟨harts, egress⟩ := writePhys_harts_egress u (.instr slot vec) part bs pa
    rw [performed]
    refine ⟨harts.trans (by rw [hu]), egress.trans (by rw [hu]), fun up => ?_, fun down => ?_⟩
    · obtain ⟨p, o, x, written⟩ := writePhys_host u (.instr slot vec) part bs host (hu ▸ up)
      obtain ⟨eslot, evec, etransfer, epa, en, estamp⟩ := hostStoreOf_fields u (.instr slot vec) part pa bs.length
      rw [written]
      refine ⟨sameBytesBut_writeBytes (by rw [hu]), by rw [hu], hostStoreOf u (.instr slot vec) part pa bs.length, by rw [hu], ?_⟩
      exact ⟨eslot, evec, etransfer, epa, en, estamp.trans (by rw [hu])⟩
    · have stands := stands_hostLinkError u part pa
      obtain ⟨count, first⟩ := recordError_regs u part (src := 6) (by decide) pa
      rw [writePhys_failed u (.instr slot vec) part bs host (hu ▸ down), hostLinkError_regs]
      rw [hu] at *
      exact ⟨stands.mem, stands.hostStores, count, first⟩
  · obtain ⟨p, hart, others, mem, egress, -, -⟩ := scratches_storeScratch hs off bs
    refine ⟨mem, egress, others, _, hart, fun k hk => ?_, fun x outside => ?_, ?_⟩
    · rw [scratchByte_scratched, if_pos (by omega), Nat.add_sub_cancel_left, listGetD_eq_getElem _ hk]
    · rw [scratchByte_scratched, if_neg (by omega)]
    · obtain ⟨m, eq⟩ := scratched_eq h off bs p
      rw [eq]
  · obtain ⟨u, mem, harts, egress, delayed, performed⟩ := performStore_window s slot part vec va bs pa wtype window
    obtain ⟨harts', egress'⟩ := writePhys_harts_egress u (.instr slot vec) part bs pa
    rw [performed]
    cases lb : winLb w with
    | false => exact ⟨harts, egress, fun _ => mem, nofun⟩
    | true =>
      refine ⟨harts'.trans harts, (congrArg List.length egress').trans egress, nofun, fun _ device => ?_⟩
      obtain ⟨p, o, x, written⟩ := writePhys_device u (.instr slot vec) part bs device
      rw [if_pos rfl, written]
      exact ⟨sameBytesBut_writeBytes (by rw [mem]), delayed⟩

/-! ## Scalar stores -/

theorem mem_dropPins (s : State) (slot : Nat) : (dropPins s slot).mem = s.mem := by
  unfold dropPins
  split
  · rfl
  · dsimp only
    split
    · rfl
    · exact (stands_bindMerges _).mem

theorem endPins_harts_mem (s : State) (slot : Nat) : (endPins s slot).harts = s.harts ∧ (endPins s slot).mem = s.mem :=
  ⟨harts_of_crew ((crew_settlePins _).trans (crew_dropPins s slot)), (stands_settlePins _).mem.trans (mem_dropPins s slot)⟩

theorem corePin_eq {s v : State} {slot : Nat} {pl : Place} (pinned : corePin s slot pl = some v) : ∃ l, v = { s with pairs := l } := by
  unfold corePin pinLine at pinned
  split at pinned
  · exact ⟨s.pairs, (Option.some.inj pinned).symm⟩
  split at pinned
  · exact ⟨s.pairs, (Option.some.inj pinned).symm⟩
  dsimp only at pinned
  split at pinned
  · exact ⟨s.pairs, (Option.some.inj pinned).symm⟩
  split at pinned
  · cases pinned
  · exact ⟨_, (Option.some.inj pinned).symm⟩

theorem hart_of_releaseHeld {s v : State} {slot : Nat} {k : Queues} {sc : Scope} (held : releaseHeld s slot k sc = some v) (j : Nat) :
    v.hart? j = s.hart? j := by
  unfold releaseHeld at held
  split at held
  · cases held
  split at held
  · obtain rfl := Option.some.inj held
    exact hart_of_crew (crew_boundSiblingPins k s slot) j
  split at held
  · exact congrArg (State.hart? · j) (Option.some.inj held).symm
  · cases held

/-- An instruction outside the vector pipe that waits: its body's state, with the turn over. -/
theorem keeps_of {i : Instr} {op : Nat} {c : Ctl} {s v : State} {slot : Nat} {h : Hart} {body : State → Nat → Hart → Res}
    (he : exec i s = issue op c s body) (hi : Issues op c s slot h) (scalar : inVectorPipe op = false)
    (hb : body (noteRunning s h) slot h = .keep v) : exec i s = .next (endTurn v) := by
  rw [he, issue_runs hi, hb]
  simp [lendLanes, scalar, close, Res.waits]

theorem noteRunning_overwritten (s : State) (h : Hart) : (noteRunning s h).overwritten = s.overwritten := by
  unfold noteRunning
  repeat' split
  all_goals rfl

section
variable {i : Instr} {c : Ctl} {s : State} {slot : Nat} {h : Hart} {body : State → Nat → Hart → Res} {part : Nat} {pl : Place} {va : Word}
  {bs : List Byte}

/-- A body that has performed its store in `v`, a state that moved only the records of the core pairs before, and then
perhaps ended pins. -/
theorem storesAs_performed (he : exec i s = issue 0x09 c s body) (hi : Issues 0x09 c s slot h) {l : Tbl Pair} {t : State}
    (harts : t.harts = (performStore { noteRunning s h with pairs := l } slot false part pl va bs).harts)
    (mem : t.mem = (performStore { noteRunning s h with pairs := l } slot false part pl va bs).mem)
    (hb : body (noteRunning s h) slot h = .done t) : StoresAs i s t slot h pl bs := by
  have stand : ({ noteRunning s h with pairs := l } : State).hart? slot = some h := (noteRunning_hart s h slot).trans hi.hart
  have hart : t.hart? slot = (performStore { noteRunning s h with pairs := l } slot false part pl va bs).hart? slot := by
    rw [State.hart?, harts, State.hart?]
  cases pl with
  | scratch o =>
    obtain ⟨p, scratched, -, same, -, poison, whole⟩ := scratches_storeScratch stand o bs
    obtain ⟨m, eq⟩ := scratched_eq h o bs p
    refine ⟨h.scratched o bs p, hart.trans scratched, completesIn_of he hi hb (hart.trans scratched), by rw [eq], poison, fun fresh => ?_,
      scratchByte_scratched h o bs p, mem.trans (same.trans (noteRunning_mem s h))⟩
    exact whole (by rwa [noteRunning_overwritten])
  | mem pa pte =>
    have stands : t.hart? slot = some h := hart.trans ((congrArg (tblGet · slot) (performStore_harts _ _ _ _ _ _ _ _)).trans stand)
    exact ⟨h, stands, completesIn_of he hi hb stands, rfl⟩

end

section
variable {c : Ctl} {o : StoreForm} {s : State} {slot : Nat} {h : Hart} (hi : Issues 0x09 c s slot h) (hp : h.poisoned [.s o.a, .s o.b] = false)
include hi hp

theorem scalarStore_misaligned (odd : (effective h o.a o.off).toNat % o.ty.bytes ≠ 0) :
    Traps (.st c o) s slot h .align (effective h o.a o.off) ∧ Traps (.stl c o) s slot h .align (effective h o.a o.off) := by
  constructor
  · refine traps_of (exec_st c o s) hi ?_
    simp only [unpoisoned_clean hp, scalarWriteCheck, alignCheck, if_neg odd]
    rfl
  · refine traps_of (exec_stl c o s) hi ?_
    simp only [unpoisoned_clean hp, scalarWriteCheck, alignCheck, if_neg odd]
    rfl

end

/-- Settles O8: ST and STL by their checks, and STL by whether it pins, waits or ends the pins of its hart. -/
theorem storesComplete : Obligations.StoresComplete := by
  intro c o s slot h hi hp
  refine ⟨scalarStore_misaligned hi hp, fun aligned pl checked => ?_⟩
  have check : scalarWriteCheck (noteRunning s h) slot h (effective h o.a o.off) o.ty.bytes true = .ok pl := by
    unfold scalarWriteCheck alignCheck
    exact if_pos (c := (effective h o.a o.off).toNat % o.ty.bytes = 0) aligned ▸ checked
  refine ⟨?_, fun core v pinned => ?_, fun wide => ?_⟩
  · refine storesAs_performed (exec_st c o s) hi (l := (noteRunning s h).pairs) rfl rfl ?_
    simp only [unpoisoned_clean hp, check]
    rfl
  · obtain ⟨l, rfl⟩ := corePin_eq pinned
    refine storesAs_performed (exec_stl c o s) hi (l := l) rfl rfl ?_
    simp only [unpoisoned_clean hp, check, core, beq_self_eq_true, if_true, pinned]
    rfl
  · have unpinned : (if o.scope == .core then corePin (noteRunning s h) slot pl else none) = none := by
      split
      · rename_i core
        exact wide.resolve_left (not_not_intro (beq_iff_eq.mp core))
      · rfl
    refine ⟨fun v held => ?_, fun free => ?_⟩
    · refine ⟨_, keeps_of (exec_stl c o s) hi (by decide) (v := v) ?_, ?_, fun k _ => rfl, rfl⟩
      · simp only [unpoisoned_clean hp, check, unpinned, held]
      · exact (hart_of_releaseHeld held slot).trans ((noteRunning_hart s h slot).trans hi.hart)
    · obtain ⟨harts, mem⟩ := endPins_harts_mem (performStore (noteRunning s h) slot false h.ids.part pl (effective h o.a o.off)
        (leBytes o.ty.bytes (h.getS o.b).toNat)) slot
      refine storesAs_performed (exec_stl c o s) hi (l := (noteRunning s h).pairs) harts mem ?_
      simp only [unpoisoned_clean hp, check, unpinned, free]
      rfl

end Sys2Proof.Machine
end

section
/-! PROOFS. TRESIZE and TGIVE: the ways of the scratch and the owners of its granules (R217, R220, R301, R302). -/

namespace Sys2Proof.Machine

/-! ## TRESIZE -/

theorem setS_eq (h : Hart) (i : SIdx) (x : Word) : ∃ f p, h.setS i x = { h with regs := { h.regs with s := f }, poison := p } := by
  unfold Hart.setS clearPoison Regs.setS
  split
  · split <;> exact ⟨_, _, rfl⟩
  · split <;> exact ⟨_, _, rfl⟩

/-- A table cut off at a key. -/
theorem tblGetD_below {α : Type} (t : Tbl α) (n k : Nat) (d : α) :
    tblGetD (t.filter fun e => decide (e.1 < n)) k d = if k < n then tblGetD t k d else d := by
  unfold tblGetD
  by_cases below : k < n
  · rw [if_pos below, tblGet_filter fun _ => decide_eq_true below]
  · rw [if_neg below, tblGet_filter_none fun _ => decide_eq_false below]
    rfl

theorem scratchByte_resize (h : Hart) (n b : Nat) :
    (h.resize n).scratchByte b = if b < min n h.ids.ways * wayBytes then h.scratchByte b else 0 := tblGetD_below _ _ _ _

theorem granule_resize (h : Hart) (n x : Nat) :
    (h.resize n).granule x = if x < min n h.ids.ways * (wayBytes / granuleBytes) then h.granule x else {} := tblGetD_below _ _ _ _

theorem mem_scratchPoison_resize (h : Hart) (n w : Nat) :
    w ∈ (h.resize n).scratchPoison ↔ w ∈ h.scratchPoison ∧ w < min n h.ids.ways * wayBytes := by
  unfold Hart.resize
  dsimp only
  split
  · rename_i none
    simp [none]
  · rw [List.mem_filter, decide_eq_true_iff]

/-! ## TGIVE -/

/-- A granule given to the engine, unless it is the engine's already. -/
def Hart.give (h : Hart) (g : Nat) : Hart := if (h.granule g).engine then h else h.setGranule g { engine := true, count := 0 }

theorem give_rest (h : Hart) (g : Nat) : { h.give g with granules := h.granules } = h := by
  unfold Hart.give
  split <;> rfl

theorem granule_give (h : Hart) (g x : Nat) :
    (h.give g).granule x = if x = g ∧ (h.granule x).engine = false then { engine := true, count := 0 } else h.granule x := by
  unfold Hart.give
  by_cases same : x = g
  · subst same
    cases engine : (h.granule x).engine
    · simp [Hart.granule, Hart.setGranule]
    · simp
  · have stands : (h.setGranule g { engine := true, count := 0 }).granule x = h.granule x := by
      simp only [Hart.granule, Hart.setGranule, tblGetD_tblPut_other _ _ _ _ _ same]
    rw [apply_ite (Hart.granule · x), stands, ite_self]
    simp [same]

theorem give_range (h : Hart) (g0 n : Nat) : let g := (List.range n).foldl (fun h k => h.give (g0 + k)) h
    { g with granules := h.granules } = h ∧ ∀ x, g.granule x =
      if g0 ≤ x ∧ x < g0 + n ∧ (h.granule x).engine = false then { engine := true, count := 0 } else h.granule x := by
  induction n with
  | zero => exact ⟨rfl, fun x => (if_neg (by omega)).symm⟩
  | succ n ih =>
    obtain ⟨rest, granules⟩ := ih
    rw [List.range_succ, List.foldl_append, List.foldl_cons, List.foldl_nil]
    generalize (List.range n).foldl (fun h k => h.give (g0 + k)) h = u at rest granules
    have rest' := give_rest u (g0 + n)
    refine ⟨?_, fun x => ?_⟩
    · rw [← rest'] at rest
      exact rest
    · rw [granule_give, granules]
      by_cases last : x = g0 + n
      · simp [last]
      · have inside : x < g0 + (n + 1) ↔ x < g0 + n := by omega
        simp [last, inside]

/-- Settles O38: each form by the traps in their order, and by what it leaves of the ways and of the granules. -/
theorem scratchWaysAndGranules : Obligations.ScratchWaysAndGranules := by
  intro c s slot h hi u
  refine ⟨fun o hp => ⟨fun many => ?_, fun le fits bad => ?_, fun le fits clean k busy => ?_, fun le fits clean free => ?_⟩,
    fun o hp => ⟨fun odd => ?_, fun aligned none => ?_, fun aligned whole some => ⟨fun below => ?_, fun above beyond => ?_,
      fun above inside bad => ?_, fun above inside clean => ?_⟩⟩⟩
  · exact traps_of (exec_tresize c o s) hi ((unpoisoned_clean hp).trans (if_pos many))
  · exact traps_of (exec_tresize c o s) hi (by simp [hp, bad, Nat.not_lt.mpr le, Nat.not_lt.mpr fits, u, poisonTrap, trapRes])
  · exact traps_of (exec_tresize c o s) hi (by simp [hp, clean, busy, Nat.not_lt.mpr le, Nat.not_lt.mpr fits, u])
  · refine ⟨(h.resize (h.usrc o.b).toNat).setS o.d (BitVec.ofNat 64 h.ids.ways), completesIn_of (exec_tresize c o s) hi ?_ (hart_setHart_same _ _ _), ?_⟩
    · simp [hp, clean, free, Nat.not_lt.mpr le, Nat.not_lt.mpr fits, u, doneWith]
    · refine ⟨by rw [hart_setS_ids, Hart.resize], fun nonzero => ?_, fun r other => ?_, fun b => ?_, fun w => ?_, fun x => ?_, ?_⟩
      · rw [getS_setS_same, if_neg nonzero]
      · exact getS_setS_other _ _ _ _ other
      · rw [Hart.scratchByte, hart_setS_scratch]
        exact scratchByte_resize h _ b
      · rw [hart_setS_scratchPoison]
        exact mem_scratchPoison_resize h _ w
      · rw [Hart.granule, hart_setS_granules]
        exact granule_resize h _ x
      · obtain ⟨f, p, eq⟩ := setS_eq (h.resize (h.usrc o.b).toNat) o.d (BitVec.ofNat 64 h.ids.ways)
        rw [eq]
        rfl
  · exact traps_of (exec_tgive c o s) hi (by simp only [unpoisoned_clean hp, if_pos odd])
  · refine completesIn_of (exec_tgive c o s) hi ?_ ((noteRunning_hart s h slot).trans hi.hart)
    simp [hp, aligned, none]
  · exact traps_of (exec_tgive c o s) hi (by simp [hp, aligned, whole, some, below])
  · exact traps_of (exec_tgive c o s) hi (by simp [hp, aligned, whole, some, Nat.not_lt.mpr above, beyond])
  · exact traps_of (exec_tgive c o s) hi
      (by simp [hp, aligned, whole, some, Nat.not_lt.mpr above, Nat.not_lt.mpr inside, bad, poisonTrap, trapRes])
  · refine ⟨_, completes_of (exec_tgive c o s) hi ?_, give_range h _ _⟩
    simp [hp, aligned, whole, some, Nat.not_lt.mpr above, Nat.not_lt.mpr inside, clean]
    rfl

end Sys2Proof.Machine
end

section
/-! PROOFS. HALT in a hart of which a pin ends already, by a release that waits for the transfer of another hart: the
statement about waits takes such a state in, and that pin stands on (R214, R319). -/

namespace Sys2Proof.Machine

/-- The hart in slot 0 of `crossedRelease` has the turn. -/
def crossedHalt : State := { crossedRelease with turn := some 0 }

theorem issues_crossedHalt : Issues 0x44 {} crossedHalt 0 Hart.initial where
  turn := rfl
  hart := rfl
  lamp := nofun
  guard := by decide

/-- What HALT makes of it. -/
def crossedHalted : State :=
  endTurn (releasePins (boundSiblingPins .both (crossedHalt.setHart 0 { Hart.initial with run := .halting }) 0) 0)

theorem exec_halt_crossedHalt : exec (.halt {}) crossedHalt = .next crossedHalted := rfl

/-- HALT gives the pin no new release (`pendPins`), and what it waits for is not over. -/
theorem awaitingPin_stands_crossedHalted : awaitingPin ∈ (crossedHalted.pair (pairOf 0)).pins := by decide

/-- Refutes O13: by `PinsRelease` every pin of the halting hart is gone where the hart has no transfer in flight and nothing
under a pin of its sibling. A pin that a whole release is ending already keeps what that release waits for; where that is
a transfer of another hart (`crossedHalt`), the pin stands. -/
theorem not_waitsAndHalt : ¬ Obligations.WaitsAndHalt := by
  intro waits
  obtain ⟨-, -, halts, -⟩ := waits {} crossedHalt 0 Hart.initial
  obtain ⟨t, ht, -, -, -, released⟩ := halts issues_crossedHalt
  obtain rfl := Host.Outcome.next.inj (exec_halt_crossedHalt.symm.trans ht)
  obtain ⟨-, gone⟩ := released rfl
  exact gone (by decide) (by decide) awaitingPin awaitingPin_stands_crossedHalted rfl

end Sys2Proof.Machine
end

section
/-! PROOFS. The counts of scratch granules (R220), the records of HOME 01 pages (R222) and what an access touches
(R227, R367). -/

namespace Sys2Proof.Machine

/-! ## Granules -/

theorem granule_setGranule (h : Hart) (g : Nat) (v : Granule) (x : Nat) :
    (h.setGranule g v).granule x = if x = g then v else h.granule x := by
  split
  · subst_vars
    exact tblGetD_tblPut_same _ _ _ _
  · rename_i other
    exact tblGetD_tblPut_other _ _ _ _ _ other

theorem raiseCounts_rest (h : Hart) (gs : List Nat) : { h.raiseCounts gs with granules := h.granules } = h :=
  List.foldlRecOn gs _ (motive := fun y : Hart => { y with granules := h.granules } = h) rfl fun _ hy _ _ => hy

theorem granule_raiseCounts {gs : List Nat} (nodup : gs.Nodup) (h : Hart) (x : Nat) :
    (h.raiseCounts gs).granule x = if x ∈ gs then { h.granule x with count := (h.granule x).count + 1 } else h.granule x := by
  induction gs generalizing h with
  | nil => simp [Hart.raiseCounts]
  | cons g gs ih =>
    obtain ⟨fresh, nodup⟩ := List.nodup_cons.mp nodup
    refine (ih nodup _).trans ?_
    rw [granule_setGranule]
    by_cases same : x = g
    · subst same
      simp [fresh]
    · simp [same]

theorem nodup_coveredGranules (o n : Nat) : (coveredGranules o n).Nodup :=
  List.Nodup.map (fun _ _ => Nat.add_left_cancel) List.nodup_range

theorem nodup_acceptedGranules (s : State) (slot : Nat) {gs : List Nat} (nodup : gs.Nodup) : (acceptedGranules s slot gs).Nodup := by
  unfold acceptedGranules
  split
  · exact nodup.filter _
  · exact List.nodup_nil

/-! ## HOME 01 pages -/

theorem pair_setPair_same (s : State) (k : Nat) (p : Pair) : (s.setPair k p).pair k = p := tblGetD_tblPut_same _ _ _ _

section
variable {s : State} {part va pa : Nat} {pte : Word} (home : pteHome pte = 1)
include home

theorem meetPage_met (met : ∃ x ∈ (s.pair (pteAux pte % 1024)).area, x.part = part ∧ x.va = va / 65536) :
    meetPage s part va pa pte = s := by
  simp [meetPage, home, met]

/-- A page met for the first time is served by the pinned area where the area takes it. -/
theorem inPinnedArea_meetPage_unmet (unmet : ∀ x ∈ (s.pair (pteAux pte % 1024)).area, ¬(x.part = part ∧ x.va = va / 65536)) :
    inPinnedArea (meetPage s part va pa pte) part va pte = (s.pair (pteAux pte % 1024)).takesPage (pa / 65536) := by
  have first : ((s.pair (pteAux pte % 1024)).area.any fun x => x.part == part && x.va == va / 65536) = false := by simpa using unmet
  have old : ((s.pair (pteAux pte % 1024)).area.any fun x => x.part == part && x.va == va / 65536 && x.pinned) = false := by
    simp only [List.any_eq_false, Bool.and_eq_true, beq_iff_eq]
    exact fun x hx same => unmet x hx same.1
  simp only [meetPage, home, first, inPinnedArea, bne_self_eq_false, Bool.false_eq_true, if_false, beq_self_eq_true, Bool.true_and,
    pair_setPair_same, List.any_append, old, Bool.false_or, List.any_cons, List.any_nil, Bool.or_false]

end

theorem takesPage_iff (p : Pair) (page : Nat) : p.takesPage page = true ↔
    3 ≤ p.cacheWays ∧ (page ∈ ((p.area.filter AreaPage.pinned).map AreaPage.page).eraseDups ∨
      ((p.area.filter AreaPage.pinned).map AreaPage.page).eraseDups.length < 4) := by
  simp only [Pair.takesPage, Bool.and_eq_true, Bool.or_eq_true, decide_eq_true_eq, List.contains_iff_mem]

/-! ## What the line requests of a TCAST touch -/

/-- Between `s` and `t` only the translations held, the combining windows, the tracked pages and the records of the core
pairs may differ. -/
def TouchesOnly (s t : State) : Prop := ∃ a b c d, t = { s with tlb := a, combining := b, tracked := c, pairs := d }

theorem touchesOnly_refl (s : State) : TouchesOnly s s := ⟨_, _, _, _, rfl⟩

theorem touchesOnly_trans {s t u : State} (st : TouchesOnly s t) (tu : TouchesOnly t u) : TouchesOnly s u := by
  obtain ⟨a, b, c, d, rfl⟩ := st
  obtain ⟨a', b', c', d', rfl⟩ := tu
  exact ⟨a', b', c', d', rfl⟩

theorem touchesOnly_foldl {α : Type} {f : State → α → State} (hf : ∀ s a, TouchesOnly s (f s a)) (l : List α) (s : State) :
    TouchesOnly s (l.foldl f s) :=
  List.foldlRecOn l f (touchesOnly_refl s) fun _ ht a _ => touchesOnly_trans ht (hf _ a)

theorem touchesOnly_noteTouch (s : State) (slot part va pa n : Nat) (pte : Word) (write : Bool) :
    TouchesOnly s (noteTouch s slot part va pa n pte write) := by
  have words : TouchesOnly s (if pteAtom pte then touchWords s pa n else s) := by
    split
    · obtain ⟨b, e⟩ := touchWords_eq s pa n
      exact ⟨s.tlb, b, s.tracked, s.pairs, e⟩
    · exact touchesOnly_refl s
  unfold noteTouch
  dsimp only
  generalize (if pteAtom pte then touchWords s pa n else s) = t at words ⊢
  have met : TouchesOnly s (meetPage t part va pa pte) := by
    obtain ⟨d, e⟩ := meetPage_eq t part va pa pte
    exact touchesOnly_trans words ⟨t.tlb, t.combining, t.tracked, d, e⟩
  split
  · obtain ⟨c, e⟩ := countRepl_eq (meetPage t part va pa pte) (dieOf slot) (leafPage pte) pa write
    exact touchesOnly_trans met ⟨_, _, c, _, e⟩
  · exact met

theorem touchesOnly_countRequests (s : State) (slot part : Nat) (segs : List Segment) : TouchesOnly s (countRequests s slot part segs) :=
  touchesOnly_foldl (fun _ _ => touchesOnly_foldl (fun _ _ => touchesOnly_noteTouch _ _ _ _ _ _ _ _) _ _) segs s

theorem touchesOnly_rememberRows (s : State) (slot part : Nat) (rows : List CopyRow) : TouchesOnly s (rememberRows s slot part rows) := by
  refine touchesOnly_foldl (fun t g => ?_) _ s
  obtain ⟨a, e⟩ := rememberAt_eq t slot part g.va g.pa g.pte
  exact ⟨a, t.combining, t.tracked, t.pairs, e⟩

end Sys2Proof.Machine
end

section
/-! PROOFS. The merge windows of a line (R233, R304, R322): how line requests join them, which of them the slice acts on,
what it reads and what it sends, and the delivery of a line (R232). -/

namespace Sys2Proof.Machine

/-! ## Requests join windows -/

/-- `w'` is the window `w` after more requests have joined it, which a closed one takes none of. -/
def MergeWindow.Grows (w w' : MergeWindow) : Prop :=
  ∃ more, w' = { w with requests := w.requests ++ more } ∧ (w.closed = true → more = [])

theorem grows_refl (w : MergeWindow) : w.Grows w := ⟨[], by simp, fun _ => rfl⟩

theorem grows_trans {u v w : MergeWindow} (uv : u.Grows v) (vw : v.Grows w) : u.Grows w := by
  obtain ⟨l, rfl, hl⟩ := uv
  obtain ⟨m, rfl, hm⟩ := vw
  exact ⟨l ++ m, by simp, fun closed => by simp [hl closed, hm closed]⟩

theorem eq_of_grows_closed {w w' : MergeWindow} (grows : w.Grows w') (closed : w.closed = true) : w' = w := by
  obtain ⟨more, rfl, none⟩ := grows
  simp [none closed]

/-- Every window of `l` stands in `l'`, grown. -/
def AllGrow (l l' : List MergeWindow) : Prop := ∀ w ∈ l, ∃ w' ∈ l', w.Grows w'

theorem allGrow_refl (l : List MergeWindow) : AllGrow l l := fun w hw => ⟨w, hw, grows_refl w⟩

theorem allGrow_append (l m : List MergeWindow) : AllGrow l (l ++ m) := fun w hw => ⟨w, List.mem_append_left m hw, grows_refl w⟩

theorem allGrow_trans {l m n : List MergeWindow} (lm : AllGrow l m) (mn : AllGrow m n) : AllGrow l n := by
  intro w hw
  obtain ⟨v, hv, wv⟩ := lm w hw
  obtain ⟨u, hu, vu⟩ := mn v hv
  exact ⟨u, hu, grows_trans wv vu⟩

theorem allGrow_requestLine (l : List MergeWindow) (line transfer index : Nat) : AllGrow l (requestLine l line transfer index) := by
  unfold requestLine
  split
  · intro w hw
    refine ⟨_, List.mem_map_of_mem hw, ?_⟩
    split
    · rename_i opens
      exact ⟨_, rfl, fun closed => by simp [opens.2] at closed⟩
    · exact grows_refl w
  · exact allGrow_append l _

/-- A request stands in an open window of its line. -/
theorem mem_requestLine (l : List MergeWindow) (line transfer index : Nat) : ∃ w ∈ requestLine l line transfer index,
    w.line = line ∧ w.closed = false ∧ { transfer := transfer, index := index : CastRequest } ∈ w.requests := by
  unfold requestLine
  split
  · rename_i opens
    obtain ⟨w, hw, fits⟩ := List.any_eq_true.mp opens
    have fits : w.line = line ∧ w.closed = false := by simpa using fits
    refine ⟨_, List.mem_map_of_mem hw, ?_⟩
    simp [fits]
  · exact ⟨_, List.mem_append_right l List.mem_cons_self, rfl, rfl, List.mem_cons_self⟩

section
variable (s : State) (part : Nat) (segs : List Segment) (src dest id : Nat) (dests : List CastDest)

theorem allGrow_requestOf (l : List MergeWindow) (i : Nat) : AllGrow l (requestOf s part segs src dest id dests l i) := by
  unfold requestOf
  dsimp only
  split
  · exact allGrow_refl l
  split
  · exact allGrow_refl l
  split
  · exact allGrow_append l _
  · exact allGrow_requestLine _ _ _ _

theorem allGrow_requests (is : List Nat) (l : List MergeWindow) :
    AllGrow l (is.foldl (requestOf s part segs src dest id dests) l) :=
  List.foldlRecOn is _ (allGrow_refl l) fun _ grown i _ => allGrow_trans grown (allGrow_requestOf _ _ _ _ _ _ _ _ i)

/-- What the request for one line has made of the windows has only grown once all requests are made. -/
theorem allGrow_of_request {is : List Nat} {i : Nat} (hi : i ∈ is) (l : List MergeWindow) :
    ∃ l', AllGrow (requestOf s part segs src dest id dests l' i) (is.foldl (requestOf s part segs src dest id dests) l) := by
  obtain ⟨a, b, rfl⟩ := List.append_of_mem hi
  rw [List.foldl_append, List.foldl_cons]
  exact ⟨_, allGrow_requests _ _ _ _ _ _ _ b _⟩

variable {s part segs src dest dests} {i n : Nat} {p : Segment} (hi : i < n)
  (found : segs.find? (fun p => decide (p.va ≤ src + 128 * i) && decide (src + 128 * i < p.va + p.len)) = some p)
include hi found

/-- The request for a line that some destination takes and no pinned area serves joins an open window of the line. -/
theorem requests_merged (served : inPinnedArea s part (src + 128 * i) p.pte = false)
    (taken : ∃ d ∈ dests, d.takes dest i = true) (l : List MergeWindow) :
    ∃ w ∈ (List.range n).foldl (requestOf s part segs src dest id dests) l,
      w.line = lineOf (p.pa + (src + 128 * i - p.va)) ∧ w.closed = false ∧ { transfer := id, index := i : CastRequest } ∈ w.requests := by
  obtain ⟨l', grown⟩ := allGrow_of_request s part segs src dest id dests (List.mem_range.mpr hi) l
  have takers : (dests.filter fun d => d.takes dest i).isEmpty = false := by simpa [List.isEmpty_eq_false_iff] using taken
  simp only [requestOf, found, takers, served, Bool.false_eq_true, if_false] at grown
  obtain ⟨w, hw, line, opens, asked⟩ := mem_requestLine l' (lineOf (p.pa + (src + 128 * i - p.va))) id i
  obtain ⟨w', hw', more, rfl, -⟩ := grown w hw
  exact ⟨_, hw', line, opens, List.mem_append_left more asked⟩

/-- A line that a pinned area serves is read unmerged for each destination that takes it. -/
theorem requests_unmerged (served : inPinnedArea s part (src + 128 * i) p.pte = true) {d : CastDest} (hd : d ∈ dests)
    (takes : d.takes dest i = true) (l : List MergeWindow) :
    { line := lineOf (p.pa + (src + 128 * i - p.va)), closed := true
      requests := [{ transfer := id, index := i, only := some d.slot }] : MergeWindow } ∈
        (List.range n).foldl (requestOf s part segs src dest id dests) l := by
  obtain ⟨l', grown⟩ := allGrow_of_request s part segs src dest id dests (List.mem_range.mpr hi) l
  have taker : d ∈ dests.filter fun d => d.takes dest i := List.mem_filter.mpr ⟨hd, takes⟩
  have takers : (dests.filter fun d => d.takes dest i).isEmpty = false := List.isEmpty_eq_false_iff.mpr (List.ne_nil_of_mem taker)
  simp only [requestOf, found, takers, served, Bool.false_eq_true, if_false, if_true] at grown
  obtain ⟨w', hw', grows⟩ := grown _ (List.mem_append_right l' (List.mem_map_of_mem taker))
  obtain rfl := eq_of_grows_closed grows rfl
  exact hw'

end

/-! ## The window at which the slice acts -/

theorem nextWindow_of_some {l : List MergeWindow} {line : Nat} {pinned : Bool} {w : MergeWindow} (next : nextWindow l line pinned = some w) :
    w ∈ l ∧ w.line = line ∧ (w.closed = false ∨ w.closed = true ∧ (w.bound.isSome = true ∨ pinned = false)) ∧
      ((∃ v ∈ l, v.line = line ∧ v.closed = true ∧ (v.bound.isSome = true ∨ pinned = false)) → w.closed = true) := by
  unfold nextWindow at next
  split at next
  · rename_i v found
    obtain rfl := Option.some.inj next
    have free := List.find?_some found
    simp only [Bool.and_eq_true, Bool.or_eq_true, beq_iff_eq, Bool.not_eq_true'] at free
    obtain ⟨⟨line, closed⟩, waits⟩ := free
    exact ⟨List.mem_of_find?_eq_some found, line, .inr ⟨closed, waits⟩, fun _ => closed⟩
  · rename_i none
    have opens := List.find?_some next
    simp only [Bool.and_eq_true, beq_iff_eq, Bool.not_eq_true'] at opens
    refine ⟨List.mem_of_find?_eq_some next, opens.1, .inl opens.2, fun ⟨v, hv, line, closed, waits⟩ => ?_⟩
    refine absurd ?_ (List.find?_eq_none.mp none v hv)
    simpa [line, closed] using waits

theorem nextWindow_of_none {l : List MergeWindow} {line : Nat} {pinned : Bool} (next : nextWindow l line pinned = none) :
    ∀ v ∈ l, v.line = line → v.closed = true ∧ v.bound = none ∧ pinned = true := by
  unfold nextWindow at next
  split at next
  · cases next
  · rename_i none
    intro v hv line
    have closed : v.closed = true := by simpa [line] using List.find?_eq_none.mp next v hv
    have waits := List.find?_eq_none.mp none v hv
    simp only [line, closed, beq_self_eq_true, Bool.true_and, Bool.or_eq_true, not_or, Bool.not_eq_true', Bool.not_eq_false] at waits
    exact ⟨closed, by simpa using waits.1, by simpa using waits.2⟩

theorem closeMerge_of_mem {l : List MergeWindow} {w : MergeWindow} (hw : w ∈ l) :
    ∃ a b, l = a ++ w :: b ∧ closeMerge l w = a ++ { w with closed := true } :: b := by
  induction l with
  | nil => cases hw
  | cons v l ih =>
    by_cases same : v = w
    · subst same
      exact ⟨[], l, rfl, by simp [closeMerge]⟩
    · obtain ⟨a, b, rfl, closed⟩ := ih ((List.mem_cons.mp hw).resolve_left (Ne.symm same))
      exact ⟨v :: a, b, rfl, by simp [closeMerge, same, closed]⟩

/-! ## What the slice reads -/

/-- An error of a host link moves the records of the partition and of Sconce, and the errors that hosts have answered. -/
theorem hostLinkError_eq (s : State) (part pa : Nat) :
    ∃ p c e, hostLinkError s part pa = { s with partitions := p, sconce := c, hostErrors := e } := by
  have recorded : ∃ p, recordError s part 6 pa = { s with partitions := p } := by
    unfold recordError
    dsimp only
    split <;> exact ⟨_, rfl⟩
  obtain ⟨p, e⟩ := recorded
  unfold hostLinkError
  rw [e]
  exact ⟨p, _, _, rfl⟩

theorem engineReadLine_eq (s : State) (slot part pa n : Nat) :
    ∃ p c e f, (engineReadLine s slot part pa n).1 = { s with partitions := p, sconce := c, hostErrors := e, fresh := f } := by
  obtain ⟨p, c, e, failed⟩ := hostLinkError_eq s part pa
  unfold engineReadLine
  dsimp only
  rw [failed]
  split
  · split <;> exact ⟨p, c, e, _, rfl⟩
  · exact ⟨_, _, _, _, rfl⟩

theorem engineReadLine_device (s : State) (slot part : Nat) {pa : Nat} (n : Nat) (device : isHostPa pa = false) :
    (engineReadLine s slot part pa n).2.1 = physReadBytes s pa n := by
  simp [engineReadLine, hostReadFails, device]

/-- A whole line is one packet. -/
theorem linePieces_line (line : Nat) : linePieces (line * 128) 128 = [(0, 128)] := by
  have one : lineOf (line * 128 + 128 - 1) - lineOf (line * 128) + 1 = 1 := by
    unfold lineOf
    omega
  have whole : lineOf (line * 128) * 128 = line * 128 := by
    unfold lineOf
    omega
  have next : (lineOf (line * 128) + 1) * 128 = line * 128 + 128 := by rw [Nat.add_mul, whole]
  simp only [linePieces, one, List.range_one, List.map_cons, List.map_nil, Nat.add_zero, whole, next, Nat.max_self, Nat.min_self,
    Nat.sub_self, Nat.add_sub_cancel_left]

theorem engineRead_line (s : State) (slot part line : Nat) : ∃ bad,
    engineRead s slot part (line * 128) 128 =
      ((engineReadLine s slot part (line * 128) 128).1, (engineReadLine s slot part (line * 128) 128).2.1, bad) := by
  unfold engineRead
  rw [linePieces_line]
  exact ⟨_, by simp only [List.foldl_cons, List.foldl_nil, Nat.add_zero, List.nil_append]; rfl⟩

theorem mergeRead_eq (s : State) (w : MergeWindow) :
    ∃ p c e f, (mergeRead s w).1 = { s with partitions := p, sconce := c, hostErrors := e, fresh := f } := by
  unfold mergeRead
  split
  · exact ⟨_, _, _, _, rfl⟩
  · obtain ⟨bad, read⟩ := engineRead_line s 1280 (requestPart s w) w.line
    rw [read]
    exact engineReadLine_eq s 1280 (requestPart s w) (w.line * 128) 128

theorem mergeRead_bound (s : State) {w : MergeWindow} {b : List Byte × List Nat} (bound : w.bound = some b) : (mergeRead s w).2 = b := by
  simp [mergeRead, bound]

theorem mergeRead_device (s : State) {w : MergeWindow} (unbound : w.bound = none) (device : isHostPa (w.line * 128) = false) :
    (mergeRead s w).2.1 = physReadBytes s (w.line * 128) 128 := by
  obtain ⟨bad, read⟩ := engineRead_line s 1280 (requestPart s w) w.line
  rw [← engineReadLine_device s 1280 (requestPart s w) 128 device]
  simp only [mergeRead, unbound, read]

/-! ## What the slice sends -/

/-- The destinations of a request of a multicast to window offset `dest`. -/
def CastRequest.reaches (q : CastRequest) (dest : Nat) (d : CastDest) : Bool :=
  d.takes dest q.index && (q.only.isNone || q.only == some d.slot)

/-- From `s` to `t` only identifiers and the deliveries `new`, all of the same bytes, come in. -/
structure Sends (bs : List Byte) (bad : List Nat) (new : List Delivery) (s t : State) : Prop where
  rest : ∃ i, t = { s with nextId := i, deliveries := s.deliveries ++ new }
  bytes : ∀ x ∈ new, x.bytes = bs ∧ x.poison = bad

theorem sends_none (bs : List Byte) (bad : List Nat) (s : State) : Sends bs bad [] s s := ⟨⟨s.nextId, by simp⟩, nofun⟩

theorem sends_trans {bs : List Byte} {bad : List Nat} {new more : List Delivery} {s t u : State} (st : Sends bs bad new s t)
    (tu : Sends bs bad more t u) : Sends bs bad (new ++ more) s u := by
  obtain ⟨⟨i, rfl⟩, sent⟩ := st
  obtain ⟨⟨j, rfl⟩, sent'⟩ := tu
  exact ⟨⟨j, by simp⟩, fun x hx => (List.mem_append.mp hx).elim (sent x) (sent' x)⟩

/-- The delivery to one destination. -/
def sendLine (q : CastRequest) (dest : Nat) (bs : List Byte) (bad : List Nat) (s : State) (d : CastDest) : State :=
  { s.newId.2 with deliveries := s.deliveries ++ [{ id := s.nextId, transfer := q.transfer, slot := d.slot
                                                    offset := dest + 128 * q.index, bytes := bs, poison := bad }] }

theorem sends_sendLines (q : CastRequest) (dest : Nat) (bs : List Byte) (bad : List Nat) (ds : List CastDest) (s : State) :
    ∃ new, Sends bs bad new s (ds.foldl (sendLine q dest bs bad) s) ∧
      ∀ d ∈ ds, ∃ x ∈ new, x.transfer = q.transfer ∧ x.slot = d.slot ∧ x.offset = dest + 128 * q.index := by
  induction ds generalizing s with
  | nil => exact ⟨[], sends_none bs bad s, nofun⟩
  | cons d ds ih =>
    obtain ⟨new, sent, each⟩ := ih (sendLine q dest bs bad s d)
    have first : Sends bs bad _ s (sendLine q dest bs bad s d) := ⟨⟨_, rfl⟩, fun x hx => by rw [List.mem_singleton.mp hx]; exact ⟨rfl, rfl⟩⟩
    refine ⟨_, sends_trans first sent, fun d' hd => ?_⟩
    obtain rfl | hd := List.mem_cons.mp hd
    · exact ⟨_, List.mem_append_left new List.mem_cons_self, rfl, rfl, rfl⟩
    · obtain ⟨x, hx, fields⟩ := each d' hd
      exact ⟨x, List.mem_append_right _ hx, fields⟩

/-- The multicast that a request serves. -/
def CastRequest.serves (q : CastRequest) (s : State) (src n dest : Nat) (dests : List CastDest) (left : Nat) : Prop :=
  (s.transfers.find? fun t => t.id == q.transfer).map Transfer.work = some (.cast src n dest dests left)

theorem deliverRequest_of_serves {s : State} {q : CastRequest} {src n dest left : Nat} {dests : List CastDest}
    (serves : q.serves s src n dest dests left) (bs : List Byte) (bad : List Nat) :
    deliverRequest s q bs bad = (dests.filter (q.reaches dest)).foldl (sendLine q dest bs bad) s := by
  obtain ⟨t, found, work⟩ := Option.map_eq_some_iff.mp serves
  obtain ⟨id, slot, gang, w, bar, bytes, withdrawn, stale⟩ := t
  obtain rfl : w = .cast src n dest dests left := work
  unfold deliverRequest
  rw [found]
  rfl

theorem deliverRequest_of_not_serves {s : State} {q : CastRequest} (none : ∀ src n dest dests left, ¬q.serves s src n dest dests left)
    (bs : List Byte) (bad : List Nat) : deliverRequest s q bs bad = s := by
  unfold deliverRequest
  split
  · rename_i found
    exact absurd (congrArg (Option.map Transfer.work) found) (none _ _ _ _ _)
  · rfl

/-- The line of a request goes to every destination of its multicast that it reaches. -/
theorem sends_deliverRequest (s : State) (q : CastRequest) (bs : List Byte) (bad : List Nat) :
    ∃ new, Sends bs bad new s (deliverRequest s q bs bad) ∧ ∀ src n dest dests left, q.serves s src n dest dests left →
      ∀ d ∈ dests, q.reaches dest d = true → ∃ x ∈ new, x.transfer = q.transfer ∧ x.slot = d.slot ∧ x.offset = dest + 128 * q.index := by
  by_cases multicast : ∃ src n dest dests left, q.serves s src n dest dests left
  · obtain ⟨src, n, dest, dests, left, serves⟩ := multicast
    obtain ⟨new, sent, each⟩ := sends_sendLines q dest bs bad (dests.filter (q.reaches dest)) s
    refine ⟨new, by rwa [deliverRequest_of_serves serves], fun src' n' dest' dests' left' serves' d hd reached => ?_⟩
    obtain ⟨-, -, rfl, rfl, -⟩ := Work.cast.inj (Option.some.inj (serves.symm.trans serves'))
    exact each d (List.mem_filter.mpr ⟨hd, reached⟩)
  · simp only [not_exists] at multicast
    rw [deliverRequest_of_not_serves multicast]
    exact ⟨[], sends_none bs bad s, fun src n dest dests left serves => absurd serves (multicast src n dest dests left)⟩

theorem sends_deliverRequests (qs : List CastRequest) (s : State) (bs : List Byte) (bad : List Nat) :
    ∃ new, Sends bs bad new s (qs.foldl (fun s q => deliverRequest s q bs bad) s) ∧ ∀ q ∈ qs, ∀ src n dest dests left, q.serves s src n dest dests left →
      ∀ d ∈ dests, q.reaches dest d = true → ∃ x ∈ new, x.transfer = q.transfer ∧ x.slot = d.slot ∧ x.offset = dest + 128 * q.index := by
  induction qs generalizing s with
  | nil => exact ⟨[], sends_none bs bad s, nofun⟩
  | cons q qs ih =>
    obtain ⟨one, first, reached⟩ := sends_deliverRequest s q bs bad
    obtain ⟨new, sent, each⟩ := ih (deliverRequest s q bs bad)
    obtain ⟨i, same⟩ := first.rest
    refine ⟨one ++ new, sends_trans first sent, fun q' hq src n dest dests left work d hd reaches => ?_⟩
    obtain rfl | hq := List.mem_cons.mp hq
    · obtain ⟨x, hx, fields⟩ := reached src n dest dests left work d hd reaches
      exact ⟨x, List.mem_append_left new hx, fields⟩
    · obtain ⟨x, hx, fields⟩ := each q' hq src n dest dests left (by rw [same]; exact work) d hd reaches
      exact ⟨x, List.mem_append_right one hx, fields⟩

/-! ## MERGE_WINDOW_CLOSE -/

section
variable {s : State} {line : Nat}

theorem mergeWindowClose_none (next : nextWindow s.merges line (pinnedElsewhere s none (line * 128) 128).isSome = none) :
    ∃ t, exec (.mergeWindowClose line) s = .next t ∧ t.mem = s.mem ∧ t.deliveries = s.deliveries ∧ t.merges = s.merges := by
  rw [exec_mergeWindowClose]
  simp only [execMergeWindowClose, next]
  refine ⟨_, rfl, ?_⟩
  split <;> exact ⟨rfl, rfl, rfl⟩

variable {w : MergeWindow} (next : nextWindow s.merges line (pinnedElsewhere s none (line * 128) 128).isSome = some w)
include next

theorem mergeWindowClose_pinned {k : Nat} (unbound : w.bound = none) (pin : pinnedElsewhere s none (line * 128) 128 = some k) :
    exec (.mergeWindowClose line) s = .next { noteRetry s k (line * 128) 128 with merges := closeMerge s.merges w } := by
  rw [exec_mergeWindowClose]
  simp only [execMergeWindowClose, next]
  simp only [unbound, pin, Option.isSome_none, Bool.false_eq_true, if_false]

theorem mergeWindowClose_sends (free : w.bound.isSome = true ∨ pinnedElsewhere s none (line * 128) 128 = none) :
    exec (.mergeWindowClose line) s = .next (w.requests.foldl (fun u q => deliverRequest u q (mergeRead s w).2.1 (mergeRead s w).2.2)
      { (mergeRead s w).1 with merges := s.merges.erase w }) := by
  have unheld : (if w.bound.isSome then none else pinnedElsewhere s none (line * 128) 128) = none := by
    split
    · rfl
    · rename_i unbound
      exact free.resolve_left unbound
  rw [exec_mergeWindowClose]
  simp only [execMergeWindowClose, next, unheld]

theorem mergeWindowClose_delivers (free : w.bound.isSome = true ∨ pinnedElsewhere s none (line * 128) 128 = none) :
    ∃ t new, exec (.mergeWindowClose line) s = .next t ∧ t.mem = s.mem ∧
      t.merges = s.merges.erase w ∧ t.deliveries = s.deliveries ++ new ∧
      (∀ x ∈ new, x.bytes = (mergeRead s w).2.1 ∧ x.poison = (mergeRead s w).2.2) ∧
      ∀ q ∈ w.requests, ∀ src n dest dests left, q.serves s src n dest dests left →
        ∀ d ∈ dests, q.reaches dest d = true → ∃ x ∈ new, x.transfer = q.transfer ∧ x.slot = d.slot ∧ x.offset = dest + 128 * q.index := by
  obtain ⟨p, c, e, f, read⟩ := mergeRead_eq s w
  obtain ⟨new, ⟨⟨i, sent⟩, bytes⟩, each⟩ := sends_deliverRequests w.requests { (mergeRead s w).1 with merges := s.merges.erase w }
    (mergeRead s w).2.1 (mergeRead s w).2.2
  refine ⟨_, new, mergeWindowClose_sends next free, ?_⟩
  rw [sent]
  rw [read] at each ⊢
  exact ⟨rfl, rfl, rfl, bytes, each⟩

end

/-! ## TCAST_LINE_DELIVERY -/

theorem tblSet_tblSet {α : Type} (t : Tbl α) (k : Nat) (a b : α) : tblSet (tblSet t k a) k b = tblSet t k b := by
  induction t with
  | nil => simp [tblSet]
  | cons e t ih =>
    obtain ⟨j, x⟩ := e
    by_cases below : k < j
    · simp [tblSet, below]
    · by_cases same : k = j
      · simp [tblSet, same]
      · simp [tblSet, below, same, ih]

theorem setHart_setHart (s : State) (k : Nat) (g h : Hart) : (s.setHart k g).setHart k h = s.setHart k h := by
  simp only [State.setHart, tblSet_tblSet]

/-- A write to a hart's scratch, by whoever makes it: the hart, and notes of words overwritten in part. -/
theorem storeScratchAs_eq {s : State} {slot : Nat} {h : Hart} (hs : s.hart? slot = some h) (key o : Nat) (bs : List Byte) :
    ∃ p w, storeScratchAs s key slot o bs = { s.setHart slot (h.scratched o bs p) with overwritten := w } := by
  have written : s.modHart slot (fun h => h.writeScratch o bs) = s.setHart slot (h.writeScratch o bs) := modHart_eq_setHart hs _
  have stands := hart_setHart_same s slot (h.writeScratch o bs)
  have unchanged : ∃ p w, s.setHart slot (h.writeScratch o bs) = { s.setHart slot (h.scratched o bs p) with overwritten := w } :=
    ⟨(h.writeScratch o bs).scratchPoison, s.overwritten, rfl⟩
  unfold storeScratchAs
  simp only [written, stands, Option.map_some]
  split
  · exact unchanged
  · exact unchanged
  · rename_i l _ hl
    rw [modHart_eq_setHart stands, setHart_setHart]
    exact ⟨_, _, rfl⟩

theorem writeScratchPoison_eq {s : State} {slot : Nat} {h : Hart} (hs : s.hart? slot = some h) (key o : Nat) (bs : List Byte)
    (bad : List Nat) : ∃ p w, writeScratchPoison s key slot o bs bad = { s.setHart slot (h.scratched o bs p) with overwritten := w } := by
  obtain ⟨p, w, stored⟩ := storeScratchAs_eq hs key o bs
  have poisoned : ∃ p', bad.foldl (fun h k => h.poisonScratch (o + k)) (h.scratched o bs p) = h.scratched o bs p' :=
    List.foldlRecOn bad _ (motive := fun y : Hart => ∃ p', y = h.scratched o bs p') ⟨p, rfl⟩ fun y hy k _ => by
      obtain ⟨p', rfl⟩ := hy
      exact ⟨_, rfl⟩
  obtain ⟨p', poisoned⟩ := poisoned
  have stands : State.hart? { s.setHart slot (h.scratched o bs p) with overwritten := w } slot = some (h.scratched o bs p) :=
    hart_setHart_same s slot _
  refine ⟨p', w, ?_⟩
  rw [writeScratchPoison, stored, modHart_eq_setHart stands, poisoned]
  simp only [State.setHart, tblSet_tblSet]

theorem scratchByte_scratched_inside (h : Hart) (o : Nat) (bs : List Byte) (p : List Nat) {k : Nat} (hk : k < bs.length) :
    (h.scratched o bs p).scratchByte (o + k) = bs[k] := by
  rw [scratchByte_scratched, if_pos (by omega), Nat.add_sub_cancel_left, listGetD_eq_getElem bs hk]

theorem scratchByte_scratched_outside (h : Hart) {o : Nat} {bs : List Byte} (p : List Nat) {b : Nat} (outside : b < o ∨ o + bs.length ≤ b) :
    (h.scratched o bs p).scratchByte b = h.scratchByte b := by
  rw [scratchByte_scratched, if_neg (by omega)]

theorem tcastLineDelivery_delivers {s : State} {id : Nat} {d : Delivery} {h : Hart}
    (found : s.deliveries.find? (fun d => d.id == id) = some d) (hs : s.hart? d.slot = some h) :
    ∃ p w, exec (.tcastLineDelivery id) s = .next { s.setHart d.slot (h.scratched d.offset d.bytes p) with
      overwritten := w, deliveries := s.deliveries.filter fun x => x.id != id
      transfers := s.transfers.map fun t => if t.id = d.transfer then t.delivered else t } := by
  obtain ⟨p, w, written⟩ := writeScratchPoison_eq hs (engineKey d.slot) d.offset d.bytes
    (if s.mearilFailed.contains (d.slot / 2) then List.range d.bytes.length else d.poison)
  refine ⟨p, w, ?_⟩
  rw [exec_tcastLineDelivery]
  simp only [execTcastLineDelivery, found, written]
  rfl

end Sys2Proof.Machine
end

section
/-! PROOFS. TCAST (R304): its destinations, the counts that it raises, and the state in which its transfer has started. -/

namespace Sys2Proof.Machine

/-! ## The counts at the destinations -/

/-- The accepted granules of each destination count one transfer more. -/
def raiseDests (dests : List CastDest) (s : State) : State :=
  dests.foldl (fun s d => s.modHart d.slot fun y => y.raiseCounts d.granules) s

theorem modHart_eq (s : State) (k : Nat) (f : Hart → Hart) : ∃ l, s.modHart k f = { s with harts := l } := by
  unfold State.modHart
  split <;> exact ⟨_, rfl⟩

theorem raiseDests_eq (dests : List CastDest) (s : State) : ∃ l, raiseDests dests s = { s with harts := l } := by
  refine List.foldlRecOn dests _ (motive := fun t : State => ∃ l, t = { s with harts := l }) ⟨_, rfl⟩ fun t ht d _ => ?_
  obtain ⟨l, rfl⟩ := ht
  obtain ⟨l', e⟩ := modHart_eq { s with harts := l } d.slot fun y => y.raiseCounts d.granules
  exact ⟨l', e⟩

/-- A hart keeps everything but its granules. -/
theorem hart_raiseDests (dests : List CastDest) {s : State} {k : Nat} {h : Hart} (hs : s.hart? k = some h) :
    ∃ y, (raiseDests dests s).hart? k = some y ∧ { y with granules := h.granules } = h := by
  refine List.foldlRecOn dests _ (motive := fun t : State => ∃ y, t.hart? k = some y ∧ { y with granules := h.granules } = h)
    ⟨h, hs, rfl⟩ fun t ht d _ => ?_
  obtain ⟨y, stands, rest⟩ := ht
  by_cases same : k = d.slot
  · subst same
    exact ⟨_, hart_modHart_same stands _, (congrArg (fun y : Hart => { y with granules := h.granules }) (raiseCounts_rest y d.granules)).trans rest⟩
  · exact ⟨y, (hart_modHart_other t d.slot k _ same).trans stands, rest⟩

theorem hart_raiseDests_other {dests : List CastDest} {k : Nat} (none : k ∉ dests.map CastDest.slot) (s : State) :
    (raiseDests dests s).hart? k = s.hart? k := by
  refine List.foldlRecOn dests _ (motive := fun t : State => t.hart? k = s.hart? k) rfl fun t ht d hd => ?_
  exact (hart_modHart_other t d.slot k _ fun same => none (same ▸ List.mem_map_of_mem hd)).trans ht

/-- Each of several slots raises the counts of its own granules. -/
theorem hart_raiseDests_mem {dests : List CastDest} (slots : (dests.map CastDest.slot).Nodup) {d : CastDest} (hd : d ∈ dests)
    {s : State} {z : Hart} (hs : s.hart? d.slot = some z) : (raiseDests dests s).hart? d.slot = some (z.raiseCounts d.granules) := by
  induction dests generalizing s with
  | nil => cases hd
  | cons e dests ih =>
    obtain ⟨fresh, slots⟩ := List.nodup_cons.mp slots
    change (raiseDests dests (s.modHart e.slot fun y => y.raiseCounts e.granules)).hart? d.slot = _
    obtain rfl | hd := List.mem_cons.mp hd
    · exact (hart_raiseDests_other fresh _).trans (hart_modHart_same hs _)
    · have other : d.slot ≠ e.slot := fun same => fresh (same ▸ List.mem_map_of_mem hd)
      exact ih slots hd ((hart_modHart_other _ _ _ _ other).trans hs)

/-! ## The destinations -/

/-- The destination for hart `k` of the gang: the slot where it stands with the granules of the range that accept, or none. -/
def castDest (u : State) (slot gang : Nat) (gs : List Nat) (k : Nat) : CastDest :=
  match slotOfHart u gang k with
  | some d => { slot := d, granules := acceptedGranules u d gs }
  | none => { slot := slot, granules := [] }

theorem castDest_eq_elim (u : State) (slot gang : Nat) (gs : List Nat) (k : Nat) : castDest u slot gang gs k =
    (slotOfHart u gang k).elim { slot := slot, granules := [] } fun d => { slot := d, granules := acceptedGranules u d gs } := by
  unfold castDest
  cases slotOfHart u gang k <;> rfl

theorem nodup_castDest (u : State) (slot gang : Nat) {gs : List Nat} (nodup : gs.Nodup) (k : Nat) :
    (castDest u slot gang gs k).granules.Nodup := by
  unfold castDest
  split
  · exact nodup_acceptedGranules u _ nodup
  · exact List.nodup_nil

/-! ## The transfer starts -/

/-- The state in which a TCAST has met the pages of its source and holds their translations (R99, R222, R227). -/
def castMet (u : State) (slot : Nat) (h : Hart) (segs : List Segment) (dest : Nat) : State :=
  rememberRows (countRequests u slot h.ids.part segs) slot h.ids.part [{ scratch := dest, segs := segs }]

/-- The transfer of a TCAST. -/
def castTransfer (u : State) (slot : Nat) (h : Hart) (o : TcastForm) (dest : Nat) (dests : List CastDest) (left : Nat) : Transfer :=
  { id := u.nextId, slot := slot, gang := h.ids.gang, work := .cast (h.getS o.a).toNat o.lines.toNat dest dests left
    bar := if o.ben then some o.bar else none, bytes := 128 * left }

/-- The state in which the transfer has started and its line requests have entered the merge windows. -/
def castRequested (u : State) (slot : Nat) (h : Hart) (o : TcastForm) (segs : List Segment) (dest : Nat) (dests : List CastDest)
    (left : Nat) : State :=
  let v := castMet u slot h segs dest
  let w := { v.newId.2 with transfers := v.transfers ++ [castTransfer v slot h o dest dests left] }
  { w with merges := (List.range o.lines.toNat).foldl (requestOf w h.ids.part segs (h.getS o.a).toNat dest v.nextId dests) w.merges }

/-- The state in which a TCAST completes. -/
def castStarted (u : State) (slot : Nat) (h : Hart) (o : TcastForm) (segs : List Segment) (dest : Nat) (dests : List CastDest)
    (left refused : Nat) : State :=
  (raiseDests dests (castRequested u slot h o segs dest dests left)).modHart slot fun y => y.setS o.d (BitVec.ofNat 64 refused)

theorem touchesOnly_castMet (u : State) (slot : Nat) (h : Hart) (segs : List Segment) (dest : Nat) :
    TouchesOnly u (castMet u slot h segs dest) :=
  touchesOnly_trans (touchesOnly_countRequests u slot h.ids.part segs) (touchesOnly_rememberRows _ _ _ _)

theorem inPinnedArea_of_pairs {s t : State} (e : t.pairs = s.pairs) : inPinnedArea t = inPinnedArea s := by
  funext part va pte
  simp only [inPinnedArea, State.pair, e]

theorem requestOf_of_pairs {s t : State} (e : t.pairs = s.pairs) : requestOf t = requestOf s := by
  funext part segs src dest id dests l i
  simp only [requestOf, inPinnedArea_of_pairs e]

/-- What holds of the state `v` in which a TCAST completes, and of its hart, which is `y` but for its answer. -/
structure CastStarts (u : State) (slot : Nat) (h : Hart) (o : TcastForm) (segs : List Segment) (dest : Nat) (dests : List CastDest)
    (left refused : Nat) (v : State) (y : Hart) : Prop where
  mem : v.mem = u.mem
  transfers : v.transfers = u.transfers ++ [castTransfer u slot h o dest dests left]
  merges : v.merges = (List.range o.lines.toNat).foldl (requestOf v h.ids.part segs (h.getS o.a).toNat dest u.nextId dests) u.merges
  hart : v.hart? slot = some (y.setS o.d (BitVec.ofNat 64 refused))
  rest : { y with granules := h.granules } = h
  /-- a destination that is there has raised its counts -/
  granules : (dests.map CastDest.slot).Nodup → ∀ d ∈ dests, d.granules.Nodup → ∀ z, u.hart? d.slot = some z →
    ∃ z', v.hart? d.slot = some z' ∧ ∀ x, z'.granule x =
      if x ∈ d.granules then { z.granule x with count := (z.granule x).count + 1 } else z.granule x

section
variable (u : State) (slot : Nat) (h : Hart) (o : TcastForm) (segs : List Segment) (dest : Nat) (dests : List CastDest) (left refused : Nat)

theorem castRequested_fields : let t := castRequested u slot h o segs dest dests left
    t.mem = u.mem ∧ t.harts = u.harts ∧ t.transfers = u.transfers ++ [castTransfer u slot h o dest dests left] ∧
      t.merges = (List.range o.lines.toNat).foldl (requestOf t h.ids.part segs (h.getS o.a).toNat dest u.nextId dests) u.merges := by
  obtain ⟨a, b, c, d, met⟩ := touchesOnly_castMet u slot h segs dest
  unfold castRequested
  rw [met]
  exact ⟨rfl, rfl, rfl, rfl⟩

theorem hart_castRequested (k : Nat) : (castRequested u slot h o segs dest dests left).hart? k = u.hart? k :=
  congrArg (tblGet · k) (castRequested_fields u slot h o segs dest dests left).2.1

/-- The state in which a TCAST completes differs in its harts alone from that in which its requests are made. -/
theorem castStarted_eq :
    ∃ l, castStarted u slot h o segs dest dests left refused = { castRequested u slot h o segs dest dests left with harts := l } := by
  obtain ⟨l, harts⟩ := raiseDests_eq dests (castRequested u slot h o segs dest dests left)
  obtain ⟨l', answered⟩ := modHart_eq (raiseDests dests (castRequested u slot h o segs dest dests left)) slot
    fun y => y.setS o.d (BitVec.ofNat 64 refused)
  exact ⟨l', by rw [castStarted, answered, harts]⟩

variable {u slot h}

theorem castStarts_castStarted (hs : u.hart? slot = some h) : ∃ y,
    CastStarts u slot h o segs dest dests left refused (castStarted u slot h o segs dest dests left refused) y := by
  have requested := hart_castRequested u slot h o segs dest dests left
  obtain ⟨mem, -, transfers, merges⟩ := castRequested_fields u slot h o segs dest dests left
  obtain ⟨l, started⟩ := castStarted_eq u slot h o segs dest dests left refused
  obtain ⟨y, raised, rest⟩ := hart_raiseDests dests ((requested slot).trans hs)
  refine ⟨y, by rw [started]; exact mem, by rw [started]; exact transfers, by rw [started]; exact merges,
    hart_modHart_same raised _, rest, fun slots d hd nodup z hz => ?_⟩
  have raised := hart_raiseDests_mem slots hd ((requested d.slot).trans hz)
  by_cases own : d.slot = slot
  · subst own
    refine ⟨_, hart_modHart_same raised _, fun x => ?_⟩
    rw [Hart.granule, hart_setS_granules]
    exact granule_raiseCounts nodup z x
  · exact ⟨_, (hart_modHart_other _ _ _ _ own).trans raised, granule_raiseCounts nodup z⟩

end

/-! ## TCAST -/

/-- The granules that the destination range of a TCAST covers. -/
def castGranules (h : Hart) (o : TcastForm) : List Nat := coveredGranules ((h.getS o.b).toNat - scratchBase) (128 * o.lines.toNat)

/-- The destinations that the mask of a TCAST names. -/
def castNamed (u : State) (slot : Nat) (h : Hart) (o : TcastForm) : List CastDest :=
  ((List.range h.ids.gsize).filter fun k => (h.getM o.m).getLsbD k).map (castDest u slot h.ids.gang (castGranules h o))

/-- Those that accept some granule. -/
def castDests (u : State) (slot : Nat) (h : Hart) (o : TcastForm) : List CastDest :=
  (castNamed u slot h o).filter fun d => !d.granules.isEmpty

theorem nodup_castDests {u : State} {slot : Nat} {h : Hart} {o : TcastForm} {d : CastDest} (hd : d ∈ castDests u slot h o) :
    d.granules.Nodup := by
  obtain ⟨k, -, rfl⟩ := List.mem_map.mp (List.mem_of_mem_filter hd)
  exact nodup_castDest u slot h.ids.gang (nodup_coveredGranules _ _) k

/-- The number of granules of a range that destinations have refused. -/
def refusedGranules (gs : List Nat) (named : List CastDest) : Nat := (named.map fun d => gs.length - d.granules.length).foldl (fun a b => a + b) 0

/-- The line deliveries that a multicast makes. -/
def deliveriesOf (n dest : Nat) (dests : List CastDest) : Nat :=
  ((List.range n).map fun i => (dests.filter fun d => d.takes dest i).length).foldl (fun a b => a + b) 0

/-- The checks of a TCAST pass (R304): its source is the stretches `segs`, and no destination has a granule with fifteen
transfers in flight. -/
structure CastPasses (u : State) (slot : Nat) (h : Hart) (o : TcastForm) (segs : List Segment) : Prop where
  source : (h.getS o.a).toNat % 128 = 0
  target : (h.getS o.b).toNat % 128 = 0
  clear : touchesWindow (h.getS o.a).toNat (128 * o.lines.toNat) = false
  above : scratchBase ≤ (h.getS o.b).toNat
  inside : (h.getS o.b).toNat + 128 * o.lines.toNat ≤ scratchBase + 15 * wayBytes
  mapped : memorySide u slot h (h.getS o.a).toNat (128 * o.lines.toNat) false = .ok segs
  room : ∀ d ∈ castDests u slot h o, ∀ y, u.hart? d.slot = some y → y.countFull d.granules = false

/-- A TCAST whose checks pass starts its transfer and completes (R304). -/
theorem tcast_completes {c : Ctl} {o : TcastForm} {s : State} {slot : Nat} {h : Hart} {segs : List Segment} (hi : Issues 0xC9 c s slot h)
    (hp : h.poisoned [.s o.a, .s o.b, .bits o.m 0 h.ids.gsize] = false) (passes : CastPasses (noteRunning s h) slot h o segs) :
    let u := noteRunning s h
    let dest := (h.getS o.b).toNat - scratchBase
    let dests := castDests u slot h o
    let refused := refusedGranules (castGranules h o) (castNamed u slot h o)
    ∃ v y, CastStarts u slot h o segs dest dests (deliveriesOf o.lines.toNat dest dests) refused v y ∧
      CompletesIn (.tcast c o) s v slot (y.setS o.d (BitVec.ofNat 64 refused)) := by
  intro u dest dests refused
  obtain ⟨source, target, clear, above, inside, mapped, room⟩ := passes
  have notFull : (dests.any fun d => match u.hart? d.slot with
      | some y => y.countFull d.granules
      | none => false) = false := by
    rw [List.any_eq_false]
    intro d hd
    split
    · rename_i y stands
      simp [room d hd y stands]
    · simp
  obtain ⟨y, starts⟩ := castStarts_castStarted o segs dest dests (deliveriesOf o.lines.toNat dest dests) refused
    ((noteRunning_hart s h slot).trans hi.hart)
  refine ⟨_, y, starts, completesIn_of (exec_tcast c o s) hi ?_ starts.hart⟩
  refine (unpoisoned_clean hp).trans ?_
  rw [if_neg (not_not_intro source), if_neg (not_not_intro target), if_neg (by rw [clear]; simp), if_neg (Nat.not_lt.mpr above),
    if_neg (Nat.not_lt.mpr inside)]
  simp only [mapped]
  exact if_neg (Bool.eq_false_iff.mp notFull)

theorem after_setS (h : Hart) (i : SIdx) (x : Word) : (h.setS i x).after = h.after := by
  obtain ⟨f, p, e⟩ := setS_eq h i x
  rw [e]
  rfl

/-- The first instruction of a task moves the tasks alone (R77). -/
theorem noteRunning_eq (s : State) (h : Hart) : ∃ l, noteRunning s h = { s with tasks := l } := by
  unfold noteRunning
  repeat' split
  all_goals exact ⟨_, rfl⟩

/-! ## The obligation -/

/-- Settles O40: TCAST by the state in which its transfer has started and by how windows grow as requests join, pages by the
first access that meets them, and the slice's two events by what they read, send and write. -/
theorem multicastsDeliver : Obligations.MulticastsDeliver := by
  refine ⟨?_, fun s part va pa pte home => ⟨meetPage_met home, fun unmet => ?_⟩,
    fun l line pinned => ⟨fun w => nextWindow_of_some, nextWindow_of_none, fun w => closeMerge_of_mem⟩,
    fun s line => ⟨mergeWindowClose_none, fun w next => ⟨fun k unbound pin => ?_, fun free => ?_⟩⟩, fun s id d h found hs => ?_⟩
  · intro c o s slot h hi hp u src dva n dest gs all dests left aligned aligned' clear above inside segs mapped room line
    have named : castNamed u slot h o = all := congrArg (List.map · _) (funext (castDest_eq_elim u slot h.ids.gang gs))
    have accept : castDests u slot h o = dests := congrArg (List.filter _) named
    obtain ⟨v, y, starts, completes⟩ := tcast_completes hi hp ⟨aligned, aligned', clear, above, inside, mapped, accept ▸ room⟩
    rw [accept] at starts
    rw [named] at starts completes
    obtain ⟨t, ht, ⟨z, hz, core, after, instret⟩, others, outside⟩ := completes
    obtain ⟨l, running⟩ := noteRunning_eq s h
    have pairs : t.pairs = v.pairs := (congrArg State.pairs outside :)
    have merges : t.merges = (List.range n).foldl (requestOf t h.ids.part segs src dest s.nextId dests) s.merges := by
      rw [requestOf_of_pairs pairs]
      refine ((congrArg State.merges outside).trans starts.merges).trans ?_
      rw [running]
    refine ⟨t, z, ht, hz, fun slots d hd x hx => ?_, fun w hw => ?_, fun i hi p found => ⟨fun served taken => ?_, fun served d hd takes => ?_⟩,
      fun nonzero => ?_, ?_, ?_, ?_, ?_⟩
    · obtain ⟨z', hz', raised⟩ := starts.granules slots d hd (nodup_castDests (accept ▸ hd)) x hx
      by_cases own : d.slot = slot
      · rw [own] at hz' ⊢
        obtain rfl := Option.some.inj (starts.hart.symm.trans hz')
        exact ⟨z, hz, fun x => (congrArg (Hart.granule · x) core).trans (raised x)⟩
      · exact ⟨z', (others _ own).trans hz', raised⟩
    · obtain ⟨w', hw', more, rfl, -⟩ := allGrow_requests t h.ids.part segs src dest s.nextId dests (List.range n) s.merges w hw
      exact ⟨{ w with requests := w.requests ++ more }, by rw [merges]; exact hw', rfl, rfl, more, rfl⟩
    · exact merges ▸ requests_merged s.nextId hi found served taken s.merges
    · exact merges ▸ requests_unmerged s.nextId hi found served hd takes s.merges
    · exact (congrArg (Hart.getS · o.d) core).trans ((getS_setS_same y o.d _).trans (if_neg nonzero))
    · exact after.trans ((after_setS y o.d _).trans (congrArg Hart.after starts.rest :))
    · exact instret.trans (congrArg (· + 1) ((hart_setS_instret y o.d _).trans (congrArg Hart.instret starts.rest :)))
    · exact (congrArg State.mem outside).trans (starts.mem.trans (noteRunning_mem s h))
    · refine ((congrArg State.transfers outside).trans starts.transfers).trans ?_
      rw [running]
      rfl
  · rw [inPinnedArea_meetPage_unmet home unmet]
    exact takesPage_iff _ _
  · exact ⟨_, mergeWindowClose_pinned next unbound pin, rfl, rfl, rfl⟩
  · obtain ⟨-, rfl, -⟩ := nextWindow_of_some next
    obtain ⟨t, new, ht, mem, merges, deliveries, bytes, each⟩ := mergeWindowClose_delivers next free
    refine ⟨t, new, ht, mem, merges, deliveries, fun b bound d hd => ?_, fun unbound device d hd => ?_,
      fun q hq src n dest dests left serves d hd takes reached => ?_⟩
    · rw [← mergeRead_bound s bound]
      exact bytes d hd
    · rw [← mergeRead_device s unbound device]
      exact (bytes d hd).1
    · exact each q hq src n dest dests left serves d hd (by simpa [CastRequest.reaches, takes] using reached)
  · obtain ⟨p, w, delivered⟩ := tcastLineDelivery_delivers found hs
    exact ⟨_, h.scratched d.offset d.bytes p, delivered, hart_setHart_same s d.slot _, rfl, rfl, rfl,
      fun k => scratchByte_scratched_inside h d.offset d.bytes p, fun b => scratchByte_scratched_outside h p,
      fun k other => hart_setHart_other s d.slot k _ other⟩

end Sys2Proof.Machine
end

section
/-! PROOFS. The element-wise arithmetic of the vector instructions (R242, R247 to R253): the moulds of the forms that change
the width, the rounded shift (R249), and the results. -/

namespace Sys2Proof.Machine

/-- A source of its own width is another register than the destination (R243). -/
theorem VSrc.ne_of_notReg {d : VIdx} {b : VSrc} (apart : b.notReg d = true) {v : VIdx} (hv : b = .vec v) : v ≠ d := by
  subst hv
  simpa [VSrc.notReg] using apart

theorem vecUpTo_vsrc_apart {h x : Hart} {d : VIdx} {w : Nat} {m : Mask} {val : Nat → Word × FFlags} {i : Nat}
    (hx : VecUpTo h d w m val i x) (hd : w ∣ 8192) (t : Ty) {b : VSrc} (apart : b.notReg d = true) : x.vsrc t b i = h.vsrc t b i :=
  vecUpTo_vsrc hx hd t fun _ hv e => absurd e (VSrc.ne_of_notReg apart hv)

theorem VecBin.apart_of_okWide {o : VecBin} {k : Bool} (ok : o.okWide k = true) : o.a ≠ o.d ∧ o.b.notReg o.d = true := by
  obtain ⟨ok, source⟩ := Bool.and_eq_true_iff.mp ok
  exact ⟨bne_iff_ne.mp (Bool.and_eq_true_iff.mp ok).2, source⟩

theorem VecNarrow.apart_of_ok {o : VecNarrow} (ok : o.ok = true) : o.a ≠ o.d ∧ o.b.notReg o.d = true := by
  obtain ⟨ok, source⟩ := Bool.and_eq_true_iff.mp ok
  exact ⟨bne_iff_ne.mp (Bool.and_eq_true_iff.mp ok).2, source⟩

theorem VecFloatBin.apart_of_okWide {o : VecFloatBin} (ok : o.okWide = true) : o.a ≠ o.d ∧ o.b.notReg o.d = true := by
  obtain ⟨ok, source⟩ := Bool.and_eq_true_iff.mp ok
  exact ⟨bne_iff_ne.mp (Bool.and_eq_true_iff.mp ok).2, source⟩

theorem VecConvert.width_of_apart {o : VecConvert} (apart : o.apart = true) (same : o.a = o.d) : o.src.width = o.ty.width := by
  rcases Bool.or_eq_true_iff.mp apart with width | other
  · exact (beq_iff_eq.mp width).symm
  · exact absurd same (bne_iff_ne.mp other)

/-! ## Forms that change the width -/

section
variable {i : Instr} {c : Ctl} {s : State} {slot : Nat} {h : Hart}

/-- The mould of the widening forms, whose narrow sources are other registers than the destination (R243, R248). -/
theorem completes_vecWide {o : VecBin} {rd : Bool} {f : Int → Int → Int → Int} (he : exec i s = vecWide c o s rd f)
    (hi : Issues 0x64 c s slot h) (hp : h.poison = []) (hb : s.budget = none) (hg : h.widthOk o.ty.wide.width = true)
    (ha : o.a ≠ o.d) (hv : o.b.notReg o.d = true) :
    let n := o.ty
    let t := o.ty.wide
    ∃ g, Completes i s slot h g ∧ VecResult h g o.d t.width 0 (h.moulded o.d t.width o.mask fun i => t.narrow o.sat
      (f (n.int (elemGet (h.getV o.a) n.width i)) (n.int (h.vsrc n o.b i)) (t.int (elemGet (h.getV o.d) t.width i)))) := by
  intro n t
  obtain ⟨hw, hd⟩ := width_ok t
  obtain ⟨g, completes, result⟩ := elementwise_completes (d := o.d) (m := o.mask) (fun i => (t.narrow o.sat
    (f (n.int (elemGet (h.getV o.a) n.width i)) (n.int (h.vsrc n o.b i)) (t.int (elemGet (h.getV o.d) t.width i))), 0))
    he rfl hi hp hb hg hw (fun x i hx => by simp [poisonedAt, vsrcPoisoned_of_none hx, elemPoisoned_of_none hx])
    (fun y i _ _ hy => by
      rw [vecUpTo_elem hy hd (absurd · ha), vecUpTo_vsrc_apart hy hd _ hv,
        vecUpTo_elem hy hd (fun _ => rfl)])
  exact ⟨g, completes, flagsOf_zero h o.mask ▸ result⟩

theorem completes_vnshr {o : VecNarrow} (hi : Issues 0x64 c s slot h) (hp : h.poison = []) (hb : s.budget = none)
    (hg : h.widthOk o.ty.wide.width = true) (ha : o.a ≠ o.d) (hv : o.b.notReg o.d = true) :
    let n := o.ty
    let t := o.ty.wide
    ∃ g, Completes (.vnshr c o) s slot h g ∧ VecResult h g o.d n.width 0 (h.moulded o.d n.width o.mask fun i => n.narrow o.sat
      (shiftRounded (o.rm == .rdn) (t.int (elemGet (h.getV o.a) t.width i)) ((h.vsrc t o.b i).toNat % t.width))) := by
  intro n t
  obtain ⟨hw, hd⟩ := width_ok n
  obtain ⟨g, completes, result⟩ := elementwise_completes (d := o.d) (m := o.mask) (fun i => (n.narrow o.sat
      (shiftRounded (o.rm == .rdn) (t.int (elemGet (h.getV o.a) t.width i)) ((h.vsrc t o.b i).toNat % t.width)), 0))
    (exec_vnshr c o s) rfl hi hp hb hg hw (fun x i hx => by simp [poisonedAt, vsrcPoisoned_of_none hx, elemPoisoned_of_none hx])
    (fun y i _ _ hy => by
      rw [vecUpTo_elem hy hd (absurd · ha), vecUpTo_vsrc_apart hy hd _ hv])
  exact ⟨g, completes, flagsOf_zero h o.mask ▸ result⟩

/-- The mould of the widening floating forms (R243, R251). -/
theorem completes_vecFloatWide {o : VecFloatBin} {rd : Bool} {f : Fmt → Round → Flush → FVal → FVal → FVal → Word × FFlags}
    (he : exec i s = vecFloatWide c o s rd f) (hi : Issues 0x6A c s slot h) (hp : h.poison = []) (hb : s.budget = none)
    (hg : h.widthOk o.ty.wide.width = true) (ha : o.a ≠ o.d) (hv : o.b.notReg o.d = true) :
    let n := o.ty
    let t := o.ty.wide
    let x := fun i => f t.fmt (h.round o.rm) h.flush (n.fmt.read h.flush (elemGet (h.getV o.a) n.width i))
      (n.fmt.read h.flush (h.vsrc n o.b i)) (t.fmt.read h.flush (elemGet (h.getV o.d) t.width i))
    ∃ g, Completes i s slot h g ∧
      VecResult h g o.d t.width (h.flagsOf o.mask fun i => (x i).2) (h.moulded o.d t.width o.mask fun i => (x i).1) := by
  intro n t x
  obtain ⟨hw, hd⟩ := width_ok t
  exact elementwise_completes x he rfl hi hp hb hg hw
    (fun x i hx => by simp [vsrcPoisoned_of_none hx, elemPoisoned_of_none hx])
    (fun y i _ _ hy => by
      rw [vecUpTo_elem hy hd (absurd · ha), vecUpTo_vsrc_apart hy hd _ hv,
        vecUpTo_elem hy hd (fun _ => rfl), vecUpTo_round hy, vecUpTo_flush hy])

end

/-! ## The rounded shift (R249) -/

theorem fdiv_pow_two (a : Int) (n : Nat) : 0 ≤ a - Int.fdiv a (2 ^ n) * 2 ^ n ∧ a - Int.fdiv a (2 ^ n) * 2 ^ n < 2 ^ n := by
  have positive : (0 : Int) < 2 ^ n := by positivity
  rw [Int.fdiv_eq_ediv_of_nonneg a positive.le]
  have split := Int.mul_ediv_add_emod a (2 ^ n)
  have least := Int.emod_nonneg a positive.ne'
  have greatest := Int.emod_lt_of_pos a positive
  rw [mul_comm] at split
  constructor <;> linarith

theorem shiftRounded_nearest (a : Int) (n : Nat) :
    let q := shiftRounded false a n
    2 * (a - q * 2 ^ n) ≤ 2 ^ n ∧ -(2 ^ n) ≤ 2 * (a - q * 2 ^ n) ∧
      (2 * (a - q * 2 ^ n) = 2 ^ n ∨ 2 * (a - q * 2 ^ n) = -(2 ^ n) → q % 2 = 0) := by
  obtain ⟨least, greatest⟩ := fdiv_pow_two a n
  unfold shiftRounded
  simp only [Bool.false_eq_true, if_false]
  generalize Int.fdiv a (2 ^ n) = q at *
  split
  next up => rw [add_mul, one_mul]; generalize q * 2 ^ n = p at *; omega
  next down => generalize q * 2 ^ n = p at *; omega

/-! ## The obligations -/

/-- Settles O19: each instruction by the mould that it shares. -/
theorem vectorIntegerResults : Obligations.VectorIntegerResults := by
  intro c o s slot h hp hb hg t a b d ends
  refine ⟨fun hi => ?_, fun hi => ?_, fun hi => ?_⟩
  · exact ⟨(vecBin_done false _ (exec_vadd c o s) hi hp hb hg :), (vecBin_done false _ (exec_vsub c o s) hi hp hb hg :),
      (vecBin_done false _ (exec_vrsub c o s) hi hp hb hg :), (vecBin_done false _ (exec_vmin c o s) hi hp hb hg :),
      (vecBin_done false _ (exec_vmax c o s) hi hp hb hg :), (vecBin_done false _ (exec_vabsd c o s) hi hp hb hg :),
      (vecBin_done false _ (exec_vavg c o s) hi hp hb hg :)⟩
  · exact ⟨(vecBin_done false _ (exec_vmul c o s) hi hp hb hg :), (vecBin_done false _ (exec_vmulh c o s) hi hp hb hg :),
      (vecBin_done true _ (exec_vmacc c o s) hi hp hb hg :), (vecBin_done false _ (exec_vdiv c o s) hi hp hb hg :),
      (vecBin_done false _ (exec_vrem c o s) hi hp hb hg :)⟩
  · exact ⟨(vecBin_done false _ (exec_vand c o s) hi hp hb hg :), (vecBin_done false _ (exec_vor c o s) hi hp hb hg :),
      (vecBin_done false _ (exec_vxor c o s) hi hp hb hg :), (vecBin_done false _ (exec_vsll c o s) hi hp hb hg :),
      (vecBin_done false _ (exec_vsrl c o s) hi hp hb hg :), (vecBin_done false _ (exec_vsra c o s) hi hp hb hg :)⟩

/-- Settles O20: the widening forms by the mould that they share, VNSHR by its own, and the rounded shift by its quotient. -/
theorem vectorWidthChangingResults : Obligations.VectorWidthChangingResults := by
  refine ⟨fun c s slot h hi hp hb => ⟨fun o wf hg => ?_, fun o wf hg => ?_⟩, fun a n => ⟨rfl, shiftRounded_nearest a n⟩⟩
  · obtain ⟨ha, hv⟩ := VecBin.apart_of_okWide (Bool.and_eq_true_iff.mp wf).2
    exact ⟨fun _ => (completes_vecWide (exec_vwadd c o s) hi hp hb hg ha hv :), fun _ => (completes_vecWide (exec_vwmul c o s) hi hp hb hg ha hv :),
      (completes_vecWide (exec_vwmacc c o s) hi hp hb hg ha hv :)⟩
  · obtain ⟨ha, hv⟩ := VecNarrow.apart_of_ok (Bool.and_eq_true_iff.mp wf).2
    exact completes_vnshr hi hp hb hg ha hv

/-- Settles O21: the forms of two sources by the mould that they share, and VFSQRT by that of one source. -/
theorem vectorFloatResults : Obligations.VectorFloatResults := by
  intro c s slot h hp hb
  refine ⟨fun o hg => ⟨fun hi => ?_, fun hi => ?_⟩, fun o hg hi => ?_⟩
  · exact ⟨(vecFloat_done false _ (exec_vfadd c o s) hi hp hb hg :), (vecFloat_done false _ (exec_vfsub c o s) hi hp hb hg :),
      (vecFloat_done false _ (exec_vfmul c o s) hi hp hb hg :), (vecFloat_done false _ (exec_vfdiv c o s) hi hp hb hg :),
      (vecFloat_done false _ (exec_vfmin c o s) hi hp hb hg :), (vecFloat_done false _ (exec_vfmax c o s) hi hp hb hg :),
      (vecFloat_done false _ (exec_vfcopys c o s) hi hp hb hg :), (vecFloat_done false _ (exec_vfcopyn c o s) hi hp hb hg :),
      (vecFloat_done false _ (exec_vfxsign c o s) hi hp hb hg :)⟩
  · exact ⟨(vecFloat_done true _ (exec_vfma c o s) hi hp hb hg :), (vecFloat_done true _ (exec_vfms c o s) hi hp hb hg :),
      (vecFloat_done true _ (exec_vfnma c o s) hi hp hb hg :), (vecFloat_done true _ (exec_vfnms c o s) hi hp hb hg :)⟩
  · exact (vecUnary_done _ (fun x w flush round => by rw [flush, round]) (exec_vfsqrt c o s) hi hp hb (by rwa [max_self]) fun _ => rfl :)

/-- Settles O22: the widening floating forms by the mould that they share, and the conversions and VFCLASS by that of one
source. -/
theorem vectorConversionResults : Obligations.VectorConversionResults := by
  refine fun c s slot h hp hb => ⟨fun o hi wf hg => ?_, fun o hi hg => ?_, fun o hi hg => ?_⟩
  · obtain ⟨ha, hv⟩ := VecFloatBin.apart_of_okWide (Bool.and_eq_true_iff.mp wf).2
    exact ⟨(completes_vecFloatWide (exec_vfwadd c o s) hi hp hb hg ha hv :), (completes_vecFloatWide (exec_vfwmul c o s) hi hp hb hg ha hv :),
      (completes_vecFloatWide (exec_vfwma c o s) hi hp hb hg ha hv :)⟩
  · refine ⟨fun wf => ?_, fun wf => ?_, fun wf => ?_⟩
    · obtain ⟨-, ok⟩ := Bool.and_eq_true_iff.mp wf
      obtain ⟨-, apart⟩ := Bool.and_eq_true_iff.mp ok
      exact (vecUnary_done _ (fun x w flush round => by rw [flush, round]) (exec_vfcvt c o s) hi hp hb hg (VecConvert.width_of_apart apart) :)
    · obtain ⟨-, ok⟩ := Bool.and_eq_true_iff.mp wf
      obtain ⟨-, apart⟩ := Bool.and_eq_true_iff.mp ok
      exact (vecUnary_done _ (fun x w flush round => by rw [flush, round]) (exec_vfcvti c o s) hi hp hb hg (VecConvert.width_of_apart apart) :)
    · obtain ⟨-, ok⟩ := Bool.and_eq_true_iff.mp wf
      obtain ⟨-, apart⟩ := Bool.and_eq_true_iff.mp ok
      exact (vecUnary_done _ (fun x w flush round => by rw [flush, round]) (exec_vicvtf c o s) hi hp hb hg (VecConvert.width_of_apart apart) :)
  · obtain ⟨g, completes, result⟩ := vecUnary_done _ (fun x w flush _ => by rw [flush]) (exec_vfclass c o s) hi hp hb
      (by rwa [max_self]) fun _ => rfl
    exact ⟨g, completes, flagsOf_zero h o.mask ▸ result⟩

end Sys2Proof.Machine
end

section
/-! PROOFS. VCMP (R254), and VSETL and VSETT (R239, R245, R246). -/

namespace Sys2Proof.Machine

/-! ## VCMP -/

theorem raise_raise (h : Hart) (f g : FFlags) : (h.raise f).raise g = h.raise (f ||| g) := by
  simp only [Hart.raise, BitVec.or_assoc, ← BitVec.and_or_distrib_right]

/-- The mould of R254, bit `j` of the destination: the comparison where the element is active, 0 where it is zeroed, and
the old bit elsewhere; `n` is where the loop stands. -/
def Hart.comparedBit (h : Hart) (d : MIdx) (m : Mask) (x : Nat → Bool) (n j : Nat) : Bool :=
  if d = 0 then true
  else if h.vstart ≤ j ∧ j < n then
    (if h.active m j then x j else !maskZeroing m && (h.getM d).getLsbD j)
  else (h.getM d).getLsbD j

/-- The hart `x` is `h` with the bits from VSTART to `n` of `d` written and their flags raised. -/
structure ComparedUpTo (h : Hart) (d : MIdx) (m : Mask) (val : Nat → Bool × FFlags) (n : Nat) (x : Hart) : Prop where
  bits : ∀ j, j < 1024 → (x.getM d).getLsbD j = h.comparedBit d m (fun i => (val i).1) n j
  others : ∀ k, k ≠ d → x.getM k = h.getM k
  fcsr : x.fcsr =
    (h.raise (((List.range' h.vstart (n - h.vstart)).filter fun k => h.active m k).foldl (fun f k => f ||| (val k).2) 0)).fcsr
  rest : { x with regs := { x.regs with m := h.regs.m }, fcsr := h.fcsr } = h

theorem getLsbD_getM_zero (h : Hart) {j : Nat} (hj : j < 1024) : (h.getM 0).getLsbD j = true := by
  rw [getM_zero, BitVec.getLsbD_allOnes, decide_eq_true hj]

theorem getM_putBit_same (h : Hart) (d : MIdx) (i : Nat) (b : Bool) {j : Nat} (hj : j < 1024) :
    ((h.putBit d i b).getM d).getLsbD j = if d = 0 then true else if j = i then b else (h.getM d).getLsbD j := by
  by_cases fixed : d = 0
  · subst fixed
    rw [getLsbD_getM_zero _ hj, if_pos rfl]
  · have : (h.putBit d i b).getM d = maskSet (h.getM d) i b := by
      simp only [Hart.putBit, Hart.getM, Regs.getM, Regs.setM, if_neg fixed, rget_rset_same]
    rw [this, getLsbD_maskSet _ _ _ hj, if_neg fixed]

theorem getM_putBit_other (h : Hart) {d k : MIdx} (i : Nat) (b : Bool) (other : k ≠ d) : (h.putBit d i b).getM k = h.getM k := by
  unfold Hart.putBit Hart.getM Regs.getM Regs.setM
  by_cases fixed : d = 0
  · rw [if_pos fixed]
  · simp only [if_neg fixed, rget_rset_other _ _ _ _ other]

theorem putBit_eq (h : Hart) (d : MIdx) (i : Nat) (b : Bool) : ∃ f, h.putBit d i b = { h with regs := { h.regs with m := f } } := by
  unfold Hart.putBit Regs.setM
  split
  · exact ⟨h.regs.m, rfl⟩
  · exact ⟨_, rfl⟩

section
variable {h x : Hart} {d : MIdx} {m : Mask} {val : Nat → Bool × FFlags} {n : Nat}

theorem comparedUpTo_start : ComparedUpTo h d m val h.vstart h where
  bits j hj := by
    unfold Hart.comparedBit
    by_cases fixed : d = 0
    · subst fixed
      rw [getLsbD_getM_zero _ hj, if_pos rfl]
    · rw [if_neg fixed, if_neg (by omega)]
  others _ _ := rfl
  fcsr := by simp [Hart.raise]
  rest := rfl

/-- The bit at which the loop stands is written, or kept, as the mould says. -/
theorem comparedUpTo_succ (hx : ComparedUpTo h d m val n x) {y : Hart} {b : Bool} (start : h.vstart ≤ n)
    (bit : ∀ j, j < 1024 → (y.getM d).getLsbD j = if d = 0 then true else if j = n then b else (x.getM d).getLsbD j)
    (value : n < 1024 → b = if h.active m n then (val n).1 else !maskZeroing m && (h.getM d).getLsbD n)
    (others : ∀ k, k ≠ d → y.getM k = x.getM k)
    (fcsr : y.fcsr = (if h.active m n then x.raise (val n).2 else x).fcsr)
    (rest : { y with regs := { y.regs with m := h.regs.m }, fcsr := h.fcsr } = { x with regs := { x.regs with m := h.regs.m }, fcsr := h.fcsr }) :
    ComparedUpTo h d m val (n + 1) y where
  bits j hj := by
    rw [bit j hj, hx.bits j hj]
    unfold Hart.comparedBit
    by_cases fixed : d = 0
    · simp [fixed]
    by_cases here : j = n
    · subst here
      simp [start, value hj]
    · simp only [if_neg fixed, if_neg here, show j < n + 1 ↔ j < n by omega]
  others k hk := (others k hk).trans (hx.others k hk)
  fcsr := by
    rw [flags_succ start, fcsr]
    split
    · rw [← raise_raise]
      exact congrArg (· ||| _) hx.fcsr
    · exact hx.fcsr
  rest := rest.trans hx.rest

theorem comparedUpTo_getV (hx : ComparedUpTo h d m val n x) (v : VIdx) : x.getV v = h.getV v := by
  rw [← hx.rest]
  rfl

theorem comparedUpTo_vsrc (hx : ComparedUpTo h d m val n x) (t : Ty) (b : VSrc) (i : Nat) : x.vsrc t b i = h.vsrc t b i := by
  rw [← hx.rest]
  rfl

theorem comparedUpTo_flush (hx : ComparedUpTo h d m val n x) : x.flush = h.flush := by
  rw [← hx.rest]
  rfl

theorem comparedUpTo_poison (hx : ComparedUpTo h d m val n x) : x.poison = h.poison := by
  rw [← hx.rest]

end

theorem cleanM_clean {h : Hart} (hp : h.poison = []) (d : MIdx) (lo n : Nat) (f : Nat → Bool) : h.cleanM d lo n f = h :=
  clearPoison_clean hp _

/-- One position of VCMP, on a hart without poison. -/
theorem vcmp_step (o : VcmpForm) {h : Hart} (hp : h.poison = []) :
    let val := fun i => condOf o.cond o.ty h.flush (elemGet (h.getV o.a) o.ty.width i) (h.vsrc o.ty o.b i)
    ∀ n x, h.vstart ≤ n → ComparedUpTo h o.d o.mask val n x →
      ∃ y, h.underMask o.mask (fun i x =>
          if x.elemPoisoned o.a o.ty.width i || x.vsrcPoisoned o.b o.ty.width i then .error poisonTrap
          else
            let r := condOf o.cond o.ty x.flush (elemGet (x.getV o.a) o.ty.width i) (x.vsrc o.ty o.b i)
            .ok (((x.putBit o.d i r.1).raise r.2).cleanM o.d h.vstart (i + 1) (h.writes o.mask)))
        (fun i x => .ok ((if maskZeroing o.mask then x.putBit o.d i false else x).cleanM o.d h.vstart (i + 1) (h.writes o.mask))) n x =
          .ok y ∧ ComparedUpTo h o.d o.mask val (n + 1) y := by
  intro val n x start hx
  have clean : x.poison = [] := (comparedUpTo_poison hx).trans hp
  have kept : ∀ b, { x.putBit o.d n b with regs := { (x.putBit o.d n b).regs with m := h.regs.m }, fcsr := h.fcsr } =
      { x with regs := { x.regs with m := h.regs.m }, fcsr := h.fcsr } := fun b => by
    obtain ⟨f, e⟩ := putBit_eq x o.d n b
    rw [e]
  rw [underMask_clean hp]
  cases active : h.active o.mask n with
  | true =>
    refine ⟨(x.putBit o.d n (val n).1).raise (val n).2, ?_, ?_⟩
    · rw [if_pos rfl, if_neg (by simp [elemPoisoned_of_none clean, vsrcPoisoned_of_none clean]), comparedUpTo_getV hx,
        comparedUpTo_vsrc hx, comparedUpTo_flush hx]
      exact congrArg Except.ok (cleanM_clean (h := (x.putBit o.d n (val n).1).raise (val n).2) clean _ _ _ _)
    · exact comparedUpTo_succ hx start (fun j hj => getM_putBit_same x o.d n (val n).1 hj) (fun _ => by rw [active, if_pos rfl])
        (fun k hk => getM_putBit_other x n (val n).1 hk) (by rw [active]; rfl) (kept (val n).1)
  | false =>
    rw [if_neg (by simp)]
    cases zeroing : maskZeroing o.mask with
    | true =>
      refine ⟨x.putBit o.d n false, congrArg Except.ok (cleanM_clean (h := x.putBit o.d n false) clean _ _ _ _), ?_⟩
      exact comparedUpTo_succ hx start (fun j hj => getM_putBit_same x o.d n false hj) (fun _ => by rw [active, zeroing]; rfl)
        (fun k hk => getM_putBit_other x n false hk) (by rw [active]; rfl) (kept false)
    | false =>
      refine ⟨x, congrArg Except.ok (cleanM_clean clean _ _ _ _), ?_⟩
      refine comparedUpTo_succ (b := (x.getM o.d).getLsbD n) hx start (fun j hj => ?_) (fun hn => ?_) (fun _ _ => rfl) (by rw [active]; rfl) rfl
      · split
        next fixed => rw [fixed, getLsbD_getM_zero _ hj]
        next => split <;> simp [*]
      · rw [active, zeroing, hx.bits n hn]
        unfold Hart.comparedBit
        by_cases fixed : o.d = 0
        · rw [if_pos fixed, fixed, getLsbD_getM_zero _ hn]
          rfl
        · rw [if_neg fixed, if_neg (by omega)]
          rfl

theorem completes_vcmp {c : Ctl} {o : VcmpForm} {s : State} {slot : Nat} {h : Hart} (hi : Issues 0x70 c s slot h) (hp : h.poison = [])
    (hb : s.budget = none) (hg : h.widthOk o.ty.width = true) :
    let val := fun i => condOf o.cond o.ty h.flush (elemGet (h.getV o.a) o.ty.width i) (h.vsrc o.ty o.b i)
    ∃ y, Completes (.vcmp c o) s slot h (y.setVstart 0) ∧ ComparedUpTo h o.d o.mask val (h.vstart + (h.vl - h.vstart)) y := by
  intro val
  obtain ⟨y, finished, upTo⟩ := eachPos_finished (P := ComparedUpTo h o.d o.mask val) (n := h.vl - h.vstart) comparedUpTo_start
    (fun j y start _ hy => vcmp_step o hp j y start hy)
  refine ⟨y, completes_of (exec_vcmp c o s) hi ?_, upTo⟩
  simp only [hg, Bool.not_true, Bool.false_eq_true, if_false, unpoisoned_clean (poisoned_of_none hp _), elementLoop,
    (noteRunning_budget s h).trans hb]
  rw [finished]

/-! ## VSETL and VSETT -/

theorem clearPoison_eq (h : Hart) (p : RegLoc → Bool) : clearPoison h p = { h with poison := h.poison.filter fun x => !p x } := by
  obtain ⟨_⟩ := h
  unfold clearPoison
  split
  next e =>
    dsimp only at e
    subst e
    rfl
  next => rfl

theorem controlIn_append (l m : List Nat) (x : RegLoc) :
    RegLoc.controlIn (l ++ m) x = (RegLoc.controlIn l x || RegLoc.controlIn m x) := by
  cases x <;> simp [RegLoc.controlIn]

/-- What VSETL and VSETT leave of their hart: VTYPE and VL, the scalar destination and VSTART written, and the words
written whole clean (R392). -/
theorem setS_setVstart_eq (h : Hart) (vl : BitVec 12) (vtype : BitVec 7) (l : List Nat) (d : SIdx) (x : Word) :
    ((clearPoison { h with regs := { h.regs with vl := vl, vtype := vtype } } (RegLoc.controlIn l)).setS d x).setVstart 0 =
      clearPoison ({ h with regs := { h.regs with vl := vl, vtype := vtype, vstart := 0 } }.setS d x) (RegLoc.controlIn ([0x108] ++ l)) := by
  have regs : ({ ({ h.regs with vl := vl, vtype := vtype } : Regs).setS d x with vstart := BitVec.ofNat 11 0 } : Regs) =
      ({ h.regs with vl := vl, vtype := vtype, vstart := 0 } : Regs).setS d x := by
    unfold Regs.setS
    split <;> rfl
  simp only [Hart.setS, Hart.setVstart, clearPoison_eq, List.filter_filter, regs, controlIn_append, Bool.not_or]
  congr 2
  funext y
  rw [Bool.and_left_comm, Bool.and_comm]

section
variable {c : Ctl} {o : SetForm} {s : State} {slot : Nat} {h : Hart}

theorem completes_vsetl (hi : Issues 0x60 c s slot h) (hp : h.poisoned (ssrcReads o.b) = false) :
    let n := min (h.usrc o.b).toNat (vlmaxOf h.etypeCode)
    Completes (.vsetl c o) s slot h (clearPoison
      ({ h with regs := { h.regs with vl := BitVec.ofNat 12 n, vstart := 0 } }.setS o.d (BitVec.ofNat 64 n)) (RegLoc.controlIn [0x108, 0x110])) := by
  intro n
  obtain ⟨t, step, completed⟩ := completes_of (exec_vsetl c o s) hi (unpoisoned_clean hp)
  have left := setS_setVstart_eq h (BitVec.ofNat 12 n) h.regs.vtype [0x110] o.d (BitVec.ofNat 64 n)
  exact ⟨t, step, left ▸ completedAs_congr completed rfl rfl rfl⟩

theorem completes_vsett (hi : Issues 0x60 c s slot h) (hp : h.poisoned (ssrcReads o.b) = false) :
    let v : BitVec 7 := (h.usrc o.b).setWidth 7
    let m := vlmaxOf (v.setWidth 4)
    Completes (.vsett c o) s slot h (clearPoison
      ({ h with regs := { h.regs with vtype := v, vl := BitVec.ofNat 12 (min h.vl m), vstart := 0 } }.setS o.d (BitVec.ofNat 64 m))
      (RegLoc.controlIn [0x108, 0x118])) := by
  intro v m
  have code : v.extractLsb' 0 4 = v.setWidth 4 := by
    apply BitVec.eq_of_getLsbD_eq
    intro k hk
    simp [hk]
  have left := setS_setVstart_eq h (BitVec.ofNat 12 (min h.vl m)) v [0x118] o.d (BitVec.ofNat 64 m)
  refine left ▸ completes_of (exec_vsett c o s) hi ?_
  refine (unpoisoned_clean hp).trans ?_
  simp only [Hart.setVtype, Hart.etypeCode, clearPoison_regs, Regs.retype]
  rw [code]
  rfl

end

/-- Settles O23: VCMP by what its loop has written at VL, VSETL and VSETT by their bodies. -/
theorem vectorCompareAndSettingResults : Obligations.VectorCompareAndSettingResults := by
  refine ⟨fun c o s slot h hi hp hb hg => ?_, fun c o s slot h hi hp => ⟨completes_vsetl hi hp, completes_vsett hi hp⟩⟩
  obtain ⟨y, completes, bits, others, fcsr, rest⟩ := completes_vcmp hi hp hb hg
  have clean : y.poison = [] := (congrArg Hart.poison rest :).trans hp
  rw [setVstart_clean clean] at completes
  refine ⟨_, completes, fun i hi => ?_, others, ?_, rfl, ?_⟩
  · have below : (h.vstart ≤ i ∧ i < h.vstart + (h.vl - h.vstart)) ↔ (h.vstart ≤ i ∧ i < h.vl) := by omega
    refine (bits i hi).trans ?_
    simp only [Hart.comparedBit, below]
  · refine fcsr.trans ?_
    rw [Nat.add_sub_cancel_left]
    rfl
  · have kept := congrArg (fun x : Hart => { x with regs := { x.regs with vstart := h.regs.vstart } }) rest
    exact kept

end Sys2Proof.Machine
end

section
/-! PROOFS. Merges, moves, splats, inserts and the permutes (R244, R255 to R259). -/

namespace Sys2Proof.Machine

section
variable {c : Ctl} {s : State} {slot : Nat} {h : Hart} (hp : h.poison = [])
include hp

/-! ## Element by element (R255, R257) -/

section
variable (hi : Issues 0x71 c s slot h) (hb : s.budget = none)
include hi hb

theorem completes_vmerge {o : VmergeForm} (hg : h.widthOk o.ty.slotWidth = true) :
    ∃ g, Completes (.vmerge c o) s slot h g ∧ VecResult h g o.d o.ty.slotWidth 0 (h.moulded o.d o.ty.slotWidth .none fun i =>
      if (h.getM o.m).getLsbD i then elemGet (h.getV o.b) o.ty.slotWidth i else elemGet (h.getV o.a) o.ty.slotWidth i) := by
  obtain ⟨hw, hd⟩ := slotWidth_ok o.ty
  obtain ⟨g, completes, result⟩ := elementwise_completes (d := o.d) (m := .none) (fun i =>
      (if (h.getM o.m).getLsbD i then elemGet (h.getV o.b) o.ty.slotWidth i else elemGet (h.getV o.a) o.ty.slotWidth i, 0))
    (exec_vmerge c o s) rfl hi hp hb hg hw (fun x i hx => elemPoisoned_of_none hx _ _ _)
    (fun y i _ _ hy => by
      rw [vecUpTo_elem hy hd (fun _ => rfl)]
      dsimp only
      by_cases selected : (h.getM o.m).getLsbD i = true
      · rw [if_pos selected, if_pos (show maskBit (h.getM o.m) i = true from selected)]
      · rw [if_neg selected, if_neg (show ¬maskBit (h.getM o.m) i = true from selected)])
  exact ⟨g, completes, flagsOf_zero h .none ▸ result⟩

theorem completes_vmov {o : VecUn} (hg : h.widthOk o.ty.slotWidth = true) :
    ∃ g, Completes (.vmov c o) s slot h g ∧ VecResult h g o.d o.ty.slotWidth 0
      (h.moulded o.d o.ty.slotWidth o.mask fun i => elemGet (h.getV o.a) o.ty.slotWidth i) := by
  obtain ⟨hw, hd⟩ := slotWidth_ok o.ty
  obtain ⟨g, completes, result⟩ := elementwise_completes (d := o.d) (m := o.mask) (fun i => (elemGet (h.getV o.a) o.ty.slotWidth i, 0))
    (exec_vmov c o s) rfl hi hp hb hg hw (fun x i hx => elemPoisoned_of_none hx _ _ _)
    (fun y i _ _ hy => by rw [vecUpTo_elem hy hd (fun _ => rfl)])
  exact ⟨g, completes, flagsOf_zero h o.mask ▸ result⟩

theorem completes_vsplat {o : VsplatForm} (hg : h.widthOk o.ty.slotWidth = true) :
    ∃ g, Completes (.vsplat c o) s slot h g ∧ VecResult h g o.d o.ty.slotWidth 0
      (h.moulded o.d o.ty.slotWidth o.mask fun _ => bothNibbles o.ty (h.ssrc o.ty o.b)) := by
  obtain ⟨g, completes, result⟩ := elementwise_completes (d := o.d) (m := o.mask) (fun _ => (bothNibbles o.ty (h.ssrc o.ty o.b), 0))
    (exec_vsplat c o s) rfl hi hp hb hg (slotWidth_ok o.ty).1 (fun _ _ _ => rfl) (fun _ _ _ _ _ => rfl)
  exact ⟨g, completes, flagsOf_zero h o.mask ▸ result⟩

theorem completes_vid {o : VidForm} (hg : h.widthOk o.ty.width = true) :
    ∃ g, Completes (.vid c o) s slot h g ∧
      VecResult h g o.d o.ty.width 0 (h.moulded o.d o.ty.width o.mask fun i => BitVec.ofNat 64 i) := by
  obtain ⟨g, completes, result⟩ := elementwise_completes (d := o.d) (m := o.mask) (fun i => (BitVec.ofNat 64 i, 0))
    (exec_vid c o s) rfl hi hp hb hg (width_ok o.ty).1 (fun _ _ _ => rfl) (fun _ _ _ _ _ => rfl)
  exact ⟨g, completes, flagsOf_zero h o.mask ▸ result⟩

end

/-! ## One element (R256) -/

theorem completes_vext {o : VextForm} (hi : Issues 0x71 c s slot h) (hg : h.widthOk o.ty.width = true) :
    let j := (h.usrc o.b).toNat
    Completes (.vext c o) s slot h (h.setS o.d (if o.ty.vlmax ≤ j then 0 else o.ty.place (elemGet (h.getV o.a) o.ty.width j))) := by
  intro j
  refine completes_of (exec_vext c o s) hi ?_
  simp only [hg, Bool.not_true, Bool.false_eq_true, if_false, unpoisoned_clean (poisoned_of_none hp _), elemPoisoned_of_none hp]
  split <;> rfl

theorem completes_vins {o : VinsForm} (hi : Issues 0x71 c s slot h) (hg : h.widthOk o.ty.width = true) :
    let j := (h.usrc o.b).toNat
    Completes (.vins c o) s slot h
      (if o.ty.vlmax ≤ j then h else h.setV o.d (elemSet (h.getV o.d) o.ty.width j (h.getS o.a))) := by
  intro j
  refine completes_of (exec_vins c o s) hi ?_
  simp only [hg, Bool.not_true, Bool.false_eq_true, if_false, unpoisoned_clean (poisoned_of_none hp _)]
  split
  · rfl
  · rw [cleanV_clean (h := h.setV o.d _) hp]

/-! ## Whole instructions (R244) -/

/-- The mould of the whole instructions, element `i` of the destination below VL. -/
def Hart.wholeMoulded (h : Hart) (d : VIdx) (w : Nat) (m : Mask) (val : Nat → Word) (i : Nat) : Word :=
  if i < h.vl then (if h.active m i then low w (val i) else if maskZeroing m then 0 else elemGet (h.getV d) w i)
  else elemGet (h.getV d) w i

omit hp in
/-- The active elements as a mask: a bit for each. -/
theorem getLsbD_activeBits (m : Mask) (x : MReg) (k : Nat) : (x &&& h.activeBits m).getLsbD k = (x.getLsbD k && h.active m k) := by
  cases m with
  | none =>
    rw [Hart.activeBits, BitVec.and_allOnes, Hart.active, Bool.and_true]
  | on z j => rw [BitVec.getLsbD_and]; rfl

theorem completes_vmrank {o : VmrankForm} (hi : Issues 0x71 c s slot h) (hg : h.widthOk o.ty.width = true) :
    ∃ g, Completes (.vmrank c o) s slot h g ∧ VecResult h g o.d o.ty.width 0 (h.wholeMoulded o.d o.ty.width o.mask fun i =>
      BitVec.ofNat 64 ((List.range i).countP fun k => (h.getM o.a).getLsbD k && h.active o.mask k)) := by
  obtain ⟨g, completes, result⟩ := wholeElements_done (exec_vmrank c o s) rfl hi hp hg (width_ok o.ty).1 (fun _ => rfl)
  simp only [maskCount_eq_countP, getLsbD_activeBits] at result
  exact ⟨g, completes, result⟩

section
variable (hi : Issues 0x90 c s slot h)
include hi

omit hi in
theorem badBelow_of_none (v : VIdx) (w j : Nat) : h.badBelow v w j = false := by
  simp [Hart.badBelow, elemPoisoned_of_none hp]

theorem completes_vshuf {o : VshufForm} (hg : h.widthOk o.ty.slotWidth = true) :
    ∃ g, Completes (.vshuf c o) s slot h g ∧ VecResult h g o.d o.ty.slotWidth 0 (h.wholeMoulded o.d o.ty.slotWidth o.mask fun i =>
      h.elemBelow o.a o.ty.slotWidth (elemGet (h.getV o.b) o.ty.slotWidth i).toNat) :=
  wholeElements_done (exec_vshuf c o s) rfl hi hp hg (slotWidth_ok o.ty).1
    (fun _ => by simp [elemPoisoned_of_none hp, badBelow_of_none hp])

theorem completes_vslideup {o : VslideForm} (hg : h.widthOk o.ty.slotWidth = true) :
    let off := (h.usrc o.b).toNat
    ∃ g, Completes (.vslideup c o) s slot h g ∧ VecResult h g o.d o.ty.slotWidth 0 (fun i =>
      if i < off then elemGet (h.getV o.d) o.ty.slotWidth i
      else h.wholeMoulded o.d o.ty.slotWidth o.mask (fun i => h.elemBelow o.a o.ty.slotWidth (i - off)) i) := by
  intro off
  obtain ⟨g, completes, result⟩ := wholeElements_done (exec_vslideup c o s) rfl hi hp hg (slotWidth_ok o.ty).1
    (fun _ => by simp [badBelow_of_none hp])
  refine ⟨g, completes, { result with elems := fun i hi => (result.elems i hi).trans ?_ }⟩
  unfold Hart.wholeMoulded
  by_cases below : i < off
  · rw [if_pos below, if_neg (show ¬off ≤ i by omega)]
    exact ite_self _
  · rw [if_neg below, if_pos (show off ≤ i by omega)]

theorem completes_vslidedn {o : VslideForm} (hg : h.widthOk o.ty.slotWidth = true) :
    let off := (h.usrc o.b).toNat
    ∃ g, Completes (.vslidedn c o) s slot h g ∧ VecResult h g o.d o.ty.slotWidth 0
      (h.wholeMoulded o.d o.ty.slotWidth o.mask fun i => h.elemBelow o.a o.ty.slotWidth (i + off)) :=
  wholeElements_done (exec_vslidedn c o s) rfl hi hp hg (slotWidth_ok o.ty).1 (fun _ => by simp [badBelow_of_none hp])

end

/-! ## Compression and expansion (R259) -/

theorem vecResult_setV {d : VIdx} {w : Nat} {r : VReg} {elem : Nat → Word} (elems : ∀ i, i < 8192 / w → elemGet r w i = elem i) :
    VecResult h ((h.setV d r).setVstart 0) d w 0 elem where
  elems i hi := by rw [getV_setVstart, getV_setV_same, elems i hi]
  others v hv := by rw [getV_setVstart, getV_setV_other _ _ _ _ hv]
  vstart := by simp
  fcsr := by simp [Hart.raise]
  rest := by
    rw [setVstart_clean (h := h.setV d r) hp]
    rfl

/-- One position of a compression: a selected element goes to the next place. -/
def packElem (w : Nat) (sel : Nat → Bool) (src : VReg) (r : VReg × Nat) (i : Nat) : VReg × Nat :=
  if sel i then (elemSet r.1 w r.2 (elemGet src w i), r.2 + 1) else r

omit hp in
/-- Compression has packed the selected elements below `n`, in their order. -/
theorem elemGet_packed {w : Nat} (hw : w ≤ 64) (sel : Nat → Bool) (src r : VReg) (n : Nat) :
    let x := (List.range n).foldl (packElem w sel src) (r, 0)
    x.2 = ((List.range n).filter sel).length ∧ ∀ j, j < 8192 / w → elemGet x.1 w j =
      match ((List.range n).filter sel)[j]? with
      | some k => elemGet src w k
      | none => elemGet r w j := by
  induction n with
  | zero => exact ⟨rfl, fun _ _ => rfl⟩
  | succ n ih =>
    obtain ⟨count, elems⟩ := ih
    simp only [List.range_succ, List.foldl_append, List.filter_append, List.foldl_cons, List.foldl_nil, List.filter_cons, List.filter_nil,
      packElem]
    cases selected : sel n with
    | false => simpa using ⟨count, elems⟩
    | true =>
      refine ⟨by simp [count], fun j hj => ?_⟩
      simp only [if_true, count]
      by_cases here : j = ((List.range n).filter sel).length
      · rw [here, elemGet_elemSet_same _ hw (here ▸ hj), low_elemGet]
        simp
      · have old : ((List.range n).filter sel ++ [n])[j]? = ((List.range n).filter sel)[j]? := by
          rcases Nat.lt_or_gt_of_ne here with below | above
          · exact List.getElem?_append_left below
          · rw [List.getElem?_eq_none (by simp; omega), List.getElem?_eq_none above.le]
        rw [elemGet_elemSet_other _ hw here hj, elems j hj, old]

/-- One position of an expansion: a selected one takes the next element, another is zeroed or kept. -/
def spreadElem (w : Nat) (sel : Nat → Bool) (zeroing : Bool) (src : VReg) (r : VReg × Nat) (i : Nat) : VReg × Nat :=
  if sel i then (elemSet r.1 w i (elemGet src w r.2), r.2 + 1) else if zeroing then (elemSet r.1 w i 0, r.2) else r

omit hp in
/-- Expansion has laid elements out over the selected positions below `n`, and zeros over the others where it zeroes. -/
theorem elemGet_spread {w : Nat} (hw : w ≤ 64) (sel : Nat → Bool) (zeroing : Bool) (src r : VReg) (n : Nat) :
    let x := (List.range n).foldl (spreadElem w sel zeroing src) (r, 0)
    x.2 = (List.range n).countP sel ∧ ∀ j, j < 8192 / w → elemGet x.1 w j =
      if j < n ∧ sel j then elemGet src w ((List.range j).countP sel) else if j < n ∧ zeroing then 0 else elemGet r w j := by
  induction n with
  | zero => exact ⟨rfl, fun _ _ => by simp⟩
  | succ n ih =>
    obtain ⟨count, elems⟩ := ih
    have before : ∀ j, j ≠ n → (j < n + 1 ↔ j < n) := by omega
    simp only [List.range_succ, List.foldl_append, List.countP_append, List.foldl_cons, List.foldl_nil, List.countP_singleton, spreadElem]
    refine ⟨?_, fun j hj => ?_⟩
    · rw [← count]
      cases sel n with
      | true => rfl
      | false => cases zeroing <;> rfl
    by_cases here : j = n
    · subst here
      cases selected : sel j with
      | true => simp [elemGet_elemSet_same _ hw hj, low_elemGet, count]
      | false =>
        cases zeroing with
        | true => simp [elemGet_elemSet_same _ hw hj, low]
        | false => simp [elems j hj, selected]
    · simp only [before j here, ← elems j hj]
      split
      · exact elemGet_elemSet_other _ hw here hj _
      split
      · exact elemGet_elemSet_other _ hw here hj _
      · rfl

section
variable (hi : Issues 0x91 c s slot h)
include hi

theorem completes_vcompress {o : VcompressForm} (hg : h.widthOk o.ty.slotWidth = true) :
    let w := o.ty.slotWidth
    ∃ g, Completes (.vcompress c o) s slot h g ∧ VecResult h g o.d w 0 fun i =>
      match ((List.range h.vl).filter fun k => (h.getM o.m).getLsbD k)[i]? with
      | some k => elemGet (h.getV o.a) w k
      | none => elemGet (h.getV o.d) w i := by
  intro w
  obtain ⟨-, elems⟩ := elemGet_packed (slotWidth_ok o.ty).1 (fun k => (h.getM o.m).getLsbD k) (h.getV o.a) (h.getV o.d) h.vl
  refine ⟨_, completes_of (exec_vcompress c o s) hi ?_, vecResult_setV hp elems⟩
  simp only [hg, Bool.not_true, Bool.false_eq_true, if_false, unpoisoned_clean (poisoned_of_none hp _), elemPoisoned_of_none hp,
    Bool.and_false, List.any_eq_true, and_false, exists_false]
  rw [cleanV_clean (h := h.setV o.d _) hp]
  rfl

theorem completes_vexpand {o : VexpandForm} (hg : h.widthOk o.ty.slotWidth = true) :
    let w := o.ty.slotWidth
    ∃ g, Completes (.vexpand c o) s slot h g ∧ VecResult h g o.d w 0 fun i =>
      if i < h.vl ∧ (h.getM o.m).getLsbD i then elemGet (h.getV o.a) w ((List.range i).countP fun k => (h.getM o.m).getLsbD k)
      else if i < h.vl ∧ o.zeroing then 0 else elemGet (h.getV o.d) w i := by
  intro w
  obtain ⟨-, elems⟩ := elemGet_spread (slotWidth_ok o.ty).1 (fun k => (h.getM o.m).getLsbD k) o.zeroing (h.getV o.a) (h.getV o.d) h.vl
  refine ⟨_, completes_of (exec_vexpand c o s) hi ?_, vecResult_setV hp elems⟩
  simp only [hg, Bool.not_true, Bool.false_eq_true, if_false, unpoisoned_clean (poisoned_of_none hp _), elemPoisoned_of_none hp,
    List.any_eq_true, and_false, exists_false]
  rw [cleanV_clean (h := h.setV o.d _) hp]
  rfl

end
end

/-- Settles O24: each instruction by what its loop, or its whole body, writes. -/
theorem vectorMoveAndPermuteResults : Obligations.VectorMoveAndPermuteResults := by
  refine ⟨fun c s slot h hi hp hb => ⟨fun o => completes_vmerge hp hi hb, fun o => completes_vmov hp hi hb,
      fun o => completes_vsplat hp hi hb, fun o => completes_vid hp hi hb, fun o => completes_vext hp hi, fun o => completes_vins hp hi⟩,
    fun c s slot h hp => ⟨fun hi o => completes_vmrank hp hi, fun hi => ⟨fun o => completes_vshuf hp hi,
      fun o => ⟨completes_vslideup hp hi, completes_vslidedn hp hi⟩⟩,
      fun hi => ⟨fun o => completes_vcompress hp hi, fun o => completes_vexpand hp hi⟩⟩⟩

end Sys2Proof.Machine
end

section
/-! PROOFS. Reductions (R186, R187, R260, R261). -/

namespace Sys2Proof.Machine

/-! ## Sums modulo 2^w -/

theorem ofInt_int (t : Ty) (x : Word) : BitVec.ofInt t.width (t.int x) = x.setWidth t.width := by
  unfold Ty.int
  split
  · exact BitVec.ofInt_toInt
  · exact (BitVec.ofInt_natCast _ _).trans ((BitVec.ofNat_toNat _ _).trans (BitVec.setWidth_eq _))

theorem wrap_int (t : Ty) (x : Word) : wrap t.width (t.int x) = low t.width x := congrArg (BitVec.setWidth 64) (ofInt_int t x)

/-- A sum reduced at each addition is the exact sum, reduced once. -/
theorem foldl_low_add (t : Ty) (l : List Word) (init : Word) :
    l.foldl (fun x y => low t.width (x + y)) (low t.width init) = t.narrow false (t.int init + (l.map t.int).sum) := by
  induction l generalizing init with
  | nil => exact (wrap_int t init).symm.trans (congrArg (wrap t.width) (add_zero _).symm)
  | cons y l ih =>
    have added : low t.width (low t.width init + y) = low t.width (init + y) := by
      refine congrArg (BitVec.setWidth 64) ?_
      rw [BitVec.setWidth_add _ _ t.width_le, BitVec.setWidth_add _ _ t.width_le, setWidth_low t.width_le]
    have total : BitVec.ofInt t.width (t.int (init + y)) = BitVec.ofInt t.width (t.int init + t.int y) := by
      rw [BitVec.ofInt_add, ofInt_int, ofInt_int, ofInt_int, BitVec.setWidth_add _ _ t.width_le]
    rw [List.foldl_cons, added, ih, List.map_cons, List.sum_cons, ← add_assoc]
    refine congrArg (BitVec.setWidth 64) ?_
    simp only [Bool.false_eq_true, if_false]
    rw [BitVec.ofInt_add, total, ← BitVec.ofInt_add]

/-! ## The moulds -/

theorem raise_zero (h : Hart) : h.raise 0 = h := by simp [Hart.raise]

section
variable {c : Ctl} {s : State} {slot : Nat} {h : Hart} (hp : h.poison = [])
include hp

theorem completes_reduction {i : Instr} {op : Nat} {t : Ty} {d : SIdx} {a : VIdx} {b : SSrc} {m : Mask}
    {f : Hart → Word → List Word → Word × FFlags} (he : exec i s = reduction op c t d a b m s f) (hi : Issues op c s slot h)
    (hg : h.widthOk t.width = true) :
    let x := f h (low t.width (h.ssrc t b)) ((h.activeBelow m).map fun i => elemGet (h.getV a) t.width i)
    Completes i s slot h (((h.setS d (t.place x.1)).raise x.2).setVstart 0) := by
  refine completes_of he hi ?_
  simp only [hg, Bool.not_true, Bool.false_eq_true, if_false, unpoisoned_clean (poisoned_of_none hp _), elemPoisoned_of_none hp,
    List.any_eq_true, and_false, exists_false]

theorem completes_intReduce {i : Instr} {o : VecReduce} {f : Ty → Word → Word → Word} (he : exec i s = intReduce c o s f)
    (hi : Issues 0x92 c s slot h) (hg : h.widthOk o.ty.width = true) :
    Completes i s slot h ((h.setS o.d (o.ty.place (((h.activeBelow o.mask).map fun i => elemGet (h.getV o.a) o.ty.width i).foldl (f o.ty)
      (low o.ty.width (h.ssrc o.ty o.b))))).setVstart 0) := by
  have completes := completes_reduction hp he hi hg
  dsimp only at completes
  rwa [raise_zero] at completes

theorem completes_vredsum {o : VecReduce} (hi : Issues 0x92 c s slot h) (hg : h.widthOk o.ty.width = true) :
    let t := o.ty
    let l := (h.activeBelow o.mask).map fun i => elemGet (h.getV o.a) t.width i
    Completes (.vredsum c o) s slot h ((h.setS o.d (t.place (t.narrow false
      (t.int (low t.width (h.ssrc t o.b)) + (l.map t.int).sum)))).setVstart 0) := by
  intro t l
  have completes := completes_intReduce hp (exec_vredsum c o s) hi hg
  rwa [← low_low, foldl_low_add] at completes

/-- The leaves of a tree of additions: the active elements below VL, each at its position (R187). -/
def Hart.treeLeaves (h : Hart) (a : VIdx) (t : Ty) (m : Mask) : List (Option (Word × FFlags)) :=
  (List.range t.vlmax).map fun i => if i < h.vl ∧ h.active m i then some (elemGet (h.getV a) t.width i, 0) else none

theorem completes_vfredt {o : VecFloatReduce} (hi : Issues 0x93 c s slot h) (hg : h.widthOk o.ty.width = true) :
    let add := reduceAdd o.ty.fmt (h.round o.rm) h.flush
    let init := low o.ty.width (h.ssrc o.ty o.b)
    let x : Word × FFlags := match (treeSum add (Nat.log2 o.ty.vlmax) (h.treeLeaves o.a o.ty o.mask))[0]? with
      | some (some x) => add (init, 0) x
      | _ => (o.ty.fmt.flushBits h.flush init, 0)
    Completes (.vfredt c o) s slot h (((h.setS o.d x.1).raise x.2).setVstart 0) := by
  intro add init x
  refine completes_of (exec_vfredt c o s) hi ?_
  have leaves : ((List.range o.ty.vlmax).map fun i => (if decide (i < h.vl) && h.active o.mask i then
      some (elemGet (h.getV o.a) o.ty.width i, (0 : FFlags)) else none)) = h.treeLeaves o.a o.ty o.mask :=
    congrArg (List.map · _) (funext fun i => by simp)
  simp only [hg, Bool.not_true, Bool.false_eq_true, if_false, unpoisoned_clean (poisoned_of_none hp _), elemPoisoned_of_none hp,
    List.any_eq_true, and_false, exists_false, leaves, x, add, init]
  cases treeSum _ _ (h.treeLeaves o.a o.ty o.mask) with
  | nil => rfl
  | cons y l => cases y <;> rfl

end

/-- Settles O25: each reduction by the mould that it shares, VREDSUM by its sum modulo 2^w, and VFREDT by its tree. -/
theorem reductionResults : Obligations.ReductionResults := by
  refine fun c s slot h hp => ⟨fun o hi hg => ?_, fun o hi hg => ?_⟩
  · exact ⟨completes_vredsum hp hi hg, (completes_intReduce hp (exec_vredmin c o s) hi hg :), (completes_intReduce hp (exec_vredmax c o s) hi hg :),
      (completes_intReduce hp (exec_vredand c o s) hi hg :), (completes_intReduce hp (exec_vredor c o s) hi hg :),
      (completes_intReduce hp (exec_vredxor c o s) hi hg :)⟩
  · have ordered := completes_reduction hp (exec_vfredo c o s) hi hg
    refine ⟨fun none => ?_, fun some => ?_, (completes_reduction hp (exec_vfredmin c o s) hi hg :),
      (completes_reduction hp (exec_vfredmax c o s) hi hg :), completes_vfredt hp hi hg⟩
    · rwa [none] at ordered
    · obtain ⟨y, l, elems⟩ := List.exists_cons_of_ne_nil some
      rw [elems] at ordered ⊢
      exact ordered

end Sys2Proof.Machine
end

section
/-! PROOFS. The deferral queue: VDEFER, VDRAIN and VDCOUNT (R155, R262 to R264). -/

namespace Sys2Proof.Machine

/-! ## VDEFER and VDCOUNT -/

section
variable {c : Ctl} {s : State} {slot : Nat} {h : Hart} (hi : Issues 0x94 c s slot h)
include hi

section
variable {o : VdeferForm} (hp : h.poison = []) (hg : h.widthOk o.ty.width = true)
include hp hg

theorem completes_vdefer_full (full : 4096 < (h.activeBelow o.mask).length + h.defer.length) :
    Completes (.vdefer c o) s slot h ((h.setS o.d (BitVec.allOnes 64)).setVstart 0) := by
  refine completes_of (exec_vdefer c o s) hi ?_
  simp only [hg, Bool.not_true, Bool.false_eq_true, if_false, unpoisoned_clean (poisoned_of_none hp _)]
  rw [if_pos full]

theorem completes_vdefer_fits (fits : (h.activeBelow o.mask).length + h.defer.length ≤ 4096) :
    let l := h.activeBelow o.mask
    let new := l.map fun i => ({ index := h.getS o.b + BitVec.ofNat 64 i, path := o.path, v0 := deferValue h o i 0,
                                 v1 := deferValue h o i 1, v2 := deferValue h o i 2, v3 := deferValue h o i 3 } : DeferSlot)
    Completes (.vdefer c o) s slot h (({ h with defer := h.defer ++ new }.setS o.d (BitVec.ofNat 64 l.length)).setVstart 0) := by
  intro l new
  have clean : l.any (deferPoisoned h o) = false := by simp [deferPoisoned, elemPoisoned_of_none hp]
  refine completes_of (exec_vdefer c o s) hi ?_
  simp only [hg, Bool.not_true, Bool.false_eq_true, if_false, unpoisoned_clean (poisoned_of_none hp _)]
  rw [if_neg (Nat.not_lt.mpr fits), if_neg (Bool.eq_false_iff.mp clean)]

end

theorem completes_vdcount {o : VdcountForm} :
    Completes (.vdcount c o) s slot h ((h.setS o.d (BitVec.ofNat 64
      (if o.path = 16 then h.defer.length else (h.defer.filter fun x => x.path.setWidth 5 == o.path).length))).setVstart 0) := by
  have all : o.path.toNat = 16 ↔ o.path = 16 := BitVec.toNat_inj (x := o.path) (y := 16)
  have own : ∀ x : DeferSlot, (x.path.toNat == o.path.toNat) = (x.path.setWidth 5 == o.path) := fun x => by
    rw [Bool.eq_iff_iff, beq_iff_eq, beq_iff_eq, ← BitVec.toNat_inj, BitVec.toNat_setWidth_of_le (by decide)]
  refine completes_of (exec_vdcount c o s) hi ?_
  simp only [all, own]

end

/-! ## VDRAIN -/

/-- The slots that a drain takes are the oldest of the path; of the rest none is lost. -/
theorem takePath_spec (path : BitVec 4) (k i : Nat) (l : List DeferSlot) :
    let r := takePath path k i l
    r.1.map Prod.snd = (l.filter fun x => x.path == path).take k ∧
      (r.2.filter fun x => x.path == path) = (l.filter fun x => x.path == path).drop k ∧
      (r.2.filter fun x => x.path != path) = (l.filter fun x => x.path != path) ∧ r.2.Sublist l := by
  induction l generalizing k i with
  | nil => exact ⟨List.take_nil.symm, List.drop_nil.symm, rfl, List.Sublist.refl _⟩
  | cons x l ih =>
    unfold takePath
    split
    next taken =>
      obtain ⟨more, own⟩ := taken
      obtain ⟨first, left, others, sub⟩ := ih (k - 1) (i + 1)
      obtain ⟨k, rfl⟩ := Nat.exists_eq_succ_of_ne_zero more
      exact ⟨by simpa [own] using first, by simpa [own] using left, by simpa [own] using others, sub.cons x⟩
    next kept =>
      obtain ⟨first, left, others, sub⟩ := ih k (i + 1)
      refine ⟨?_, ?_, ?_, sub.cons_cons x⟩
      all_goals by_cases own : x.path = path
      · obtain rfl : k = 0 := by tauto
        simpa [own] using first
      · simpa [own] using first
      · obtain rfl : k = 0 := by tauto
        simpa [own] using left
      · simpa [own] using left
      · simpa [own] using others
      · simpa [own] using others

/-- What a drain writes: an element for each slot taken, from element 0 on. -/
theorem elemGet_drainInto {w : Nat} (hw : w ≤ 64) (f : DeferSlot → Word) (r : VReg) (l : List (Nat × DeferSlot)) {j : Nat} (hj : j < 8192 / w) :
    elemGet (drainInto w f r l) w j = match (l.map Prod.snd)[j]? with
      | some x => low w (f x)
      | none => elemGet r w j := by
  have count : ∀ l : List (Nat × DeferSlot),
      (l.foldl (fun (p : VReg × Nat) x => (elemSet p.1 w p.2 (f x.2), p.2 + 1)) (r, 0)).2 = l.length := fun l => by
    induction l using List.reverseRecOn with
    | nil => rfl
    | append_singleton l x ih => simpa using ih
  unfold drainInto
  induction l using List.reverseRecOn with
  | nil => rfl
  | append_singleton l x ih =>
    simp only [List.foldl_append, List.foldl_cons, List.foldl_nil, count, List.map_append, List.map_cons, List.map_nil]
    by_cases here : j = l.length
    · subst here
      rw [elemGet_elemSet_same _ hw hj]
      simp
    · have old : (l.map Prod.snd ++ [x.2])[j]? = (l.map Prod.snd)[j]? := by
        rcases Nat.lt_or_gt_of_ne here with below | above
        · exact List.getElem?_append_left (by simpa using below)
        · rw [List.getElem?_eq_none (by simp; omega), List.getElem?_eq_none (by simpa using above.le)]
      rw [elemGet_elemSet_other _ hw here hj, ih, old]

/-- A hart without its vector registers. -/
def Hart.sansV (h : Hart) : Hart := { h with regs := { h.regs with v := Vector.replicate 64 0 }, arriving := [] }

/-- A register each of `n` is written from what it holds. -/
def Hart.writeEach (h : Hart) (reg : Nat → VIdx) (f : Nat → VReg → VReg) (n : Nat) : Hart :=
  (List.range n).foldl (fun x k => x.setV (reg k) (f k (x.getV (reg k)))) h

section
variable (h : Hart) (reg : Nat → VIdx) (f : Nat → VReg → VReg) (n : Nat)

theorem writeEach_succ : h.writeEach reg f (n + 1) = (h.writeEach reg f n).setV (reg n) (f n ((h.writeEach reg f n).getV (reg n))) := by
  simp [Hart.writeEach, List.range_succ]

theorem sansV_writeEach : (h.writeEach reg f n).sansV = h.sansV := by
  induction n with
  | zero => rfl
  | succ n ih => rw [writeEach_succ]; exact ih

theorem getV_writeEach_other {v : VIdx} (other : ∀ k, k < n → v ≠ reg k) : (h.writeEach reg f n).getV v = h.getV v := by
  induction n with
  | zero => rfl
  | succ n ih =>
    rw [writeEach_succ, getV_setV_other _ _ _ _ (other n (Nat.lt_succ_self n)), ih fun k hk => other k (Nat.lt_succ_of_lt hk)]

theorem getV_writeEach_same {k : Nat} (hk : k < n) (apart : ∀ i j, i < n → j < n → reg i = reg j → i = j) :
    (h.writeEach reg f n).getV (reg k) = f k (h.getV (reg k)) := by
  induction n with
  | zero => omega
  | succ n ih =>
    have below : ∀ j, j < n → reg n ≠ reg j := fun j hj e => by
      have := apart n j (Nat.lt_succ_self n) (by omega) e
      omega
    rw [writeEach_succ]
    by_cases last : k = n
    · subst last
      rw [getV_setV_same, getV_writeEach_other _ _ _ _ below]
    · rw [getV_setV_other _ _ _ _ (below k (by omega)).symm, ih (by omega) fun i j hi hj => apart i j (by omega) (by omega)]

end

/-- Registers that follow one another are different ones as long as they end below 64. -/
theorem regs_apart {a : VIdx} {n i j : Nat} (fits : a.toNat + n ≤ 63) (hi : i ≤ n) (hj : j ≤ n)
    (same : a + BitVec.ofNat 6 i = a + BitVec.ofNat 6 j) : i = j := by
  bv_omega

theorem writeEach_clean {h : Hart} (hp : h.poison = []) (reg : Nat → VIdx) (f : Nat → VReg → VReg) (n w m : Nat) (all : Nat → Bool) :
    (List.range n).foldl (fun x k => (x.setV (reg k) (f k (x.getV (reg k)))).cleanV (reg k) w 0 m all) h = h.writeEach reg f n := by
  induction n with
  | zero => rfl
  | succ n ih =>
    have clean : (h.writeEach reg f n).poison = [] := (congrArg Hart.poison (sansV_writeEach h reg f n) :).trans hp
    rw [List.range_succ, List.foldl_append, ih, writeEach_succ]
    exact cleanV_clean (h := (h.writeEach reg f n).setV _ _) clean _ _ _ _ _

/-- What a VDRAIN that takes `l` leaves in its hart's vector registers. -/
def Hart.drained (h : Hart) (o : VdrainForm) (l : List (Nat × DeferSlot)) : Hart :=
  (h.setV o.d (drainInto o.ty.width (fun x => x.index) (h.getV o.d) l)).writeEach (fun k => o.a + BitVec.ofNat 6 k)
    (fun k r => drainInto o.ty.width (fun x => x.value k) r l) (o.n1.toNat + 1)

/-- A hart whose deferral queue is `l`. -/
def Hart.deferring (h : Hart) (l : List DeferSlot) : Hart := { h with defer := l }

section
variable {c : Ctl} {o : VdrainForm} {s : State} {slot : Nat} {h : Hart} (hp : h.poison = [])

theorem sansV_drained (h : Hart) (o : VdrainForm) (l : List (Nat × DeferSlot)) : (h.drained o l).sansV = h.sansV :=
  sansV_writeEach _ _ _ _

include hp in
theorem completes_vdrain (hi : Issues 0x94 c s slot h) (hg : h.widthOk o.ty.width = true) {l : List (Nat × DeferSlot)}
    {rest : List DeferSlot} (taken : takePath o.path h.vl 0 h.defer = (l, rest)) :
    Completes (.vdrain c o) s slot h ((((h.deferring rest).drained o l).setVl l.length).setVstart 0) := by
  refine completes_of (exec_vdrain c o s) hi ?_
  have unread : drainPoisoned h (o.n1.toNat + 1) l = false := by simp [drainPoisoned, hp]
  have left : ({ h with defer := rest, poison := shiftDeferPoison (l.map Prod.fst) h.poison } : Hart) = h.deferring rest := by
    rw [Hart.deferring, hp]
    rfl
  have clean : ((h.deferring rest).setV o.d (drainInto o.ty.width (fun x => x.index) ((h.deferring rest).getV o.d) l)).poison = [] := hp
  simp only [hg, Bool.not_true, Bool.false_eq_true, if_false, taken, unread, left]
  rw [cleanV_clean clean]
  exact congrArg (fun x => doneWith (noteRunning s h) slot ((Hart.setVl x l.length).setVstart 0))
    (writeEach_clean clean (fun k => o.a + BitVec.ofNat 6 k) (fun k r => drainInto o.ty.width (fun x => x.value k) r l) _ _ _ _)

theorem VdrainForm.ok_spec (ok : o.ok = true) :
    o.a.toNat + o.n1.toNat ≤ 63 ∧ ∀ k, k ≤ o.n1.toNat → o.a + BitVec.ofNat 6 k ≠ o.d := by
  obtain ⟨ok, outside⟩ := Bool.and_eq_true_iff.mp ok
  have fits := of_decide_eq_true (Bool.and_eq_true_iff.mp ok).2
  refine ⟨fits, fun k hk same => ?_⟩
  simp only [Bool.not_eq_true', Bool.and_eq_false_iff, decide_eq_false_iff_not] at outside
  bv_omega

theorem setVl_clean {h : Hart} (hp : h.poison = []) (n : Nat) : h.setVl n = { h with regs := { h.regs with vl := BitVec.ofNat 12 n } } :=
  clearPoison_clean (h := { h with regs := { h.regs with vl := BitVec.ofNat 12 n } }) hp _

theorem poison_setVl {h : Hart} (hp : h.poison = []) (n : Nat) : (h.setVl n).poison = [] := by rw [setVl_clean hp, hp]

theorem getV_setVl (h : Hart) (n : Nat) (v : VIdx) : (h.setVl n).getV v = h.getV v := by simp [Hart.getV]

section
variable (ok : o.ok = true) (l : List (Nat × DeferSlot))
include ok

theorem getV_drained_index : (h.drained o l).getV o.d = drainInto o.ty.width (fun x => x.index) (h.getV o.d) l := by
  obtain ⟨-, outside⟩ := VdrainForm.ok_spec ok
  rw [Hart.drained, getV_writeEach_other _ _ _ _ fun k hk => (outside k (by omega)).symm, getV_setV_same]

theorem getV_drained_value {k : Nat} (hk : k ≤ o.n1.toNat) :
    (h.drained o l).getV (o.a + BitVec.ofNat 6 k) =
      drainInto o.ty.width (fun x => x.value k) (h.getV (o.a + BitVec.ofNat 6 k)) l := by
  obtain ⟨fits, outside⟩ := VdrainForm.ok_spec ok
  have same := getV_writeEach_same (h.setV o.d (drainInto o.ty.width (fun x => x.index) (h.getV o.d) l)) (fun k => o.a + BitVec.ofNat 6 k)
    (fun k r => drainInto o.ty.width (fun x => x.value k) r l) (o.n1.toNat + 1) (k := k) (by omega)
    fun i j hi hj => regs_apart fits (by omega) (by omega)
  rwa [getV_setV_other _ _ _ _ (outside k hk)] at same

end

theorem getV_drained_other (l : List (Nat × DeferSlot)) {v : VIdx} (index : v ≠ o.d)
    (value : ∀ k, k ≤ o.n1.toNat → v ≠ o.a + BitVec.ofNat 6 k) : (h.drained o l).getV v = h.getV v := by
  rw [Hart.drained, getV_writeEach_other _ _ _ _ fun k hk => value k (by omega), getV_setV_other _ _ _ _ index]

end

/-- Settles O26: VDEFER by whether its elements fit, VDRAIN by the slots that it takes, and VDCOUNT by its body. -/
theorem deferralResults : Obligations.DeferralResults := by
  refine fun c s slot h hi hp => ⟨fun o hg => ⟨completes_vdefer_fits hi hp hg, completes_vdefer_full hi hp hg⟩,
    fun o wf hg => ?_, fun o _ => completes_vdcount hi⟩
  intro w mine l drained
  have ok : o.ok = true := (Bool.and_eq_true_iff.mp wf).2
  obtain ⟨first, left, others, sub⟩ := takePath_spec o.path h.vl 0 h.defer
  rcases popped : takePath o.path h.vl 0 h.defer with ⟨slots, rest⟩
  rw [popped] at first left others sub
  have length : slots.length = l.length := by rw [← List.length_map Prod.snd, first]
  have small : l.length < 4096 := (List.length_take_le _ _).trans_lt h.regs.vl.isLt
  have kept := sansV_drained (h.deferring rest) o slots
  have drains : ∀ v f, ((h.deferring rest).drained o slots).getV v = drainInto w f (h.getV v) slots →
      drained ((((h.deferring rest).drained o slots).setVl slots.length).setVstart 0) v f := fun v f e i hi => by
    rw [getV_setVstart, getV_setVl, e, elemGet_drainInto (width_ok o.ty).1 f _ _ hi, first] <;> rfl
  have defer : ((((h.deferring rest).drained o slots).setVl slots.length).setVstart 0).defer = rest := by
    rw [hart_setVstart_defer, hart_setVl_defer]
    exact congrArg Hart.defer kept
  refine ⟨_, completes_vdrain hp hi hg popped, ?_, by simp, by rw [defer]; exact left, by rw [defer]; exact others,
    by rw [defer]; exact sub, drains o.d _ (getV_drained_index ok slots), fun k hk => drains _ _ (getV_drained_value ok slots hk),
    fun v index value => ?_, ?_⟩
  · simp only [Hart.vl, hart_setVstart_regs, hart_setVl_regs, length, BitVec.toNat_ofNat]
    exact Nat.mod_eq_of_lt small
  · rw [getV_setVstart, getV_setVl, getV_drained_other slots index value]
    rfl
  · have clean : ((h.deferring rest).drained o slots).poison = [] := (congrArg Hart.poison kept :).trans hp
    rw [setVstart_clean ((poison_setVl clean slots.length)), setVl_clean clean]
    exact congrArg (fun x : Hart => { x with
      defer := h.defer, arriving := h.arriving
      regs := { x.regs with v := h.regs.v, vl := h.regs.vl, vstart := h.regs.vstart } }) kept

end Sys2Proof.Machine
end

section
/-! PROOFS. The checks of the width (R240) and of tiles and rows (R18, R280), and the bindings of streams (R265, R266). -/

namespace Sys2Proof.Machine

/-! ## The governing width (R240) -/

/-- The fields `r` of an instruction hold the guard and hints `c`, and its meaning is to issue under its OP and `c` a body
that traps VWIDTH on a hart of another width than `w`, once the tile that it names is the hart's (R280). -/
structure ChecksWidth (i : Instr) (r : Raw) (c : Ctl) (w : Nat) : Prop where
  guard : r.g = c.g
  hints : r.h = c.h
  meaning : ∀ s, ∃ body, exec i s = issue r.op.toNat c s body ∧ ∀ s slot h, h.widthOk w = false →
    (∀ z, i.tile = some z → tileOk h z = true) → body s slot h = trapRes s .vwidth 0

theorem checksWidth_of_form {i : Instr} {r f : Raw} {c : Ctl} {v w : Nat} (raw : some f = some r) (governs : some v = some w)
    (guard : f.g = c.g) (hints : f.h = c.h)
    (meaning : ∀ s, ∃ body, exec i s = issue f.op.toNat c s body ∧ ∀ s slot h, h.widthOk v = false →
      (∀ z, i.tile = some z → tileOk h z = true) → body s slot h = trapRes s .vwidth 0) : ∃ c, ChecksWidth i r c w := by
  obtain rfl := Option.some.inj raw
  obtain rfl := Option.some.inj governs
  exact ⟨c, guard, hints, meaning⟩

theorem not_widthOk {h : Hart} {w : Nat} (hg : h.widthOk w = false) : (!h.widthOk w) = true := by rw [hg]; rfl

theorem not_not_tileOk {h : Hart} {z : ZIdx} (tile : tileOk h z = true) : ¬(!tileOk h z) = true := by rw [tile]; decide

/-- Each instruction that has a governing width checks it first, or next to its tile: those that open with the check, those
whose mould does, and those of the matrix pipe. -/
theorem checksWidth_of_governs {i : Instr} {r : Raw} {w : Nat} (raw : i.raw = some r) (governs : i.governs = some w) :
    ∃ c, ChecksWidth i r c w := by
  cases i with
  | vnshr c o | vcmp c o | vmov c o | vmerge c o | vsplat c o | vext c o | vins c o | vmrank c o | vid c o | vshuf c o | vslideup c o
  | vslidedn c o | vcompress c o | vexpand c o | vfredt c o | vdefer c o | vdrain c o | vld c o | vldseg c o | vst c o | vstseg c o
  | vstc c o | eqint c o | eqmrg c o | eqnzCursorForm c o | eqnz c o | vamo c o | vlock c o | vunlock c o =>
    refine checksWidth_of_form raw governs rfl rfl fun s => ?_
    dsimp only [exec]
    delta execVnshr execVcmp execVmov execVmerge execVsplat execVext execVins execVmrank execVid execVshuf execVslideup execVslidedn
      execVcompress execVexpand execVfredt execVdefer execVdrain execVld execVldseg execVst execVstseg execVstc execEqint execEqmrg
      execEqnzCursorForm execEqnz execVamo execVlock execVunlock
    exact ⟨_, rfl, fun _ _ _ hg _ => if_pos (not_widthOk hg)⟩
  | vadd c o | vsub c o | vrsub c o | vmin c o | vmax c o | vabsd c o | vavg c o | vmul c o | vmulh c o | vmacc c o | vdiv c o | vrem c o
  | vand c o | vor c o | vxor c o | vsll c o | vsrl c o | vsra c o | vwadd c o | vwmul c o | vwmacc c o | vfadd c o | vfsub c o | vfmul c o
  | vfdiv c o | vfmin c o | vfmax c o | vfcopys c o | vfcopyn c o | vfxsign c o | vfma c o | vfms c o | vfnma c o | vfnms c o | vfwadd c o
  | vfwmul c o | vfwma c o | vfcvt c o | vfcvti c o | vicvtf c o | vredsum c o | vredmin c o | vredmax c o
  | vredand c o | vredor c o | vredxor c o | vfredo c o | vfredmin c o | vfredmax c o =>
    refine checksWidth_of_form raw governs rfl rfl fun s => ?_
    dsimp only [exec]
    delta execVadd execVsub execVrsub execVmin execVmax execVabsd execVavg execVmul execVmulh execVmacc execVdiv execVrem execVand execVor
      execVxor execVsll execVsrl execVsra execVwadd execVwmul execVwmacc execVfadd execVfsub execVfmul execVfdiv execVfmin execVfmax
      execVfcopys execVfcopyn execVfxsign execVfma execVfms execVfnma execVfnms execVfwadd execVfwmul execVfwma execVfcvt execVfcvti
      execVicvtf execVredsum execVredmin execVredmax execVredand execVredor execVredxor execVfredo execVfredmin execVfredmax
      vecBin vecWide vecFloat vecFloatWide vecUnary intReduce reduction
    exact ⟨_, rfl, fun _ _ _ hg _ => if_pos (not_widthOk hg)⟩
  | mopa c o | mops c o | mstream c o | zread c o | zwrite c o =>
    refine checksWidth_of_form raw governs rfl rfl fun s => ?_
    dsimp only [exec]
    delta execMopa execMops execMstream execZread execZwrite outerProduct
    exact ⟨_, rfl, fun _ _ _ hg tile => (if_neg (not_not_tileOk (tile _ rfl))).trans (if_pos (not_widthOk hg))⟩
  | vfsqrt c o | vfclass c o =>
    refine checksWidth_of_form raw governs rfl rfl fun s => ?_
    dsimp only [exec]
    delta execVfsqrt execVfclass vecUnary
    exact ⟨_, rfl, fun _ _ _ hg _ => if_pos (not_widthOk (by rwa [max_self]))⟩
  | _ => cases governs

/-! ## Tiles and rows (R18, R280) -/

section
variable {c : Ctl} {s : State} {slot : Nat} {h : Hart}

theorem not_tileOk {z : ZIdx} (tile : tileOk h z = false) : (!tileOk h z) = true := by rw [tile]; rfl

theorem traps_tile {i : Instr} {op : Nat} {body : State → Nat → Hart → Res} {z : ZIdx} {rest : Res} (he : exec i s = issue op c s body)
    (hi : Issues op c s slot h) (tile : tileOk h z = false) (checks : body (noteRunning s h) slot h =
      if !tileOk h z then trapRes (noteRunning s h) .zrange (z.setWidth 64) else rest) : Traps i s slot h .zrange (z.setWidth 64) :=
  traps_of he hi (checks.trans (if_pos (not_tileOk tile)))

/-- The row of a move, past the checks of its tile, its width and its operand. -/
theorem rowChecked_above {z : ZIdx} {w : Nat} {b : SSrc} {r : Nat → Res} (tile : tileOk h z = true) (width : h.widthOk w = true)
    (clean : h.poisoned (ssrcReads b) = false) (above : 255 < (h.usrc b).toNat) :
    rowChecked s h z w b r = trapRes s .zrange (h.usrc b) := by
  simp only [rowChecked, tile, width, Bool.not_true, Bool.false_eq_true, if_false, unpoisoned_clean clean, if_pos above]

end

/-- Settles O27: the width by the shape that the checked instructions share, tiles and rows by the checks that their bodies
open with. -/
theorem widthAndTileChecksTrap : Obligations.WidthAndTileChecksTrap := by
  refine ⟨fun i r c s slot h w raw parsed hi governs width tile => ?_, fun c s slot h => ⟨fun o hi tile => ?_, fun o hi tile => ?_,
    fun o hi tile width clean above => ?_, fun hi => ⟨fun o tile => ?_, fun o tile => ?_, fun o tile => ?_,
      fun o tile width clean above => ?_, fun o tile width clean above => ?_⟩, fun o hi tile => ?_⟩⟩
  · obtain ⟨c', form⟩ := checksWidth_of_governs raw governs
    obtain rfl : c' = c := Option.some.inj ((Ctl.parse_fields form.guard form.hints).symm.trans parsed)
    obtain ⟨body, issued, checks⟩ := form.meaning s
    exact traps_of issued hi (checks _ _ _ width tile)
  · exact ⟨traps_tile (show exec (.mopa c o) s = outerProduct c o false s from rfl) hi tile rfl, traps_tile (show exec (.mops c o) s = outerProduct c o true s from rfl) hi tile rfl⟩
  · exact traps_tile (exec_mstream c o s) hi tile rfl
  · refine traps_of (exec_mstream c o s) hi ?_
    simp only [tile, width, Bool.not_true, Bool.false_eq_true, if_false, unpoisoned_clean clean, if_pos above]
  · exact traps_tile (exec_zzero c o s) hi tile rfl
  · exact traps_tile (exec_zread c o s) hi tile rfl
  · exact traps_tile (exec_zwrite c o s) hi tile rfl
  · exact traps_of (exec_zread c o s) hi (rowChecked_above tile width clean above)
  · exact traps_of (exec_zwrite c o s) hi (rowChecked_above tile width clean above)
  · exact ⟨traps_tile (exec_zsave c o s) hi tile rfl, traps_tile (exec_zload c o s) hi tile rfl⟩

/-! ## Bindings of streams (R265, R266) -/

theorem streamCtl_eq (kind : Nat) (t : Ty) (nf : Nat) (idx : QIdx) :
    streamCtl kind t nf idx = BitVec.ofNat 64 (kind + 8 * t.code.toNat + 128 * nf + 1024 * idx.toNat) :=
  congrArg (BitVec.ofNat 64) (by ring)

/-- Settles O29: each form by its body. -/
theorem streamBindings : Obligations.StreamBindings := by
  refine fun c s slot h hi => ⟨fun o clean => ⟨?_, ?_⟩, fun o clean => ?_, fun o clean => ⟨fun index => ?_, fun other => ?_⟩⟩
  · exact (streamCtl_eq 1 o.ty 0 0) ▸ completes_of (exec_qsetUnit c o s) hi (unpoisoned_clean clean)
  · exact (streamCtl_eq 2 o.ty 0 0) ▸ completes_of (exec_qsetStride c o s) hi (unpoisoned_clean clean)
  · exact (streamCtl_eq 3 o.ty (o.f.toNat - 1) 0) ▸ completes_of (exec_qsetSeg c o s) hi (unpoisoned_clean clean)
  · refine (streamCtl_eq 4 o.ty 0 o.b) ▸ completes_of (exec_qsetInd c o s) hi ?_
    simp only [unpoisoned_clean clean, index, Bool.not_true, Bool.false_eq_true, if_false]
  · refine traps_of (exec_qsetInd c o s) hi ?_
    simp only [unpoisoned_clean clean, other, Bool.not_false, if_true]

end Sys2Proof.Machine
end

section
/-! PROOFS. What an access does without reading a hart: placing it, and what it notes and writes outside the harts (R197,
R269, R356), which are the same whatever harts stand in the state. -/

namespace Sys2Proof.Machine

/-- The state with other harts. -/
def State.withHarts (s : State) (x : Tbl Hart) : State := { s with harts := x }

section
variable (s : State) (x : Tbl Hart)

/-! ## What an access notes -/

theorem touchWords_withHarts (pa n : Nat) : touchWords (s.withHarts x) pa n = (touchWords s pa n).withHarts x :=
  List.foldl_hom (State.withHarts · x) fun _ _ => rfl

theorem meetPage_withHarts (part va pa : Nat) (pte : Word) :
    meetPage (s.withHarts x) part va pa pte = (meetPage s part va pa pte).withHarts x := by
  unfold meetPage
  simp only [apply_ite (State.withHarts · x)]
  rfl

theorem countRepl_withHarts (die g pa : Nat) (write : Bool) :
    countRepl (s.withHarts x) die g pa write = (countRepl s die g pa write).withHarts x := by
  unfold countRepl
  simp only [apply_ite (State.withHarts · x)]
  rfl

theorem rememberAt_withHarts (slot part va pa : Nat) (pte : Word) :
    rememberAt (s.withHarts x) slot part va pa pte = (rememberAt s slot part va pa pte).withHarts x := by
  unfold rememberAt remember
  simp only [apply_ite (State.withHarts · x)]
  rfl

theorem noteTouch_withHarts (slot part va pa n : Nat) (pte : Word) (write : Bool) :
    noteTouch (s.withHarts x) slot part va pa n pte write = (noteTouch s slot part va pa n pte write).withHarts x := by
  unfold noteTouch
  simp only [apply_ite (State.withHarts · x), ← meetPage_withHarts, ← countRepl_withHarts, ← touchWords_withHarts]

theorem noteAccess_withHarts (slot part va pa n : Nat) (pte : Word) (write : Bool) :
    noteAccess (s.withHarts x) slot part va pa n pte write = (noteAccess s slot part va pa n pte write).withHarts x := by
  rw [noteAccess, rememberAt_withHarts, noteTouch_withHarts, noteAccess]

theorem markPinRead_withHarts (slot pa n : Nat) : markPinRead (s.withHarts x) slot pa n = (markPinRead s slot pa n).withHarts x := by
  unfold markPinRead
  cases pairOfAgent slot with
  | none => rfl
  | some k =>
    simp only [apply_ite (State.withHarts · x)]
    rfl

theorem delayStore_withHarts (slot : Nat) (vec : Bool) (part page pa n : Nat) :
    delayStore (s.withHarts x) slot vec part page pa n = (delayStore s slot vec part page pa n).withHarts x := by
  unfold delayStore
  cases pairOfAgent slot with
  | none => rfl
  | some k =>
    simp only [apply_ite (State.withHarts · x)]
    rfl

omit x in
theorem delayStore_harts (slot : Nat) (vec : Bool) (part page pa n : Nat) : (delayStore s slot vec part page pa n).harts = s.harts := by
  obtain ⟨l, delayed⟩ := delayStore_eq s slot vec part page pa n
  rw [delayed]

/-! ## What a store writes -/

theorem reflect_withHarts (slot part w : Nat) (e : BitVec 512) (va : Nat) (pl : Payload) :
    reflect (s.withHarts x) slot part w e va pl = (reflect s slot part w e va pl).withHarts x := by
  refine List.foldl_hom (State.withHarts · x) fun t k => ?_
  have route : fixRoute (t.withHarts x) (winDev e k) (winRwin e k) = (fixRoute t (winDev e k) (winRwin e k)).withHarts x := by
    unfold fixRoute
    simp only [apply_ite (State.withHarts · x)]
    rfl
  simp only [sendOne, route]
  rfl

theorem hostLinkError_withHarts (p pa : Nat) : hostLinkError (s.withHarts x) p pa = (hostLinkError s p pa).withHarts x := by
  have recorded : recordError (s.withHarts x) p 6 pa = (recordError s p 6 pa).withHarts x := by
    unfold recordError
    simp only [apply_ite (State.withHarts · x)]
    rfl
  rw [hostLinkError, recorded]
  rfl

theorem coverMemory_withHarts (slot a n : Nat) : coverMemory (s.withHarts x) slot a n = (coverMemory s slot a n).withHarts x := by
  have kept : (s.withHarts x).memPoison = s.memPoison := rfl
  unfold coverMemory
  rw [kept]
  cases s.memPoison <;> rfl

theorem physWrite_withHarts (pa : Nat) (bs : List Byte) : physWrite (s.withHarts x) pa bs = (physWrite s pa bs).withHarts x := rfl

/-- What a store to host memory records of its hart is the same of one of the same identity. -/
theorem hostStoreOf_withHarts (m : Maker) (part pa n : Nat)
    (ids : (tblGet x m.slot).map Hart.ids = (s.hart? m.slot).map Hart.ids) :
    hostStoreOf (s.withHarts x) m part pa n = hostStoreOf s m part pa n := by
  have stands : (s.withHarts x).hart? m.slot = tblGet x m.slot := rfl
  unfold hostStoreOf
  rw [stands]
  cases here : tblGet x m.slot with
  | none =>
    have there : s.hart? m.slot = none := by simpa [here] using ids.symm
    rw [there]
    rfl
  | some y =>
    obtain ⟨z, there, same⟩ : ∃ z, s.hart? m.slot = some z ∧ z.ids = y.ids := by simpa [here, eq_comm] using ids
    rw [there]
    dsimp only
    rw [same]
    rfl

theorem writePhys_withHarts (m : Maker) (part pa : Nat) (bs : List Byte)
    (ids : (tblGet x m.slot).map Hart.ids = (s.hart? m.slot).map Hart.ids) :
    writePhys (s.withHarts x) m part pa bs = (writePhys s m part pa bs).withHarts x := by
  unfold writePhys
  simp only [apply_ite (State.withHarts · x), hostStoreOf_withHarts s x m part pa bs.length ids, hostLinkError_withHarts,
    physWrite_withHarts, coverMemory_withHarts]
  rfl

theorem performStore_withHarts (slot part : Nat) (vec : Bool) (pa : Nat) (pte va : Word) (bs : List Byte)
    (ids : (tblGet x slot).map Hart.ids = (s.hart? slot).map Hart.ids) :
    performStore (s.withHarts x) slot vec part (.mem pa pte) va bs =
      (performStore s slot vec part (.mem pa pte) va bs).withHarts x := by
  have write : ∀ t : State, t.harts = s.harts → writePhys (t.withHarts x) (.instr slot vec) part pa bs =
      (writePhys t (.instr slot vec) part pa bs).withHarts x := fun t harts =>
    writePhys_withHarts t x _ part pa bs (by rw [State.hart?, harts]; exact ids)
  have window : (s.withHarts x).window (pteAux pte) = s.window (pteAux pte) := rfl
  unfold performStore
  by_cases wtype : (pteWtype pte == 1) = true
  · simp only [wtype, if_true, window]
    cases s.window (pteAux pte) with
    | none => rfl
    | some w =>
      simp only [rememberAt_withHarts, reflect_withHarts, noteAccess_withHarts, apply_ite (State.withHarts · x)]
      congr 1
      refine write _ ?_
      obtain ⟨l, remembered⟩ := rememberAt_eq s slot part va.toNat pa pte
      obtain ⟨r, i, e, sent, -⟩ := reflect_eq { s with tlb := l } slot part (pteAux pte) w va.toNat (.store bs [])
      rw [(touches_noteAccess _ _ _ _ _ _ _ _).harts, remembered, sent]
  · simp only [wtype, Bool.false_eq_true, if_false, storeLocal, noteAccess_withHarts, delayStore_withHarts]
    refine write _ ?_
    exact (delayStore_harts _ _ _ _ _ _ _).trans (touches_noteAccess _ _ _ _ _ _ _ _).harts

/-! ## Where an access goes -/

theorem walk_withHarts (pn page : Nat) : walk (s.withHarts x) pn page = walk s pn page := rfl

theorem place_withHarts (slot : Nat) (h : Hart) (va : Word) (n : Nat) (write : Bool) :
    place (s.withHarts x) slot h va n write = place s slot h va n write := rfl

theorem checkStore_withHarts (slot : Nat) (h : Hart) (va : Word) (n : Nat) (reflectable : Bool) :
    checkStore (s.withHarts x) slot h va n reflectable = checkStore s slot h va n reflectable := rfl

theorem load_withHarts (slot : Nat) (h : Hart) (va : Word) (n : Nat) :
    load (s.withHarts x) slot h va n = (load s slot h va n).map fun r => (r.1.withHarts x, r.2) := by
  have link : ∀ pa, hostReadFails (s.withHarts x) pa n = hostReadFails s pa n := fun _ => rfl
  have pin : ∀ pa, pinnedElsewhere (s.withHarts x) (pairOfAgent slot) pa n = pinnedElsewhere s (pairOfAgent slot) pa n := fun _ => rfl
  have poison : ∀ pa, readPoison (s.withHarts x) slot pa n = readPoison s slot pa n := fun _ => rfl
  unfold load
  rw [place_withHarts]
  generalize place s slot h va n false = pl
  match pl with
  | .error d => rfl
  | .ok (.scratch o) =>
    dsimp only
    cases poisonedIn h.scratchPoison o n <;> rfl
  | .ok (.mem pa e) =>
    dsimp only
    simp only [link, pin, poison, markPinRead_withHarts, noteAccess_withHarts]
    cases hostReadFails s pa n
    · cases pinnedElsewhere s (pairOfAgent slot) pa n
      · cases readPoison s slot pa n <;> rfl
      · rfl
    · rfl

end

end Sys2Proof.Machine
end

section
/-! PROOFS. States that differ in the counters and the Lantern's side of one hart. What the pop of the gather lists leaves
there decides nothing that a stream access does (R147, R149): it performs the same from either. -/

namespace Sys2Proof.Machine

/-! ## The hart -/

/-- The hart with other performance counters and another Lantern's side. -/
def Hart.sided (h : Hart) (p : RegFile 4 Word) (l : LanternSide) : Hart := { h with perf := p, lantern := l }

/-- An operation on a hart that neither reads nor writes the counters and the Lantern's side. -/
def SideBlind (f : Hart → Hart) : Prop := ∀ h p l, f (h.sided p l) = (f h).sided p l

theorem sideBlind_clearPoison (is : RegLoc → Bool) : SideBlind fun h => clearPoison h is := fun h p l => by
  have kept : (h.sided p l).poison = h.poison := rfl
  dsimp only
  unfold clearPoison
  rw [kept]
  cases h.poison <;> rfl

theorem sideBlind_setQ (i : QIdx) (q : Stream) : SideBlind fun h => h.setQ i q := fun h p l =>
  sideBlind_clearPoison _ { h with regs := { h.regs with q := rset h.regs.q i q } } p l

theorem sideBlind_setVstart (n : Nat) : SideBlind fun h => h.setVstart n := fun h p l =>
  sideBlind_clearPoison _ { h with regs := { h.regs with vstart := BitVec.ofNat 11 n } } p l

theorem sideBlind_advanceStream (q : QIdx) (n : Nat) : SideBlind fun h => advanceStream h q n := fun h p l => by
  have same : (h.sided p l).getQ q = h.getQ q := rfl
  have first : (h.sided p l).setQ q { h.getQ q with pos := (h.getQ q).pos + BitVec.ofNat 64 n } =
      (h.setQ q { h.getQ q with pos := (h.getQ q).pos + BitVec.ofNat 64 n }).sided p l := sideBlind_setQ _ _ h p l
  unfold advanceStream
  dsimp only
  rw [same, first]
  split
  · exact sideBlind_setQ _ _ _ p l
  · rfl

theorem sideBlind_writeScratch (o : Nat) (bs : List Byte) : SideBlind fun h => h.writeScratch o bs := fun h p l => by
  have bytes : ∀ (bs : List Byte) (h : Hart) (o : Nat), writeScratchFrom (h.sided p l) o bs = (writeScratchFrom h o bs).sided p l := by
    intro bs
    induction bs with
    | nil => exact fun _ _ => rfl
    | cons b bs ih => exact fun h o => ih (h.setScratchByte o b) (o + 1)
  unfold Hart.writeScratch
  dsimp only
  rw [bytes]
  rfl

theorem popOwn_eq (h : Hart) (found : Option Bool) : ∃ p l, h.popOwn found = h.sided p l := by
  unfold Hart.popOwn
  cases h.lantern.popped with
  | some _ => exact ⟨_, _, rfl⟩
  | none =>
    cases found with
    | some _ => exact ⟨_, _, rfl⟩
    | none => exact resolveAlone_eq _

/-- What the pop of an access's entries leaves of its hart. -/
theorem popGather_eq (s : State) (slot : Nat) (h : Hart) (addrs : List Nat) : ∃ p l, h.popGather s slot addrs = h.sided p l :=
  popOwn_eq _ _

theorem scratchCheck_sided (h : Hart) (p : RegFile 4 Word) (l : LanternSide) (va n : Nat) :
    scratchCheck (h.sided p l) va n = scratchCheck h va n := by
  have ids : (h.sided p l).ids = h.ids := rfl
  have owners : ∀ g k, (h.sided p l).ownersPoisoned g k = h.ownersPoisoned g k := fun _ _ => rfl
  have granules : ∀ k, (h.sided p l).granule k = h.granule k := fun _ => rfl
  simp only [scratchCheck, ids, owners, granules]

theorem translatePage_sided (s : State) (slot : Nat) (h : Hart) (p : RegFile 4 Word) (l : LanternSide) (r : List Byte) (va : Nat)
    (write : Bool) : translatePage s slot (h.sided p l) r va write = translatePage s slot h r va write := rfl

theorem place_sided (s : State) (slot : Nat) (h : Hart) (p : RegFile 4 Word) (l : LanternSide) (va : Word) (n : Nat) (write : Bool) :
    place s slot (h.sided p l) va n write = place s slot h va n write := by
  have task : hartTask s (h.sided p l) = hartTask s h := rfl
  have ids : (h.sided p l).ids = h.ids := rfl
  simp only [place, scratchCheck_sided, task, ids, translatePage_sided]

theorem load_sided (s : State) (slot : Nat) (h : Hart) (p : RegFile 4 Word) (l : LanternSide) (va : Word) (n : Nat) :
    load s slot (h.sided p l) va n = load s slot h va n := by
  unfold load
  rw [place_sided]
  rfl

theorem elementWriteCheck_sided (s : State) (slot : Nat) (h : Hart) (p : RegFile 4 Word) (l : LanternSide) (va : Word) (n : Nat)
    (limit : Option Nat) (reflectable : Bool) :
    elementWriteCheck s slot (h.sided p l) va n limit reflectable = elementWriteCheck s slot h va n limit reflectable := by
  unfold elementWriteCheck checkStore
  rw [place_sided]
  rfl

/-! ## The state -/

/-- `t` is `s` but for the counters and the Lantern's side of the hart of a slot, which stands and holds no poison. -/
structure Alike (slot : Nat) (s t : State) : Prop where
  state : t = s.withHarts t.harts
  others : ∀ k, k ≠ slot → t.hart? k = s.hart? k
  hart : ∃ y p l, s.hart? slot = some y ∧ t.hart? slot = some (y.sided p l) ∧ y.poison = []

section
variable {slot : Nat} {s t u : State}

theorem alike_refl {y : Hart} (stands : s.hart? slot = some y) (clean : y.poison = []) : Alike slot s s :=
  ⟨rfl, fun _ _ => rfl, y, y.perf, y.lantern, stands, stands, clean⟩

theorem alike_symm (st : Alike slot s t) : Alike slot t s := by
  obtain ⟨y, p, l, stands, sided, clean⟩ := st.hart
  refine ⟨?_, fun k hk => (st.others k hk).symm, y.sided p l, y.perf, y.lantern, sided, stands, clean⟩
  rw [st.state]
  rfl

theorem alike_trans (st : Alike slot s t) (tu : Alike slot t u) : Alike slot s u := by
  obtain ⟨y, p, l, stands, sided, clean⟩ := st.hart
  obtain ⟨y', p', l', stands', sided', -⟩ := tu.hart
  obtain rfl := Option.some.inj (stands'.symm.trans sided)
  refine ⟨?_, fun k hk => (tu.others k hk).trans (st.others k hk), y, p', l', stands, sided', clean⟩
  rw [tu.state, st.state]
  rfl

theorem alike_setHart {y : Hart} (stands : s.hart? slot = some y) (clean : y.poison = []) (p : RegFile 4 Word) (l : LanternSide) :
    Alike slot s (s.setHart slot (y.sided p l)) :=
  ⟨rfl, fun _ hk => hart_setHart_other _ _ _ _ hk, y, p, l, stands, hart_setHart_same _ _ _, clean⟩

/-- An operation that leaves the harts alone, done on both. -/
theorem alike_withHarts (st : Alike slot s t) (harts : u.harts = s.harts) : Alike slot u (u.withHarts t.harts) := by
  have same : ∀ k, u.hart? k = s.hart? k := fun k => by rw [State.hart?, harts, State.hart?]
  obtain ⟨y, p, l, stands, sided, clean⟩ := st.hart
  exact ⟨rfl, fun k hk => (st.others k hk).trans (same k).symm, y, p, l, (same slot).trans stands, sided, clean⟩

theorem alike_ids (st : Alike slot s t) : (tblGet t.harts slot).map Hart.ids = (s.hart? slot).map Hart.ids := by
  obtain ⟨y, p, l, stands, sided, -⟩ := st.hart
  have sided : tblGet t.harts slot = some (y.sided p l) := sided
  rw [stands, sided]
  rfl

/-- An operation on the hart that leaves no poison in it, done on both. -/
theorem alike_modHart (st : Alike slot s t) {f : Hart → Hart} (blind : SideBlind f) (kept : ∀ y, y.poison = [] → (f y).poison = []) :
    Alike slot (s.modHart slot f) (t.modHart slot f) := by
  obtain ⟨y, p, l, stands, sided, clean⟩ := st.hart
  rw [modHart_eq_setHart stands, modHart_eq_setHart sided, blind]
  refine ⟨?_, fun k hk => ?_, f y, p, l, hart_setHart_same _ _ _, hart_setHart_same _ _ _, kept y clean⟩
  · rw [st.state]
    rfl
  · rw [hart_setHart_other _ _ _ _ hk, hart_setHart_other _ _ _ _ hk, st.others k hk]

theorem alike_popGather {y : Hart} (stands : s.hart? slot = some y) (clean : y.poison = []) (addrs : List Nat) :
    Alike slot s (s.modHart slot fun y => y.popGather s slot addrs) := by
  obtain ⟨p, l, popped⟩ := popGather_eq s slot y addrs
  rw [modHart_eq_setHart stands, popped]
  exact alike_setHart stands clean p l

theorem alike_noteRead {y : Hart} (stands : s.hart? slot = some y) (clean : y.poison = []) (va : Word) (n : Nat) :
    Alike slot s (noteRead s slot va n) := by
  unfold noteRead
  rw [stands]
  dsimp only
  split
  · exact alike_refl stands clean
  · obtain ⟨l, read⟩ := readAt_eq s slot va.toNat n y
    rw [read]
    exact alike_setHart stands clean y.perf l

/-! ## Reads -/

theorem hartAt_of {y : Hart} (stands : s.hart? slot = some y) (h : Hart) : hartAt s slot h = y := by rw [hartAt, stands, Option.getD_some]

variable (h : Hart)

theorem load_alike (st : Alike slot s t) {va : Word} {n : Nat} {bs : List Byte} (loaded : load s slot (hartAt s slot h) va n = .ok (u, bs)) :
    ∃ v, load t slot (hartAt t slot h) va n = .ok (v, bs) ∧ Alike slot u v := by
  obtain ⟨y, p, l, stands, sided, -⟩ := st.hart
  rw [hartAt_of stands] at loaded
  rw [hartAt_of sided]
  refine ⟨u.withHarts t.harts, ?_, alike_withHarts st (load_mem_harts loaded).2⟩
  rw [st.state, load_withHarts, load_sided, loaded]
  rfl

theorem elementRead_alike (st : Alike slot s t) {va : Word} {n : Nat} {limit : Option Nat} {x : Nat}
    (read : elementRead s slot (hartAt s slot h) va n limit = .ok (u, x)) :
    ∃ v, elementRead t slot (hartAt t slot h) va n limit = .ok (v, x) ∧ Alike slot u v := by
  unfold elementRead at read ⊢
  cases checked : elementCheck va n limit with
  | error d => simp [checked] at read
  | ok _ =>
    cases loaded : load s slot (hartAt s slot h) va n with
    | error d => simp [checked, loaded, Except.map] at read
    | ok r =>
      obtain ⟨s1, bs⟩ := r
      obtain ⟨t1, loaded', alike⟩ := load_alike h st loaded
      simp only [checked, loaded, Except.map, Except.ok.injEq, Prod.mk.injEq] at read
      obtain ⟨rfl, rfl⟩ := read
      obtain ⟨y, p, l, stands, sided, clean⟩ := alike.hart
      refine ⟨noteRead t1 slot va n, by simp only [loaded', Except.map], ?_⟩
      exact alike_trans (alike_symm (alike_noteRead stands clean va n)) (alike_trans alike (alike_noteRead sided clean va n))

theorem streamAddr_alike (st : Alike slot s t) {q : Stream} {i : Nat} {a : Word}
    (addr : streamAddr s slot (hartAt s slot h) q i = .ok (u, a)) :
    ∃ v, streamAddr t slot (hartAt t slot h) q i = .ok (v, a) ∧ Alike slot u v := by
  have idx : (hartAt t slot h).getQ q.idx = (hartAt s slot h).getQ q.idx := by
    obtain ⟨y, p, l, stands, sided, -⟩ := st.hart
    rw [hartAt_of stands, hartAt_of sided]
    rfl
  unfold streamAddr at addr ⊢
  by_cases indirect : q.kind = 4
  · simp only [indirect, if_true, idx] at addr ⊢
    cases read : elementRead s slot (hartAt s slot h) (((hartAt s slot h).getQ q.idx).direct i)
        ((hartAt s slot h).getQ q.idx).ety.bytes ((hartAt s slot h).getQ q.idx).limit with
    | error d => simp [read] at addr
    | ok r =>
      obtain ⟨s1, x⟩ := r
      obtain ⟨t1, read', alike⟩ := elementRead_alike h st read
      simp only [read, Except.ok.injEq, Prod.mk.injEq] at addr
      obtain ⟨rfl, rfl⟩ := addr
      exact ⟨t1, by simp only [read'], alike⟩
  · simp only [indirect, if_false, Except.ok.injEq, Prod.mk.injEq] at addr ⊢
    obtain ⟨rfl, rfl⟩ := addr
    exact ⟨t, ⟨rfl, rfl⟩, st⟩

/-! ## Writes -/

theorem elementWriteCheck_alike (st : Alike slot s t) (va : Word) (n : Nat) (limit : Option Nat) (reflectable : Bool) :
    elementWriteCheck t slot (hartAt t slot h) va n limit reflectable = elementWriteCheck s slot (hartAt s slot h) va n limit reflectable := by
  obtain ⟨y, p, l, stands, sided, -⟩ := st.hart
  rw [hartAt_of stands, hartAt_of sided, elementWriteCheck_sided, st.state]
  unfold elementWriteCheck
  rw [checkStore_withHarts]

theorem segmentCheck_alike (st : Alike slot s t) (a : Word) (n f k : Nat) :
    segmentCheck t slot (hartAt t slot h) a n f k = segmentCheck s slot (hartAt s slot h) a n f k := by
  induction f generalizing k with
  | zero => rfl
  | succ f ih => simp only [segmentCheck, elementWriteCheck_alike h st, ih]

omit h in
theorem storeScratch_alike (st : Alike slot s t) (o : Nat) (bs : List Byte) :
    Alike slot (storeScratch s slot o bs) (storeScratch t slot o bs) := by
  have written := alike_modHart st (sideBlind_writeScratch o bs) fun y clean => by
    obtain ⟨m, e⟩ := writeScratchFrom_eq bs y o
    rw [Hart.writeScratch, e]
    exact clean
  unfold storeScratch storeScratchAs
  dsimp only
  generalize s.modHart slot (fun h => h.writeScratch o bs) = s1 at written ⊢
  generalize t.modHart slot (fun h => h.writeScratch o bs) = t1 at written ⊢
  obtain ⟨y, p, l, stands, sided, clean⟩ := written.hart
  have overwritten : t1.overwritten = s1.overwritten := by rw [written.state]; rfl
  have poison : (y.sided p l).scratchPoison = y.scratchPoison := rfl
  simp only [stands, sided, Option.map_some, poison, overwritten]
  cases y.scratchPoison with
  | nil => exact written
  | cons w ws =>
    obtain ⟨state, others, hart⟩ := alike_modHart written (f := fun h => { h with scratchPoison := (w :: ws).filter fun x =>
      !(coveredWords (addCovered s1.overwritten slot true (w :: ws) o bs.length) slot true).contains x }) (fun _ _ _ => rfl) fun _ clean => clean
    exact ⟨congrArg (fun x : State => { x with
      overwritten := (addCovered s1.overwritten slot true (w :: ws) o bs.length).filter fun e => e.mask != 255 }) state, others, hart⟩

omit h in
theorem performStore_alike (st : Alike slot s t) (vec : Bool) (part : Nat) (pl : Place) (va : Word) (bs : List Byte) :
    Alike slot (performStore s slot vec part pl va bs) (performStore t slot vec part pl va bs) := by
  cases pl with
  | scratch o => exact storeScratch_alike st o bs
  | mem pa pte =>
    rw [st.state, performStore_withHarts s t.harts slot part vec pa pte va bs (alike_ids st)]
    exact alike_withHarts st (performStore_harts s slot part vec va bs pa pte)

omit h in
theorem performAll_alike (st : Alike slot s t) (part : Nat) (ws : List CheckedWrite) :
    Alike slot (ws.foldl (CheckedWrite.perform slot part) s) (ws.foldl (CheckedWrite.perform slot part) t) := by
  induction ws generalizing s t with
  | nil => exact st
  | cons w ws ih => exact ih (performStore_alike st true part w.place w.va w.bytes)

theorem performElement_alike (st : Alike slot s t) {m : Mask} {ordered : Bool} {i : Nat} {ws : List CheckedWrite}
    (performed : performElement slot h m ordered i (s, ws) = .ok u) :
    ∃ v, performElement slot h m ordered i (t, ws) = .ok v ∧ Alike slot u v := by
  have hold : ∀ l, orderedHold t slot ordered l = orderedHold s slot ordered l := fun l => by rw [st.state]; rfl
  unfold performElement at performed ⊢
  dsimp only at performed ⊢
  rw [hold]
  split at performed
  · cases performed
  · obtain rfl := Except.ok.inj performed
    exact ⟨_, rfl, performAll_alike st h.ids.part ws⟩

theorem storeElem_alike (st : Alike slot s t) {m : Mask} {ordered : Bool} {i : Nat} {a : Word} {n : Nat} {limit : Option Nat} {x : Word}
    (stored : storeElem s slot h m ordered i a n limit x = .ok u) :
    ∃ v, storeElem t slot h m ordered i a n limit x = .ok v ∧ Alike slot u v := by
  unfold storeElem at stored ⊢
  rw [elementWriteCheck_alike h st]
  split at stored
  · cases stored
  · exact performElement_alike h st stored

end

end Sys2Proof.Machine
end

section
/-! PROOFS. Vector stores (R267 to R273): a loop performs the stores of the statement's run, from whichever pop it starts, and
a `.u` store of distinct addresses takes that loop. -/

namespace Sys2Proof.Machine

/-! ## The loop -/

section
variable {slot : Nat} {h : Hart} {m : Mask} {f : Nat → State → Except Denied State} {st : Nat → State} {s t : State}

/-- An operation on an element answers the same in states that are alike. -/
def RunsAlike (slot : Nat) (f : Nat → State → Except Denied State) : Prop :=
  ∀ i s t u, Alike slot s t → f i s = .ok u → ∃ v, f i t = .ok v ∧ Alike slot u v

theorem eachPos_alike (hp : h.poison = []) (sim : RunsAlike slot f) (runs : RunsFrom (h.active m) f st h.vstart (max h.vstart h.vl))
    (start : Alike slot (st h.vstart) t) :
    ∃ z, eachPos (h.underMask m f fun _ s => .ok s) (h.vl - h.vstart) h.vstart none t = .finished z ∧
      Alike slot (st (max h.vstart h.vl)) z := by
  have last : h.vstart + (h.vl - h.vstart) = max h.vstart h.vl := by omega
  rw [← last]
  refine eachPos_finished (P := fun i x => Alike slot (st i) x) start fun i x lo hi alike => ?_
  have run := runs i lo (by omega)
  rw [underMask_clean hp]
  cases active : h.active m i with
  | true =>
    rw [active, if_pos rfl] at run
    exact sim i _ _ _ alike run
  | false =>
    rw [active, if_neg Bool.false_ne_true] at run
    exact ⟨x, rfl, run ▸ alike⟩

/-- A stream access whose positions all perform, from any pop of its gather lists. -/
theorem streamLoop_alike (hp : h.poison = []) (stands : s.hart? slot = some h) (budget : s.budget = none) (sim : RunsAlike slot f)
    {addrs : List Nat} (start : st h.vstart = s.modHart slot fun y => y.popGather s slot addrs)
    (runs : RunsFrom (h.active m) f st h.vstart (max h.vstart h.vl)) (addrs' : List Nat) (ahead : Bool) (fin : State → Res) :
    ∃ z, streamLoop s slot h m addrs' ahead f (fun _ s => .ok s) fin = fin z ∧ Alike slot (st (max h.vstart h.vl)) z := by
  have pops := alike_trans (alike_symm (alike_popGather stands hp addrs)) (alike_popGather stands hp addrs')
  obtain ⟨z, finished, alike⟩ := eachPos_alike hp sim runs (start ▸ pops)
  have unlimited : (s.modHart slot fun y => y.popGather s slot addrs').budget = none := by
    rw [modHart_eq_setHart stands]
    exact budget
  refine ⟨z, ?_, alike⟩
  simp only [streamLoop, unlimited, finished]

end

/-! ## The completion -/

/-- An instruction that ends in a state like `t` with its hart moved on completes in `t`. -/
theorem completesIn_alike {i : Instr} {op : Nat} {c : Ctl} {s t z : State} {slot : Nat} {h : Hart} {body : State → Nat → Hart → Res}
    {f : Hart → Hart} (he : exec i s = issue op c s body) (hi : Issues op c s slot h) (blind : SideBlind f) (alike : Alike slot t z)
    (ends : body (noteRunning s h) slot h = .done (z.modHart slot f)) :
    ∃ y, t.hart? slot = some y ∧ y.poison = [] ∧ CompletesIn i s (t.setHart slot (f y)) slot (f y) := by
  obtain ⟨y, p, l, stands, sided, clean⟩ := alike.hart
  obtain ⟨v, runs, completed⟩ := completesIn_of he hi ends (hart_modHart_same sided f)
  rw [blind] at completed
  obtain ⟨hart, others, rest⟩ := completedAs_congr (g' := f y) completed rfl rfl rfl
  refine ⟨y, stands, clean, v, runs, hart, fun k hk => ?_, rest.trans ?_⟩
  · rw [others k hk, hart_modHart_other _ _ _ _ hk, alike.others k hk, hart_setHart_other _ _ _ _ hk]
  · rw [modHart_eq_setHart sided, alike.state]
    rfl

/-! ## The stream -/

theorem setQ_clean {h : Hart} (hp : h.poison = []) (i : QIdx) (q : Stream) :
    h.setQ i q = { h with regs := { h.regs with q := rset h.regs.q i q } } :=
  clearPoison_clean (h := { h with regs := { h.regs with q := rset h.regs.q i q } }) hp _

/-- QPOS moves on in the stream registers alone. -/
theorem advanceStream_clean {h : Hart} (hp : h.poison = []) (q : QIdx) (n : Nat) :
    ∃ x, advanceStream h q n = { h with regs := { h.regs with q := x } } := by
  unfold advanceStream
  dsimp only
  rw [setQ_clean hp]
  split
  · exact ⟨_, setQ_clean (h := { h with regs := { h.regs with q := rset h.regs.q q _ } }) hp _ _⟩
  · exact ⟨_, rfl⟩

/-- What the completion of a stream access makes of its hart. -/
theorem streamedFrom_finish {y : Hart} (clean : y.poison = []) (q : QIdx) (n : Nat) :
    StreamedFrom y ((advanceStream y q n).setVstart 0) q n := by
  obtain ⟨x, advanced⟩ := advanceStream_clean clean q n
  rw [StreamedFrom, advanced, setVstart_clean (h := { y with regs := { y.regs with q := x } }) clean]
  exact ⟨rfl, rfl, rfl⟩

theorem sideBlind_finish (q : QIdx) (n : Nat) : SideBlind fun h => (advanceStream h q n).setVstart 0 := fun h p l => by
  have advanced := sideBlind_advanceStream q n h p l
  dsimp only at advanced ⊢
  rw [advanced]
  exact sideBlind_setVstart 0 _ p l

/-! ## The elements -/

theorem runsAlike_stream {slot : Nat} (h : Hart) (q : Stream) {g : Nat → State × Word → Except Denied State}
    (sim : ∀ i a s t u, Alike slot s t → g i (s, a) = .ok u → ∃ v, g i (t, a) = .ok v ∧ Alike slot u v) :
    RunsAlike slot fun i s => (streamAddr s slot (hartAt s slot h) q i).bind (g i) := by
  intro i s t u alike ran
  dsimp only at ran ⊢
  cases addr : streamAddr s slot (hartAt s slot h) q i with
  | error d => simp [addr, Except.bind] at ran
  | ok r =>
    rw [addr] at ran
    obtain ⟨t1, addr', alike'⟩ := streamAddr_alike h alike addr
    rw [addr']
    exact sim i r.2 _ _ _ alike' ran

theorem runsAlike_segments {slot : Nat} (h : Hart) (m : Mask) (ordered : Bool) (a : Nat → Word) (n fields : Nat)
    (ws : Nat → List (Word × Place) → List CheckedWrite) :
    RunsAlike slot fun i s => (segmentCheck s slot (hartAt s slot h) (a i) n fields 0).bind fun pls =>
      performElement slot h m ordered i (s, ws i pls) := by
  intro i s t u alike ran
  dsimp only at ran ⊢
  rw [segmentCheck_alike h alike]
  cases checked : segmentCheck s slot (hartAt s slot h) (a i) n fields 0 with
  | error d => simp [checked, Except.bind] at ran
  | ok pls =>
    rw [checked] at ran
    exact performElement_alike h alike ran

/-- An element of a VSTC, which moves QPOS on as it is written (R273). -/
theorem runsAlike_packed {slot : Nat} (h : Hart) (m : Mask) (q : QIdx) (n : Nat) (limit : Option Nat) (x : Nat → Word) :
    RunsAlike slot fun i s => (storeElem s slot h m true i (((hartAt s slot h).getQ q).direct 0) n limit (x i)).map fun s =>
      s.modHart slot fun y => advanceStream y q 1 := by
  intro i s t u alike ran
  dsimp only at ran ⊢
  have same : (hartAt t slot h).getQ q = (hartAt s slot h).getQ q := by
    obtain ⟨y, p, l, stands, sided, -⟩ := alike.hart
    rw [hartAt_of stands, hartAt_of sided]
    rfl
  rw [same]
  cases stored : storeElem s slot h m true i (((hartAt s slot h).getQ q).direct 0) n limit (x i) with
  | error d => simp [stored, Except.map] at ran
  | ok s1 =>
    rw [stored] at ran
    obtain ⟨t1, stored', alike'⟩ := storeElem_alike h alike stored
    obtain rfl := Except.ok.inj ran
    refine ⟨_, by rw [stored']; rfl, alike_modHart alike' (sideBlind_advanceStream q 1) fun y clean => ?_⟩
    obtain ⟨r, advanced⟩ := advanceStream_clean clean q 1
    rw [advanced]
    exact clean

/-! ## Distinct addresses -/

theorem bytes_pos_le (t : Ty) : 0 < t.bytes ∧ t.bytes ≤ 8 := by cases t <;> decide

/-- The fields of one segment stand apart. -/
theorem nodup_fields (a : Word) (t : Ty) {fields : Nat} (few : fields ≤ 8) :
    ((List.range fields).map fun k => (a + BitVec.ofNat 64 (k * t.bytes)).toNat).Nodup := by
  refine List.Nodup.map_on (fun j hj k hk same => ?_) List.nodup_range
  obtain ⟨pos, le⟩ := bytes_pos_le t
  have small : ∀ i, i ∈ List.range fields → i * t.bytes < 2 ^ 64 := fun i hi =>
    lt_of_le_of_lt (Nat.mul_le_mul (List.mem_range.mp hi).le (le)) (by omega)
  have same := congrArg BitVec.toNat (add_left_cancel (BitVec.eq_of_toNat_eq same))
  rw [BitVec.toNat_ofNat, BitVec.toNat_ofNat, Nat.mod_eq_of_lt (small j hj), Nat.mod_eq_of_lt (small k hk)] at same
  exact Nat.eq_of_mul_eq_mul_right pos same

theorem streamAddr_direct (s : State) (slot : Nat) (h : Hart) {q : Stream} (kind : q.kind ≠ 4) (i : Nat) :
    streamAddr s slot h q i = .ok (s, q.direct i) := if_neg kind

/-- Where no two active elements reach one address, none of the addresses comes twice. -/
theorem not_unorderedClash {s : State} {slot : Nat} {h : Hart} {q : Stream} {m : Mask} {fields : Nat} (few : fields ≤ 8)
    (apart : ∀ i j a b s1 s2, h.vstart ≤ j → j < i → i < h.vl → h.active m i = true → h.active m j = true →
      streamAddr s slot h q j = .ok (s1, b) → streamAddr s slot h q i = .ok (s2, a) → ∀ k k', k < fields → k' < fields →
      a + BitVec.ofNat 64 (k * q.ety.bytes) ≠ b + BitVec.ofNat 64 (k' * q.ety.bytes)) :
    unorderedClash s slot h q m fields = false := by
  rw [unorderedClash, Bool.not_eq_false']
  refine decide_eq_true ?_
  unfold gathered
  refine List.nodup_flatMap.mpr ⟨fun i _ => ?_, ?_⟩
  · split
    · exact nodup_fields _ _ few
    · exact List.nodup_nil
  · refine List.Pairwise.imp_of_mem (R := fun i j => i < j) (fun {j i} hj hi less => ?_) (List.pairwise_lt_range.filter _)
    simp only [List.mem_filter, List.mem_range, Bool.and_eq_true, decide_eq_true_eq] at hj hi
    obtain ⟨-, since, activeJ⟩ := hj
    obtain ⟨below, -, activeI⟩ := hi
    simp only [Function.onFun]
    cases addrJ : streamAddr s slot h q j with
    | error d => simp
    | ok r =>
      cases addrI : streamAddr s slot h q i with
      | error d => simp
      | ok r' =>
        simp only [List.disjoint_left, List.mem_map, List.mem_range, not_exists, not_and, forall_exists_index, and_imp]
        rintro _ k' hk' rfl k hk same
        exact apart i j r'.2 r.2 _ _ since less below activeI activeJ addrJ addrI k k' hk hk' (BitVec.eq_of_toNat_eq same)

end Sys2Proof.Machine
end

section
/-! The statement about vector stores. -/

namespace Sys2Proof.Machine

theorem noteRunning_fresh (s : State) (h : Hart) : (noteRunning s h).fresh = s.fresh := by
  unfold noteRunning
  repeat' split
  all_goals rfl

/-- The state in which a vector store has drawn its free order. -/
theorem draw_noteRunning (s : State) (h : Hart) :
    (noteRunning s h).draw = (s.fresh, { noteRunning s h with fresh := s.fresh + 1 }) := by rw [State.draw, noteRunning_fresh]

/-- The store of an element: its checks, then its write. -/
theorem storeElem_eq (s : State) (slot : Nat) (h : Hart) (m : Mask) (ordered : Bool) (i : Nat) (a : Word) (n : Nat) (limit : Option Nat)
    (x : Word) : storeElem s slot h m ordered i a n limit x =
      ((elementWriteCheck s slot (hartAt s slot h) a n limit true).map fun pl =>
        (s, [({ va := a, place := pl, bytes := elemBytes n x } : CheckedWrite)])).bind (performElement slot h m ordered i) := by
  unfold storeElem
  cases elementWriteCheck s slot (hartAt s slot h) a n limit true <;> rfl

section
variable {c : Ctl} {o : VstoreForm} {s : State} {slot : Nat} {h : Hart} {st : Nat → State} (hp : h.poison = []) (hb : s.budget = none)
  (hw : h.widthOk o.ty.slotWidth = true)
include hp hb hw

/-- VST, where the free order is drawn in the state `u`. -/
theorem completes_vst (hi : Issues 0xA2 c s slot h) (ok : streamOk h (h.getQ o.q) o.ty [1, 2, 4] = true) {u : State}
    (drawn : u = { noteRunning s h with fresh := s.fresh + 1 }) {addrs : List Nat}
    (start : st h.vstart = u.modHart slot fun y => y.popGather u slot addrs)
    (apart : o.u = true → unorderedClash u slot h (h.getQ o.q) o.mask 1 = false)
    (runs : RunsFrom (h.active o.mask) (fun i s => (streamAddr s slot (hartAt s slot h) (h.getQ o.q) i).bind fun r =>
      storeElem r.1 slot h o.mask (!o.u) i r.2 o.ty.bytes (h.getQ o.q).limit (elemGet (h.getV o.b) o.ty.slotWidth i))
      st h.vstart (max h.vstart h.vl)) :
    ∃ y g, (st (max h.vstart h.vl)).hart? slot = some y ∧ StreamedFrom y g o.q h.vl ∧
      CompletesIn (.vst c o) s ((st (max h.vstart h.vl)).setHart slot g) slot g := by
  have stands : u.hart? slot = some h := by rw [drawn]; exact (noteRunning_hart s h slot).trans hi.hart
  have budget : u.budget = none := by rw [drawn]; exact (noteRunning_budget s h).trans hb
  obtain ⟨z, looped, alike⟩ := streamLoop_alike hp stands budget
    (runsAlike_stream h (h.getQ o.q) fun i a s t v alike stored => storeElem_alike h alike stored) start runs
    (gathered (noteRunning s h) slot h (h.getQ o.q) o.mask 1 0) o.u (finishStream slot h o.q)
  have ordered : (o.u && unorderedClash u slot h (h.getQ o.q) o.mask 1) = false := by
    cases free : o.u with
    | false => rfl
    | true => exact apart free
  obtain ⟨y, stood, clean, completes⟩ := completesIn_alike (exec_vst c o s) hi (sideBlind_finish o.q h.vl) alike (by
    rw [← finishStream, ← looped]
    simp only [hw, Bool.not_true, Bool.false_eq_true, if_false, unpoisoned_clean (poisoned_of_none hp _), ok, draw_noteRunning, ← drawn, ordered,
      elemPoisoned_of_none hp, storeElem_eq]
    congr 1
    funext i s
    cases streamAddr s slot (hartAt s slot h) (h.getQ o.q) i <;> rfl)
  exact ⟨y, _, stood, streamedFrom_finish clean o.q h.vl, completes⟩

/-- VSTSEG, whose segments lie at their addresses directly. -/
theorem completes_vstseg (hi : Issues 0xA2 c s slot h) (ok : streamOk h (h.getQ o.q) o.ty [3] = true)
    (regs : o.b.toNat + (h.getQ o.q).nf ≤ 63) {u : State}
    (drawn : u = { noteRunning s h with fresh := s.fresh + 1 }) {addrs : List Nat}
    (start : st h.vstart = u.modHart slot fun y => y.popGather u slot addrs)
    (apart : o.u = true → unorderedClash u slot h (h.getQ o.q) o.mask ((h.getQ o.q).nf + 1) = false)
    (runs : RunsFrom (h.active o.mask) (fun i s =>
      (segmentCheck s slot (hartAt s slot h) ((h.getQ o.q).direct i) o.ty.bytes ((h.getQ o.q).nf + 1) 0).bind fun pls =>
        performElement slot h o.mask (!o.u) i (s, ((segmentRegs o.b (h.getQ o.q).nf).zip pls).map fun e =>
          { va := e.2.1, place := e.2.2, bytes := elemBytes o.ty.bytes (elemGet (h.getV e.1) o.ty.slotWidth i) }))
      st h.vstart (max h.vstart h.vl)) :
    ∃ y g, (st (max h.vstart h.vl)).hart? slot = some y ∧ StreamedFrom y g o.q h.vl ∧
      CompletesIn (.vstseg c o) s ((st (max h.vstart h.vl)).setHart slot g) slot g := by
  have stands : u.hart? slot = some h := by rw [drawn]; exact (noteRunning_hart s h slot).trans hi.hart
  have budget : u.budget = none := by rw [drawn]; exact (noteRunning_budget s h).trans hb
  obtain ⟨z, looped, alike⟩ := streamLoop_alike hp stands budget (runsAlike_segments h _ _ _ _ _ _) start runs
    (gathered (noteRunning s h) slot h (h.getQ o.q) o.mask ((h.getQ o.q).nf + 1) 0) o.u (finishStream slot h o.q)
  have ordered : (o.u && unorderedClash u slot h (h.getQ o.q) o.mask ((h.getQ o.q).nf + 1)) = false := by
    cases free : o.u with
    | false => rfl
    | true => exact apart free
  have inside : decide (63 < o.b.toNat + (h.getQ o.q).nf) = false := decide_eq_false (by omega)
  have whole : ∀ i, ((segmentRegs o.b (h.getQ o.q).nf).any fun v => h.elemPoisoned v o.ty.slotWidth i) = false := fun i => by
    simp [elemPoisoned_of_none hp]
  obtain ⟨y, stood, clean, completes⟩ := completesIn_alike (exec_vstseg c o s) hi (sideBlind_finish o.q h.vl) alike (by
    rw [← finishStream, ← looped]
    simp only [hw, Bool.not_true, Bool.false_eq_true, if_false, unpoisoned_clean (poisoned_of_none hp _), ok, inside, Bool.or_self,
      draw_noteRunning, ← drawn, ordered, whole]
    congr 1
    funext i s
    cases segmentCheck s slot (hartAt s slot h) ((h.getQ o.q).direct i) o.ty.bytes ((h.getQ o.q).nf + 1) 0 <;> rfl)
  exact ⟨y, _, stood, streamedFrom_finish clean o.q h.vl, completes⟩

/-- VSTC, which moves QPOS on with each element. -/
theorem completes_vstc (hi : Issues 0xA3 c s slot h) (ok : streamOk h (h.getQ o.q) o.ty [1] = true)
    (start : st h.vstart = (noteRunning s h).modHart slot fun y =>
      y.popGather (noteRunning s h) slot (packedAddrs h (h.getQ o.q) o.mask))
    (runs : RunsFrom (h.active o.mask) (fun i s =>
      (storeElem s slot h o.mask true i (((hartAt s slot h).getQ o.q).direct 0) o.ty.bytes (h.getQ o.q).limit
        (elemGet (h.getV o.b) o.ty.slotWidth i)).map fun s => s.modHart slot fun y => advanceStream y o.q 1)
      st h.vstart (max h.vstart h.vl)) :
    ∃ y g, (st (max h.vstart h.vl)).hart? slot = some y ∧ g.vstart = 0 ∧
      { g with regs := { g.regs with vstart := y.regs.vstart }, perf := y.perf, lantern := y.lantern } = y ∧
      CompletesIn (.vstc c o) s ((st (max h.vstart h.vl)).setHart slot g) slot g := by
  have stands : (noteRunning s h).hart? slot = some h := (noteRunning_hart s h slot).trans hi.hart
  obtain ⟨z, looped, alike⟩ := streamLoop_alike hp stands ((noteRunning_budget s h).trans hb) (runsAlike_packed h _ _ _ _ _) start runs
    (packedAddrs h (h.getQ o.q) o.mask) false fun s' => .done (s'.modHart slot fun y => y.setVstart 0)
  obtain ⟨y, stood, clean, completes⟩ := completesIn_alike (exec_vstc c o s) hi (sideBlind_setVstart 0) alike (by
    rw [← looped]
    simp only [hw, Bool.not_true, Bool.false_eq_true, if_false, unpoisoned_clean (poisoned_of_none hp _), ok, elemPoisoned_of_none hp])
  refine ⟨y, _, stood, ?_, ?_, completes⟩
  · rw [setVstart_clean clean]
    rfl
  · rw [setVstart_clean clean]

end

/-- Settles O31: each form runs its loop from a state like the statement's, and completes in one like its last. -/
theorem vectorStoresComplete : Obligations.VectorStoresComplete := by
  intro c o s slot h st hp hb hw q n el u popped v lower
  refine ⟨fun hi ok start apart runs => completes_vst hp hb hw hi ok rfl start (fun free => ?_) runs,
    fun hi ok regs start apart runs => completes_vstseg hp hb hw hi ok regs rfl start (fun free => ?_) runs,
    fun hi ok start runs => completes_vstc hp hb hw hi ok start runs⟩
  · refine not_unorderedClash (by omega) fun i j a b s1 s2 since less below activeI activeJ addrJ addrI k k' hk hk' same => ?_
    obtain rfl : k = 0 := by omega
    obtain rfl : k' = 0 := by omega
    exact apart free i j a b s1 s2 ⟨since, less, below, activeI, activeJ⟩ addrJ addrI (by simpa using same)
  · have fields : (h.getQ o.q).nf + 1 ≤ 8 := Nat.mod_lt _ (by decide)
    obtain ⟨kind, type⟩ : q.kind = 3 ∧ q.ety = o.ty := by
      simp only [streamOk, Bool.and_eq_true, List.contains_cons, List.contains_nil, Bool.or_false, beq_iff_eq] at ok
      exact ok.1
    have direct : q.kind ≠ 4 := by omega
    refine not_unorderedClash fields fun i j a b s1 s2 since less below activeI activeJ addrJ addrI k k' hk hk' same => ?_
    rw [streamAddr_direct _ _ _ direct] at addrJ addrI
    obtain ⟨-, rfl⟩ := Prod.mk.inj (Except.ok.inj addrJ)
    obtain ⟨-, rfl⟩ := Prod.mk.inj (Except.ok.inj addrI)
    rw [type] at same
    exact apart free i j k k' ⟨since, less, below, activeI, activeJ⟩ (Nat.le_of_lt_succ hk) (Nat.le_of_lt_succ hk') same

end Sys2Proof.Machine
end

section
/-! PROOFS. Outer products (R281 to R283): what the cells of a row become, and the rows that a loop has updated. -/

namespace Sys2Proof.Machine

/-! ## Cells and rows -/

/-- Writing an element leaves every other element, those past the register too. -/
theorem elemGet_elemSet_ne (r : VReg) {w : Nat} (hw : w ≤ 64) (hd : w ∣ 8192) {i j : Nat} (other : j ≠ i) (x : Word) :
    elemGet (elemSet r w i x) w j = elemGet r w j := by
  by_cases inside : j < 8192 / w
  · exact elemGet_elemSet_other r hw other inside x
  · rw [elemGet_beyond hd _ (by omega), elemGet_beyond hd _ (by omega)]

/-- A row reads what was written to it; every other row reads as before (R275). -/
theorem row_setRow (h : Hart) (k r : Nat) (x : VReg) (k' r' : Nat) :
    (h.setRow k r x).row k' r' = if k' * 256 + r' = k * 256 + r then x else h.row k' r' := by
  split
  · rename_i same
    rw [Hart.row, Hart.setRow, same]
    exact tblGetD_tblPut_same _ _ _ _
  · rename_i other
    exact tblGetD_tblPut_other _ _ _ _ _ other

/-- Flags gathered from `f` on are `f` beside those gathered from none. -/
theorem foldl_flags (l : List FFlags) (f : FFlags) : l.foldl (fun a b => a ||| b) f = f ||| l.foldl (fun a b => a ||| b) 0 := by
  induction l generalizing f with
  | nil => simp
  | cons x l ih => rw [List.foldl_cons, List.foldl_cons, ih, ih (0 ||| x)]; simp [BitVec.or_assoc]

/-- One cell takes its new value, and its flags are gathered. -/
def cellStep (w : Nat) (f : Nat → Word → Word × FFlags) (r : VReg × FFlags) (j : Nat) : VReg × FFlags :=
  (elemSet r.1 w j (f j (elemGet r.1 w j)).1, r.2 ||| (f j (elemGet r.1 w j)).2)

section
variable {w : Nat} (hw : w ≤ 64) (hd : w ∣ 8192) (f : Nat → Word → Word × FFlags)
include hw hd

/-- Updating the cells of some columns, each once: each takes its new value from its old one. -/
theorem elemGet_foldl_cellStep {l : List Nat} (nodup : l.Nodup) (r : VReg × FFlags) {j : Nat} (hj : j < 8192 / w) :
    elemGet (l.foldl (cellStep w f) r).1 w j = if j ∈ l then low w (f j (elemGet r.1 w j)).1 else elemGet r.1 w j := by
  induction l generalizing r with
  | nil => simp
  | cons i l ih =>
    obtain ⟨fresh, nodup⟩ := List.nodup_cons.mp nodup
    rw [List.foldl_cons, ih nodup]
    by_cases here : j = i
    · subst here
      rw [if_neg fresh, if_pos List.mem_cons_self, cellStep, elemGet_elemSet_same _ hw hj]
    · simp only [cellStep, elemGet_elemSet_ne _ hw hd here, List.mem_cons, here, false_or]

/-- The flags that the new cells raise, each of its old value. -/
theorem flags_foldl_cellStep {l : List Nat} (nodup : l.Nodup) (r : VReg × FFlags) :
    (l.foldl (cellStep w f) r).2 = r.2 ||| (l.map fun j => (f j (elemGet r.1 w j)).2).foldl (fun a b => a ||| b) 0 := by
  induction l generalizing r with
  | nil => simp
  | cons i l ih =>
    obtain ⟨fresh, nodup⟩ := List.nodup_cons.mp nodup
    have later : (l.map fun j => (f j (elemGet (cellStep w f r i).1 w j)).2) = l.map fun j => (f j (elemGet r.1 w j)).2 :=
      List.map_congr_left fun j hj => by
        rw [cellStep, elemGet_elemSet_ne _ hw hd (ne_of_mem_of_not_mem hj fresh)]
    rw [List.foldl_cons, ih nodup, later, List.map_cons, List.foldl_cons, foldl_flags _ (0 ||| _)]
    simp [cellStep, BitVec.or_assoc]

end

/-! ## The rows of an outer product -/

/-- The first row of the half of the tile that an outer product updates (R282). -/
def outerBase (o : MopaForm) : Nat := if o.half then 128 else 0

/-- The columns that an outer product of `n` columns updates. -/
def outerCols (h : Hart) (o : MopaForm) (n : Nat) : List Nat := (List.range n).filter fun j => columnActive h o.mask j

/-- The new cell of an outer product, from the cell as it stands in the hart. -/
def newCell (h : Hart) (o : MopaForm) (minus : Bool) (i j : Nat) : Word × FFlags :=
  outerCell h o minus i j (elemGet (h.row o.d.toNat (outerBase o + i)) (cellWidth o.ty) j)

theorem cellWidth_ok (t : Ty) : cellWidth t ≤ 64 ∧ cellWidth t ∣ 8192 := width_ok (cellTy t)

/-- The hart `y` is `h` with some rows of an outer product of `n` columns updated, and their flags raised. -/
structure OuterDone (h : Hart) (o : MopaForm) (minus : Bool) (n : Nat) (rows : List Nat) (y : Hart) : Prop where
  cells : ∀ i j, i ∈ rows → j < 8192 / cellWidth o.ty → elemGet (y.row o.d.toNat (outerBase o + i)) (cellWidth o.ty) j =
    if j ∈ outerCols h o n then low (cellWidth o.ty) (newCell h o minus i j).1 else elemGet (h.row o.d.toNat (outerBase o + i)) (cellWidth o.ty) j
  others : ∀ k r, (∀ i ∈ rows, k * 256 + r ≠ o.d.toNat * 256 + (outerBase o + i)) → y.row k r = h.row k r
  zdirty : y.zdirty = if rows = [] ∨ outerCols h o n = [] then h.zdirty else h.zdirty ||| 1#32 <<< o.d.toNat
  fcsr : y.fcsr = (h.raise ((rows.flatMap fun i => (outerCols h o n).map fun j => (newCell h o minus i j).2).foldl (fun a b => a ||| b) 0)).fcsr
  rest : { y with tiles := h.tiles, zdirty := h.zdirty, fcsr := h.fcsr, perf := h.perf } = h

theorem outerDone_nil (h : Hart) (o : MopaForm) (minus : Bool) (n : Nat) : OuterDone h o minus n [] h where
  cells _ _ hi _ := absurd hi List.not_mem_nil
  others _ _ _ := rfl
  zdirty := by simp
  fcsr := by simp [Hart.raise]
  rest := rfl

section
variable {h y : Hart} {o : MopaForm} {minus : Bool} {n : Nat} {rows : List Nat}

/-- A row passed over moves a counter alone. -/
theorem OuterDone.skipped (hy : OuterDone h o minus n rows y) (c : Nat) (x : Word) : OuterDone h o minus n rows (y.bump c x) where
  cells := hy.cells
  others := hy.others
  zdirty := hy.zdirty
  fcsr := hy.fcsr
  rest := hy.rest

/-- The next row is updated. -/
theorem OuterDone.updated (hy : OuterDone h o minus n rows y) {i : Nat} (fresh : i ∉ rows) {r : VReg × FFlags}
    (row : r = (outerCols h o n).foldl (cellStep (cellWidth o.ty) fun j => outerCell h o minus i j) (y.row o.d.toNat (outerBase o + i), 0)) :
    OuterDone h o minus n (rows ++ [i])
      (if (outerCols h o n).isEmpty then y else ((y.setRow o.d.toNat (outerBase o + i) r.1).markDirty o.d.toNat).raise r.2) := by
  obtain ⟨hw, hd⟩ := cellWidth_ok o.ty
  have nodup : (outerCols h o n).Nodup := List.nodup_range.filter _
  have old : y.row o.d.toNat (outerBase o + i) = h.row o.d.toNat (outerBase o + i) :=
    hy.others _ _ fun j hj same => fresh (by rwa [show i = j by omega])
  have cells : ∀ j, j < 8192 / cellWidth o.ty → elemGet r.1 (cellWidth o.ty) j =
      if j ∈ outerCols h o n then low (cellWidth o.ty) (newCell h o minus i j).1 else elemGet (h.row o.d.toNat (outerBase o + i)) (cellWidth o.ty) j :=
    fun j hj => by rw [row, elemGet_foldl_cellStep hw hd _ nodup _ hj, old]; rfl
  have flags : r.2 = ((outerCols h o n).map fun j => (newCell h o minus i j).2).foldl (fun a b => a ||| b) 0 := by
    rw [row, flags_foldl_cellStep hw hd _ nodup, old]
    simp [newCell]
  split
  · rename_i none
    have none := List.isEmpty_iff.mp none
    refine ⟨fun i' j hi hj => ?_, fun k r' apart => hy.others k r' fun i hi => apart i (List.mem_append_left _ hi), ?_, ?_, hy.rest⟩
    · rcases List.mem_append.mp hi with hi | hi
      · exact hy.cells i' j hi hj
      · rw [List.mem_singleton.mp hi, old, none]; simp
    · rw [hy.zdirty]; simp [none]
    · rw [hy.fcsr]; simp [none]
  · rename_i some
    have some : outerCols h o n ≠ [] := fun e => some (List.isEmpty_iff.mpr e)
    refine ⟨fun i' j hi hj => ?_, fun k r' apart => ?_, ?_, ?_, hy.rest⟩
    · change elemGet ((y.setRow _ _ _).row _ _) _ _ = _
      rw [row_setRow]
      rcases List.mem_append.mp hi with hi | hi
      · rw [if_neg fun same => fresh (by rwa [show i = i' by omega])]
        exact hy.cells i' j hi hj
      · obtain rfl := List.mem_singleton.mp hi
        rw [if_pos rfl, cells j hj]
    · change (y.setRow _ _ _).row _ _ = _
      rw [row_setRow, if_neg (apart i (List.mem_append_right _ (List.mem_singleton_self i)))]
      exact hy.others k r' fun i hi => apart i (List.mem_append_left _ hi)
    · change y.zdirty ||| 1#32 <<< o.d.toNat = _
      rw [hy.zdirty, if_neg (show ¬(rows ++ [i] = [] ∨ outerCols h o n = []) by simp [some])]
      split
      · rfl
      · rw [BitVec.or_assoc, BitVec.or_self]
    · change (y.raise r.2).fcsr = _
      rw [List.flatMap_append, List.foldl_append, foldl_flags, ← raise_raise]
      simp only [Hart.raise, hy.fcsr, flags, List.flatMap_cons, List.flatMap_nil, List.append_nil]

end

/-! ## The loop over the rows -/

theorem cellPoisoned_of_none {h : Hart} (hp : h.poison = []) (k r w j : Nat) : h.cellPoisoned k r w j = false := by
  simp [Hart.cellPoisoned, hp]

theorem opPoisoned_of_none {h : Hart} (hp : h.poison = []) (t : Ty) (v : VIdx) (i : Nat) : opPoisoned h t v i = false := by
  simp [opPoisoned, elemPoisoned_of_none hp]

theorem columnsPoisoned_of_none {h : Hart} (hp : h.poison = []) (m : Mask) (n : Nat) : columnsPoisoned h m n = false := by
  cases m with
  | none => rfl
  | on z k => exact poisoned_of_none hp _

/-- A row that is passed over because its elements of VA are all zero (R182, R282). -/
def outerSkips (h : Hart) (o : MopaForm) (i : Nat) : Bool := !h.sz && rowIsZero h o.ty o.a i

/-- The rows below `n` that an outer product updates. -/
def outerRows (h : Hart) (o : MopaForm) (n : Nat) : List Nat :=
  (List.range n).filter fun i => decide (h.vstart ≤ i) && h.active o.mask i && !outerSkips h o i

theorem outerRows_vstart (h : Hart) (o : MopaForm) : outerRows h o h.vstart = [] := by
  refine List.filter_eq_nil_iff.mpr fun i hi => ?_
  simp [Nat.not_le.mpr (List.mem_range.mp hi)]

theorem outerRows_succ {h : Hart} (o : MopaForm) {i : Nat} (since : h.vstart ≤ i) :
    outerRows h o (i + 1) = outerRows h o i ++ if h.active o.mask i && !outerSkips h o i then [i] else [] := by
  simp [outerRows, List.range_succ, List.filter_cons, since]

theorem not_mem_outerRows (h : Hart) (o : MopaForm) (n : Nat) : n ∉ outerRows h o n := fun mem =>
  Nat.lt_irrefl n (List.mem_range.mp (List.mem_filter.mp mem).1)

/-- An active row, on a hart without poison: passed over, or updated. -/
theorem outerDone_outerRow {h y : Hart} {o : MopaForm} {minus : Bool} {n i : Nat} (hp : h.poison = []) (since : h.vstart ≤ i)
    (active : h.active o.mask i = true) (hy : OuterDone h o minus n (outerRows h o i) y) :
    ∃ z, outerRow h o minus n i y = .ok z ∧ OuterDone h o minus n (outerRows h o (i + 1)) z := by
  have clean : y.poison = [] := (congrArg Hart.poison hy.rest).trans hp
  rw [outerRows_succ o since, active, Bool.true_and]
  unfold outerRow
  simp only [opPoisoned_of_none hp, columnsPoisoned_of_none hp, cellPoisoned_of_none clean, Bool.or_self, Bool.false_eq_true, if_false]
  rw [← outerSkips]
  cases outerSkips h o i with
  | true => exact ⟨_, rfl, by simpa using hy.skipped 9 1⟩
  | false => exact ⟨_, by rw [if_neg Bool.false_ne_true, if_neg (by simp)]; rfl, hy.updated (not_mem_outerRows h o i) rfl⟩

theorem elsewhere_refl (s : State) (slot : Nat) : Elsewhere s slot s := ⟨fun _ _ => rfl, rfl⟩

theorem elsewhere_thenSetHart {s t : State} {slot : Nat} (st : Elsewhere s slot t) (g : Hart) : Elsewhere s slot (t.setHart slot g) :=
  ⟨fun k hk => (hart_setHart_other _ _ _ _ hk).trans (st.1 k hk), st.2⟩

/-- A body that completes in a state which differs in its hart alone. -/
theorem completes_of_elsewhere {i : Instr} {op : Nat} {c : Ctl} {s s' : State} {slot : Nat} {h g : Hart} {body : State → Nat → Hart → Res}
    (he : exec i s = issue op c s body) (hi : Issues op c s slot h) (hb : body (noteRunning s h) slot h = .done s')
    (hg : s'.hart? slot = some g) (apart : Elsewhere (noteRunning s h) slot s') : Completes i s slot h g := by
  obtain ⟨t, ht, hart, others, rest⟩ := completesIn_of he hi hb hg
  exact ⟨t, ht, hart, fun k hk => (others k hk).trans (apart.1 k hk), rest.trans apart.2⟩

theorem rowLoop_finished {s x : State} {slot n : Nat} {h : Hart} {f : Nat → State → Except Denied State} {fin : State → Res}
    (budget : s.budget = none) (finished : eachPos f (n - h.vstart) h.vstart none s = .finished x) : rowLoop s slot h n f fin = fin x := by
  simp only [rowLoop, budget, finished]

/-- MOPA and MOPS update the active rows from VSTART on. -/
theorem completes_outerProduct {i : Instr} {c : Ctl} {o : MopaForm} {s : State} {slot : Nat} {h : Hart} {minus : Bool}
    (he : exec i s = outerProduct c o minus s) (hi : Issues 0xB0 c s slot h) (hp : h.poison = []) (hb : s.budget = none)
    (tile : tileOk h o.d = true) (width : h.widthOk o.ty.slotWidth = true) :
    let n := (h.vl + perCellVl o.ty - 1) / perCellVl o.ty
    ∃ y, Completes i s slot h (y.setVstart 0) ∧ OuterDone h o minus n (outerRows h o n) y := by
  intro n
  have stands : (noteRunning s h).hart? slot = some h := (noteRunning_hart s h slot).trans hi.hart
  obtain ⟨x, finished, y, hx, apart, done⟩ := eachPos_finished
    (f := h.underMask o.mask (fun i s => (outerRow h o minus n i (hartAt s slot h)).map fun y => s.setHart slot y) fun _ s => .ok s)
    (P := fun i x => ∃ y, x.hart? slot = some y ∧ Elsewhere (noteRunning s h) slot x ∧ OuterDone h o minus n (outerRows h o i) y)
    (n := n - h.vstart) ⟨h, stands, elsewhere_refl _ _, outerRows_vstart h o ▸ outerDone_nil h o minus n⟩
    (fun i x since _ ⟨y, hx, apart, done⟩ => by
      rw [underMask_clean hp, hartAt_of hx]
      cases active : h.active o.mask i with
      | true =>
        obtain ⟨z, row, done⟩ := outerDone_outerRow hp since active done
        exact ⟨_, by rw [if_pos rfl, row]; rfl, z, hart_setHart_same _ _ _, elsewhere_thenSetHart apart z, done⟩
      | false => exact ⟨x, rfl, y, hx, apart, by rw [outerRows_succ o since, active]; simpa using done⟩)
  refine ⟨y, completes_of_elsewhere he hi (s' := x.modHart slot fun y => y.setVstart 0) ?_ (hart_modHart_same hx _)
    (modHart_eq_setHart hx _ ▸ elsewhere_thenSetHart apart _), ?_⟩
  · simp only [tile, width, Bool.not_true, Bool.false_eq_true, if_false]
    exact rowLoop_finished ((noteRunning_budget s h).trans hb) finished
  · by_cases some : h.vstart ≤ n
    · rwa [Nat.add_sub_cancel' some] at done
    · have none : outerRows h o n = [] :=
        List.filter_eq_nil_iff.mpr fun i hi => by simp [Nat.not_le.mpr ((List.mem_range.mp hi).trans (Nat.not_le.mp some))]
      rw [Nat.sub_eq_zero_of_le (Nat.not_le.mp some).le, Nat.add_zero, outerRows_vstart] at done
      rwa [none]

/-- Settles O33: the loop updates the rows of the statement one after the other. -/
theorem outerProductResults : Obligations.OuterProductResults := by
  intro c o s slot h minus hi hp hb tile width k w n base rows cols old new
  have he : exec (if minus then .mops c o else .mopa c o) s = outerProduct c o minus s := by cases minus <;> rfl
  obtain ⟨y, completes, done⟩ := completes_outerProduct he hi hp hb tile width
  have clean : y.poison = [] := (congrArg Hart.poison done.rest).trans hp
  refine ⟨_, completes, by simp, ?_⟩
  rw [setVstart_clean clean]
  refine ⟨done.cells, done.others, done.zdirty, done.fcsr, ?_⟩
  have vstart := congrArg (fun x : Hart => x.regs.vstart) done.rest
  dsimp only at vstart ⊢
  rw [← vstart]
  exact done.rest

end Sys2Proof.Machine
end

section
/-! PROOFS. The loops of the Equinox engine (R294 to R297): what each position keeps of its hart, how a loop completes, and the
vector form of EQNZ. -/

namespace Sys2Proof.Machine

/-! ## Reads -/

/-- A read moves of its hart the Lantern's side alone (R151). -/
theorem hart_elementRead {s t : State} {slot : Nat} {h y : Hart} {va : Word} {n x : Nat} {limit : Option Nat}
    (read : elementRead s slot h va n limit = .ok (t, x)) (stands : s.hart? slot = some y) :
    ∃ l, t.hart? slot = some { y with lantern := l } := by
  unfold elementRead at read
  split at read
  · cases read
  cases loaded : load s slot h va n with
  | error d => simp [loaded, Except.map] at read
  | ok r =>
    obtain ⟨u, bs⟩ := r
    simp only [loaded, Except.map, Except.ok.injEq, Prod.mk.injEq] at read
    obtain ⟨rfl, -⟩ := read
    have stands : u.hart? slot = some y := by rw [State.hart?, (load_mem_harts loaded).2]; exact stands
    unfold noteRead
    rw [stands]
    dsimp only
    split
    · exact ⟨y.lantern, stands⟩
    · obtain ⟨l, read⟩ := readAt_eq u slot va.toNat n y
      exact ⟨l, by rw [read]; exact hart_setHart_same _ _ _⟩

/-- What stands at a cursor's position is found by one read of memory, or by none (R292). -/
theorem hart_peek {s t : State} {slot : Nat} {h y : Hart} {c : Cursor} {p : Peek} (peeked : peek s slot h c = .ok (t, p))
    (stands : s.hart? slot = some y) : ∃ l, t.hart? slot = some { y with lantern := l } := by
  have still : ∀ {q : Peek}, Except.ok (ε := Denied) (s, q) = .ok (t, p) → ∃ l, t.hart? slot = some { y with lantern := l } := fun same => by
    obtain ⟨rfl, -⟩ := Prod.mk.inj (Except.ok.inj same)
    exact ⟨y.lantern, stands⟩
  unfold peek at peeked
  dsimp only at peeked
  split at peeked
  · exact still peeked
  split at peeked
  case h_4 => exact still peeked
  all_goals
    split at peeked
    · cases peeked
    · rename_i read
      obtain ⟨l, read⟩ := hart_elementRead read stands
      repeat' split at peeked
      all_goals cases peeked
      all_goals exact ⟨l, read⟩

theorem hart_settle {s t : State} {slot : Nat} {h y : Hart} {e : EIdx} {p : Option Peek} (settled : settle s slot h e = .ok (t, p))
    (stands : s.hart? slot = some y) : ∃ l, t.hart? slot = some { y with lantern := l } := by
  unfold settle at settled
  split at settled
  · obtain ⟨rfl, -⟩ := Prod.mk.inj (Except.ok.inj settled)
    exact ⟨y.lantern, stands⟩
  · cases peeked : peek s slot h (h.getE e) with
    | error d => simp [peeked, Except.map] at settled
    | ok r =>
      simp only [peeked, Except.map, Except.ok.injEq, Prod.mk.injEq] at settled
      obtain ⟨rfl, -⟩ := settled
      exact hart_peek peeked stands

/-! ## Harts without poison -/

/-- A hart without poison stands in the slot. -/
def StandsClean (slot : Nat) (s : State) : Prop := ∃ y, s.hart? slot = some y ∧ y.poison = []

theorem standsClean_of_hart {slot : Nat} {s t : State} (clean : StandsClean slot s)
    (moved : ∀ {y}, s.hart? slot = some y → ∃ l, t.hart? slot = some { y with lantern := l }) : StandsClean slot t := by
  obtain ⟨y, stands, none⟩ := clean
  obtain ⟨l, stands⟩ := moved stands
  exact ⟨_, stands, none⟩

theorem standsClean_modHart {slot : Nat} {s : State} (clean : StandsClean slot s) {f : Hart → Hart}
    (kept : ∀ y, y.poison = [] → (f y).poison = []) : StandsClean slot (s.modHart slot f) := by
  obtain ⟨y, stands, none⟩ := clean
  exact ⟨f y, hart_modHart_same stands f, kept y none⟩

theorem poison_setE {h : Hart} (hp : h.poison = []) (e : EIdx) (c : Cursor) : (h.setE e c).poison = [] := by
  rw [Hart.setE, clearPoison_clean (h := { h with regs := { h.regs with e := rset h.regs.e e c } }) hp]
  exact hp

theorem poison_putLane {h : Hart} (hp : h.poison = []) (v : VIdx) (lo i x : Nat) : (putLane v lo i x h).poison = [] := by
  rw [putLane, cleanV_clean (h := h.setV v _) hp]
  exact hp

/-- Writes an origin tag of a lane of EQMRG (R296). -/
def putTag (m : MIdx) (lo i : Nat) (b : Bool) (h : Hart) : Hart := (h.putBit m i b).cleanM m lo (i + 1) fun _ => true

theorem emit_eq_putTag (o : EqmrgForm) (lo i x y k : Nat) (ta tb : Bool) (h : Hart) :
    emit o lo i x y k ta tb h =
      putTag (o.n + 1) lo i tb (putTag o.n lo i ta (putLane (o.d + 2) lo i k (putLane (o.d + 1) lo i y (putLane o.d lo i x h)))) := rfl

theorem poison_putTag {h : Hart} (hp : h.poison = []) (m : MIdx) (lo i : Nat) (b : Bool) : (putTag m lo i b h).poison = [] := by
  rw [putTag, Hart.cleanM, clearPoison_clean (h := h.putBit m i b) hp]
  exact hp

theorem poison_emit {h : Hart} (hp : h.poison = []) (o : EqmrgForm) (lo i x y k : Nat) (ta tb : Bool) :
    (emit o lo i x y k ta tb h).poison = [] := by
  rw [emit_eq_putTag]
  exact poison_putTag (poison_putTag (poison_putLane (poison_putLane (poison_putLane hp _ _ _ _) _ _ _ _) _ _ _ _) _ _ _ _) _ _ _ _

/-! ## The steps -/

/-- A step of a loop leaves a hart without poison where it finds one. -/
def KeepsClean (slot : Nat) (step : State × Nat → Except Denied (Option (State × Nat))) : Prop :=
  ∀ x y, StandsClean slot x.1 → step x = .ok (some y) → StandsClean slot y.1

theorem keepsClean_eqintStep (slot : Nat) (o : EqintForm) (lim : Nat) (h0 : Hart) : KeepsClean slot (eqintStep slot o lim h0) := by
  rintro ⟨s, cnt⟩ y clean step
  unfold eqintStep at step
  dsimp only at step clean
  split at step
  · cases step
  split at step
  · cases step
  · cases step
  · rename_i peeked
    cases step
    exact standsClean_modHart (standsClean_of_hart clean (hart_peek peeked)) fun y hp => poison_setE hp _ _
  rename_i peekedA
  have clean := standsClean_of_hart clean (hart_peek peekedA)
  split at step
  · cases step
  · cases step
  · rename_i peeked
    cases step
    exact standsClean_modHart (standsClean_of_hart clean (hart_peek peeked)) fun y hp => poison_setE hp _ _
  rename_i peekedB
  have clean := standsClean_of_hart clean (hart_peek peekedB)
  split at step
  · cases step
    exact standsClean_modHart clean fun y hp => poison_setE (poison_setE (poison_putLane (poison_putLane hp _ _ _ _) _ _ _ _) _ _) _ _
  split at step
  · cases step
    exact standsClean_modHart clean fun y hp => poison_setE hp _ _
  · cases step
    exact standsClean_modHart clean fun y hp => poison_setE hp _ _

theorem keepsClean_eqmrgStep (slot : Nat) (o : EqmrgForm) (lim : Nat) (h0 : Hart) : KeepsClean slot (eqmrgStep slot o lim h0) := by
  rintro ⟨s, cnt⟩ y clean step
  unfold eqmrgStep at step
  dsimp only at step clean
  split at step
  · cases step
  split at step
  · cases step
  · rename_i settled
    cases step
    exact standsClean_modHart (standsClean_of_hart clean (hart_settle settled)) fun y hp => poison_setE hp _ _
  rename_i settledA
  have clean := standsClean_of_hart clean (hart_settle settledA)
  split at step
  · cases step
  · rename_i settled
    cases step
    exact standsClean_modHart (standsClean_of_hart clean (hart_settle settled)) fun y hp => poison_setE hp _ _
  rename_i settledB
  have clean := standsClean_of_hart clean (hart_settle settledB)
  split at step
  · split at step
    · obtain rfl := Option.some.inj (Except.ok.inj step)
      exact standsClean_modHart clean fun y hp => poison_setE (poison_emit hp _ _ _ _ _ _ _ _) _ _
    split at step
    · obtain rfl := Option.some.inj (Except.ok.inj step)
      exact standsClean_modHart clean fun y hp => poison_setE (poison_emit hp _ _ _ _ _ _ _ _) _ _
    · obtain rfl := Option.some.inj (Except.ok.inj step)
      exact standsClean_modHart clean fun y hp => poison_setE (poison_setE (poison_emit hp _ _ _ _ _ _ _ _) _ _) _ _
  · obtain rfl := Option.some.inj (Except.ok.inj step)
    exact standsClean_modHart clean fun y hp => poison_setE (poison_emit hp _ _ _ _ _ _ _ _) _ _
  · obtain rfl := Option.some.inj (Except.ok.inj step)
    exact standsClean_modHart clean fun y hp => poison_setE (poison_emit hp _ _ _ _ _ _ _ _) _ _
  · cases step

theorem keepsClean_eqnzStep (slot : Nat) (o : EqnzCursorForm) (lim : Nat) (h0 : Hart) : KeepsClean slot (eqnzStep slot o lim h0) := by
  rintro ⟨s, cnt⟩ y clean step
  unfold eqnzStep at step
  dsimp only at step clean
  split at step
  · cases step
  split at step
  · cases step
  rename_i read
  have clean := standsClean_of_hart clean (hart_elementRead read)
  split at step
  · cases step
    exact standsClean_modHart clean fun y hp => poison_setE hp _ _
  · cases step
    exact standsClean_modHart clean fun y hp => poison_setE (poison_putLane hp _ _ _ _) _ _

/-! ## The loops -/

/-- A loop runs the positions it is told until nothing is left to consume. -/
theorem consumeLoop_finished {σ : Type} {f : σ → Except Denied (Option σ)} {st : Nat → σ} {n m : Nat} (fuel : n < m)
    (steps : ∀ k, k < n → f (st k) = .ok (some (st (k + 1)))) (last : f (st n) = .ok none) :
    consumeLoop f m none (st 0) = .finished (st n) := by
  induction n generalizing m st with
  | zero =>
    obtain ⟨m, rfl⟩ : ∃ k, m = k + 1 := ⟨m - 1, by omega⟩
    simp only [consumeLoop, last]
  | succ n ih =>
    obtain ⟨m, rfl⟩ : ∃ k, m = k + 1 := ⟨m - 1, by omega⟩
    simp only [consumeLoop, steps 0 (Nat.succ_pos n), reduceCtorEq, if_false, Option.map_none]
    exact ih (st := fun k => st (k + 1)) (Nat.lt_of_succ_lt_succ fuel) (fun k hk => steps (k + 1) (Nat.succ_lt_succ hk)) last

theorem standsClean_states {slot : Nat} {step : State × Nat → Except Denied (Option (State × Nat))} {st : Nat → State × Nat} {n : Nat}
    (kept : KeepsClean slot step) (start : StandsClean slot (st 0).1) (steps : ∀ k, k < n → step (st k) = .ok (some (st (k + 1)))) :
    StandsClean slot (st n).1 := by
  induction n with
  | zero => exact start
  | succ n ih => exact kept _ _ (ih fun k hk => steps k (by omega)) (steps n (Nat.lt_succ_self n))

theorem standsClean_popCoords {slot : Nat} {s : State} {h : Hart} (clean : StandsClean slot s) (es : List EIdx) :
    StandsClean slot (popCoords s slot h es) :=
  standsClean_modHart clean fun y hp => by
    obtain ⟨p, l, popped⟩ := popOwn_eq y _
    rw [popped]
    exact hp

theorem find_none_of_cursorsOk {h : Hart} {es : List EIdx} {encs : List Nat} (ok : ∀ e ∈ es, cursorOk h e encs = true) :
    (es.find? fun e => !cursorOk h e encs) = none :=
  List.find?_eq_none.mpr fun e he => by simp [ok e he]

theorem cursorsChecked_ok {s : State} {h : Hart} {es : List EIdx} {encs : List Nat} {r : Res} (ok : ∀ e ∈ es, cursorOk h e encs = true) :
    cursorsChecked s h es encs r = r := by
  rw [cursorsChecked, find_none_of_cursorsOk ok]

/-- What a loop leaves in VL and VSTART of a hart without poison. -/
theorem setVl_setVstart_clean {h : Hart} (hp : h.poison = []) (n m : Nat) :
    (h.setVl n).setVstart m = { h with regs := { h.regs with vl := BitVec.ofNat 12 n, vstart := BitVec.ofNat 11 m } } := by
  rw [setVstart_clean (poison_setVl hp n), setVl_clean hp]

/-- A resumable instruction whose loop runs its positions completes where the last of them leaves it (R294). -/
theorem completesIn_loop {i : Instr} {c : Ctl} {s : State} {slot : Nat} {h : Hart} {es : List EIdx}
    {step : State × Nat → Except Denied (Option (State × Nat))} {body : State → Nat → Hart → Res}
    (he : exec i s = issue 0xC0 c s body) (hi : Issues 0xC0 c s slot h) (hp : h.poison = []) (hb : s.budget = none)
    (looped : body (noteRunning s h) slot h = closeEquinox slot h (consumeLoop step (fuelOf h es) (noteRunning s h).budget
      (popCoords (noteRunning s h) slot h es, h.vstart)))
    (kept : KeepsClean slot step) (st : Nat → State × Nat) (n : Nat) (start : st 0 = (popCoords (noteRunning s h) slot h es, h.vstart))
    (fuel : n < fuelOf h es) (steps : ∀ k, k < n → step (st k) = .ok (some (st (k + 1)))) (last : step (st n) = .ok none) :
    ∃ y g, (st n).1.hart? slot = some y ∧ g.vl = min (st n).2 h.vl ∧ g.vstart = 0 ∧
      { g with regs := { g.regs with vl := y.regs.vl, vstart := y.regs.vstart }, perf := y.perf, lantern := y.lantern } = y ∧
      CompletesIn i s ((st n).1.setHart slot g) slot g := by
  have stands : StandsClean slot (noteRunning s h) := ⟨h, (noteRunning_hart s h slot).trans hi.hart, hp⟩
  obtain ⟨y, stands, clean⟩ := standsClean_states kept (by rw [start]; exact standsClean_popCoords stands es) steps
  have finished := consumeLoop_finished fuel steps last
  have small : min (st n).2 h.vl % 4096 = min (st n).2 h.vl :=
    Nat.mod_eq_of_lt (lt_of_le_of_lt (Nat.min_le_right _ _) h.regs.vl.isLt)
  refine ⟨y, (y.setVl (min (st n).2 h.vl)).setVstart 0, stands, ?_, by simp, ?_, ?_⟩
  · simpa [Hart.vl] using small
  · rw [setVl_setVstart_clean clean]
  · refine completesIn_of he hi ?_ (hart_setHart_same _ _ _)
    rw [looped, noteRunning_budget, hb, ← start, finished, ← modHart_eq_setHart stands fun y => (y.setVl (min (st n).2 h.vl)).setVstart 0]
    rfl

/-! ## The vector form of EQNZ -/

/-- One hit takes the next lane (R297). -/
def hitStep (base : Word) (p : VReg × Nat) (i : Nat) : VReg × Nat := (elemSet p.1 32 p.2 (base + BitVec.ofNat 64 i), p.2 + 1)

/-- The hits stand in the lanes in their order. -/
theorem elemGet_hits (base : Word) (r : VReg) (l : List Nat) :
    let x := l.foldl (hitStep base) (r, 0)
    x.2 = l.length ∧ ∀ k, k < 256 → elemGet x.1 32 k = match l[k]? with
      | some i => low 32 (base + BitVec.ofNat 64 i)
      | none => elemGet r 32 k := by
  induction l using List.reverseRecOn with
  | nil => exact ⟨rfl, fun _ _ => rfl⟩
  | append_singleton l i ih =>
    obtain ⟨count, elems⟩ := ih
    simp only [List.foldl_append, List.foldl_cons, List.foldl_nil, hitStep, count, List.length_append, List.length_singleton]
    refine ⟨trivial, fun k hk => ?_⟩
    by_cases here : k = l.length
    · rw [here, elemGet_elemSet_same _ (by decide) (here ▸ hk)]
      simp
    · have old : (l ++ [i])[k]? = l[k]? := by
        rcases Nat.lt_or_gt_of_ne here with below | above
        · exact List.getElem?_append_left below
        · rw [List.getElem?_eq_none (by simp; omega), List.getElem?_eq_none above.le]
      rw [elemGet_elemSet_other _ (by decide) here hk, elems k hk, old]

/-- What is measured of a completion does not tell the counters and the Lantern's side apart. -/
theorem completes_sided {i : Instr} {s : State} {slot : Nat} {h g : Hart} {p : RegFile 4 Word} {l : LanternSide}
    (completes : Completes i s slot h (g.sided p l)) : Completes i s slot h g := by
  obtain ⟨t, ht, completed⟩ := completes
  exact ⟨t, ht, completedAs_congr completed rfl rfl rfl⟩

/-- The lanes that EQNZ's vector form finds non-zero. -/
def eqnzHits (h : Hart) (o : EqnzForm) : List Nat :=
  (h.activeBelow o.mask).filter fun i => !scanZero h o.ty (elemGet (h.getV o.a) o.ty.width i)

/-- The flags that EQNZ's vector form raises. -/
def eqnzFlags (h : Hart) (o : EqnzForm) : FFlags :=
  nvOf (o.ty.isFloat && (h.activeBelow o.mask).any fun i => (o.ty.fmt.value (elemGet (h.getV o.a) o.ty.width i)).isSignalling)

/-- The register that EQNZ's vector form writes. -/
def eqnzLanes (h : Hart) (o : EqnzForm) : VReg := ((eqnzHits h o).foldl (hitStep (h.usrc o.b)) (h.getV o.d, 0)).1

theorem length_eqnzHits_lt (h : Hart) (o : EqnzForm) : (eqnzHits h o).length < 4096 :=
  calc (eqnzHits h o).length ≤ (h.activeBelow o.mask).length := List.length_filter_le _ _
    _ ≤ (List.range h.vl).length := List.length_filter_le _ _
    _ = h.vl := List.length_range
    _ < 4096 := h.regs.vl.isLt

/-- EQNZ's vector form writes its hits, raises its flags and sets VL to the number of the hits. -/
theorem completes_eqnz {c : Ctl} {o : EqnzForm} {s : State} {slot : Nat} {h : Hart} (hi : Issues 0xC0 c s slot h) (hp : h.poison = [])
    (width : h.widthOk o.ty.width = true) : Completes (.eqnz c o) s slot h
      ((((h.setV o.d (eqnzLanes h o)).raise (eqnzFlags h o)).setVl (eqnzHits h o).length).setVstart 0) := by
  let g := (((h.setV o.d (eqnzLanes h o)).raise (eqnzFlags h o)).setVl (eqnzHits h o).length).setVstart 0
  let t := (noteRunning s h).setHart slot g
  have stands : t.hart? slot = some g := hart_setHart_same _ _ _
  obtain ⟨p, l, popped⟩ : ∃ p l, (popCoords t slot h []).hart? slot = some (g.sided p l) := by
    obtain ⟨p, l, popped⟩ := popOwn_eq g _
    exact ⟨p, l, (hart_modHart_same stands _).trans (congrArg some popped)⟩
  have apart : Elsewhere (noteRunning s h) slot (popCoords t slot h []) := by
    rw [popCoords, modHart_eq_setHart stands]
    exact elsewhere_thenSetHart (elsewhere_thenSetHart (elsewhere_refl _ _) g) _
  have unread : ((h.activeBelow o.mask).any fun i => h.elemPoisoned o.a o.ty.width i) = false := by simp [elemPoisoned_of_none hp]
  refine completes_sided (completes_of_elsewhere (exec_eqnz c o s) hi (s' := popCoords t slot h []) ?_ popped apart)
  simp only [width, Bool.not_true, Bool.false_eq_true, if_false, unpoisoned_clean (poisoned_of_none hp _), unread]
  rw [cleanV_clean (h := h.setV o.d _) hp]
  exact congrArg (fun n => Res.done (popCoords ((noteRunning s h).setHart slot
    ((((h.setV o.d (eqnzLanes h o)).raise (eqnzFlags h o)).setVl n).setVstart 0)) slot h []))
    (elemGet_hits (h.usrc o.b) (h.getV o.d) (eqnzHits h o)).1

/-- Settles O36: each loop by the positions that it runs, the vector form of EQNZ by the hart that it leaves. -/
theorem equinoxLoopsComplete : Obligations.EquinoxLoopsComplete := by
  intro c s slot h hi hp hb u loop
  refine ⟨fun o width a b => ?_, fun o width a b => ?_, fun o width a => ?_, fun o width => ?_⟩
  · refine completesIn_loop (exec_eqint c o s) hi hp hb ?_ (keepsClean_eqintStep slot o h.vl h)
    simp only [width, Bool.not_true, Bool.false_eq_true, if_false, unpoisoned_clean (poisoned_of_none hp _)]
    exact cursorsChecked_ok (by simp [a, b])
  · refine completesIn_loop (exec_eqmrg c o s) hi hp hb ?_ (keepsClean_eqmrgStep slot o h.vl h)
    simp only [width, Bool.not_true, Bool.false_eq_true, if_false, unpoisoned_clean (poisoned_of_none hp _)]
    exact cursorsChecked_ok (by simp [a, b])
  · refine completesIn_loop (exec_eqnzCursorForm c o s) hi hp hb ?_ (keepsClean_eqnzStep slot o h.vl h)
    simp only [width, Bool.not_true, Bool.false_eq_true, if_false, unpoisoned_clean (poisoned_of_none hp _)]
    exact cursorsChecked_ok (by simp [a])
  · have clean : (((h.setV o.d (eqnzLanes h o)).raise (eqnzFlags h o))).poison = [] := hp
    refine ⟨_, completes_eqnz hi hp width, ?_, by simp, fun k hk => ?_, fun v other => ?_, ?_, ?_⟩
    · simp only [Hart.vl, hart_setVstart_regs, hart_setVl_regs, BitVec.toNat_ofNat]
      exact Nat.mod_eq_of_lt (length_eqnzHits_lt h o)
    · rw [getV_setVstart, getV_setVl]
      exact (congrArg (fun r => elemGet r 32 k) (getV_setV_same h o.d _)).trans ((elemGet_hits (h.usrc o.b) (h.getV o.d) (eqnzHits h o)).2 k hk)
    · rw [getV_setVstart, getV_setVl]
      exact getV_setV_other h o.d v _ other
    · rw [setVl_setVstart_clean clean]
      rfl
    · rw [setVl_setVstart_clean clean]
      rfl

end Sys2Proof.Machine
end

section
/-! PROOFS. Cursors and the lanes that Equinox writes (R292 to R297): the words of a cursor, one lane of EQMRG, one position of
EQNZ, and the intersection of two dense cursors. -/

namespace Sys2Proof.Machine

/-! ## The words of a cursor -/

theorem curPos_lt (c : Cursor) : curPos c < 2 ^ 32 := Nat.mod_lt _ (by decide)
theorem curAux_lt (c : Cursor) : curAux c < 2 ^ 32 := Nat.mod_lt _ (by decide)
theorem curEnd_lt (c : Cursor) : curEnd c < 2 ^ 32 := Nat.mod_lt _ (by decide)

theorem curPos_setPosAux (c : Cursor) (pos aux : Nat) : curPos (setPosAux c pos aux) = pos % 2 ^ 32 := by
  simp only [curPos, setPosAux, bits, BitVec.toNat_ofNat, Nat.shiftRight_eq_div_pow]
  omega

theorem curAux_setPosAux (c : Cursor) (pos aux : Nat) : curAux (setPosAux c pos aux) = aux % 2 ^ 32 := by
  simp only [curAux, setPosAux, bits, BitVec.toNat_ofNat, Nat.shiftRight_eq_div_pow]
  omega

theorem setPosAux_eq (c : Cursor) (pos aux : Nat) : ∃ x, setPosAux c pos aux = { c with cpos := x } := ⟨_, rfl⟩

theorem curEnd_setPosAux (c : Cursor) (pos aux : Nat) : curEnd (setPosAux c pos aux) = curEnd c := by
  obtain ⟨x, words⟩ := setPosAux_eq c pos aux
  rw [words]
  rfl

theorem curEnc_setPosAux (c : Cursor) (pos aux : Nat) : curEnc (setPosAux c pos aux) = curEnc c := by
  obtain ⟨x, words⟩ := setPosAux_eq c pos aux
  rw [words]
  rfl

theorem exhausted_eq_false {c : Cursor} : exhausted c = false ↔ curPos c < curEnd c := by
  rw [exhausted, decide_eq_false_iff_not, Nat.not_le]

/-- A dense cursor advances by its position alone (R292). -/
theorem advanceCursor_dense {c : Cursor} (more : exhausted c = false) (dense : curEnc c = 3) (x : Nat) :
    advanceCursor c x = setPosAux c (curPos c + 1) (curAux c) := by
  simp only [advanceCursor, more, Bool.false_eq_true, if_false, dense]

theorem curPos_advance_dense {c : Cursor} (more : exhausted c = false) :
    curPos (setPosAux c (curPos c + 1) (curAux c)) = curPos c + 1 := by
  have below := exhausted_eq_false.mp more
  have fits := curEnd_lt c
  rw [curPos_setPosAux, Nat.mod_eq_of_lt (by omega)]

/-! ## Lanes -/

theorem low32_ofNat (x : Nat) : low 32 (BitVec.ofNat 64 x) = BitVec.ofNat 64 (x % 2 ^ 32) := by
  apply BitVec.eq_of_toNat_eq
  simp only [low, BitVec.toNat_setWidth, BitVec.toNat_ofNat]
  omega

theorem getV_cleanV (h : Hart) (d : VIdx) (w lo n : Nat) (f : Nat → Bool) (v : VIdx) : (h.cleanV d w lo n f).getV v = h.getV v := by
  simp [Hart.cleanV, Hart.getV]

theorem elemGet_putLane (v : VIdx) (lo i x : Nat) (h : Hart) {j : Nat} (hj : j < 256) :
    elemGet ((putLane v lo i x h).getV v) 32 j = if j = i then BitVec.ofNat 64 (x % 2 ^ 32) else elemGet (h.getV v) 32 j := by
  rw [putLane, getV_cleanV, getV_setV_same]
  split
  · rename_i here
    rw [here, elemGet_elemSet_same _ (by decide) (here ▸ hj), low32_ofNat]
  · rename_i other
    exact elemGet_elemSet_other _ (by decide) other hj _

theorem getV_putLane_other {v u : VIdx} (other : u ≠ v) (lo i x : Nat) (h : Hart) : (putLane v lo i x h).getV u = h.getV u := by
  rw [putLane, getV_cleanV, getV_setV_other _ _ _ _ other]

@[simp] theorem getM_putLane (v : VIdx) (lo i x : Nat) (h : Hart) (m : MIdx) : (putLane v lo i x h).getM m = h.getM m := by
  simp [putLane, Hart.cleanV, Hart.getM, Hart.setV, Regs.getM]

@[simp] theorem getE_putLane (v : VIdx) (lo i x : Nat) (h : Hart) (e : EIdx) : (putLane v lo i x h).getE e = h.getE e := by
  simp [putLane, Hart.cleanV, Hart.getE, Hart.setV]

theorem getM_cleanM (h : Hart) (d : MIdx) (lo n : Nat) (f : Nat → Bool) (m : MIdx) : (h.cleanM d lo n f).getM m = h.getM m := by
  simp [Hart.cleanM, Hart.getM]

theorem getM_putTag_same {m : MIdx} (free : m ≠ 0) (lo i : Nat) (b : Bool) (h : Hart) {j : Nat} (hj : j < 1024) :
    ((putTag m lo i b h).getM m).getLsbD j = if j = i then b else (h.getM m).getLsbD j := by
  rw [putTag, getM_cleanM, getM_putBit_same h m i b hj, if_neg free]

theorem getM_putTag_other {m k : MIdx} (other : k ≠ m) (lo i : Nat) (b : Bool) (h : Hart) : (putTag m lo i b h).getM k = h.getM k := by
  rw [putTag, getM_cleanM, getM_putBit_other h i b other]

@[simp] theorem getV_putTag (m : MIdx) (lo i : Nat) (b : Bool) (h : Hart) (v : VIdx) : (putTag m lo i b h).getV v = h.getV v := by
  obtain ⟨f, put⟩ := putBit_eq h m i b
  simp [putTag, Hart.cleanM, Hart.getV, put]

@[simp] theorem getE_putTag (m : MIdx) (lo i : Nat) (b : Bool) (h : Hart) (e : EIdx) : (putTag m lo i b h).getE e = h.getE e := by
  obtain ⟨f, put⟩ := putBit_eq h m i b
  simp [putTag, Hart.cleanM, Hart.getE, put]

/-- The hart `y` is `h` but for vector and mask registers, cursors, poison, data on its way and the Lantern's side. -/
def EngineOnly (h y : Hart) : Prop :=
  { y with regs := { y.regs with v := h.regs.v, m := h.regs.m, e := h.regs.e }, poison := h.poison, arriving := h.arriving
           lantern := h.lantern } = h

section
variable {h y : Hart} (only : EngineOnly h y)
include only

theorem engineOnly_putLane (v : VIdx) (lo i x : Nat) : EngineOnly h (putLane v lo i x y) := by
  rw [putLane, Hart.cleanV, clearPoison_eq]
  exact only

theorem engineOnly_putTag (m : MIdx) (lo i : Nat) (b : Bool) : EngineOnly h (putTag m lo i b y) := by
  obtain ⟨f, put⟩ := putBit_eq y m i b
  rw [putTag, Hart.cleanM, clearPoison_eq, put]
  exact only

theorem engineOnly_setE (e : EIdx) (c : Cursor) : EngineOnly h (y.setE e c) := by
  rw [Hart.setE, clearPoison_eq]
  exact only

end

/-! ## One lane of EQMRG (R296) -/

/-- A cursor moves on when it is told to. -/
def advanceWhen (b : Bool) (e : EIdx) (k : Nat) (h : Hart) : Hart := if b then h.setE e (advanceCursor (h.getE e) k) else h

theorem getE_advanceWhen_same (b : Bool) (e : EIdx) (k : Nat) (h : Hart) :
    (advanceWhen b e k h).getE e = if b then advanceCursor (h.getE e) k else h.getE e := by
  cases b with
  | false => rfl
  | true => exact getE_setE_same _ _ _

theorem getE_advanceWhen_other (b : Bool) {e i : EIdx} (other : i ≠ e) (k : Nat) (h : Hart) : (advanceWhen b e k h).getE i = h.getE i := by
  cases b with
  | false => rfl
  | true => exact getE_setE_other _ _ _ _ other

@[simp] theorem getV_advanceWhen (b : Bool) (e : EIdx) (k : Nat) (h : Hart) (v : VIdx) : (advanceWhen b e k h).getV v = h.getV v := by
  cases b <;> simp [advanceWhen, Hart.setE, Hart.getV]

@[simp] theorem getM_advanceWhen (b : Bool) (e : EIdx) (k : Nat) (h : Hart) (m : MIdx) : (advanceWhen b e k h).getM m = h.getM m := by
  cases b <;> simp [advanceWhen, Hart.setE, Hart.getM, Regs.getM]

theorem engineOnly_advanceWhen {h y : Hart} (only : EngineOnly h y) (b : Bool) (e : EIdx) (k : Nat) : EngineOnly h (advanceWhen b e k y) := by
  cases b with
  | false => exact only
  | true => exact engineOnly_setE only _ _

/-- A hart with a lane of EQMRG written and the cursors that it took advanced. -/
def mergeLane (o : EqmrgForm) (lo cnt x y k : Nat) (ta tb : Bool) (h : Hart) : Hart :=
  advanceWhen tb o.b k (advanceWhen ta o.a k (emit o lo cnt x y k ta tb h))

/-- The hart `g` is `h` with lane `cnt` of EQMRG written and the cursors that it took advanced (R296). -/
structure LaneWritten (o : EqmrgForm) (cnt x y k : Nat) (ta tb : Bool) (h g : Hart) : Prop where
  elems : ∀ i, i < 256 → elemGet (g.getV o.d) 32 i = (if i = cnt then BitVec.ofNat 64 (x % 2 ^ 32) else elemGet (h.getV o.d) 32 i) ∧
    elemGet (g.getV (o.d + 1)) 32 i = (if i = cnt then BitVec.ofNat 64 (y % 2 ^ 32) else elemGet (h.getV (o.d + 1)) 32 i) ∧
    elemGet (g.getV (o.d + 2)) 32 i = if i = cnt then BitVec.ofNat 64 (k % 2 ^ 32) else elemGet (h.getV (o.d + 2)) 32 i
  tags : ∀ i, i < 1024 → (o.n ≠ 0 → (g.getM o.n).getLsbD i = if i = cnt then ta else (h.getM o.n).getLsbD i) ∧
    (o.n + 1 ≠ 0 → (g.getM (o.n + 1)).getLsbD i = if i = cnt then tb else (h.getM (o.n + 1)).getLsbD i)
  otherV : ∀ v, v ≠ o.d → v ≠ o.d + 1 → v ≠ o.d + 2 → g.getV v = h.getV v
  otherM : ∀ m, m ≠ o.n → m ≠ o.n + 1 → g.getM m = h.getM m
  cursorA : g.getE o.a = if ta then advanceCursor (h.getE o.a) k else h.getE o.a
  cursorB : g.getE o.b = if tb then advanceCursor (h.getE o.b) k else h.getE o.b
  otherE : ∀ e, e ≠ o.a → e ≠ o.b → g.getE e = h.getE e
  rest : EngineOnly h g

theorem laneWritten_mergeLane (o : EqmrgForm) (lo cnt x y k : Nat) (ta tb : Bool) (h : Hart) (l : LanternSide) (ab : o.a ≠ o.b) :
    LaneWritten o cnt x y k ta tb h (mergeLane o lo cnt x y k ta tb { h with lantern := l }) where
  elems i hi := by
    have d1 : o.d + 1 ≠ o.d := by bv_omega
    have d2 : o.d + 2 ≠ o.d := by bv_omega
    have d12 : o.d + 2 ≠ o.d + 1 := by bv_omega
    simp only [mergeLane, emit_eq_putTag, getV_advanceWhen, getV_putTag]
    rw [getV_putLane_other d2.symm, getV_putLane_other d1.symm, getV_putLane_other d12.symm]
    refine ⟨elemGet_putLane _ _ _ _ _ hi, ?_, ?_⟩
    · rw [elemGet_putLane _ _ _ _ _ hi, getV_putLane_other d1]
      rfl
    · rw [elemGet_putLane _ _ _ _ _ hi, getV_putLane_other d12, getV_putLane_other d2]
      rfl
  tags i hi := by
    have n1 : o.n + 1 ≠ o.n := by bv_omega
    simp only [mergeLane, emit_eq_putTag, getM_advanceWhen]
    refine ⟨fun free => ?_, fun free => ?_⟩
    · rw [getM_putTag_other n1.symm, getM_putTag_same free _ _ _ _ hi]
      simp only [getM_putLane]
      rfl
    · rw [getM_putTag_same free _ _ _ _ hi, getM_putTag_other n1]
      simp only [getM_putLane]
      rfl
  otherV v h0 h1 h2 := by
    simp only [mergeLane, emit_eq_putTag, getV_advanceWhen, getV_putTag]
    rw [getV_putLane_other h2, getV_putLane_other h1, getV_putLane_other h0]
    rfl
  otherM m h0 h1 := by
    simp only [mergeLane, emit_eq_putTag, getM_advanceWhen]
    rw [getM_putTag_other h1, getM_putTag_other h0]
    simp only [getM_putLane]
    rfl
  cursorA := by
    rw [mergeLane, getE_advanceWhen_other _ ab, getE_advanceWhen_same]
    simp only [emit_eq_putTag, getE_putTag, getE_putLane]
    rfl
  cursorB := by
    rw [mergeLane, getE_advanceWhen_same, getE_advanceWhen_other _ ab.symm]
    simp only [emit_eq_putTag, getE_putTag, getE_putLane]
    rfl
  otherE e ha hb := by
    rw [mergeLane, getE_advanceWhen_other _ hb, getE_advanceWhen_other _ ha]
    simp only [emit_eq_putTag, getE_putTag, getE_putLane]
    rfl
  rest := by
    have start : EngineOnly h { h with lantern := l } := rfl
    have lanes := engineOnly_putLane (engineOnly_putLane (engineOnly_putLane start o.d lo cnt x) (o.d + 1) lo cnt y) (o.d + 2) lo cnt k
    rw [mergeLane, emit_eq_putTag]
    exact engineOnly_advanceWhen (engineOnly_advanceWhen (engineOnly_putTag (engineOnly_putTag lanes _ _ _ _) _ _ _ _) _ _ _) _ _ _

section
variable {slot lim cnt : Nat} {o : EqmrgForm} {s s1 s2 : State} {h h0 : Hart} {pa pb : Option Peek} (stands : s.hart? slot = some h)
  (room : cnt < lim) (settledA : settle s slot h o.a = .ok (s1, pa)) (settledB : settle s1 slot h o.b = .ok (s2, pb))
include stands settledA settledB

theorem stands_settled : ∃ l, s2.hart? slot = some { h with lantern := l } := by
  obtain ⟨l, first⟩ := hart_settle settledA stands
  obtain ⟨l', second⟩ := hart_settle settledB first
  exact ⟨l', second⟩

include room

theorem eqmrgStep_onlyA {a ra : Nat} (first : pa = some (.present a ra)) (later : pb = none ∨ ∃ b rb, pb = some (.present b rb) ∧ a < b) :
    eqmrgStep slot o lim h0 (s, cnt) = .ok (some (s2.modHart slot (mergeLane o h0.vstart cnt ra 0xFFFFFFFF a true false), cnt + 1)) := by
  subst first
  rcases later with rfl | ⟨b, rb, rfl, less⟩
  · simp only [eqmrgStep, hartAt_of stands, Nat.not_le.mpr room, if_false, settledA, settledB]
    rfl
  · simp only [eqmrgStep, hartAt_of stands, Nat.not_le.mpr room, if_false, settledA, settledB, if_pos less]
    rfl

theorem eqmrgStep_onlyB {b rb : Nat} (first : pb = some (.present b rb)) (later : pa = none ∨ ∃ a ra, pa = some (.present a ra) ∧ b < a) :
    eqmrgStep slot o lim h0 (s, cnt) = .ok (some (s2.modHart slot (mergeLane o h0.vstart cnt 0xFFFFFFFF rb b false true), cnt + 1)) := by
  subst first
  rcases later with rfl | ⟨a, ra, rfl, less⟩
  · simp only [eqmrgStep, hartAt_of stands, Nat.not_le.mpr room, if_false, settledA, settledB]
    rfl
  · simp only [eqmrgStep, hartAt_of stands, Nat.not_le.mpr room, if_false, settledA, settledB, if_neg less.asymm, if_pos less]
    rfl

theorem eqmrgStep_both {a ra rb : Nat} (first : pa = some (.present a ra)) (second : pb = some (.present a rb)) :
    eqmrgStep slot o lim h0 (s, cnt) = .ok (some (s2.modHart slot (mergeLane o h0.vstart cnt ra rb a true true), cnt + 1)) := by
  subst first second
  simp only [eqmrgStep, hartAt_of stands, Nat.not_le.mpr room, if_false, settledA, settledB, lt_irrefl]
  rfl

theorem eqmrgStep_neither (first : pa = none) (second : pb = none) : eqmrgStep slot o lim h0 (s, cnt) = .ok none := by
  subst first second
  simp only [eqmrgStep, hartAt_of stands, Nat.not_le.mpr room, if_false, settledA, settledB]

end

/-! ## One position of EQNZ (R297) -/

/-- The hart after one position of EQNZ's cursor form. -/
def scanned (o : EqnzCursorForm) (lo cnt : Nat) (c : Cursor) (hit : Bool) (h : Hart) : Hart :=
  (if hit then putLane o.d lo cnt (curPos c) h else h).setE o.a (advanceCursor c (curPos c))

theorem eqnzStep_read {slot lim cnt : Nat} {o : EqnzCursorForm} {s s1 : State} {h h0 : Hart} {v : Nat} (stands : s.hart? slot = some h)
    (room : cnt < lim) (more : exhausted (h.getE o.a) = false)
    (read : elementRead s slot h ((h.getE o.a).cbase + BitVec.ofNat 64 (curPos (h.getE o.a) * o.ty.bytes)) o.ty.bytes none = .ok (s1, v)) :
    let hit := !scanZero h o.ty (BitVec.ofNat 64 v)
    ∃ l, eqnzStep slot o lim h0 (s, cnt) = .ok (some (s1.setHart slot
      (scanned o h0.vstart cnt (h.getE o.a) hit { h with lantern := l }), cnt + if hit then 1 else 0)) := by
  intro hit
  obtain ⟨l, after⟩ := hart_elementRead read stands
  refine ⟨l, ?_⟩
  have full : ¬lim ≤ cnt := Nat.not_le.mpr room
  unfold eqnzStep
  simp only [hartAt_of stands, full, more, decide_false, Bool.false_or, Bool.false_eq_true, if_false, read, modHart_eq_setHart after]
  cases zero : scanZero h o.ty (BitVec.ofNat 64 v) with
  | true =>
    simp only [hit, zero, if_true]
    rfl
  | false =>
    simp only [hit, zero, Bool.false_eq_true, if_false, scanned, getE_putLane, Bool.not_false, if_true]
    rfl

/-- The hart `g` is `h` after one position of EQNZ's cursor form, whose cursor was `c` (R297). -/
structure Scanned (o : EqnzCursorForm) (cnt : Nat) (hit : Bool) (h g : Hart) : Prop where
  pos : curPos (g.getE o.a) = curPos (h.getE o.a) + 1
  aux : curAux (g.getE o.a) = curAux (h.getE o.a)
  words : { g.getE o.a with cpos := (h.getE o.a).cpos } = h.getE o.a
  otherE : ∀ e, e ≠ o.a → g.getE e = h.getE e
  elems : ∀ i, i < 256 → elemGet (g.getV o.d) 32 i = if hit ∧ i = cnt then BitVec.ofNat 64 (curPos (h.getE o.a)) else elemGet (h.getV o.d) 32 i
  otherV : ∀ x, x ≠ o.d → g.getV x = h.getV x
  rest : { g with regs := { g.regs with v := h.regs.v, e := h.regs.e }, poison := h.poison, arriving := h.arriving
                  lantern := h.lantern } = h

theorem getV_setE (h : Hart) (e : EIdx) (c : Cursor) (v : VIdx) : (h.setE e c).getV v = h.getV v := by simp [Hart.setE, Hart.getV]

theorem scanned_spec {o : EqnzCursorForm} {h : Hart} (lo cnt : Nat) (hit : Bool) (l : LanternSide) (more : exhausted (h.getE o.a) = false)
    (dense : curEnc (h.getE o.a) = 3) : Scanned o cnt hit h (scanned o lo cnt (h.getE o.a) hit { h with lantern := l }) where
  pos := by rw [scanned, getE_setE_same, advanceCursor_dense more dense, curPos_advance_dense more]
  aux := by rw [scanned, getE_setE_same, advanceCursor_dense more dense, curAux_setPosAux, Nat.mod_eq_of_lt (curAux_lt _)]
  words := by
    simp only [scanned, getE_setE_same, advanceCursor_dense more dense, setPosAux]
  otherE e other := by
    rw [scanned, getE_setE_other _ _ _ _ other]
    cases hit with
    | false => rfl
    | true => exact getE_putLane o.d lo cnt _ _ e
  elems i hi := by
    rw [scanned, getV_setE]
    cases hit with
    | false => simp [Hart.getV]
    | true =>
      simp only [if_true, true_and, elemGet_putLane _ _ _ _ _ hi, Nat.mod_eq_of_lt (curPos_lt _)]
      rfl
  otherV v other := by
    rw [scanned, getV_setE]
    cases hit with
    | false => rfl
    | true => exact getV_putLane_other other lo cnt _ _
  rest := by
    rw [scanned, Hart.setE, clearPoison_eq]
    cases hit with
    | false => rfl
    | true =>
      rw [if_pos rfl, putLane, Hart.cleanV, clearPoison_eq]
      rfl

/-! ## Dense intersection (R295) -/

/-- A loop whose steps each use up some of a measure ends where its step finds nothing left. -/
theorem consumeLoop_measured {σ : Type} {f : σ → Except Denied (Option σ)} {P : σ → Prop} (left : σ → Nat)
    (steps : ∀ x, P x → f x = .ok none ∨ ∃ y, f x = .ok (some y) ∧ P y ∧ left y < left x) {n : Nat} {x : σ} (start : P x) (fuel : left x < n) :
    ∃ y, consumeLoop f n none x = .finished y ∧ P y ∧ f y = .ok none := by
  induction n generalizing x with
  | zero => exact absurd fuel (Nat.not_lt_zero _)
  | succ n ih =>
    rcases steps x start with last | ⟨y, step, kept, less⟩
    · exact ⟨x, by simp only [consumeLoop, last], start, last⟩
    · obtain ⟨z, finished, done⟩ := ih kept (by omega : left y < n)
      exact ⟨z, by simp only [consumeLoop, step, reduceCtorEq, if_false, Option.map_none, finished], done⟩

/-- A cursor is `c` moved on, and not beyond its end. -/
structure DenseAt (c d : Cursor) : Prop where
  enc : curEnc d = 3
  last : curEnd d = curEnd c
  since : curPos c ≤ curPos d
  within : curPos d ≤ curEnd c

theorem denseAt_advance {c d : Cursor} (dense : DenseAt c d) (more : exhausted d = false) (x : Nat) :
    DenseAt c (advanceCursor d x) ∧ curPos (advanceCursor d x) = curPos d + 1 := by
  have below := exhausted_eq_false.mp more
  have since := dense.since
  have last := dense.last
  rw [advanceCursor_dense more dense.enc]
  have pos := curPos_advance_dense more
  exact ⟨⟨by rw [curEnc_setPosAux, dense.enc], by rw [curEnd_setPosAux, last], by omega, by omega⟩, pos⟩

theorem denseAt_refl {c : Cursor} (enc : curEnc c = 3) (good : cursorBad c = false) : DenseAt c c where
  enc := enc
  last := rfl
  since := le_rfl
  within := by
    simp only [cursorBad, Bool.or_eq_false_iff, decide_eq_false_iff_not, Nat.not_lt] at good
    exact good.2

/-- What stands at a dense cursor's position is the position, for which no memory is read (R292). -/
theorem peek_dense {c : Cursor} (more : exhausted c = false) (enc : curEnc c = 3) (s : State) (slot : Nat) (h : Hart) :
    peek s slot h c = .ok (s, .present (curPos c) (curPos c)) := by
  simp only [peek, more, Bool.false_eq_true, if_false, enc]

/-- The hart `y` holds in its first `cnt` lanes the first positions that the cursors of `h` share, from `lo` on. -/
structure Intersected (h : Hart) (o : EqintForm) (lo cnt : Nat) (y : Hart) : Prop where
  clean : y.poison = []
  a : DenseAt (h.getE o.a) (y.getE o.a)
  b : DenseAt (h.getE o.b) (y.getE o.b)
  met : cnt = 0 ∧ curPos (y.getE o.a) ≤ lo ∧ curPos (y.getE o.b) ≤ lo ∨ curPos (y.getE o.a) = lo + cnt ∧ curPos (y.getE o.b) = lo + cnt
  room : cnt ≤ h.vl
  lanes : ∀ k, k < cnt → elemGet (y.getV o.d) 32 k = BitVec.ofNat 64 (lo + k) ∧ elemGet (y.getV (o.d + 1)) 32 k = BitVec.ofNat 64 (lo + k)

/-- The positions that are left to both cursors of EQINT. -/
def intersectLeft (o : EqintForm) (y : Hart) : Nat := positionsLeft (y.getE o.a) + positionsLeft (y.getE o.b)

theorem positionsLeft_advance {c : Cursor} (more : exhausted c = false) (dense : curEnc c = 3) (x : Nat) :
    positionsLeft (advanceCursor c x) < positionsLeft c := by
  have below := exhausted_eq_false.mp more
  rw [advanceCursor_dense more dense, positionsLeft, positionsLeft, curPos_advance_dense more, curEnd_setPosAux]
  omega

/-- The hart after one position of EQINT on dense cursors: the lesser position is passed over, and a shared one is written. -/
def intersectOne (o : EqintForm) (lo cnt : Nat) (h : Hart) : Hart :=
  let a := curPos (h.getE o.a)
  let b := curPos (h.getE o.b)
  advanceWhen (decide (b ≤ a)) o.b b (advanceWhen (decide (a ≤ b)) o.a a
    (if a = b then putLane (o.d + 1) lo cnt b (putLane o.d lo cnt a h) else h))

section
variable {o : EqintForm} {y : Hart} (lo cnt : Nat)

theorem getE_lanes (e : EIdx) (p : Prop) [Decidable p] (a b : Nat) :
    (if p then putLane (o.d + 1) lo cnt b (putLane o.d lo cnt a y) else y).getE e = y.getE e := by
  split
  · rw [getE_putLane, getE_putLane]
  · rfl

theorem getE_intersectOne_a (ab : o.a ≠ o.b) : (intersectOne o lo cnt y).getE o.a =
    if curPos (y.getE o.a) ≤ curPos (y.getE o.b) then advanceCursor (y.getE o.a) (curPos (y.getE o.a)) else y.getE o.a := by
  simp only [intersectOne, getE_advanceWhen_other _ ab, getE_advanceWhen_same, getE_lanes, decide_eq_true_eq]

theorem getE_intersectOne_b (ab : o.a ≠ o.b) : (intersectOne o lo cnt y).getE o.b =
    if curPos (y.getE o.b) ≤ curPos (y.getE o.a) then advanceCursor (y.getE o.b) (curPos (y.getE o.b)) else y.getE o.b := by
  simp only [intersectOne, getE_advanceWhen_same, getE_advanceWhen_other _ ab.symm, getE_lanes, decide_eq_true_eq]

theorem poison_advanceWhen {h : Hart} (hp : h.poison = []) (b : Bool) (e : EIdx) (k : Nat) : (advanceWhen b e k h).poison = [] := by
  cases b with
  | false => exact hp
  | true => exact poison_setE hp _ _

theorem poison_intersectOne (hp : y.poison = []) : (intersectOne o lo cnt y).poison = [] := by
  refine poison_advanceWhen (poison_advanceWhen ?_ _ _ _) _ _ _
  split
  · exact poison_putLane (poison_putLane hp _ _ _ _) _ _ _ _
  · exact hp

/-- A shared position is written to its lane of both registers. -/
theorem elemGet_intersectOne {v : VIdx} (out : v = o.d ∨ v = o.d + 1) {k : Nat} (hk : k < 256) :
    elemGet ((intersectOne o lo cnt y).getV v) 32 k = if curPos (y.getE o.a) = curPos (y.getE o.b) ∧ k = cnt then
      BitVec.ofNat 64 (curPos (y.getE o.a)) else elemGet (y.getV v) 32 k := by
  have d1 : o.d + 1 ≠ o.d := by bv_omega
  simp only [intersectOne, getV_advanceWhen]
  by_cases meets : curPos (y.getE o.a) = curPos (y.getE o.b)
  · rw [if_pos meets]
    simp only [meets, true_and]
    rcases out with rfl | rfl
    · rw [getV_putLane_other d1.symm, elemGet_putLane _ _ _ _ _ hk, Nat.mod_eq_of_lt (curPos_lt _)]
    · rw [elemGet_putLane _ _ _ _ _ hk, getV_putLane_other d1, Nat.mod_eq_of_lt (curPos_lt _)]
  · rw [if_neg meets, if_neg fun both => meets both.1]

end

theorem eqintStep_dense {s : State} {slot lim cnt : Nat} {o : EqintForm} {y h0 : Hart} (stands : s.hart? slot = some y) (room : cnt < lim)
    (moreA : exhausted (y.getE o.a) = false) (moreB : exhausted (y.getE o.b) = false) (encA : curEnc (y.getE o.a) = 3)
    (encB : curEnc (y.getE o.b) = 3) (ab : o.a ≠ o.b) :
    eqintStep slot o lim h0 (s, cnt) = .ok (some (s.setHart slot (intersectOne o h0.vstart cnt y),
      cnt + if curPos (y.getE o.a) = curPos (y.getE o.b) then 1 else 0)) := by
  have full : decide (lim ≤ cnt) = false := decide_eq_false (Nat.not_le.mpr room)
  simp only [eqintStep, hartAt_of stands, full, moreA, moreB, Bool.or_self, Bool.false_eq_true, if_false, peek_dense moreA encA,
    peek_dense moreB encB, modHart_eq_setHart stands]
  rcases Nat.lt_trichotomy (curPos (y.getE o.a)) (curPos (y.getE o.b)) with less | same | more
  · simp only [intersectOne, if_neg less.ne, if_pos less, less.le, Nat.not_le.mpr less, decide_true, decide_false, advanceWhen, if_true,
      Bool.false_eq_true, if_false, Nat.add_zero]
  · simp only [intersectOne, if_pos same, same.le, same.ge, decide_true, advanceWhen, if_true, getE_setE_other _ _ _ _ ab.symm, getE_putLane]
  · simp only [intersectOne, if_neg more.ne', if_neg more.asymm, more.le, Nat.not_le.mpr more, decide_true, decide_false, advanceWhen, if_true,
      Bool.false_eq_true, if_false, Nat.add_zero]

section
variable {h y : Hart} {o : EqintForm} {cnt : Nat} (ab : o.a ≠ o.b) (hy : Intersected h o (max (curPos (h.getE o.a)) (curPos (h.getE o.b))) cnt y)
  (moreA : exhausted (y.getE o.a) = false) (moreB : exhausted (y.getE o.b) = false)
include ab hy moreA moreB

theorem intersectLeft_intersectOne (lo : Nat) : intersectLeft o (intersectOne o lo cnt y) < intersectLeft o y := by
  have lessA := positionsLeft_advance moreA hy.a.enc (curPos (y.getE o.a))
  have lessB := positionsLeft_advance moreB hy.b.enc (curPos (y.getE o.b))
  rw [intersectLeft, intersectLeft, getE_intersectOne_a lo cnt ab, getE_intersectOne_b lo cnt ab]
  split <;> split <;> omega

theorem intersected_intersectOne (room : cnt < h.vl) (fits : h.vl ≤ 256) (lo : Nat) :
    Intersected h o (max (curPos (h.getE o.a)) (curPos (h.getE o.b)))
      (cnt + if curPos (y.getE o.a) = curPos (y.getE o.b) then 1 else 0) (intersectOne o lo cnt y) := by
  obtain ⟨denseA, posA⟩ := denseAt_advance hy.a moreA (curPos (y.getE o.a))
  obtain ⟨denseB, posB⟩ := denseAt_advance hy.b moreB (curPos (y.getE o.b))
  have sinceA := hy.a.since
  have sinceB := hy.b.since
  have met := hy.met
  refine ⟨poison_intersectOne lo cnt hy.clean, ?_, ?_, ?_, by split <;> omega, fun k hk => ?_⟩
  · rw [getE_intersectOne_a lo cnt ab]
    split
    · exact denseA
    · exact hy.a
  · rw [getE_intersectOne_b lo cnt ab]
    split
    · exact denseB
    · exact hy.b
  · rw [getE_intersectOne_a lo cnt ab, getE_intersectOne_b lo cnt ab]
    rcases Nat.lt_trichotomy (curPos (y.getE o.a)) (curPos (y.getE o.b)) with less | same | more
    · rw [if_pos less.le, if_neg (Nat.not_le.mpr less), if_neg less.ne, posA]
      omega
    · rw [if_pos same.le, if_pos same.ge, if_pos same, posA, posB]
      omega
    · rw [if_neg (Nat.not_le.mpr more), if_pos more.le, if_neg more.ne', posB]
      omega
  · have inside : k < 256 := by split at hk <;> omega
    rw [elemGet_intersectOne lo cnt (Or.inl rfl) inside, elemGet_intersectOne lo cnt (Or.inr rfl) inside]
    by_cases here : curPos (y.getE o.a) = curPos (y.getE o.b) ∧ k = cnt
    · rw [if_pos here, if_pos here, show curPos (y.getE o.a) = max (curPos (h.getE o.a)) (curPos (h.getE o.b)) + k by omega]
      exact ⟨rfl, rfl⟩
    · rw [if_neg here, if_neg here]
      exact hy.lanes k (by split at hk <;> omega)

end

/-- Where EQINT finds nothing left, it has written the positions that both cursors hold, as many as there are lanes. -/
theorem count_of_intersected {h y : Hart} {o : EqintForm} {cnt : Nat}
    (hy : Intersected h o (max (curPos (h.getE o.a)) (curPos (h.getE o.b))) cnt y)
    (last : h.vl ≤ cnt ∨ exhausted (y.getE o.a) = true ∨ exhausted (y.getE o.b) = true) :
    cnt = min (min (curEnd (h.getE o.a)) (curEnd (h.getE o.b)) - max (curPos (h.getE o.a)) (curPos (h.getE o.b))) h.vl := by
  simp only [exhausted, decide_eq_true_eq, hy.a.last, hy.b.last] at last
  have withinA := hy.a.within
  have withinB := hy.b.within
  have met := hy.met
  have room := hy.room
  omega

/-- What EQINT finds as it starts, the Lantern's batch popped. -/
theorem intersected_popCoords {h : Hart} {o : EqintForm} (hp : h.poison = []) (encA : curEnc (h.getE o.a) = 3)
    (encB : curEnc (h.getE o.b) = 3) (goodA : cursorBad (h.getE o.a) = false) (goodB : cursorBad (h.getE o.b) = false)
    (p : RegFile 4 Word) (l : LanternSide) : Intersected h o (max (curPos (h.getE o.a)) (curPos (h.getE o.b))) 0 (h.sided p l) where
  clean := hp
  a := denseAt_refl encA goodA
  b := denseAt_refl encB goodB
  met := Or.inl ⟨rfl, le_max_left _ _, le_max_right _ _⟩
  room := Nat.zero_le _
  lanes _ hk := absurd hk (Nat.not_lt_zero _)

theorem popCoords_sided {s : State} {slot : Nat} {h : Hart} (stands : s.hart? slot = some h) (h0 : Hart) (es : List EIdx) :
    ∃ p l, popCoords s slot h0 es = s.setHart slot (h.sided p l) := by
  unfold popCoords
  dsimp only
  rw [modHart_eq_setHart stands]
  obtain ⟨p, l, popped⟩ := popOwn_eq h _
  exact ⟨p, l, congrArg (s.setHart slot) popped⟩

/-- EQINT on two dense cursors writes the positions that both hold, and sets VL to their number. -/
theorem completes_eqint_dense {c : Ctl} {o : EqintForm} {s : State} {slot : Nat} {h : Hart} (hi : Issues 0xC0 c s slot h)
    (hp : h.poison = []) (hb : s.budget = none) (width : h.widthOk 32 = true) (ab : o.a ≠ o.b) (goodA : cursorBad (h.getE o.a) = false)
    (goodB : cursorBad (h.getE o.b) = false) (encA : curEnc (h.getE o.a) = 3) (encB : curEnc (h.getE o.b) = 3) (start : h.vstart = 0)
    (fits : h.vl ≤ 256) :
    let lo := max (curPos (h.getE o.a)) (curPos (h.getE o.b))
    let n := min (min (curEnd (h.getE o.a)) (curEnd (h.getE o.b)) - lo) h.vl
    ∃ y, Completes (.eqint c o) s slot h ((y.setVl n).setVstart 0) ∧ Intersected h o lo n y := by
  intro lo n
  have stands : (noteRunning s h).hart? slot = some h := (noteRunning_hart s h slot).trans hi.hart
  obtain ⟨p, l, popped⟩ := popCoords_sided stands h [o.a, o.b]
  obtain ⟨⟨t, cnt⟩, finished, ⟨y, ht, apart, hy⟩, last⟩ := consumeLoop_measured (f := eqintStep slot o h.vl h)
    (P := fun x => ∃ y, x.1.hart? slot = some y ∧ Elsewhere (noteRunning s h) slot x.1 ∧ Intersected h o lo x.2 y)
    (fun x => intersectLeft o (hartAt x.1 slot h)) (n := fuelOf h [o.a, o.b]) (x := (popCoords (noteRunning s h) slot h [o.a, o.b], h.vstart))
    (fun ⟨t, cnt⟩ ⟨y, ht, apart, hy⟩ => by
      by_cases last : (decide (h.vl ≤ cnt) || exhausted (y.getE o.a) || exhausted (y.getE o.b)) = true
      · exact Or.inl (by simp only [eqintStep, hartAt_of ht, last, if_true])
      · simp only [Bool.or_eq_true, decide_eq_true_eq, not_or, Nat.not_le, Bool.not_eq_true] at last
        obtain ⟨⟨room, moreA⟩, moreB⟩ := last
        refine Or.inr ⟨_, eqintStep_dense ht room moreA moreB hy.a.enc hy.b.enc ab, ⟨_, hart_setHart_same _ _ _,
          elsewhere_thenSetHart apart _, intersected_intersectOne ab hy moreA moreB room fits _⟩, ?_⟩
        rw [hartAt_of ht, hartAt_of (hart_setHart_same _ _ _)]
        exact intersectLeft_intersectOne ab hy moreA moreB _)
    ⟨h.sided p l, by rw [popped]; exact hart_setHart_same _ _ _, by rw [popped]; exact elsewhere_thenSetHart (elsewhere_refl _ _) _,
      by rw [start]; exact intersected_popCoords hp encA encB goodA goodB p l⟩
    (by
      rw [popped, hartAt_of (hart_setHart_same _ _ _)]
      exact Nat.lt_succ_of_le (Nat.le_of_eq (by simp [intersectLeft, Hart.getE, Hart.sided])))
  have count : cnt = n := count_of_intersected hy (by
    by_contra more
    simp only [not_or, Nat.not_le, Bool.not_eq_true] at more
    obtain ⟨room, moreA, moreB⟩ := more
    rw [eqintStep_dense ht room moreA moreB hy.a.enc hy.b.enc ab] at last
    cases last)
  refine ⟨y, completes_of_elsewhere (exec_eqint c o s) hi (s' := t.modHart slot fun y => (y.setVl n).setVstart 0) ?_ (hart_modHart_same ht _)
    (modHart_eq_setHart ht _ ▸ elsewhere_thenSetHart apart _), count ▸ hy⟩
  simp only [width, Bool.not_true, Bool.false_eq_true, if_false, unpoisoned_clean (poisoned_of_none hp _)]
  rw [cursorsChecked_ok (by simp [cursorOk, goodA, goodB, encA, encB]), noteRunning_budget, hb, finished, count]
  simp only [closeEquinox, n, Nat.min_eq_left (Nat.min_le_right _ _)]

end Sys2Proof.Machine
end

section
/-! PROOFS. How pins end, whatever counters and Lantern's side stand in the harts (R319): they read of a hart its identity
alone. So the trap of a hart is the same whatever it has noted of what it read (R147, R384). -/

namespace Sys2Proof.Machine

/-! ## What the end of a pin reads of the harts -/

/-- The harts of two tables have the same identities. -/
def SameIds (x y : Tbl Hart) : Prop := ∀ k, (tblGet x k).map Hart.ids = (tblGet y k).map Hart.ids

/-- An operation that leaves the harts alone and reads of them their identities at most. -/
structure HartBlind (f : State → State) : Prop where
  harts : ∀ s, (f s).harts = s.harts
  blind : ∀ s x, SameIds x s.harts → f (s.withHarts x) = (f s).withHarts x

section
variable (s : State) (x : Tbl Hart)

theorem pinsOn_withHarts (pa n : Nat) : pinsOn (s.withHarts x) pa n = pinsOn s pa n := rfl

theorem confirmPins_withHarts (part : Nat) : confirmPins (s.withHarts x) part = confirmPins s part := rfl

theorem segmentPins_withHarts (part : Nat) (toMem stale : Bool) (g : Segment) :
    segmentPins (s.withHarts x) part toMem stale g = segmentPins s part toMem stale g := by
  unfold segmentPins
  rw [confirmPins_withHarts, walk_withHarts]
  simp only [pinsOn_withHarts]
  rfl

theorem transferPins_withHarts (t : Transfer) : t.pins (s.withHarts x) = t.pins s := by
  have gang : partOfGang (s.withHarts x) t.gang = partOfGang s t.gang := rfl
  have merges : (s.withHarts x).merges = s.merges := rfl
  simp only [Transfer.pins, gang, merges, funext (segmentPins_withHarts s x _ _ _), pinsOn_withHarts]

theorem boundSiblingPins_withHarts (k : Queues) (slot : Nat) :
    boundSiblingPins k (s.withHarts x) slot = (boundSiblingPins k s slot).withHarts x := by
  unfold boundSiblingPins boundPins
  cases pairOfAgent slot with
  | none => rfl
  | some n =>
    have pair : (s.withHarts x).pair n = s.pair n := rfl
    dsimp only
    rw [pair]
    split <;> rfl

theorem engineReadLine_withHarts (slot part pa n : Nat) :
    engineReadLine (s.withHarts x) slot part pa n = ((engineReadLine s slot part pa n).1.withHarts x, (engineReadLine s slot part pa n).2) := by
  have link : hostReadFails (s.withHarts x) pa n = hostReadFails s pa n := rfl
  have poison : ∀ a, readPoison (s.withHarts x) slot a 1 = readPoison s slot a 1 := fun _ => rfl
  have bytes : physReadBytes (s.withHarts x) pa n = physReadBytes s pa n := rfl
  have error : hostErrorAt (s.withHarts x) pa n = hostErrorAt s pa n := rfl
  have trained : linkTrained (s.withHarts x) (hostLink pa) = linkTrained s (hostLink pa) := rfl
  unfold engineReadLine
  simp only [link, poison, bytes, error, hostLinkError_withHarts, trained]
  split
  · split <;> rfl
  · rfl

theorem bindMerge_withHarts (m : MergeWindow) : bindMerge (s.withHarts x) m = ((bindMerge s m).1.withHarts x, (bindMerge s m).2) := by
  have part : requestPart (s.withHarts x) m = requestPart s m := rfl
  have pins : pinnedElsewhere (s.withHarts x) none (m.line * 128) 128 = pinnedElsewhere s none (m.line * 128) 128 := rfl
  unfold bindMerge
  simp only [part, pins, engineReadLine_withHarts]
  split <;> rfl

theorem bindMerges_withHarts : bindMerges (s.withHarts x) = (bindMerges s).withHarts x := by
  have merges : (s.withHarts x).merges = s.merges := rfl
  unfold bindMerges
  rw [merges]
  cases s.merges with
  | nil => rfl
  | cons m l =>
    have fold := List.foldl_hom (fun r : State × List MergeWindow => (r.1.withHarts x, r.2))
      (g₁ := fun r m => ((bindMerge r.1 m).1, r.2 ++ [(bindMerge r.1 m).2]))
      (g₂ := fun r m => ((bindMerge r.1 m).1, r.2 ++ [(bindMerge r.1 m).2]))
      (l := m :: l) (init := (s, [])) fun r m => by simp only [bindMerge_withHarts]
    dsimp only
    rw [fold]
    rfl

section
variable (same : SameIds x s.harts)
include same

theorem isOf_withHarts (slot : Nat) (e : HostStore) : e.isOf (s.withHarts x) slot = e.isOf s slot := by
  have stands : (s.withHarts x).hart? slot = tblGet x slot := rfl
  have ids := same slot
  unfold HostStore.isOf
  rw [stands, State.hart?]
  cases here : tblGet x slot with
  | none =>
    have there : tblGet s.harts slot = none := by simpa [here] using ids.symm
    rw [there]
  | some y =>
    obtain ⟨z, there, same⟩ : ∃ z, tblGet s.harts slot = some z ∧ z.ids = y.ids := by simpa [here, eq_comm] using ids
    rw [there]
    dsimp only
    rw [same]

theorem hostOpen_withHarts (slot : Nat) (vec : Bool) (bound : Nat) : hostOpen (s.withHarts x) slot vec bound = hostOpen s slot vec bound := by
  have stores : (s.withHarts x).hostStores = s.hostStores := rfl
  simp only [hostOpen, stores, isOf_withHarts s x same]

theorem over_withHarts (slot : Nat) (gone : List PinKey) (w : Pending) : w.over (s.withHarts x) slot gone = w.over s slot gone := by
  have transfers : (s.withHarts x).transfers = s.transfers := rfl
  have pair : ∀ k, (s.withHarts x).pair k = s.pair k := fun _ => rfl
  have stores : hostOpenOf (s.withHarts x) w.transfers = hostOpenOf s w.transfers := rfl
  simp only [Pending.over, transfers, pair, stores, transferPins_withHarts, hostOpen_withHarts s x same]

theorem ends_withHarts (gone : List PinKey) (q : Pin) : q.ends (s.withHarts x) gone = q.ends s gone := by
  simp only [Pin.ends, funext (over_withHarts s x same q.slot gone)]

theorem endTogether_withHarts (n : Nat) (l : List (Nat × Pin)) : endTogether (s.withHarts x) n l = endTogether s n l := by
  induction n generalizing l with
  | zero => rfl
  | succ n ih => simp only [endTogether, ends_withHarts s x same, ih]

theorem endNext_withHarts : endNext (s.withHarts x) = endNext s := by
  have ending : endingPins (s.withHarts x) = endingPins s := rfl
  simp only [endNext, ending, ends_withHarts s x same, endTogether_withHarts s x same]

end

end

/-- Pins of a list end. -/
def endPin (s : State) (e : Nat × Pin) : State :=
  s.setPair e.1 ((s.pair e.1).keepPins ((s.pair e.1).pins.filter fun q => q.key e.1 != e.2.key e.1))

theorem settleFor_withHarts (n : Nat) (s : State) (x : Tbl Hart) (same : SameIds x s.harts) :
    settleFor n (s.withHarts x) = (settleFor n s).withHarts x := by
  induction n generalizing s with
  | zero => rfl
  | succ n ih =>
    unfold settleFor
    rw [endNext_withHarts s x same]
    cases endNext s with
    | nil => rfl
    | cons e l =>
      have fold : (e :: l).foldl endPin (s.withHarts x) = ((e :: l).foldl endPin s).withHarts x :=
        List.foldl_hom (State.withHarts · x) fun _ _ => rfl
      have harts : ((e :: l).foldl endPin s).harts = s.harts := harts_of_crew (crew_foldl (f := endPin) (fun _ _ => rfl) _ s)
      refine (congrArg (settleFor n) fold).trans (ih _ ?_)
      rw [harts]
      exact same

theorem hartBlind_settlePins : HartBlind settlePins where
  harts s := harts_of_crew (crew_settlePins s)
  blind s x same := by
    have ending : endingPins (s.withHarts x) = endingPins s := rfl
    unfold settlePins
    rw [ending]
    cases endingPins s with
    | nil => rfl
    | cons e l =>
      dsimp only
      rw [settleFor_withHarts _ s x same, bindMerges_withHarts]

theorem hartBlind_boundSiblingPins (k : Queues) (slot : Nat) : HartBlind fun s => boundSiblingPins k s slot where
  harts s := harts_of_crew (crew_boundSiblingPins k s slot)
  blind s x _ := boundSiblingPins_withHarts s x k slot

theorem pendPins_withHarts (s : State) (slot : Nat) (w : Pending) (x : Tbl Hart) (same : SameIds x s.harts) :
    pendPins (s.withHarts x) slot w = (pendPins s slot w).withHarts x := by
  unfold pendPins
  cases pairOfAgent slot with
  | none => rfl
  | some n =>
    have pair : (s.withHarts x).pair n = s.pair n := rfl
    dsimp only
    rw [pair]
    split
    · rfl
    · exact hartBlind_settlePins.blind (s.setPair n _) x same

theorem hartBlind_releasePins (slot : Nat) : HartBlind fun s => releasePins s slot where
  harts s := harts_of_crew (crew_releasePins s slot)
  blind s x same := by
    unfold releasePins
    cases pairOfAgent slot with
    | none => rfl
    | some n =>
      have pair : (s.withHarts x).pair n = s.pair n := rfl
      dsimp only
      rw [pair]
      split
      · have bound := boundSiblingPins_withHarts s x .both slot
        have kept := harts_of_crew (crew_boundSiblingPins .both s slot)
        rw [bound]
        exact pendPins_withHarts _ slot _ x (by rw [kept]; exact same)
      · rfl

theorem hartBlind_settleStores (slot : Nat) : HartBlind fun s => settleStores s slot where
  harts s := harts_of_crew (crew_settleStores s slot)
  blind s x _ := by
    have stores : (s.withHarts x).overwritten = s.overwritten := rfl
    unfold settleStores
    rw [stores]
    cases s.overwritten <;> rfl

end Sys2Proof.Machine
end

section
/-! PROOFS. The trap of a hart does not tell apart states that differ in its counters and its Lantern's side (R147, R384). -/

namespace Sys2Proof.Machine

/-! ## Operations on states that differ in one hart's side -/

/-- An operation on a hart whose effect outside the counters and the Lantern's side does not hang on them. -/
def SideFree (f : Hart → Hart) : Prop := ∀ h p l, ∃ p' l', f (h.sided p l) = (f h).sided p' l'

/-- A hart without poison is left without. -/
def LeavesClean (f : Hart → Hart) : Prop := ∀ h, h.poison = [] → (f h).poison = []

theorem sideFree_stop : SideFree Hart.stop := fun _ _ _ => ⟨_, _, rfl⟩

theorem leavesClean_stop : LeavesClean Hart.stop := fun h clean => by
  obtain ⟨p, l, flushed⟩ := flushLantern_eq h
  rw [Hart.stop, flushed]
  exact clean

section
variable {slot : Nat} {s t : State}

theorem sameIds_of_alike (st : Alike slot s t) : SameIds t.harts s.harts := fun k => by
  by_cases here : k = slot
  · subst here
    exact alike_ids st
  · exact congrArg (Option.map Hart.ids) (st.others k here)

theorem alike_of_hartBlind {f : State → State} (st : Alike slot s t) (blind : HartBlind f) : Alike slot (f s) (f t) := by
  have both : f t = (f s).withHarts t.harts := by
    conv_lhs => rw [st.state]
    exact blind.blind s t.harts (sameIds_of_alike st)
  rw [both]
  exact alike_withHarts st (blind.harts s)

theorem alike_setHart_both (st : Alike slot s t) {y : Hart} (clean : y.poison = []) (p : RegFile 4 Word) (l : LanternSide) :
    Alike slot (s.setHart slot y) (t.setHart slot (y.sided p l)) where
  state := by
    rw [st.state]
    rfl
  others k hk := by rw [hart_setHart_other _ _ _ _ hk, hart_setHart_other _ _ _ _ hk, st.others k hk]
  hart := ⟨y, p, l, hart_setHart_same _ _ _, hart_setHart_same _ _ _, clean⟩

theorem alike_setHart_other (st : Alike slot s t) {k : Nat} (other : k ≠ slot) (y : Hart) : Alike slot (s.setHart k y) (t.setHart k y) where
  state := by
    rw [st.state]
    rfl
  others j hj := by
    by_cases here : j = k
    · rw [here, hart_setHart_same, hart_setHart_same]
    · rw [hart_setHart_other _ _ _ _ here, hart_setHart_other _ _ _ _ here, st.others j hj]
  hart := by
    obtain ⟨y', p, l, stands, sided, clean⟩ := st.hart
    exact ⟨y', p, l, (hart_setHart_other _ _ _ _ other.symm).trans stands, (hart_setHart_other _ _ _ _ other.symm).trans sided, clean⟩

theorem modHart_of_none {u : State} {k : Nat} (none : u.hart? k = none) (f : Hart → Hart) : u.modHart k f = u := by
  rw [State.modHart, none]

theorem alike_modHart_any (st : Alike slot s t) {f : Hart → Hart} (free : SideFree f) (kept : LeavesClean f) (k : Nat) :
    Alike slot (s.modHart k f) (t.modHart k f) := by
  by_cases here : k = slot
  · subst here
    obtain ⟨y, p, l, stands, sided, clean⟩ := st.hart
    obtain ⟨p', l', side⟩ := free y p l
    rw [modHart_eq_setHart stands, modHart_eq_setHart sided, side]
    exact alike_setHart_both st (kept y clean) p' l'
  · have same := st.others k here
    cases there : s.hart? k with
    | none =>
      rw [modHart_of_none there, modHart_of_none (same.trans there)]
      exact st
    | some y =>
      rw [modHart_eq_setHart there, modHart_eq_setHart (same.trans there)]
      exact alike_setHart_other st here _

/-! ## The end of a task -/

theorem alike_foldl {α : Type} {f : State → α → State} (hf : ∀ u v a, Alike slot u v → Alike slot (f u a) (f v a)) (l : List α)
    (st : Alike slot s t) : Alike slot (l.foldl f s) (l.foldl f t) := by
  induction l generalizing s t with
  | nil => exact st
  | cons a l ih => exact ih (hf s t a st)

theorem alike_stopHarts (st : Alike slot s t) {f : Hart → Hart} (free : SideFree f) (kept : LeavesClean f) (g : Gang) :
    Alike slot (stopHarts f s g) (stopHarts f t g) := by
  unfold stopHarts
  split
  · exact st
  · exact alike_foldl (fun _ _ e st => alike_of_hartBlind (alike_of_hartBlind (alike_modHart_any st free kept e.2)
      (hartBlind_boundSiblingPins .both e.2)) (hartBlind_releasePins e.2)) _ st

theorem alike_modTask (st : Alike slot s t) (p q n : Nat) (f : Task → Task) : Alike slot (s.modTask p q n f) (t.modTask p q n f) :=
  alike_of_hartBlind (f := fun s => s.modTask p q n f) st ⟨fun _ => rfl, fun _ _ _ => rfl⟩

theorem alike_beginEnd (st : Alike slot s t) (p q n : Nat) (c : EndCause) : Alike slot (beginEnd s p q n c) (beginEnd t p q n c) := by
  have tasks : t.task? p q n = s.task? p q n := by
    rw [st.state]
    rfl
  have gangs : ∀ f, (t.modTask p q n f).gangs = (s.modTask p q n f).gangs := fun f => by
    rw [st.state]
    rfl
  unfold beginEnd
  rw [tasks]
  cases s.task? p q n with
  | none => exact st
  | some k =>
    dsimp only
    rw [gangs]
    split
    · exact alike_foldl (fun _ _ g st => alike_stopHarts st sideFree_stop leavesClean_stop g) _ (alike_modTask st p q n _)
    · exact st

theorem alike_endTaskOf (st : Alike slot s t) {y y' : Hart} (ids : y'.ids = y.ids) (code tcode : BitVec 8) (eval : Word) :
    Alike slot (endTaskOf s y code tcode eval) (endTaskOf t y' code tcode eval) := by
  have gang : t.gang? y.ids.gang = s.gang? y.ids.gang := by
    rw [st.state]
    rfl
  unfold endTaskOf
  rw [ids, gang]
  cases s.gang? y.ids.gang with
  | none => exact st
  | some g => exact alike_beginEnd st _ _ _ _

end

/-! ## The trap -/

/-- What trap entry writes of a hart before it goes to its handler (R384). -/
def Hart.trapped (h : Hart) (t : Trap) (eval epc : Word) : Hart :=
  { h.flushLantern with
    run := .running
    held := none
    poison := trapPoison h.poison
    trap := { h.trap with
      epc := epc
      evstart := h.regs.vstart.setWidth 64
      ecause := t.code.setWidth 64
      eval := eval
      estat := (BitVec.ofBool h.priv).setWidth 64
      evtype := h.regs.vtype
      suspended := true } }

theorem sideFree_trapped (t : Trap) (eval epc : Word) : SideFree fun h => h.trapped t eval epc := fun _ _ _ => ⟨_, _, rfl⟩

theorem poison_trapped {h : Hart} (clean : h.poison = []) (t : Trap) (eval epc : Word) : (h.trapped t eval epc).poison = [] :=
  congrArg trapPoison clean

/-- The hart that trap entry leaves at its handler (R384). -/
def Hart.handling (h : Hart) (t : Trap) (eval epc : Word) : Hart :=
  ({ h.trapped t eval epc with priv := true }.setPc h.trap.tvec).setVstart 0

/-- A trap of a hart other than a Lamplighter. -/
theorem takeTrap_hart {s : State} {slot : Nat} {h : Hart} (stands : s.hart? slot = some h) (plain : isLamp slot = false) (t : Trap)
    (eval epc : Word) : takeTrap s slot t eval epc =
      if h.priv || h.trap.tvec == 0 then
        endTaskOf ((settleStores (releasePins s slot) slot).setHart slot (h.trapped t eval epc)) (h.trapped t eval epc) causeUnhandled t.code eval
      else (settleStores (releasePins s slot) slot).setHart slot (h.handling t eval epc) := by
  unfold takeTrap
  rw [stands]
  simp only [plain, Bool.false_eq_true, if_false]
  rfl

theorem handling_clean {h : Hart} (clean : h.poison = []) (t : Trap) (eval epc : Word) : h.handling t eval epc =
    { h.trapped t eval epc with priv := true, regs := { h.regs with pc := h.trap.tvec, vstart := 0 } } :=
  setVstart_clean (h := ({ h.trapped t eval epc with priv := true } : Hart).setPc h.trap.tvec) (poison_trapped clean t eval epc) 0

theorem alike_takeTrap {s t : State} {slot : Nat} (st : Alike slot s t) (plain : isLamp slot = false) (tr : Trap) (eval epc : Word) :
    Alike slot (takeTrap s slot tr eval epc) (takeTrap t slot tr eval epc) := by
  obtain ⟨y, p, l, stands, sided, clean⟩ := st.hart
  have settled := alike_of_hartBlind (alike_of_hartBlind st (hartBlind_releasePins slot)) (hartBlind_settleStores slot)
  obtain ⟨p', l', side⟩ : ∃ p' l', (y.sided p l).trapped tr eval epc = (y.trapped tr eval epc).sided p' l' := sideFree_trapped tr eval epc y p l
  have trappedClean := poison_trapped clean tr eval epc
  rw [takeTrap_hart stands plain, takeTrap_hart sided plain]
  cases ends : y.priv || y.trap.tvec == 0 with
  | true =>
    have ends' : ((y.sided p l).priv || (y.sided p l).trap.tvec == 0) = true := ends
    have both := alike_setHart_both settled trappedClean p' l'
    rw [← side] at both
    rw [ends', if_pos rfl, if_pos rfl]
    exact alike_endTaskOf both rfl _ _ _
  | false =>
    have ends' : ((y.sided p l).priv || (y.sided p l).trap.tvec == 0) = false := ends
    have handled : (y.sided p l).handling tr eval epc = (y.handling tr eval epc).sided p' l' := by
      rw [handling_clean clean, handling_clean (h := y.sided p l) clean, side]
      rfl
    have both := alike_setHart_both settled (y := y.handling tr eval epc) (by rw [handling_clean clean]; exact trappedClean) p' l'
    rw [← handled] at both
    rw [ends', if_neg Bool.false_ne_true, if_neg Bool.false_ne_true]
    exact both

end Sys2Proof.Machine
end

section
/-! PROOFS. Cursors to and from memory and the shares of a row (R293, R298): EQSAVE, EQLOAD and EQSPLT, with their traps. -/

namespace Sys2Proof.Machine

/-! ## Traps and completions after reads -/

theorem elsewhere_of_alike {slot : Nat} {s t : State} (st : Alike slot s t) : Elsewhere s slot t := by
  refine ⟨st.others, ?_⟩
  rw [st.state]
  rfl

theorem pc_of_alike {slot : Nat} {s t : State} (st : Alike slot s t) : (t.hart? slot).map Hart.pc = (s.hart? slot).map Hart.pc := by
  obtain ⟨y, p, l, stands, sided, -⟩ := st.hart
  rw [stands, sided]
  rfl

section
variable {i : Instr} {op : Nat} {c : Ctl} {s s' v : State} {slot : Nat} {h g : Hart} {body : State → Nat → Hart → Res}
  (he : exec i s = issue op c s body) (hi : Issues op c s slot h)
include he hi

/-- A body that completes in a state which differs from `s'` in its hart alone. -/
theorem completesIn_of_elsewhere (hb : body (noteRunning s h) slot h = .done v) (hg : v.hart? slot = some g) (apart : Elsewhere s' slot v) :
    CompletesIn i s s' slot g := by
  obtain ⟨t, ht, hart, others, rest⟩ := completesIn_of he hi hb hg
  exact ⟨t, ht, hart, fun k hk => (others k hk).trans (apart.1 k hk), rest.trans apart.2⟩

/-- A body that traps in a state which differs from `s'` in what its hart has noted of its reads. -/
theorem trapsIn_of {tr : Trap} {ev pc : Word} (hb : body (noteRunning s h) slot h = .deny v (.trap tr ev)) (alike : Alike slot s' v)
    (here : (v.hart? slot).map Hart.pc = some pc) (plain : isLamp slot = false) : TrapsIn i s s' slot pc tr ev := by
  refine ⟨_, he.trans (issue_runs hi body), ?_⟩
  have closed : close slot (body (noteRunning s h) slot h) = endTurn (settleStores (takeTrap v slot tr ev pc) slot) := by
    obtain ⟨y, stands, rfl⟩ := Option.map_eq_some_iff.mp here
    rw [hb]
    simp [close, deny, stands, Res.waits]
  have both := alike_takeTrap alike plain tr ev pc
  rw [closed]
  obtain ⟨others, rest, stands⟩ := lendLanes_spec op slot (endTurn (settleStores (takeTrap v slot tr ev pc) slot))
  have kept : ∀ k, (endTurn (settleStores (takeTrap v slot tr ev pc) slot)).hart? k = (takeTrap v slot tr ev pc).hart? k := fun k => by simp
  refine ⟨fun k hk => (others k hk).trans ((kept k).trans (both.others k hk)), ?_, ?_,
    rest.trans ((show _ = (takeTrap v slot tr ev pc).outside by simp).trans (elsewhere_of_alike both).2)⟩
  all_goals
    obtain ⟨y, p, l, trapped, sided, -⟩ := both.hart
    obtain ⟨w, hw, wc, wr, _⟩ := stands _ ((kept slot).trans sided)
    rw [hw, trapped]
  · exact congrArg some wc
  · exact congrArg (fun r : Regs => some r.pc) wr

end

/-! ## What a trap leaves of the cursors -/

/-- The cursors of the hart of a slot. -/
def cursorsAt (s : State) (k : Nat) : Option (RegFile 2 Cursor) := (s.hart? k).map fun h => h.regs.e

theorem cursorsAt_modHart (s : State) (j k : Nat) {f : Hart → Hart} (kept : ∀ h, (f h).regs.e = h.regs.e) :
    cursorsAt (s.modHart j f) k = cursorsAt s k := by
  cases stands : s.hart? j with
  | none => rw [modHart_of_none stands]
  | some h =>
    rw [modHart_eq_setHart stands, cursorsAt, cursorsAt]
    by_cases here : k = j
    · rw [here, hart_setHart_same, stands]
      exact congrArg some (kept h)
    · rw [hart_setHart_other _ _ _ _ here]

theorem cursorsAt_stopHarts (s : State) (g : Gang) (k : Nat) : cursorsAt (stopHarts Hart.stop s g) k = cursorsAt s k := by
  unfold stopHarts
  split
  · rfl
  · refine List.foldlRecOn _ _ (motive := fun t => cursorsAt t k = cursorsAt s k) rfl fun t same e _ => ?_
    refine Eq.trans ?_ ((cursorsAt_modHart t e.2 k (f := Hart.stop) fun _ => rfl).trans same)
    rw [cursorsAt, cursorsAt, hart_of_crew ((crew_releasePins _ _).trans (crew_boundSiblingPins _ _ _)) k]

theorem cursorsAt_endTaskOf (s : State) (h : Hart) (code tcode : BitVec 8) (eval : Word) (k : Nat) :
    cursorsAt (endTaskOf s h code tcode eval) k = cursorsAt s k := by
  unfold endTaskOf beginEnd
  split
  · split
    · split
      · exact List.foldlRecOn _ _ (motive := fun t => cursorsAt t k = cursorsAt s k) rfl
          fun t same g _ => (cursorsAt_stopHarts t g k).trans same
      · rfl
    · rfl
  · rfl

/-- A trap leaves the cursors of its hart. -/
theorem cursorsAt_takeTrap {s : State} {slot : Nat} {h : Hart} (stands : s.hart? slot = some h) (clean : h.poison = [])
    (plain : isLamp slot = false) (t : Trap) (eval epc : Word) : cursorsAt (takeTrap s slot t eval epc) slot = some h.regs.e := by
  rw [takeTrap_hart stands plain]
  split
  · rw [cursorsAt_endTaskOf, cursorsAt, hart_setHart_same]
    rfl
  · rw [cursorsAt, hart_setHart_same, handling_clean clean]
    rfl

/-- What a trap leaves of the cursors shows in the state after its instruction. -/
theorem cursors_of_trapsIn {i : Instr} {s s' t : State} {slot : Nat} {h g : Hart} {pc ev : Word} {tr : Trap} (trap : TrapsIn i s s' slot pc tr ev)
    (stands : s'.hart? slot = some h) (clean : h.poison = []) (plain : isLamp slot = false) (ht : exec i s = .next t)
    (hg : t.hart? slot = some g) : g.regs.e = h.regs.e := by
  obtain ⟨t', ht', -, core, -⟩ := trap
  obtain rfl : t = t' := by
    rw [ht] at ht'
    cases ht'
    rfl
  have cursors := congrArg (Option.map fun h : Hart => h.regs.e) core
  rw [Option.map_map, Option.map_map, hg] at cursors
  exact Option.some.inj (cursors.trans (cursorsAt_takeTrap stands clean plain tr ev pc))

/-! ## The words of a cursor in memory (R293) -/

theorem leNat_leBytes (n v : Nat) : leNat (leBytes n v) = v % 256 ^ n := by
  induction n generalizing v with
  | zero => simp [leBytes, leNat, Nat.mod_one]
  | succ n ih =>
    rw [leBytes, leNat, ih, BitVec.toNat_ofNat, pow_succ' 256 n]
    exact Nat.mod_mul.symm

theorem take_leBytes_append (n v : Nat) (l : List Byte) : (leBytes n v ++ l).take n = leBytes n v := by
  rw [List.take_left' (length_leBytes n v)]

theorem drop_leBytes_append (n v : Nat) (l : List Byte) : (leBytes n v ++ l).drop n = l := by
  rw [List.drop_left' (length_leBytes n v)]

theorem ofNat_leNat_leBytes (x : Word) : BitVec.ofNat 64 (leNat (leBytes 8 x.toNat)) = x := by
  rw [leNat_leBytes]
  apply BitVec.eq_of_toNat_eq
  rw [BitVec.toNat_ofNat]
  have := x.isLt
  omega

theorem cursorOfBytes_cursorBytes (c : Cursor) : cursorOfBytes (cursorBytes c) = c := by
  have twice : ∀ l : List Byte, l.drop 16 = (l.drop 8).drop 8 := fun l => by rw [List.drop_drop]
  have thrice : ∀ l : List Byte, l.drop 24 = ((l.drop 8).drop 8).drop 8 := fun l => by rw [List.drop_drop, List.drop_drop]
  have last : (leBytes 8 c.cctl.toNat).take 8 = leBytes 8 c.cctl.toNat := List.take_of_length_le (length_leBytes 8 _).le
  simp only [cursorOfBytes, cursorBytes, List.append_assoc, twice, thrice, take_leBytes_append, drop_leBytes_append, last, ofNat_leNat_leBytes]

/-! ## EQSAVE and EQLOAD -/

theorem elementCheck_misaligned {va : Word} {n : Nat} (odd : va.toNat % n ≠ 0) (limit : Option Nat) :
    elementCheck va n limit = .error (.trap .align va) := if_pos odd

theorem elementCheck_aligned {va : Word} {n : Nat} (aligned : va.toNat % n = 0) : elementCheck va n none = .ok () :=
  if_neg (not_not_intro aligned)

/-- A body of any pipe that has performed its store. -/
theorem storesAs_of_performed {i : Instr} {op : Nat} {c : Ctl} {s : State} {slot : Nat} {h : Hart} {body : State → Nat → Hart → Res} {vec : Bool}
    {part : Nat} {pl : Place} {va : Word} {bs : List Byte} (he : exec i s = issue op c s body) (hi : Issues op c s slot h)
    (hb : body (noteRunning s h) slot h = .done (performStore (noteRunning s h) slot vec part pl va bs)) :
    StoresAs i s (performStore (noteRunning s h) slot vec part pl va bs) slot h pl bs := by
  have stand : (noteRunning s h).hart? slot = some h := (noteRunning_hart s h slot).trans hi.hart
  cases pl with
  | scratch o =>
    obtain ⟨p, scratched, -, same, -, poison, whole⟩ := scratches_storeScratch stand o bs
    obtain ⟨m, eq⟩ := scratched_eq h o bs p
    exact ⟨h.scratched o bs p, scratched, completesIn_of he hi hb scratched, by rw [eq], poison,
      fun fresh => whole (by rwa [noteRunning_overwritten]), scratchByte_scratched h o bs p, same.trans (noteRunning_mem s h)⟩
  | mem pa pte =>
    have stands := (congrArg (tblGet · slot) (performStore_harts (noteRunning s h) slot part vec va bs pa pte)).trans stand
    exact ⟨h, stands, completesIn_of he hi hb stands, rfl⟩

section
variable {c : Ctl} {s : State} {slot : Nat} {h : Hart} (hi : Issues 0xC2 c s slot h) (hp : h.poison = []) (o : CursorMemForm)
include hi hp

theorem cursorMove_misaligned (odd : (h.getS o.a + sext32 o.off).toNat % 32 ≠ 0) :
    Traps (.eqsave c o) s slot h .align (h.getS o.a + sext32 o.off) ∧ Traps (.eqload c o) s slot h .align (h.getS o.a + sext32 o.off) := by
  constructor
  · refine traps_of (exec_eqsave c o s) hi ?_
    simp only [unpoisoned_clean (poisoned_of_none hp _), elementWriteCheck, elementCheck_misaligned odd]
    rfl
  · refine traps_of (exec_eqload c o s) hi ?_
    simp only [unpoisoned_clean (poisoned_of_none hp _), elementCheck_misaligned odd]
    rfl

theorem eqsave_stores (aligned : (h.getS o.a + sext32 o.off).toNat % 32 = 0) {pl : Place}
    (checked : checkStore (noteRunning s h) slot h (h.getS o.a + sext32 o.off) 32 true = .ok pl) :
    StoresAs (.eqsave c o) s (performStore (noteRunning s h) slot true h.ids.part pl (h.getS o.a + sext32 o.off) (cursorBytes (h.getE o.e)))
      slot h pl (cursorBytes (h.getE o.e)) := by
  refine storesAs_of_performed (exec_eqsave c o s) hi ?_
  simp only [unpoisoned_clean (poisoned_of_none hp _), elementWriteCheck, elementCheck_aligned aligned, checked]

end

/-- No Lamplighter executes an instruction that R56 does not list. -/
theorem plain_of_issues {op : Nat} {c : Ctl} {s : State} {slot : Nat} {h : Hart} (hi : Issues op c s slot h) (no : lampRuns op = false) :
    isLamp slot = false := by
  cases lamp : isLamp slot with
  | false => rfl
  | true => exact absurd (hi.lamp lamp) (by simp [no])

theorem setE_clean {h : Hart} (hp : h.poison = []) (e : EIdx) (c : Cursor) : h.setE e c = { h with regs := { h.regs with e := rset h.regs.e e c } } :=
  clearPoison_clean (h := { h with regs := { h.regs with e := rset h.regs.e e c } }) hp _

section
variable {c : Ctl} {s s' : State} {slot : Nat} {h : Hart} {o : CursorMemForm} {x : Cursor} (hi : Issues 0xC2 c s slot h) (hp : h.poison = [])
  (aligned : (h.getS o.a + sext32 o.off).toNat % 32 = 0)
  (loaded : load (noteRunning s h) slot h (h.getS o.a + sext32 o.off) 32 = .ok (s', cursorBytes x))
include hi loaded

theorem stands_loaded : s'.hart? slot = some h := by
  rw [State.hart?, (load_mem_harts loaded).2]
  exact (noteRunning_hart s h slot).trans hi.hart

include hp aligned

/-- EQLOAD on words that meet the conditions of R293 writes its cursor. -/
theorem completesIn_eqload (good : cursorBad x = false) : CompletesIn (.eqload c o) s s' slot (h.setE o.e x) := by
  have alike := alike_noteRead (stands_loaded hi loaded) hp (h.getS o.a + sext32 o.off) 32
  obtain ⟨y, p, l, stands, sided, clean⟩ := alike.hart
  obtain rfl := Option.some.inj (stands.symm.trans (stands_loaded hi loaded))
  have done := completesIn_of_elsewhere (exec_eqload c o s) hi (s' := s') (v := (noteRead s' slot (y.getS o.a + sext32 o.off) 32).setHart slot
    ((y.sided p l).setE o.e x)) (by
      rw [← modHart_eq_setHart sided fun y => y.setE o.e x]
      simp only [unpoisoned_clean (poisoned_of_none hp _), elementCheck_aligned aligned, loaded, cursorOfBytes_cursorBytes, good,
        Bool.false_eq_true, if_false]) (hart_setHart_same _ _ _) (elsewhere_thenSetHart (elsewhere_of_alike alike) _)
  obtain ⟨t, ht, completed⟩ := done
  rw [setE_clean (h := y.sided p l) hp] at completed
  exact ⟨t, ht, setE_clean hp o.e x ▸ completedAs_congr completed rfl rfl rfl⟩

/-- EQLOAD on other words traps CURSOR. -/
theorem trapsIn_eqload (bad : cursorBad x = true) : TrapsIn (.eqload c o) s s' slot h.pc .cursor (o.e.setWidth 64) := by
  have alike := alike_noteRead (stands_loaded hi loaded) hp (h.getS o.a + sext32 o.off) 32
  refine trapsIn_of (exec_eqload c o s) hi (v := noteRead s' slot (h.getS o.a + sext32 o.off) 32) ?_ alike ?_ (plain_of_issues hi (by decide))
  · simp only [unpoisoned_clean (poisoned_of_none hp _), elementCheck_aligned aligned, loaded, cursorOfBytes_cursorBytes, bad, if_true]
    rfl
  · rw [pc_of_alike alike, stands_loaded hi loaded]
    rfl

end

/-! ## EQSPLT (R298) -/

/-- The cursor of a share of a row: its positions, its marks of a split and of its last coordinate, and its end. -/
def shareCursor (c : Cursor) (pos end_ split : Nat) : Cursor :=
  { setLv (setPosAux c pos 0) false with cend := BitVec.ofNat 64 end_, cctl := withBits (setLv (setPosAux c pos 0) false).cctl 5 1 split }

theorem getLsbD_shareCursor (c : Cursor) (pos end_ : Nat) {split : Nat} (one : split < 2) (b : Nat) :
    (shareCursor c pos end_ split).cctl.getLsbD b = if b = 5 then decide (split = 1) else if b = 6 then false else c.cctl.getLsbD b := by
  have cctl : (shareCursor c pos end_ split).cctl = withBits (withBits c.cctl 6 1 0) 5 1 split := rfl
  rw [cctl, getLsbD_withBits _ (by decide), getLsbD_withBits _ (by decide)]
  by_cases five : b = 5
  · subst five
    obtain rfl | rfl : split = 0 ∨ split = 1 := by omega
    · simp
    · simp
  · by_cases six : b = 6
    · subst six
      simp
    · rw [if_neg (by omega), if_neg (by omega), if_neg five, if_neg six]

theorem mem_shareCursor (c : Cursor) (pos end_ split : Nat) :
    curPos (shareCursor c pos end_ split) = pos % 2 ^ 32 ∧ curAux (shareCursor c pos end_ split) = 0 :=
  ⟨curPos_setPosAux c pos 0, curAux_setPosAux c pos 0⟩

theorem cursorsChecked_bad {s : State} {h : Hart} {e : EIdx} {encs : List Nat} (bad : cursorOk h e encs = false) (r : Res) :
    cursorsChecked s h [e] encs r = .deny s (cursorTrap e) := by
  simp [cursorsChecked, bad]

section
variable {c : Ctl} {s s1 s2 : State} {slot : Nat} {h : Hart} {o : EqspltForm} {x y : Nat} (hi : Issues 0xC1 c s slot h) (hp : h.poison = [])
  (good : cursorOk h o.e [0, 3] = true)
  (first : elementRead (noteRunning s h) slot h (BitVec.ofNat 64 (curRows (h.getE o.e)) + h.getS o.a * 8) 8 none = .ok (s1, x))
  (second : elementRead s1 slot h (BitVec.ofNat 64 (curRows (h.getE o.e)) + h.getS o.a * 8 + 8) 8 none = .ok (s2, y))
include hi first second

theorem stands_split : ∃ l, s2.hart? slot = some { h with lantern := l } := by
  obtain ⟨l, read⟩ := hart_elementRead first ((noteRunning_hart s h slot).trans hi.hart)
  obtain ⟨l', read⟩ := hart_elementRead second read
  exact ⟨l', read⟩

include hp good

/-- EQSPLT on a row within bounds writes its cursor. -/
theorem completesIn_eqsplt (order : x ≤ y) (fits : y < 2 ^ 32) :
    let r := splitRow x y (h.ssrc .i64 o.b).toNat (h.getS o.a).toNat h.ids.hartid h.ids.gsize
    CompletesIn (.eqsplt c o) s s2 slot (h.setE o.e (shareCursor (h.getE o.e) r.1 r.2.1 r.2.2)) := by
  intro r
  obtain ⟨l, stands⟩ := stands_split hi first second
  have checked : cursorsChecked (noteRunning s h) h [o.e] [0, 3] = id := funext fun r => cursorsChecked_ok (by simpa using good)
  have inside : (decide (y < x) || decide (2 ^ 32 ≤ y)) = false := by
    rw [decide_eq_false (Nat.not_lt.mpr order), decide_eq_false (Nat.not_le.mpr fits), Bool.or_self]
  obtain ⟨t, ht, completed⟩ := completesIn_of_elsewhere (exec_eqsplt c o s) hi (s' := s2) (v := s2.setHart slot
    (({ h with lantern := l } : Hart).setE o.e (shareCursor (h.getE o.e) r.1 r.2.1 r.2.2))) (by
      rw [← modHart_eq_setHart stands fun y => y.setE o.e (shareCursor (h.getE o.e) r.1 r.2.1 r.2.2)]
      simp only [unpoisoned_clean (poisoned_of_none hp _), checked, id, first, second, inside, Bool.false_eq_true, if_false]
      rfl) (hart_setHart_same _ _ _) (elsewhere_setHart _ _ _)
  rw [setE_clean (h := { h with lantern := l }) hp] at completed
  exact ⟨t, ht, setE_clean hp o.e _ ▸ completedAs_congr completed rfl rfl rfl⟩

/-- EQSPLT on a row that ends before it starts, or beyond the positions of a cursor, traps CURSOR. -/
theorem trapsIn_eqsplt (bad : y < x ∨ 2 ^ 32 ≤ y) : TrapsIn (.eqsplt c o) s s2 slot h.pc .cursor (o.e.setWidth 64) := by
  obtain ⟨l, stands⟩ := stands_split hi first second
  have checked : cursorsChecked (noteRunning s h) h [o.e] [0, 3] = id := funext fun r => cursorsChecked_ok (by simpa using good)
  have outside : (decide (y < x) || decide (2 ^ 32 ≤ y)) = true := by simpa using bad
  refine trapsIn_of (exec_eqsplt c o s) hi (v := s2) ?_ (alike_refl stands hp) (by rw [stands]; rfl) (plain_of_issues hi (by decide))
  simp only [unpoisoned_clean (poisoned_of_none hp _), checked, id, first, second, outside, if_true]
  rfl

end

theorem traps_eqsplt {c : Ctl} {s : State} {slot : Nat} {h : Hart} {o : EqspltForm} (hi : Issues 0xC1 c s slot h) (hp : h.poison = [])
    (bad : cursorOk h o.e [0, 3] = false) : Traps (.eqsplt c o) s slot h .cursor (o.e.setWidth 64) := by
  refine traps_of (exec_eqsplt c o s) hi ?_
  simp only [unpoisoned_clean (poisoned_of_none hp _), cursorsChecked_bad bad]
  rfl

/-- What a share of a row is, in the terms of R298. -/
theorem splitRow_eq (x y t r n m : Nat) :
    let split := decide (t < y - x)
    splitRow x y t r n m = (if split then x + (y - x) * n / m else if decide (n = r % m) then x else y,
      if split then x + (y - x) * (n + 1) / m else y, split.toNat) := by
  unfold splitRow
  by_cases split : t < y - x
  · simp [split]
  · by_cases mine : n = r % m <;> simp [split, mine]

/-- The hart `g` is `h` with the share of a row in one of its cursors (R298). -/
structure RowShare (h : Hart) (i : EIdx) (pos end_ : Nat) (split : Bool) (g : Hart) : Prop where
  pos : curPos (g.getE i) = pos % 2 ^ 32
  cend : (g.getE i).cend = BitVec.ofNat 64 end_
  split : (g.getE i).cctl.getLsbD 5 = split
  lv : (g.getE i).cctl.getLsbD 6 = false
  aux : curAux (g.getE i) = 0
  control : ∀ b, b ≠ 5 → b ≠ 6 → (g.getE i).cctl.getLsbD b = (h.getE i).cctl.getLsbD b
  cbase : (g.getE i).cbase = (h.getE i).cbase
  others : ∀ e, e ≠ i → g.getE e = h.getE e
  rest : { g with regs := { g.regs with e := h.regs.e } } = h

theorem rowShare_setE {h : Hart} (hp : h.poison = []) (i : EIdx) (pos end_ : Nat) (split : Bool) :
    RowShare h i pos end_ split (h.setE i (shareCursor (h.getE i) pos end_ split.toNat)) where
  pos := by rw [getE_setE_same, (mem_shareCursor _ _ _ _).1]
  cend := by
    rw [getE_setE_same]
    rfl
  split := by
    rw [getE_setE_same, getLsbD_shareCursor _ _ _ split.toNat_lt]
    cases split <;> rfl
  lv := by rw [getE_setE_same, getLsbD_shareCursor _ _ _ split.toNat_lt, if_neg (by decide), if_pos rfl]
  aux := by rw [getE_setE_same, (mem_shareCursor _ _ _ _).2]
  control b five six := by rw [getE_setE_same, getLsbD_shareCursor _ _ _ split.toNat_lt, if_neg five, if_neg six]
  cbase := by
    rw [getE_setE_same]
    rfl
  others _ other := getE_setE_other _ _ _ _ other
  rest := by rw [setE_clean hp]

/-- Settles O37: the dense intersection by its loop, each lane by its step, and the moves of cursors by their bodies. -/
theorem cursorsIntersectAndMove : Obligations.CursorsIntersectAndMove := by
  refine ⟨fun c o s slot h hi hp hb width ab last goodA goodB encA encB start fits => ?_, ⟨?_, ?_⟩,
    fun c s slot h hp => ⟨fun hi o => ?_, fun hi o => ?_⟩⟩
  · obtain ⟨y, completes, hy⟩ := completes_eqint_dense hi hp hb width ab goodA goodB encA encB start fits
    refine ⟨_, completes, ?_, fun k hk => ?_⟩
    · simp only [Hart.vl, hart_setVstart_regs, hart_setVl_regs, BitVec.toNat_ofNat]
      exact Nat.mod_eq_of_lt ((Nat.min_le_right _ _).trans_lt h.regs.vl.isLt)
    · rw [getV_setVstart, getV_setVl, getV_setVstart, getV_setVl]
      exact hy.lanes k hk
  · intro slot lim cnt o s s1 s2 h h0 pa pb stands room ab settledA settledB lane
    obtain ⟨l, after⟩ := stands_settled stands settledA settledB
    have written : ∀ x y k ta tb,
        eqmrgStep slot o lim h0 (s, cnt) = .ok (some (s2.modHart slot (mergeLane o h0.vstart cnt x y k ta tb), cnt + 1)) →
        lane x y k ta tb := fun x y k ta tb step => by
      have w := laneWritten_mergeLane o h0.vstart cnt x y k ta tb h l ab
      rw [modHart_eq_setHart after] at step
      exact ⟨_, _, step, rfl, w.elems, w.tags, w.otherV, w.otherM, w.cursorA, w.cursorB, w.otherE, w.rest⟩
    exact ⟨fun a ra first later => written ra 0xFFFFFFFF a true false (eqmrgStep_onlyA stands room settledA settledB first later),
      fun b rb first later => written 0xFFFFFFFF rb b false true (eqmrgStep_onlyB stands room settledA settledB first later),
      fun a ra rb first second => written ra rb a true true (eqmrgStep_both stands room settledA settledB first second),
      eqmrgStep_neither stands room settledA settledB⟩
  · intro slot lim cnt o s s1 h h0 v stands room cu more dense read hit
    obtain ⟨l, step⟩ := eqnzStep_read (h0 := h0) stands room more read
    have w := scanned_spec h0.vstart cnt hit l more dense
    exact ⟨_, step, w.pos, w.aux, w.words, w.otherE, w.elems, w.otherV, w.rest⟩
  · refine ⟨cursorMove_misaligned hi hp o, fun aligned => ⟨fun pl => eqsave_stores hi hp o aligned, fun s' x loaded =>
      ⟨completesIn_eqload hi hp aligned loaded, fun bad => ?_⟩⟩⟩
    have traps := trapsIn_eqload hi hp aligned loaded bad
    exact ⟨traps, fun t g => cursors_of_trapsIn traps (stands_loaded hi loaded) hp (plain_of_issues hi (by decide))⟩
  · refine ⟨traps_eqsplt hi hp, fun good s1 s2 x y => ?_⟩
    intro at_ first second len n m split mine
    refine ⟨fun order fits => ?_, fun bad => ?_⟩
    · have completes := completesIn_eqsplt hi hp good first second order fits
      rw [splitRow_eq] at completes
      have w := rowShare_setE hp o.e (if split then x + len * n / m else if mine then x else y) (if split then x + len * (n + 1) / m else y) split
      exact ⟨_, completes, w.pos, w.cend, w.split, w.lv, w.aux, w.control, w.cbase, w.others, w.rest⟩
    · obtain ⟨l, stands⟩ := stands_split hi first second
      have traps := trapsIn_eqsplt hi hp good first second bad
      exact ⟨traps, fun t g => cursors_of_trapsIn (h := { h with lantern := l }) traps stands hp (plain_of_issues hi (by decide))⟩

end Sys2Proof.Machine
end

section
/-! PROOFS. The canonical form of memory (R308 to R310; statement O59). Memory is written by `physWrite`, by the clearing of
an image (`zeroRange`) and by the clearings of the whole device; every other operation is made of these and of updates that
leave memory alone, and its lemma names the operations that it is made of. -/

namespace Sys2Proof.Machine

variable {s u : State}

/-! ## The form, and what memory is written by -/

/-- The memory of a state is in its canonical form. -/
abbrev State.canonical (s : State) : Prop := Memory.wf s.mem = true

/-- So is the memory of the state that an instruction's body, the beginning of a turn, a packet's landing, a signal or the
read of a ring leaves. -/
def Res.canonical : Res → Prop
  | .done s | .jump s _ | .placed s | .keep s | .deny s _ | .trapAfter s _ _ => s.canonical

def Begun.canonical : Begun → Prop
  | .over s | .instr s _ => s.canonical

def Landing.canonical : Landing → Prop
  | .applied s | .discarded s _ | .held s => s.canonical

def Signal.canonical : Signal → Prop
  | .written s | .waits s => s.canonical
  | .failed | .pinned _ _ _ => True

def RingRead.canonical : RingRead → Prop
  | .failed s | .waits s => s.canonical
  | .got _ => True

/-- Steps that each keep the memory canonical keep it so together. -/
theorem canonical_foldl {α : Type} {f : State → α → State} {l : List α} (hf : ∀ s a, s.canonical → (f s a).canonical)
    (hs : s.canonical) : (l.foldl f s).canonical :=
  List.foldlRecOn l f hs fun t ht a _ => hf t a ht

theorem canonical_foldlFst {α β : Type} {f : State × β → α → State × β} {l : List α} {r : State × β}
    (hf : ∀ r a, r.1.canonical → (f r a).1.canonical) (hr : r.1.canonical) : (l.foldl f r).1.canonical :=
  List.foldlRecOn (motive := fun r : State × β => r.1.canonical) l f hr fun r hr a _ => hf r a hr

theorem canonical_ite {p : Prop} [Decidable p] {x y : Res} (hx : x.canonical) (hy : y.canonical) :
    (if p then x else y).canonical := by
  split
  · exact hx
  · exact hy

theorem ok_of_map {α β : Type} {x : Except Denied α} {f : α → β} {b : β} (h : x.map f = .ok b) :
    ∃ a, x = .ok a ∧ f a = b := by
  cases x with
  | error d => cases h
  | ok a => exact ⟨a, rfl, Except.ok.inj h⟩

theorem ok_of_bind {α β : Type} {x : Except Denied α} {f : α → Except Denied β} {b : β} (h : x.bind f = .ok b) :
    ∃ a, x = .ok a ∧ f a = .ok b := by
  cases x with
  | error d => cases h
  | ok a => exact ⟨a, rfl, h⟩

theorem canonical_modHart {slot f} (hs : s.canonical) : (s.modHart slot f).canonical := by
  rw [State.canonical, modHart_mem]
  exact hs

theorem canonical_next {t : State} (he : (.next t : Host.Outcome State Fault Refusal) = .next u) (ht : t.canonical) :
    u.canonical := by
  cases he
  exact ht

/-! ## Registers, memory and translations -/

theorem canonical_coverMemory {slot a n} (hs : s.canonical) : (coverMemory s slot a n).canonical := by
  grind [coverMemory]

theorem canonical_storeScratchAs {key slot o bs} (hs : s.canonical) : (storeScratchAs s key slot o bs).canonical := by
  grind [storeScratchAs, modHart_mem]

theorem canonical_storeScratch {slot o bs} (hs : s.canonical) : (storeScratch s slot o bs).canonical := canonical_storeScratchAs hs

theorem canonical_settleStores {key} (hs : s.canonical) : (settleStores s key).canonical := by
  grind [settleStores]

theorem canonical_raiseInterrupt {p code} (hs : s.canonical) : (raiseInterrupt s p code).canonical := hs

theorem canonical_recordError {p src loc} (hs : s.canonical) : (recordError s p src loc).canonical := by
  grind [recordError, modPart_mem, canonical_raiseInterrupt]

theorem canonical_logSconce {e} (hs : s.canonical) : (logSconce s e).canonical := hs

theorem canonical_hostLinkError {p pa} (hs : s.canonical) : (hostLinkError s p pa).canonical := by
  grind [hostLinkError, canonical_recordError, canonical_logSconce]

theorem canonical_physWrite {pa bs} (hs : s.canonical) : (physWrite s pa bs).canonical := memory_wf_writeBytes hs _ bs

theorem canonical_poisonByte {pa} (hs : s.canonical) : (poisonByte s pa).canonical := hs

theorem canonical_physWritePoison {pa bs poison} (hs : s.canonical) : (physWritePoison s pa bs poison).canonical :=
  canonical_foldl (fun _ _ => canonical_poisonByte) (canonical_physWrite hs)

theorem canonical_engineReadLine {slot part pa n} (hs : s.canonical) : (engineReadLine s slot part pa n).1.canonical := by
  grind [engineReadLine, draw_mem, canonical_hostLinkError]

theorem canonical_touchCombining {pa} (hs : s.canonical) : (touchCombining s pa).canonical := hs

theorem canonical_touchWords {pa n} (hs : s.canonical) : (touchWords s pa n).canonical :=
  canonical_foldl (fun _ _ => canonical_touchCombining) hs

theorem canonical_countRepl {die g pa write} (hs : s.canonical) : (countRepl s die g pa write).canonical := by
  grind [countRepl]

theorem canonical_noteRetry {pair pa n} (hs : s.canonical) : (noteRetry s pair pa n).canonical := hs

theorem canonical_delayStore {slot vec part page pa n} (hs : s.canonical) : (delayStore s slot vec part page pa n).canonical := by
  grind [delayStore, setPair_mem]

theorem canonical_markPinRead {slot pa n} (hs : s.canonical) : (markPinRead s slot pa n).canonical := by
  grind [markPinRead, setPair_mem]

theorem canonical_boundPins {f slot} (hs : s.canonical) : (boundPins f s slot).canonical := by
  grind [boundPins, setPair_mem]

theorem canonical_boundSiblingPins {k slot} (hs : s.canonical) : (boundSiblingPins k s slot).canonical := canonical_boundPins hs

theorem canonical_boundStorePins {k slot} (hs : s.canonical) : (boundStorePins k s slot).canonical := canonical_boundPins hs

theorem canonical_remember {t} (hs : s.canonical) : (remember s t).canonical := by
  grind [remember]

theorem canonical_rememberAt {slot part va pa pte} (hs : s.canonical) : (rememberAt s slot part va pa pte).canonical := by
  grind [rememberAt, canonical_remember]

/-! ## Pins -/

theorem canonical_bindMerge {m} (hs : s.canonical) : (bindMerge s m).1.canonical := by
  grind [bindMerge, canonical_engineReadLine]

theorem canonical_bindMerges (hs : s.canonical) : (bindMerges s).canonical := by
  unfold bindMerges
  split
  · exact hs
  · exact canonical_foldlFst (fun _ _ => canonical_bindMerge) hs

theorem canonical_dropPins {slot} (hs : s.canonical) : (dropPins s slot).canonical := by
  grind [dropPins, setPair_mem, canonical_bindMerges]

theorem canonical_settleFor {n} (hs : s.canonical) : (settleFor n s).canonical := by
  induction n generalizing s with
  | zero => exact hs
  | succ n ih =>
    unfold settleFor
    split
    · exact hs
    · exact ih (canonical_foldl (fun _ _ ht => ht) hs)

theorem canonical_settlePins (hs : s.canonical) : (settlePins s).canonical := by
  grind [settlePins, canonical_bindMerges, canonical_settleFor]

theorem canonical_endPins {slot} (hs : s.canonical) : (endPins s slot).canonical := canonical_settlePins (canonical_dropPins hs)

theorem canonical_pendPins {slot w} (hs : s.canonical) : (pendPins s slot w).canonical := by
  grind [pendPins, setPair_mem, canonical_settlePins]

theorem canonical_releasePins {slot} (hs : s.canonical) : (releasePins s slot).canonical := by
  grind [releasePins, canonical_boundSiblingPins, canonical_pendPins]

end Sys2Proof.Machine
end

section
/-! PROOFS. The canonical form of memory: loads, stores, traps and barriers, and what the encoded instructions share. -/

namespace Sys2Proof.Machine

variable {s u : State}

/-! ## Loads, stores, traps and the close of an instruction -/

theorem canonical_fixRoute {dev rwin} (hs : s.canonical) : (fixRoute s dev rwin).canonical := by
  grind [fixRoute]

theorem canonical_sendOne {slot part w e k off pl} (hs : s.canonical) : (sendOne s slot part w e k off pl).canonical :=
  canonical_fixRoute hs

theorem canonical_reflect {slot part w e va pl} (hs : s.canonical) : (reflect s slot part w e va pl).canonical :=
  canonical_foldl (fun _ _ => canonical_sendOne) hs

theorem canonical_meetPage {part va pa pte} (hs : s.canonical) : (meetPage s part va pa pte).canonical := by
  grind [meetPage, setPair_mem]

theorem canonical_noteTouch {slot part va pa n pte write} (hs : s.canonical) :
    (noteTouch s slot part va pa n pte write).canonical := by
  grind [noteTouch, canonical_touchWords, canonical_countRepl, canonical_meetPage]

theorem canonical_noteAccess {slot part va pa n pte write} (hs : s.canonical) : (noteAccess s slot part va pa n pte write).canonical :=
  canonical_noteTouch (canonical_rememberAt hs)

theorem canonical_load {slot h va n r} (hs : s.canonical) (he : load s slot h va n = .ok r) : r.1.canonical := by
  grind [load, canonical_markPinRead, canonical_noteAccess]

theorem canonical_noteRead {slot va n} (hs : s.canonical) : (noteRead s slot va n).canonical := by
  grind [noteRead, setHart_mem]

theorem canonical_writePhys {m part pa bs} (hs : s.canonical) : (writePhys s m part pa bs).canonical := by
  grind [writePhys, canonical_coverMemory, canonical_hostLinkError, canonical_physWrite]

theorem canonical_storeLocal {m part page pa bs} (hs : s.canonical) : (storeLocal s m part page pa bs).canonical :=
  canonical_writePhys (canonical_delayStore hs)

theorem canonical_performStore {slot vec part pl va bs} (hs : s.canonical) : (performStore s slot vec part pl va bs).canonical := by
  cases pl with
  | scratch o => exact canonical_storeScratch hs
  | mem pa e =>
    grind [performStore, canonical_rememberAt, canonical_reflect, canonical_noteAccess, canonical_writePhys,
      canonical_storeLocal]

theorem canonical_stopHarts {f g} (hs : s.canonical) : (stopHarts f s g).canonical := by
  grind [stopHarts, modHart_mem, canonical_boundSiblingPins, canonical_releasePins, canonical_foldl]

theorem canonical_beginEnd {p q n c} (hs : s.canonical) : (beginEnd s p q n c).canonical := by
  grind [beginEnd, modTask_mem, canonical_stopHarts, canonical_foldl]

theorem canonical_endTaskOf {h code tcode eval} (hs : s.canonical) : (endTaskOf s h code tcode eval).canonical := by
  grind [endTaskOf, canonical_beginEnd]

theorem canonical_stopRuntime {slot part} (hs : s.canonical) : (stopRuntime s slot part).canonical := hs

theorem canonical_takeTrap {slot t eval epc} (hs : s.canonical) : (takeTrap s slot t eval epc).canonical := by
  grind [takeTrap, setHart_mem, canonical_settleStores, canonical_logSconce, canonical_releasePins, canonical_endTaskOf,
    canonical_stopRuntime]

theorem canonical_trapWaiters {die n} (hs : s.canonical) : (trapWaiters s die n).canonical := by
  grind [trapWaiters, canonical_takeTrap, canonical_foldl]

theorem canonical_settleBarrier {die n c} (hs : s.canonical) : (settleBarrier s die n c).canonical := by
  grind [settleBarrier, modHart_mem, setBarrier_mem, canonical_trapWaiters, canonical_foldl]

theorem canonical_creditBarrier {die n bytes} (hs : s.canonical) : (creditBarrier s die n bytes).canonical := by
  grind [creditBarrier, canonical_settleBarrier]

theorem canonical_holdCredit {gang n bytes} (hs : s.canonical) : (holdCredit s gang n bytes).canonical := hs

theorem canonical_creditFromWindow {die n bytes} (hs : s.canonical) : (creditFromWindow s die n bytes).canonical := by
  grind [creditFromWindow, canonical_creditBarrier, canonical_holdCredit]

theorem canonical_creditFromTransfer {gang n bytes} (hs : s.canonical) : (creditFromTransfer s gang n bytes).canonical := by
  grind [creditFromTransfer, canonical_creditBarrier]

theorem canonical_retire {slot} (hs : s.canonical) : (retire s slot).canonical := by
  grind [retire, setHart_mem, draw_mem]

theorem canonical_retireAt {slot pc} (hs : s.canonical) : (retireAt s slot pc).canonical := by
  grind [retireAt, setHart_mem, draw_mem]

theorem canonical_recordLeaseFault {p run queue seq page cause} (hs : s.canonical) :
    (recordLeaseFault s p run queue seq page cause).canonical := by
  grind [recordLeaseFault, modPart_mem, canonical_raiseInterrupt]

theorem canonical_deny {slot d} (hs : s.canonical) : (deny s slot d).canonical := by
  grind [deny, setHart_mem, modHart_mem, draw_mem, canonical_hostLinkError, canonical_noteRetry, canonical_endTaskOf,
    canonical_takeTrap, canonical_recordLeaseFault]

theorem canonical_noteRunning {h} (hs : s.canonical) : (noteRunning s h).canonical := by
  grind [noteRunning, modTask_mem]

theorem canonical_endTurn (hs : s.canonical) : (endTurn s).canonical := hs

theorem canonical_close {slot r} (hr : r.canonical) : (close slot r).canonical := by
  have ended : ∀ t : State, t.canonical → (endTurn (if r.waits then t else settleStores t slot)).canonical := by
    grind [canonical_endTurn, canonical_settleStores]
  refine ended _ ?_
  cases r with
  | done s => exact canonical_retire hr
  | jump s t => exact canonical_retireAt hr
  | placed s => exact canonical_modHart hr
  | keep s => exact hr
  | deny s d => exact canonical_deny hr
  | trapAfter s t v => exact canonical_takeTrap (canonical_retire hr)

theorem canonical_lendLanes {op slot} (hs : s.canonical) : (lendLanes op slot s).canonical := by
  grind [lendLanes, modHart_mem, draw_mem]

/-- An encoded instruction keeps the memory canonical where its body does. -/
theorem canonical_issue {op c body} (he : issue op c s body = .next u) (hs : s.canonical)
    (hb : ∀ s slot h, s.canonical → (body s slot h).canonical) : u.canonical := by
  unfold issue at he
  split at he
  · cases he
  split at he
  · cases he
    exact canonical_endTurn (canonical_takeTrap hs)
  dsimp only at he
  split at he
  · cases he
    exact canonical_lendLanes (canonical_close (hb _ _ _ (canonical_noteRunning hs)))
  · cases he
    exact canonical_close (r := .done _) (canonical_noteRunning hs)

theorem canonical_trapRes {t eval} (hs : s.canonical) : (trapRes s t eval).canonical := hs

theorem canonical_doneWith {slot h} (hs : s.canonical) : (doneWith s slot h).canonical := hs

/-! ## Elements and positions -/

theorem canonical_unpoisoned {h l r} (hs : s.canonical) (hr : r.canonical) : (unpoisoned s h l r).canonical := canonical_ite hs hr

/-- What each position keeps, a loop over positions keeps, wherever it stops. -/
theorem now_eachPos {σ : Type} {P : σ → Prop} {f : Nat → σ → Except Denied σ} (hf : ∀ i x y, P x → f i x = .ok y → P y)
    {n i : Nat} {b : Option Nat} {x : σ} (hx : P x) : P (eachPos f n i b x).now := by
  induction n generalizing i b x with
  | zero => exact hx
  | succ n ih =>
    unfold eachPos
    split
    · exact hx
    split
    · exact hx
    next y e => exact ih (hf i x y hx e)

theorem underMask_keeps {σ : Type} {P : σ → Prop} {h : Hart} {m : Mask} {f g : Nat → σ → Except Denied σ}
    (hf : ∀ i x y, P x → f i x = .ok y → P y) (hg : ∀ i x y, P x → g i x = .ok y → P y) (i : Nat) (x y : σ) (hx : P x)
    (e : h.underMask m f g i x = .ok y) : P y := by
  grind [Hart.underMask]

theorem canonical_elementLoop {slot h m f g} (hs : s.canonical) : (elementLoop s slot h m f g).canonical := by
  unfold elementLoop
  split <;> exact hs

theorem canonical_elementwise {slot h gw dw d m whole bad op} (hs : s.canonical) :
    (elementwise s slot h gw dw d m whole bad op).canonical :=
  canonical_ite hs (canonical_unpoisoned hs (canonical_elementLoop hs))

theorem canonical_wholeElements {slot h gw dw d m whole bad op} (hs : s.canonical) :
    (wholeElements s slot h gw dw d m whole bad op).canonical :=
  canonical_ite hs (canonical_unpoisoned hs (canonical_ite hs hs))

end Sys2Proof.Machine
end

section
/-! PROOFS. The canonical form of memory: the scalar, stream and Equinox instructions, the engine, atomics, locks and barriers. -/

namespace Sys2Proof.Machine

variable {s u : State}

/-! ## Branches, loops and streams -/

theorem canonical_redirect {slot h target link} (hs : s.canonical) : (redirect s slot h target link).canonical := by
  grind [redirect, setHart_mem, canonical_trapRes, Res.canonical]

theorem canonical_elementRead {slot h va n limit r} (hs : s.canonical) (he : elementRead s slot h va n limit = .ok r) :
    r.1.canonical := by
  grind [elementRead, → canonical_load, canonical_noteRead, → ok_of_map]

theorem canonical_streamAddr {slot h q i r} (hs : s.canonical) (he : streamAddr s slot h q i = .ok r) : r.1.canonical := by
  grind [streamAddr, → canonical_elementRead]

theorem canonical_runAhead {act f k is} (hf : ∀ i s t, s.canonical → f i s = .ok t → t.canonical) (hs : s.canonical) :
    (runAhead act f k is s).canonical := by
  grind [runAhead, canonical_foldl]

theorem canonical_ranOn {h m f i} (hf : ∀ i s t, s.canonical → f i s = .ok t → t.canonical) (hs : s.canonical) :
    (ranOn h m f i s).canonical :=
  canonical_runAhead hf hs

theorem canonical_streamLoop {slot h m addrs ahead f g fin} (hf : ∀ i s t, s.canonical → f i s = .ok t → t.canonical)
    (hg : ∀ i s t, s.canonical → g i s = .ok t → t.canonical) (hfin : ∀ s, s.canonical → (fin s).canonical)
    (hs : s.canonical) :
    (streamLoop s slot h m addrs ahead f g fin).canonical := by
  unfold streamLoop
  extract_lets t later
  have looped := now_eachPos (underMask_keeps (h := h) (m := m) hf hg) (n := h.vl - h.vstart) (i := h.vstart) (b := t.budget)
    (show t.canonical from canonical_modHart hs)
  have ran : ∀ i x, x.canonical → (later i x).canonical := by grind [canonical_ranOn]
  split
  next e => exact hfin _ (e ▸ looped :)
  next e => exact canonical_modHart (ran _ _ (e ▸ looped :))
  next e => exact canonical_modHart (ran _ _ (e ▸ looped :))

theorem canonical_finishStream {slot h0 q} (hs : s.canonical) : (finishStream slot h0 q s).canonical := canonical_modHart hs

theorem canonical_execVld {c o} (hs : s.canonical) (he : execVld c o s = .next u) : u.canonical :=
  canonical_issue he hs fun _ _ _ hs =>
    canonical_ite hs (canonical_unpoisoned hs (canonical_ite hs (canonical_streamLoop
      (by grind [→ canonical_streamAddr, → canonical_elementRead, modHart_mem])
      (by grind [modHart_mem]) (fun _ => canonical_finishStream) hs)))

theorem canonical_segmentRead {slot h a n f k r} (hs : s.canonical) (he : segmentRead s slot h a n f k = .ok r) : r.1.canonical := by
  induction f generalizing s k r with
  | zero => grind [segmentRead]
  | succ f ih => grind [segmentRead, → canonical_elementRead, → ok_of_map]

theorem canonical_execVldseg {c o} (hs : s.canonical) (he : execVldseg c o s = .next u) : u.canonical :=
  canonical_issue he hs fun _ _ _ hs =>
    canonical_ite hs (canonical_unpoisoned hs (canonical_ite hs (canonical_streamLoop
      (by grind [→ canonical_segmentRead, modHart_mem])
      (by grind [modHart_mem]) (fun _ => canonical_finishStream) hs)))

theorem canonical_perform {slot part w} (hs : s.canonical) : (CheckedWrite.perform slot part s w).canonical :=
  canonical_performStore hs

theorem canonical_performElement {slot h m ordered i} {r : State × List CheckedWrite} (hr : r.1.canonical)
    (he : performElement slot h m ordered i r = .ok u) : u.canonical := by
  grind [performElement, canonical_perform, canonical_foldl]

theorem canonical_storeElem {slot h m ordered i a n limit x} (hs : s.canonical)
    (he : storeElem s slot h m ordered i a n limit x = .ok u) : u.canonical := by
  unfold storeElem at he
  split at he
  · cases he
  · exact canonical_performElement hs he

theorem canonical_unorderedLoop {k slot h m addrs f fin} (hf : ∀ i s r, s.canonical → f i s = .ok r → r.1.canonical)
    (hfin : ∀ s, s.canonical → (fin s).canonical) (hs : s.canonical) : (unorderedLoop k s slot h m addrs f fin).canonical := by
  unfold unorderedLoop
  extract_lets t perform alone stop
  have found := now_eachPos (P := fun x : State × List CheckedWrite => x.1.canonical)
    (underMask_keeps (h := h) (m := m) (f := fun i x => (f i x.1).map fun r => (r.1, x.2 ++ r.2)) (g := fun _ x => .ok x)
      (by grind [→ ok_of_map]) (by grind))
    (n := h.vl - h.vstart) (i := h.vstart) (b := t.budget) (x := (t, [])) (canonical_modHart hs)
  have performed : ∀ x, x.1.canonical → (perform x).canonical := fun x hx => canonical_foldl (fun _ _ => canonical_perform) hx
  have stopped : ∀ x i, x.1.canonical → (stop x i).canonical := fun x i hx =>
    canonical_modHart (canonical_ranOn (by grind [→ ok_of_map, canonical_foldl, canonical_perform]) (performed x hx))
  split
  next e => exact hfin _ (performed _ (e ▸ found :))
  next e => exact stopped _ _ (e ▸ found :)
  next e => exact stopped _ _ (e ▸ found :)

/-- Elements are stored in either loop: `check` finds the writes of one and leaves memory alone. -/
theorem canonical_storeLoop {b : Bool} {k slot h m addrs ahead ordered fin}
    {check : Nat → State → Except Denied (State × List CheckedWrite)}
    (hc : ∀ i s r, s.canonical → check i s = .ok r → r.1.canonical) (hfin : ∀ s, s.canonical → (fin s).canonical)
    (hs : s.canonical) :
    ((if b then unorderedLoop k s slot h m addrs check
      else streamLoop s slot h m addrs ahead (fun i s => (check i s).bind (performElement slot h m ordered i)) fun _ s => .ok s)
        fin).canonical := by
  split
  · exact canonical_unorderedLoop hc hfin hs
  · refine canonical_streamLoop (fun i s t hs ht => ?_) (fun _ _ _ hs e => Except.ok.inj e ▸ hs) hfin hs
    obtain ⟨r, checked, performed⟩ := ok_of_bind ht
    exact canonical_performElement (hc i s r hs checked) performed

theorem canonical_execVst {c o} (hs : s.canonical) (he : execVst c o s = .next u) : u.canonical :=
  canonical_issue he hs fun _ _ _ hs =>
    canonical_ite hs (canonical_unpoisoned hs (canonical_ite hs (canonical_storeLoop
      (by grind [→ canonical_streamAddr, → ok_of_map]) (fun _ => canonical_finishStream) hs)))

theorem canonical_execVstseg {c o} (hs : s.canonical) (he : execVstseg c o s = .next u) : u.canonical := by
  refine canonical_issue he hs fun _ _ _ hs => canonical_ite hs (canonical_unpoisoned hs (canonical_ite hs
    (canonical_storeLoop (fun _ _ _ hs checked => ?_) (fun _ => canonical_finishStream) hs)))
  split at checked
  · cases checked
  · obtain ⟨_, -, rfl⟩ := ok_of_map checked
    exact hs

theorem canonical_execVstc {c o} (hs : s.canonical) (he : execVstc c o s = .next u) : u.canonical :=
  canonical_issue he hs fun _ _ _ hs =>
    canonical_ite hs (canonical_unpoisoned hs (canonical_ite hs (canonical_streamLoop
      (by grind [→ canonical_storeElem, → ok_of_map, modHart_mem])
      (by grind) (fun _ hs => canonical_modHart hs) hs)))

/-! ## Equinox -/

theorem canonical_peek {slot h c r} (hs : s.canonical) (he : peek s slot h c = .ok r) : r.1.canonical := by
  grind [peek, → canonical_elementRead]

/-- What each position keeps, a loop over cursors keeps. -/
theorem now_consumeLoop {σ : Type} {P : σ → Prop} {f : σ → Except Denied (Option σ)}
    (hf : ∀ x y, P x → f x = .ok (some y) → P y) {n : Nat} {b : Option Nat} {x : σ} (hx : P x) :
    P (consumeLoop f n b x).now := by
  induction n generalizing b x with
  | zero => exact hx
  | succ n ih =>
    unfold consumeLoop
    split
    · exact hx
    · exact hx
    next y e =>
      split
      · exact hx
      · exact ih (hf x y hx e)

theorem canonical_popCoords {slot h0 es} (hs : s.canonical) : (popCoords s slot h0 es).canonical := canonical_modHart hs

theorem canonical_closeEquinox {slot h0} {r : LoopEnd (State × Nat)} (hr : r.now.1.canonical) :
    (closeEquinox slot h0 r).canonical := by
  cases r with
  | finished x => exact canonical_modHart hr
  | stopped x i => exact canonical_modHart hr
  | denied x i d => exact canonical_modHart hr

/-- An Equinox instruction that runs over cursors keeps the memory canonical where each of its positions does. -/
theorem canonical_equinoxLoop {slot h0 f n b c} (hf : ∀ x y : State × Nat, x.1.canonical → f x = .ok (some y) → y.1.canonical)
    (hs : s.canonical) : (closeEquinox slot h0 (consumeLoop f n b (s, c))).canonical :=
  canonical_closeEquinox (now_consumeLoop (P := fun x : State × Nat => x.1.canonical) hf hs)

theorem canonical_cursorsChecked {h es encs r} (hs : s.canonical) (hr : r.canonical) : (cursorsChecked s h es encs r).canonical := by
  grind [cursorsChecked, Res.canonical]

theorem canonical_eqintStep {slot o lim h0 x r} (hs : x.1.canonical) (he : eqintStep slot o lim h0 x = .ok (some r)) :
    r.1.canonical := by
  grind [eqintStep, modHart_mem, → canonical_peek]

theorem canonical_execEqint {c o} (hs : s.canonical) (he : execEqint c o s = .next u) : u.canonical :=
  canonical_issue he hs fun _ _ _ hs =>
    canonical_ite hs (canonical_unpoisoned hs (canonical_cursorsChecked hs
      (canonical_equinoxLoop (fun _ _ => canonical_eqintStep) (canonical_popCoords hs))))

theorem canonical_settle {slot h e r} (hs : s.canonical) (he : settle s slot h e = .ok r) : r.1.canonical := by
  grind [settle, → canonical_peek, → ok_of_map]

theorem canonical_eqmrgStep {slot o lim h0 x r} (hs : x.1.canonical) (he : eqmrgStep slot o lim h0 x = .ok (some r)) :
    r.1.canonical := by
  grind [eqmrgStep, modHart_mem, → canonical_settle]

theorem canonical_execEqmrg {c o} (hs : s.canonical) (he : execEqmrg c o s = .next u) : u.canonical :=
  canonical_issue he hs fun _ _ _ hs =>
    canonical_ite hs (canonical_unpoisoned hs (canonical_cursorsChecked hs
      (canonical_equinoxLoop (fun _ _ => canonical_eqmrgStep) (canonical_popCoords hs))))

theorem canonical_execEqnz {c o} (hs : s.canonical) (he : execEqnz c o s = .next u) : u.canonical :=
  canonical_issue he hs fun _ _ _ hs => canonical_ite hs (canonical_unpoisoned hs (canonical_ite hs (canonical_popCoords hs)))

theorem canonical_eqnzStep {slot o lim h0 x r} (hs : x.1.canonical) (he : eqnzStep slot o lim h0 x = .ok (some r)) :
    r.1.canonical := by
  grind [eqnzStep, modHart_mem, → canonical_elementRead]

theorem canonical_execEqnzCursorForm {c o} (hs : s.canonical) (he : execEqnzCursorForm c o s = .next u) : u.canonical :=
  canonical_issue he hs fun _ _ _ hs =>
    canonical_ite hs (canonical_unpoisoned hs (canonical_cursorsChecked hs
      (canonical_equinoxLoop (fun _ _ => canonical_eqnzStep) (canonical_popCoords hs))))

theorem canonical_execEqsplt {c o} (hs : s.canonical) (he : execEqsplt c o s = .next u) : u.canonical := by
  refine canonical_issue he hs fun _ _ _ hs => ?_
  grind [modHart_mem, canonical_unpoisoned, → canonical_elementRead, canonical_cursorsChecked, Res.canonical]

theorem canonical_execEqsave {c o} (hs : s.canonical) (he : execEqsave c o s = .next u) : u.canonical := by
  refine canonical_issue he hs fun _ _ _ hs => ?_
  grind [canonical_performStore, canonical_unpoisoned, Res.canonical]

theorem canonical_execEqload {c o} (hs : s.canonical) (he : execEqload c o s = .next u) : u.canonical := by
  refine canonical_issue he hs fun _ _ _ hs => ?_
  grind [modHart_mem, → canonical_load, canonical_noteRead, canonical_unpoisoned, Res.canonical]

/-! ## Copies and multicasts -/

theorem canonical_execTresize {c o} (hs : s.canonical) (he : execTresize c o s = .next u) : u.canonical :=
  canonical_issue he hs fun _ _ _ hs => canonical_unpoisoned hs (canonical_ite hs (canonical_ite hs (by split <;> exact hs)))

theorem canonical_execTgive {c o} (hs : s.canonical) (he : execTgive c o s = .next u) : u.canonical :=
  canonical_issue he hs fun _ _ _ hs =>
    canonical_unpoisoned hs (canonical_ite hs (canonical_ite hs (canonical_ite hs (canonical_ite hs (canonical_ite hs hs)))))

theorem canonical_rowAddr {slot h q len n r} (hs : s.canonical) (he : rowAddr s slot h q len n = .ok r) : r.1.canonical := by
  grind [rowAddr, → canonical_elementRead]

theorem canonical_copyRows {slot h qd qa len n k side r} (hs : s.canonical) (he : copyRows slot h qd qa len n k side s = .ok r) :
    r.1.canonical := by
  induction n generalizing s k side r with
  | zero => grind [copyRows]
  | succ n ih =>
    unfold copyRows at he
    split at he
    · cases he
    next source =>
      split at he
      · cases he
      next dest =>
        split at he
        · cases he
        · obtain ⟨x, rest, rfl⟩ := ok_of_map he
          exact ih (r := x) (canonical_rowAddr (canonical_rowAddr hs source) dest) rest

theorem canonical_engineRead {slot part pa n} (hs : s.canonical) : (engineRead s slot part pa n).1.canonical :=
  canonical_foldlFst (fun _ _ => canonical_engineReadLine) hs

theorem canonical_engineWriteLine {m part pa bs poison} (hs : s.canonical) : (engineWriteLine s m part pa bs poison).canonical := by
  grind [engineWriteLine, canonical_poisonByte, canonical_writePhys, canonical_foldl]

theorem canonical_engineWrite {m part pa bs poison} (hs : s.canonical) : (engineWrite s m part pa bs poison).canonical :=
  canonical_foldl (fun _ _ => canonical_engineWriteLine) hs

theorem canonical_writeScratchPoison {key slot o bs poison} (hs : s.canonical) :
    (writeScratchPoison s key slot o bs poison).canonical :=
  canonical_modHart (canonical_storeScratchAs hs)

theorem canonical_touchLines {slot part g write} (hs : s.canonical) : (touchLines s slot part g write).canonical :=
  canonical_foldl (fun _ _ => canonical_noteTouch) hs

theorem canonical_sendSegment {slot id part g bs poison} (hs : s.canonical) : (sendSegment s slot id part g bs poison).canonical := by
  grind [sendSegment, canonical_reflect, canonical_engineWrite, canonical_touchLines, canonical_foldl]

theorem canonical_moveSegment {slot id part toMem r g} (hs : s.canonical) : (moveSegment s slot id part toMem r g).canonical := by
  grind [moveSegment, canonical_engineRead, canonical_engineWrite, canonical_writeScratchPoison, canonical_touchLines,
    canonical_sendSegment]

theorem canonical_moveRow {slot id part toMem r} (hs : s.canonical) : (moveRow s slot id part toMem r).canonical :=
  canonical_foldl (fun _ _ => canonical_moveSegment) hs

theorem canonical_startTransfer {id slot gang work bar bytes} (hs : s.canonical) :
    (startTransfer s id slot gang work bar bytes).canonical :=
  hs

theorem canonical_sendRows {slot id h rows} (hs : s.canonical) : (sendRows s slot id h rows).canonical := by
  grind [sendRows, canonical_sendSegment, canonical_foldl]

theorem canonical_rememberRows {slot part rows} (hs : s.canonical) : (rememberRows s slot part rows).canonical :=
  canonical_foldl (fun _ _ => canonical_rememberAt) hs

theorem canonical_execTcopy {c o} (hs : s.canonical) (he : execTcopy c o s = .next u) : u.canonical := by
  refine canonical_issue he hs fun _ _ _ hs => ?_
  grind [modHart_mem, draw_mem, newId_mem, canonical_settleStores, canonical_trapRes, canonical_unpoisoned, → canonical_copyRows,
    canonical_startTransfer, canonical_sendRows, canonical_rememberRows, Res.canonical]

theorem canonical_retryWalks {part stale rows} (hs : s.canonical) : (retryWalks s part stale rows).canonical := by
  grind [retryWalks, canonical_noteRetry, canonical_foldl]

theorem canonical_creditTransfer {t} (hs : s.canonical) : (creditTransfer s t).canonical := by
  grind [creditTransfer, canonical_creditFromTransfer]

theorem canonical_execTransferComplete {id} (hs : s.canonical) (he : execTransferComplete id s = .next u) : u.canonical := by
  have gone : ∀ s : State, s.canonical → (settlePins { s with transfers := s.transfers.filter fun x => x.id != id }).canonical :=
    fun s hs => canonical_settlePins hs
  unfold execTransferComplete at he
  split at he
  · grind
  dsimp only at he
  split at he
  · grind [modHart_mem, canonical_creditTransfer, canonical_foldl]
  split at he
  · grind
  split at he
  · grind [canonical_settlePins, canonical_retryWalks]
  split at he
  · grind [canonical_settlePins, canonical_noteRetry]
  · cases he
    exact canonical_creditTransfer (gone _ (canonical_modHart (canonical_settleStores
      (canonical_foldl (fun _ _ => canonical_moveRow) hs))))

theorem canonical_countRequests {slot part segs} (hs : s.canonical) : (countRequests s slot part segs).canonical := by
  grind [countRequests, canonical_noteTouch, canonical_foldl]

theorem canonical_execTcast {c o} (hs : s.canonical) (he : execTcast c o s = .next u) : u.canonical := by
  refine canonical_issue he hs fun _ _ _ hs => ?_
  grind [modHart_mem, newId_mem, canonical_trapRes, canonical_unpoisoned, canonical_startTransfer, canonical_rememberRows,
    canonical_countRequests, canonical_foldl, Res.canonical]

theorem canonical_deliverRequest {q bs bad} (hs : s.canonical) : (deliverRequest s q bs bad).canonical := by
  grind [deliverRequest, newId_mem, canonical_foldl]

theorem canonical_mergeRead {w} (hs : s.canonical) : (mergeRead s w).1.canonical := by
  grind [mergeRead, canonical_engineRead]

theorem canonical_execMergeWindowClose {line} (hs : s.canonical) (he : execMergeWindowClose line s = .next u) : u.canonical := by
  grind [execMergeWindowClose, canonical_noteRetry, canonical_deliverRequest, canonical_mergeRead, canonical_foldl]

theorem canonical_execTcastLineDelivery {id} (hs : s.canonical) (he : execTcastLineDelivery id s = .next u) : u.canonical := by
  grind [execTcastLineDelivery, canonical_writeScratchPoison]

/-! ## Scalar loads and stores, atomics, locks and fences -/

theorem canonical_scalarRead {slot h ea n r} (hs : s.canonical) (he : scalarRead s slot h ea n = .ok r) : r.1.canonical := by
  grind [scalarRead, → canonical_load, → ok_of_map]

theorem canonical_scalarLoad {c o} (hs : s.canonical) (he : scalarLoad c o s = .next u) : u.canonical := by
  refine canonical_issue he hs fun _ _ _ hs => ?_
  grind [canonical_doneWith, canonical_unpoisoned, → canonical_scalarRead, Res.canonical]

theorem canonical_execSt {c o} (hs : s.canonical) (he : execSt c o s = .next u) : u.canonical := by
  refine canonical_issue he hs fun _ _ _ hs => ?_
  grind [canonical_performStore, canonical_unpoisoned, Res.canonical]

theorem canonical_releaseHeld {slot k sc} (hs : s.canonical) (he : releaseHeld s slot k sc = some u) : u.canonical := by
  grind [releaseHeld, canonical_boundSiblingPins]

theorem canonical_releaseAt {slot sc} (hs : s.canonical) : (releaseAt s slot sc).canonical := by
  grind [releaseAt, canonical_endPins]

theorem canonical_pinLine {slot line} (hs : s.canonical) (he : pinLine s slot line = some u) : u.canonical := by
  grind [pinLine, setPair_mem]

theorem canonical_corePin {slot pl} (hs : s.canonical) (he : corePin s slot pl = some u) : u.canonical := by
  grind [corePin, → canonical_pinLine]

theorem canonical_execStl {c o} (hs : s.canonical) (he : execStl c o s = .next u) : u.canonical := by
  refine canonical_issue he hs fun _ _ _ hs => ?_
  grind [canonical_endPins, canonical_performStore, canonical_unpoisoned, → canonical_releaseHeld, → canonical_corePin,
    Res.canonical]

theorem canonical_noteAtomic {slot part va n pl} (hs : s.canonical) : (noteAtomic s slot part va n pl).canonical := by
  cases pl with
  | scratch o => exact hs
  | mem pa e => exact canonical_noteRead (canonical_noteAccess (canonical_markPinRead hs))

theorem canonical_performAtomic {slot vec part pl va op ty b cmp} (hs : s.canonical) :
    (performAtomic s slot vec part pl va op ty b cmp).1.canonical := by
  cases pl with
  | scratch o => grind [performAtomic, canonical_storeScratch, canonical_noteAtomic]
  | mem pa e => grind [performAtomic, canonical_rememberAt, canonical_reflect, canonical_writePhys, canonical_noteAtomic]

theorem canonical_execAmo {c o} (hs : s.canonical) (he : execAmo c o s = .next u) : u.canonical := by
  refine canonical_issue he hs fun _ _ _ hs => ?_
  grind [modHart_mem, canonical_unpoisoned, → canonical_releaseHeld, canonical_releaseAt, canonical_performAtomic, Res.canonical]

theorem canonical_performElem {slot h o e} (hs : s.canonical) : (performElem slot h o s e).canonical :=
  canonical_modHart (canonical_performAtomic hs)

/-- The elements of a VAMO are performed, and it releases where one of them stays on the device. -/
theorem canonical_performElems {slot h o} {k : Nat} {l : List AtomicElem} (hs : s.canonical) :
    (if l.all fun e => e.place.reflects then (elementOrder k l).foldl (performElem slot h o) s
      else releaseAt ((elementOrder k l).foldl (performElem slot h o) s) slot o.scope).canonical := by
  have performed : ((elementOrder k l).foldl (performElem slot h o) s).canonical :=
    canonical_foldl (fun _ _ => canonical_performElem) hs
  split
  · exact performed
  · exact canonical_releaseAt performed

theorem canonical_execVamo {c o} (hs : s.canonical) (he : execVamo c o s = .next u) : u.canonical := by
  refine canonical_issue he hs fun s slot h hs => canonical_ite hs (canonical_unpoisoned hs (canonical_ite hs ?_))
  dsimp only
  generalize hr : eachPos _ _ _ _ (_, []) = r
  have checked : r.now.1.canonical := by
    rw [← hr]
    exact now_eachPos (P := fun x : State × List AtomicElem => x.1.canonical)
      (by grind [→ canonical_streamAddr]) (canonical_modHart hs)
  clear hr
  split
  next held =>
    split at held
    · cases held
    · exact canonical_releaseHeld checked held
  · cases r with
    | finished x => exact canonical_finishStream (canonical_modHart (canonical_performElems checked))
    | stopped x i => exact canonical_modHart (canonical_modHart (canonical_performElems checked))
    | denied x i d => exact canonical_modHart (canonical_modHart (canonical_performElems checked))

theorem canonical_writeLock {slot part pl x} (hs : s.canonical) : (writeLock s slot part pl x).canonical := by
  cases pl with
  | scratch o => exact canonical_storeScratch hs
  | mem pa e => exact canonical_writePhys hs

theorem canonical_takeLock {slot h r e} (hs : r.1.canonical) : (takeLock slot h r e).1.canonical := by
  grind [takeLock, canonical_noteAtomic, canonical_writeLock]

theorem canonical_execVlock {c o} (hs : s.canonical) (he : execVlock c o s = .next u) : u.canonical := by
  refine canonical_issue he hs fun _ _ _ hs => ?_
  grind [modHart_mem, canonical_trapRes, canonical_unpoisoned, canonical_takeLock, canonical_foldlFst, Res.canonical]

theorem canonical_freeLock {slot h r e} (hs : r.1.canonical) : (freeLock slot h r e).1.canonical := by
  grind [freeLock, canonical_noteAtomic, canonical_writeLock]

theorem canonical_execVunlock {c o} (hs : s.canonical) (he : execVunlock c o s = .next u) : u.canonical := by
  refine canonical_issue he hs fun _ _ _ hs => ?_
  grind [modHart_mem, canonical_trapRes, canonical_unpoisoned, canonical_freeLock, canonical_foldlFst, → canonical_releaseHeld,
    canonical_releaseAt, Res.canonical]

theorem canonical_leaveMarker {slot k w} (hs : s.canonical) : (leaveMarker s slot k w).canonical := by
  grind [leaveMarker, modHart_mem, canonical_boundStorePins]

theorem canonical_fencePins {slot sc w} (hs : s.canonical) : (fencePins s slot sc w).canonical := by
  grind [fencePins, canonical_pendPins]

theorem canonical_execFence {c o} (hs : s.canonical) (he : execFence c o s = .next u) : u.canonical :=
  canonical_issue he hs fun _ _ _ hs => canonical_ite (canonical_boundStorePins hs) (canonical_fencePins (canonical_leaveMarker hs))

/-! ## Barriers -/

theorem canonical_barBusy {n} (hs : s.canonical) : (barBusy s n).canonical := hs

theorem canonical_execBarinit {c o} (hs : s.canonical) (he : execBarinit c o s = .next u) : u.canonical := by
  refine canonical_issue he hs fun _ _ _ hs => ?_
  grind [setBarrier_mem, canonical_trapWaiters, canonical_unpoisoned, → canonical_releaseHeld, canonical_releaseAt, canonical_barBusy,
    Res.canonical]

theorem canonical_execBararv {c o} (hs : s.canonical) (he : execBararv c o s = .next u) : u.canonical := by
  refine canonical_issue he hs fun _ _ _ hs => ?_
  grind [modHart_mem, setBarrier_mem, canonical_trapWaiters, canonical_settleBarrier, canonical_trapRes, → canonical_releaseHeld,
    canonical_releaseAt, canonical_barBusy, Res.canonical]

theorem canonical_execBarexp {c o} (hs : s.canonical) (he : execBarexp c o s = .next u) : u.canonical :=
  canonical_issue he hs fun _ _ _ hs =>
    canonical_unpoisoned hs (canonical_ite hs (canonical_ite hs (canonical_ite hs (canonical_settleBarrier hs))))

theorem canonical_execBarwaitReturn {slot} (hs : s.canonical) (he : execBarwaitReturn slot s = .next u) : u.canonical := by
  grind [execBarwaitReturn, setHart_mem, canonical_retire]

end Sys2Proof.Machine
end

section
/-! PROOFS. The canonical form of memory: launches, reflection, tasks, queues and the beginning of a turn. -/

namespace Sys2Proof.Machine

variable {s u : State}

/-! ## Launches and reflection -/

theorem canonical_execTlaunch {c o} (hs : s.canonical) (he : execTlaunch c o s = .next u) : u.canonical := by
  refine canonical_issue he hs fun _ _ _ hs => ?_
  grind [modHart_mem, → canonical_load, canonical_noteRead, canonical_trapRes, canonical_unpoisoned, → canonical_releaseHeld,
    Res.canonical]

theorem canonical_launchStep {slot h j record r} (hs : s.canonical) (he : launchStep s slot h j record = .ok r) : r.1.canonical := by
  grind [launchStep, modPart_mem, modTask_mem, canonical_physWrite, canonical_delayStore]

theorem canonical_execTlaunchCopy {slot} (hs : s.canonical) (he : execTlaunchCopy slot s = .next u) : u.canonical := by
  unfold execTlaunchCopy at he
  split at he
  · split at he
    · dsimp only at he
      split at he
      · cases he
        exact hs
      next loaded =>
        have read := canonical_load hs loaded
        split at he
        · grind [→ canonical_releaseHeld]
        split at he
        · cases he
          exact canonical_deny hs
        · grind [canonical_noteRead, canonical_retire, canonical_releaseAt, → canonical_launchStep, modHart_mem]
    · grind
  · grind

theorem canonical_stopGang {id k await} (hs : s.canonical) : (stopGang s id k await).canonical := by
  grind [stopGang, modGang_mem, canonical_stopHarts]

theorem canonical_execTwait {c o} (hs : s.canonical) (he : execTwait c o s = .next u) : u.canonical := by
  refine canonical_issue he hs fun _ _ _ hs => ?_
  grind [canonical_doneWith, canonical_unpoisoned, canonical_stopGang, Res.canonical]

theorem canonical_execEvpop {c o} (hs : s.canonical) (he : execEvpop c o s = .next u) : u.canonical := by
  refine canonical_issue he hs fun _ _ _ hs => ?_
  grind [modHart_mem, modPart_mem, canonical_performStore, canonical_trapRes, canonical_doneWith, canonical_unpoisoned,
    canonical_foldl, Res.canonical]

theorem canonical_execRfence {c o} (hs : s.canonical) (he : execRfence c o s = .next u) : u.canonical := by
  refine canonical_issue he hs fun _ _ _ hs => ?_
  grind [setHart_mem, → canonical_releaseHeld, canonical_releaseAt, Res.canonical]

theorem canonical_settleForwarding (hs : s.canonical) : (settleForwarding s).canonical := by
  grind [settleForwarding, setBarrier_mem, canonical_foldl]

theorem canonical_setWindow {w e} (hs : s.canonical) : (setWindow s w e).canonical := canonical_settleForwarding hs

theorem canonical_remap {slot d w e} (hs : s.canonical) : (remap s slot d w e).canonical := by
  grind [remap, modHart_mem, canonical_setWindow, Res.canonical]

theorem canonical_statusWord {slot d n} (hs : s.canonical) : (statusWord s slot d n).canonical := canonical_modHart hs

theorem canonical_execWmap {c o} (hs : s.canonical) (he : execWmap c o s = .next u) : u.canonical := by
  refine canonical_issue he hs fun _ _ _ hs => ?_
  grind [→ canonical_load, canonical_noteRead, canonical_trapRes, canonical_unpoisoned, canonical_remap, canonical_statusWord,
    Res.canonical]

theorem canonical_execWunmap {c o} (hs : s.canonical) (he : execWunmap c o s = .next u) : u.canonical :=
  canonical_issue he hs fun _ _ _ hs =>
    canonical_ite hs (canonical_unpoisoned hs (canonical_ite (canonical_statusWord hs)
      (canonical_ite (canonical_statusWord hs) (canonical_remap hs))))

theorem canonical_recordReflection {part receiver cause rwin dev} (hs : s.canonical) :
    (recordReflection s part receiver cause rwin dev).canonical := by
  grind [recordReflection, modPart_mem, canonical_raiseInterrupt]

theorem canonical_discardOwn {r cause} (hs : s.canonical) : (discardOwn s r cause).canonical :=
  canonical_recordReflection (canonical_modHart hs)

theorem canonical_setFate {id f} (hs : s.canonical) : (setFate s id f).canonical := hs

theorem canonical_dropPacket {id} (hs : s.canonical) : (dropPacket s id).canonical := hs

theorem canonical_finishMappings (hs : s.canonical) : (finishMappings s).canonical := by
  grind [finishMappings, setHart_mem, modHart_mem, canonical_retire, canonical_foldl]

theorem canonical_countArrival {leaves pa write} (hs : s.canonical) : (countArrival s leaves pa write).canonical := by
  grind [countArrival, canonical_countRepl]

theorem canonical_landPayload {leaves pa pl} (hs : s.canonical) : (landPayload s leaves pa pl).canonical := by
  cases pl with
  | store bs bad => grind [landPayload, canonical_physWritePoison, canonical_touchWords, canonical_countArrival]
  | reduce op t x => grind [landPayload, canonical_physWrite, canonical_poisonByte, canonical_touchWords, canonical_countArrival]

theorem canonical_landPacket {source rwin offset pl} (hs : s.canonical) : (landPacket s source rwin offset pl).canonical := by
  unfold landPacket
  split
  · exact hs
  dsimp only
  split
  · exact hs
  split
  · exact canonical_recordReflection hs
  split
  · exact canonical_recordReflection hs
  split
  · exact canonical_noteRetry hs
  · grind [canonical_landPayload, canonical_creditFromWindow, Landing.canonical]

theorem canonical_execBeaconPacketApply {a} (hs : s.canonical) (he : execBeaconPacketApply a s = .next u) : u.canonical := by
  cases a with
  | loopback id =>
    grind [execBeaconPacketApply, canonical_discardOwn, canonical_setFate, canonical_finishMappings, canonical_landPacket,
      Landing.canonical]
  | foreign source rwin offset pl => grind [execBeaconPacketApply, canonical_landPacket, Landing.canonical]

theorem canonical_recordTimedOut {r} (hs : s.canonical) : (recordTimedOut s r).canonical := by
  grind [recordTimedOut, canonical_recordReflection]

theorem canonical_execReflectTimeout {id} (hs : s.canonical) (he : execReflectTimeout id s = .next u) : u.canonical := by
  grind [execReflectTimeout, canonical_discardOwn, canonical_dropPacket, canonical_finishMappings, canonical_recordTimedOut]

theorem canonical_execReflectionAcknowledgement {id applied cause} (hs : s.canonical)
    (he : execReflectionAcknowledgement id applied cause s = .next u) : u.canonical := by
  grind [execReflectionAcknowledgement, canonical_discardOwn, canonical_dropPacket, canonical_finishMappings]

theorem canonical_execHostCoherenceAccept (hs : s.canonical) (he : execHostCoherenceAccept s = .next u) : u.canonical := by
  grind [execHostCoherenceAccept, canonical_settlePins]

/-! ## Elements of vectors -/

theorem canonical_vecBin {op c o readsD f} (hs : s.canonical) (he : vecBin op c o s readsD f = .next u) : u.canonical :=
  canonical_issue he hs fun _ _ _ hs => canonical_elementwise hs

theorem canonical_vecWide {c o readsD f} (hs : s.canonical) (he : vecWide c o s readsD f = .next u) : u.canonical :=
  canonical_issue he hs fun _ _ _ hs => canonical_elementwise hs

/-! ## Retirement of tasks -/

theorem canonical_releaseSlot {slot} (hs : s.canonical) : (releaseSlot s slot).canonical :=
  canonical_settleStores (canonical_dropPins hs)

theorem canonical_freeBarriers {gang} (hs : s.canonical) : (freeBarriers s gang).canonical := by
  grind [freeBarriers, setBarrier_mem, canonical_foldl]

theorem canonical_invalidateImage {part n} (hs : s.canonical) : (invalidateImage s part n).canonical := canonical_physWrite hs

theorem canonical_forgetGang {g} (hs : s.canonical) : (forgetGang s g).canonical := canonical_freeBarriers hs

theorem canonical_makeReady {g} (hs : s.canonical) : (makeReady s g).canonical := hs

theorem canonical_wakeParked {part} (hs : s.canonical) : (wakeParked s part).canonical := by
  grind [wakeParked, canonical_makeReady, canonical_foldl]

theorem canonical_reportChild {part queue seq status} (hs : s.canonical) : (reportChild s part queue seq status).canonical :=
  canonical_wakeParked hs

theorem canonical_storeSignal {part va pa e bs} (hs : s.canonical) : (storeSignal s part va pa e bs).canonical := by
  grind [storeSignal, canonical_touchWords, canonical_reflect, canonical_meetPage, canonical_writePhys, canonical_countArrival,
    Signal.canonical]

theorem canonical_writeSignal {part va x} (hs : s.canonical) : (writeSignal s part va x).canonical := by
  grind [writeSignal, canonical_storeSignal, Signal.canonical]

theorem canonical_signalTask {t x} (hs : s.canonical) : (signalTask s t x).canonical := by
  grind [signalTask, canonical_writeSignal, Signal.canonical]

theorem canonical_appendEvent {part n r} (hs : s.canonical) : (appendEvent s part n r).canonical := by
  grind [appendEvent, modPart_mem, canonical_raiseInterrupt]

theorem canonical_postEvent {t sigFail} (hs : s.canonical) : (postEvent s t sigFail).canonical := by
  grind [postEvent, canonical_appendEvent]

theorem canonical_finishTask {t final sigFail status} (hs : s.canonical) : (finishTask s t final sigFail status).canonical :=
  canonical_reportChild (canonical_postEvent hs)

theorem canonical_awaitPin {t k pa n} (hs : s.canonical) : (awaitPin s t k pa n).canonical := hs

theorem canonical_execTaskRetire {p queue seq} (hs : s.canonical) (he : execTaskRetire p queue seq s = .next u) : u.canonical := by
  grind [execTaskRetire, modTask_mem, canonical_signalTask, canonical_finishTask, canonical_awaitPin, Signal.canonical]

theorem canonical_endGang {g} (hs : s.canonical) : (endGang s g).canonical := by
  grind [endGang, canonical_releaseSlot, canonical_invalidateImage, canonical_forgetGang, canonical_foldl]

theorem canonical_execTaskEnd {p queue seq} (hs : s.canonical) (he : execTaskEnd p queue seq s = .next u) : u.canonical := by
  grind [execTaskEnd, canonical_noteRetry, canonical_signalTask, canonical_finishTask, canonical_awaitPin, canonical_endGang,
    canonical_foldl, Signal.canonical]

theorem canonical_settleParked {p q n} (hs : s.canonical) : (settleParked s p q n).canonical := by
  grind [settleParked, modTask_mem]

theorem canonical_retireGang {g} (hs : s.canonical) : (retireGang s g).canonical := canonical_settleParked (canonical_forgetGang hs)

theorem canonical_leaveGang {g slot} (hs : s.canonical) : (leaveGang s g slot).canonical := by
  grind [leaveGang, modGang_mem, canonical_releaseSlot, canonical_retireGang]

theorem canonical_execHaltSlotRelease {slot} (hs : s.canonical) (he : execHaltSlotRelease slot s = .next u) : u.canonical := by
  grind [execHaltSlotRelease, canonical_stopRuntime, canonical_leaveGang]

/-! ## Queues and writers -/

theorem canonical_countDiscarded (hs : s.canonical) : (countDiscarded s).canonical := hs

theorem canonical_byMaster {m f} (hf : ∀ s, s.canonical → (f s).canonical) (hs : s.canonical) : (byMaster s m f).canonical := by
  grind [byMaster]

theorem canonical_byOwner {m f} (hf : ∀ s, s.canonical → (f s).canonical) (hs : s.canonical) : (byOwner s m f).canonical :=
  canonical_byMaster (by grind [canonical_countDiscarded]) hs

theorem canonical_byWriter {w p f} (hf : ∀ s, s.canonical → (f s).canonical) (hs : s.canonical) : (byWriter s w p f).canonical := by
  cases w with
  | master m => exact canonical_byOwner hf hs
  | runtime => grind [byWriter]

theorem canonical_byRinger {w p f} (hf : ∀ s, s.canonical → (f s).canonical) (hs : s.canonical) : (byRinger s w p f).canonical := by
  cases w with
  | master m => exact canonical_byOwner hf hs
  | runtime => grind [byRinger]

theorem canonical_modQueue {p n f} (hs : s.canonical) : (modQueue s p n f).canonical := hs

theorem canonical_execDoorbell {w p n tail} (hs : s.canonical) (he : execDoorbell w p n tail s = .next u) : u.canonical := by
  cases w <;> grind [execDoorbell, canonical_countDiscarded, canonical_byMaster, canonical_byRinger, canonical_modQueue]

theorem canonical_execQueueEnable {w p n} (hs : s.canonical) (he : execQueueEnable w p n s = .next u) : u.canonical := by
  grind [execQueueEnable, canonical_byWriter, canonical_modQueue]

theorem canonical_execQueueDisable {w p n} (hs : s.canonical) (he : execQueueDisable w p n s = .next u) : u.canonical := by
  grind [execQueueDisable, canonical_byWriter, canonical_modQueue]

theorem canonical_ringErrors {p pa} (hs : s.canonical) : (ringErrors s p pa).canonical := by
  grind [ringErrors, canonical_hostLinkError, canonical_foldl]

theorem canonical_readRing {p n} (hs : s.canonical) : (readRing s p n).canonical := by
  grind [readRing, canonical_noteRetry, canonical_ringErrors, RingRead.canonical]

theorem canonical_execTakeRecord {p n} (hs : s.canonical) (he : execTakeRecord p n s = .next u) : u.canonical := by
  grind [execTakeRecord, modPart_mem, canonical_beginEnd, canonical_modQueue, canonical_readRing, RingRead.canonical]

theorem canonical_rememberLeases {p l} (hs : s.canonical) : (rememberLeases s p l).canonical := by
  grind [rememberLeases, canonical_remember, canonical_foldl]

theorem canonical_execResidencyWalk {p n} (hs : s.canonical) (he : execResidencyWalk p n s = .next u) : u.canonical := by
  grind [execResidencyWalk, modTask_mem, canonical_noteRetry, canonical_recordLeaseFault, canonical_rememberLeases]

theorem canonical_modRegs {p f} (hs : s.canonical) : (State.modRegs s p f).canonical := hs

theorem canonical_takeSlot {slot h} (hs : s.canonical) : (takeSlot s slot h).canonical := hs

theorem canonical_dispatchGang {p t rank index left} (hs : s.canonical) : (dispatchGang s p t rank index left).canonical := by
  grind [dispatchGang, modPart_mem, modTask_mem, canonical_takeSlot, canonical_foldl]

theorem canonical_countRound {p n lv others} (hs : s.canonical) : (countRound s p n lv others).canonical := hs

/-! ## Predicates, masks and scalar integers -/

theorem canonical_predLogic {c d a b f} (hs : s.canonical) (he : predLogic c d a b s f = .next u) : u.canonical :=
  canonical_issue he hs fun _ _ _ hs => hs

theorem canonical_maskLogic {c d a b f} (hs : s.canonical) (he : maskLogic c d a b s f = .next u) : u.canonical :=
  canonical_issue he hs fun _ _ _ hs => canonical_unpoisoned hs hs

theorem canonical_scalarBin {op c o f} (hs : s.canonical) (he : scalarBin op c o s f = .next u) : u.canonical :=
  canonical_issue he hs fun _ _ _ hs => canonical_unpoisoned hs hs

theorem canonical_scalarUn {op c o f} (hs : s.canonical) (he : scalarUn op c o s f = .next u) : u.canonical :=
  canonical_issue he hs fun _ _ _ hs => canonical_unpoisoned hs hs

/-! ## The turn of an agent -/

theorem canonical_noteFeeds {slot h i} (hs : s.canonical) : (noteFeeds s slot h i).canonical := by
  grind [noteFeeds, modHart_mem, setPair_mem]

theorem canonical_rememberFetch {slot h} (hs : s.canonical) : (rememberFetch s slot h).canonical := by
  grind [rememberFetch, canonical_hostLinkError, canonical_noteAccess, canonical_foldl]

theorem canonical_recordAgain {h page write} (hs : s.canonical) : (recordAgain s h page write).canonical := by
  grind [recordAgain, canonical_recordLeaseFault]

theorem canonical_stillHeld {slot h} (hs : s.canonical) (he : stillHeld s slot h = some u) : u.canonical := by
  grind [stillHeld, canonical_deny, canonical_recordAgain]

theorem canonical_poisonedStart {slot h} (hs : s.canonical) : (poisonedStart s slot h).canonical := canonical_takeTrap hs

theorem canonical_notIssued {slot h i} (hs : s.canonical) (he : notIssued s slot h i = some u) : u.canonical := by
  grind [notIssued, setHart_mem, canonical_boundStorePins, canonical_takeTrap]

theorem canonical_beginTurn {slot budget} (hs : s.canonical) : (beginTurn s slot budget).canonical := by
  unfold beginTurn
  extract_lets t
  have ht : t.canonical := hs
  clear_value t
  split
  · exact ht
  split
  · exact ht
  split
  next again => exact canonical_stillHeld ht again
  split
  · exact canonical_poisonedStart ht
  split
  · exact canonical_takeTrap ht
  split
  · exact canonical_deny ht
  extract_lets v
  have hv : v.canonical := by grind [canonical_rememberFetch]
  clear_value v
  split
  · exact canonical_deny hv
  split
  next waits => exact canonical_notIssued (by exact hv) waits
  · exact canonical_noteFeeds (by exact hv)

end Sys2Proof.Machine
end

section
/-! PROOFS. The canonical form of memory: the vector and matrix instructions and the Lantern. -/

namespace Sys2Proof.Machine

variable {s u : State}

/-! ## Vectors -/

theorem canonical_vecFloat {op c o readsD f} (hs : s.canonical) (he : vecFloat op c o s readsD f = .next u) : u.canonical :=
  canonical_issue he hs fun _ _ _ hs => canonical_elementwise hs

theorem canonical_vecUnary {op c src dst d a m f} (hs : s.canonical) (he : vecUnary op c src dst d a m s f = .next u) : u.canonical :=
  canonical_issue he hs fun _ _ _ hs => canonical_elementwise hs

theorem canonical_vecFloatWide {c o readsD f} (hs : s.canonical) (he : vecFloatWide c o s readsD f = .next u) : u.canonical :=
  canonical_issue he hs fun _ _ _ hs => canonical_elementwise hs

/-! ## The Lantern -/

theorem canonical_watchBatch {slot id} (hs : s.canonical) : (watchBatch s slot id).canonical := by
  grind [watchBatch, setHart_mem]

theorem canonical_countPrefetches {slot before} (hs : s.canonical) : (countPrefetches s slot before).canonical := by
  grind [countPrefetches, canonical_countRepl, canonical_foldl]

theorem canonical_execLanternIssue {slot} (hs : s.canonical) (he : execLanternIssue slot s = .next u) : u.canonical := by
  unfold execLanternIssue at he
  split at he
  · grind
  split at he
  · grind
  split at he
  · grind
  split at he
  · grind [setHart_mem]
  split at he
  · grind
  split at he
  · grind [setHart_mem]
  dsimp only at he
  split at he
  · grind [setHart_mem]
  split at he
  · grind [setHart_mem]
  split at he
  · grind
  · grind [setHart_mem, draw_mem, newId_mem, canonical_watchBatch, canonical_countPrefetches]

theorem canonical_execLanternPublish {slot} (hs : s.canonical) (he : execLanternPublish slot s = .next u) : u.canonical := by
  grind [execLanternPublish, setHart_mem]

/-! ## The matrix engine -/

theorem canonical_rowLoop {slot h n f fin} (hf : ∀ i s t, s.canonical → f i s = .ok t → t.canonical)
    (hfin : ∀ s, s.canonical → (fin s).canonical) (hs : s.canonical) : (rowLoop s slot h n f fin).canonical := by
  have looped := now_eachPos hf (n := n - h.vstart) (i := h.vstart) (b := s.budget) hs
  unfold rowLoop
  split
  next e => exact hfin _ (e ▸ looped :)
  next e => exact canonical_modHart (e ▸ looped :)
  next e => exact canonical_modHart (e ▸ looped :)

theorem canonical_outerProduct {c o minus} (hs : s.canonical) (he : outerProduct c o minus s = .next u) : u.canonical :=
  canonical_issue he hs fun _ _ _ hs => canonical_ite hs (canonical_ite hs (canonical_rowLoop
    (underMask_keeps (by grind [→ ok_of_map, setHart_mem]) (by grind)) (fun _ hs => canonical_modHart hs) hs))

theorem canonical_rowRead {slot h q n f k r} (hs : s.canonical) (he : rowRead s slot h q n f k = .ok r) : r.1.canonical := by
  induction f generalizing s k r with
  | zero => grind [rowRead]
  | succ f ih => grind [rowRead, → canonical_elementRead, → ok_of_map]

theorem canonical_execMstage {c o} (hs : s.canonical) (he : execMstage c o s = .next u) : u.canonical :=
  canonical_issue he hs fun _ _ _ hs =>
    canonical_unpoisoned hs (canonical_ite hs (canonical_rowLoop
      (by grind [→ canonical_rowRead, modHart_mem]) (fun _ hs => canonical_modHart hs) hs))

theorem canonical_rowChecked {h z w b r} (hs : s.canonical) (hr : ∀ n, (r n).canonical) : (rowChecked s h z w b r).canonical := by
  grind [rowChecked, canonical_trapRes, canonical_unpoisoned]

theorem canonical_execZread {c o} (hs : s.canonical) (he : execZread c o s = .next u) : u.canonical :=
  canonical_issue he hs fun _ _ _ hs => canonical_rowChecked hs fun _ => canonical_elementwise hs

theorem canonical_execZwrite {c o} (hs : s.canonical) (he : execZwrite c o s = .next u) : u.canonical :=
  canonical_issue he hs fun _ _ _ hs => canonical_rowChecked hs fun _ => canonical_elementLoop hs

theorem canonical_performRow {slot h i l} (hs : s.canonical) (he : performRow slot h i (s, l) = .ok u) : u.canonical := by
  grind [performRow, canonical_perform, canonical_foldl]

theorem canonical_execZsave {c o} (hs : s.canonical) (he : execZsave c o s = .next u) : u.canonical :=
  canonical_issue he hs fun _ _ _ hs =>
    canonical_ite hs (canonical_unpoisoned hs (canonical_ite hs (canonical_rowLoop
      (by grind [→ canonical_performRow]) (fun _ hs => canonical_modHart hs) hs)))

theorem canonical_execZload {c o} (hs : s.canonical) (he : execZload c o s = .next u) : u.canonical :=
  canonical_issue he hs fun _ _ _ hs =>
    canonical_ite hs (canonical_unpoisoned hs (canonical_ite hs (canonical_rowLoop
      (by grind [→ canonical_rowRead, modHart_mem]) (fun _ hs => canonical_modHart hs) hs)))

end Sys2Proof.Machine
end

section
/-! PROOFS. The canonical form of memory: images, invalidation, partitions, power, security, errors and the host port. -/

namespace Sys2Proof.Machine

variable {s u : State}

/-! ## Images -/

theorem canonical_zeroRange {a n} (hs : s.canonical) : (zeroRange s a n).canonical := memory_wf_filter hs _

theorem canonical_putBytes {a bs} (hs : s.canonical) : (putBytes s a bs).canonical := by
  grind [putBytes, canonical_physWrite]

theorem canonical_saveHart {base g k h first bars partner} (hs : s.canonical) :
    (saveHart s base g k h first bars partner).canonical := by
  grind [saveHart, canonical_physWrite, canonical_poisonByte, canonical_zeroRange, canonical_putBytes, canonical_foldl]

theorem canonical_poisonBarriers {g base t} (ht : t.canonical) : (poisonBarriers s g base t).canonical :=
  canonical_foldl (fun _ _ => canonical_poisonByte) ht

theorem canonical_saveGang {g k} (hs : s.canonical) : (saveGang s g k).canonical := by
  refine canonical_foldl (fun _ _ hs => hs) (canonical_foldl (fun _ _ => canonical_releaseSlot)
    (canonical_foldl (fun t e ht => ?_) hs))
  split
  · dsimp only
    split
    · exact canonical_poisonBarriers (canonical_saveHart ht)
    · exact canonical_saveHart ht
  · exact ht

theorem canonical_execGangSave {gang} (hs : s.canonical) (he : execGangSave gang s = .next u) : u.canonical := by
  unfold execGangSave at he
  split at he
  · grind
  split at he
  · split at he
    · grind
    split at he
    · grind
    split at he
    · grind [canonical_noteRetry]
    · grind [canonical_saveGang, canonical_settleParked, canonical_makeReady]
  · grind

theorem canonical_moveBarriers {g die} (hs : s.canonical) : (moveBarriers s g die).canonical := by
  grind [moveBarriers, setBarrier_mem, canonical_foldl]

theorem canonical_resumeGang {g t die slots} (hs : s.canonical) : (resumeGang s g t die slots).canonical := by
  grind [resumeGang, modPart_mem, setBarrier_mem, modGang_mem, modTask_mem, canonical_creditBarrier, canonical_takeSlot,
    canonical_moveBarriers, canonical_foldl]

theorem canonical_execGangResume {p} (hs : s.canonical) (he : execGangResume p s = .next u) : u.canonical := by
  unfold execGangResume at he
  split at he
  · grind
  split at he
  · grind
  split at he
  · grind [canonical_noteRetry]
  split at he
  · grind [canonical_beginEnd]
  · grind [canonical_resumeGang]

theorem canonical_execDispatchRound {p rank pick} (hs : s.canonical) (he : execDispatchRound p rank pick s = .next u) :
    u.canonical := by
  grind [execDispatchRound, canonical_dispatchGang, canonical_countRound]

theorem canonical_tcmdResult {p r} (hs : s.canonical) : (tcmdResult s p r).canonical := hs

theorem canonical_taskCommand {p queue seq ok f} (hf : ∀ s t, s.canonical → (f s t).canonical) (hs : s.canonical) :
    (taskCommand s p queue seq ok f).canonical := by
  grind [taskCommand, canonical_tcmdResult]

theorem canonical_unready {g} (hs : s.canonical) : (unready s g).canonical := hs

theorem canonical_preemptTask {p queue seq} (hs : s.canonical) : (preemptTask s p queue seq).canonical := by
  grind [preemptTask, modTask_mem, canonical_stopGang, canonical_taskCommand, canonical_unready, canonical_foldl]

theorem canonical_resumeTask {p queue seq} (hs : s.canonical) : (resumeTask s p queue seq).canonical := by
  grind [resumeTask, modTask_mem, canonical_makeReady, canonical_taskCommand, canonical_foldl]

theorem canonical_revokeTask {p queue seq} (hs : s.canonical) : (revokeTask s p queue seq).canonical := by
  grind [revokeTask, canonical_beginEnd, canonical_modRegs, canonical_taskCommand]

/-! ## Invalidation and format regions -/

theorem canonical_modInv {p f} (hs : s.canonical) : (State.modInv s p f).canonical := hs

theorem canonical_relearn {p pages} (hs : s.canonical) : (relearn s p pages).canonical := by
  grind [relearn, canonical_remember, canonical_foldl]

theorem canonical_withdraw {p covers} (hs : s.canonical) : (withdraw s p covers).canonical := canonical_relearn hs

theorem canonical_withdrawRange {p range} (hs : s.canonical) : (withdrawRange s p range).canonical := canonical_withdraw hs

theorem canonical_startShoot {p} (hs : s.canonical) : (startShoot s p).canonical := canonical_relearn (canonical_relearn hs)

theorem canonical_beginDrain {p} (hs : s.canonical) : (beginDrain s p).canonical := canonical_withdrawRange hs

theorem canonical_startDrain {p} (hs : s.canonical) : (startDrain s p).canonical := by
  grind [startDrain, canonical_modInv, canonical_beginDrain]

theorem canonical_invCommand {p cmd} (hs : s.canonical) : (invCommand s p cmd).canonical := by
  grind [invCommand, canonical_modInv, canonical_startShoot, canonical_startDrain]

theorem canonical_execDrainBegin {p} (hs : s.canonical) (he : execDrainBegin p s = .next u) : u.canonical := by
  grind [execDrainBegin, canonical_beginDrain]

theorem canonical_execDrainComplete {p} (hs : s.canonical) (he : execDrainComplete p s = .next u) : u.canonical := by
  grind [execDrainComplete, canonical_modInv]

theorem canonical_endConfirm {p range} (hs : s.canonical) : (endConfirm s p range).canonical := hs

theorem canonical_confirmStep {p range} (hs : s.canonical) : (confirmStep s p range).canonical := by
  grind [confirmStep, canonical_noteRetry, canonical_settlePins, canonical_endConfirm]

theorem canonical_execConfirmComplete {p} (hs : s.canonical) (he : execConfirmComplete p s = .next u) : u.canonical := by
  grind [execConfirmComplete, canonical_confirmStep]

theorem canonical_execShootComplete {p} (hs : s.canonical) (he : execShootComplete p s = .next u) : u.canonical := by
  grind [execShootComplete, canonical_modInv, canonical_confirmStep]

theorem canonical_writeSettle {p x} (hs : s.canonical) : (writeSettle s p x).canonical := hs

theorem canonical_execSettleComplete {p} (hs : s.canonical) (he : execSettleComplete p s = .next u) : u.canonical := by
  grind [execSettleComplete, canonical_modRegs]

theorem canonical_setFerr {p n ferr} (hs : s.canonical) : (State.setFerr s p n ferr).canonical := hs

theorem canonical_setFmtEn {p n en} (hs : s.canonical) : (State.setFmtEn s p n en).canonical := hs

theorem canonical_enableRegion {p n} (hs : s.canonical) : (enableRegion s p n).canonical := by
  grind [enableRegion, canonical_setFerr, canonical_setFmtEn]

theorem canonical_disableRegion {p n} (hs : s.canonical) : (disableRegion s p n).canonical := hs

theorem canonical_execFormatRegionEnable {w p n} (hs : s.canonical) (he : execFormatRegionEnable w p n s = .next u) : u.canonical := by
  grind [execFormatRegionEnable, canonical_byWriter, canonical_enableRegion]

theorem canonical_execFormatRegionDisable {w p n} (hs : s.canonical) (he : execFormatRegionDisable w p n s = .next u) :
    u.canonical := by
  grind [execFormatRegionDisable, canonical_byWriter, canonical_disableRegion]

theorem canonical_switchMode {p page} (hs : s.canonical) : (switchMode s p page).canonical := canonical_withdraw hs

theorem canonical_writeReplctl {p x} (hs : s.canonical) : (writeReplctl s p x).canonical := by
  grind [writeReplctl, canonical_modRegs, canonical_switchMode, canonical_foldl]

theorem canonical_applyThresholds {x} (hs : s.canonical) : (applyThresholds s x).canonical := by
  grind [applyThresholds, canonical_switchMode]

/-! ## Partitions -/

theorem canonical_clearDies {on} (hs : s.canonical) : (clearDies s on).canonical := hs

theorem canonical_enablePartition {p} (hs : s.canonical) : (enablePartition s p).canonical := by
  grind [enablePartition, setPart_mem, canonical_clearDies]

theorem canonical_execPartitionEnable {m p} (hs : s.canonical) (he : execPartitionEnable m p s = .next u) : u.canonical := by
  grind [execPartitionEnable, canonical_byOwner, canonical_enablePartition]

theorem canonical_haltRuntime {p} (hs : s.canonical) : (haltRuntime s p).canonical := hs

theorem canonical_disablePartition {p} (hs : s.canonical) : (disablePartition s p).canonical := by
  grind [disablePartition, modPart_mem, canonical_beginEnd, canonical_haltRuntime, canonical_foldl]

theorem canonical_writeEnZero {p} (hs : s.canonical) : (writeEnZero s p).canonical := by
  grind [writeEnZero, canonical_disablePartition]

theorem canonical_execPartitionDisable {m p} (hs : s.canonical) (he : execPartitionDisable m p s = .next u) : u.canonical := by
  grind [execPartitionDisable, canonical_byOwner, canonical_writeEnZero]

theorem canonical_dropWindows {p} (hs : s.canonical) : (dropWindows s p).canonical := canonical_settleForwarding hs

theorem canonical_finishClearing (hs : s.canonical) : (finishClearing s).canonical := by
  grind [finishClearing, draw_mem, memory_wf_filter]

theorem canonical_clearBarriers {p} (hs : s.canonical) : (clearBarriers s p).canonical := hs

theorem canonical_execPartitionDisableComplete {p} (hs : s.canonical) (he : execPartitionDisableComplete p s = .next u) :
    u.canonical := by
  grind [execPartitionDisableComplete, modPart_mem, canonical_dropWindows, canonical_finishClearing, canonical_clearBarriers]

theorem canonical_clearAll {c} (hs : s.canonical) : (clearAll s c).canonical :=
  canonical_finishClearing (canonical_foldl (fun _ _ => canonical_disablePartition) hs)

theorem canonical_pcfgWrite {p off x} (hs : s.canonical) : (pcfgWrite s p off x).canonical := by
  grind [pcfgWrite, setPart_mem, canonical_enablePartition, canonical_writeEnZero]

theorem canonical_writeRtentry {p x} (hs : s.canonical) : (writeRtentry s p x).canonical := by
  grind [writeRtentry, setHart_mem, canonical_modRegs, canonical_haltRuntime]

theorem canonical_execRuntimeStop {w p} (hs : s.canonical) (he : execRuntimeStop w p s = .next u) : u.canonical := by
  grind [execRuntimeStop, canonical_byWriter, canonical_haltRuntime]

/-! ## Power and reset -/

theorem canonical_clearCoreDies (hs : s.canonical) : (clearCoreDies s).canonical := hs

theorem canonical_clearDevice (hs : s.canonical) : (clearDevice s).canonical := memory_wf_filter hs _

theorem canonical_modSconce {f} (hs : s.canonical) : (State.modSconce s f).canonical := hs

theorem canonical_returnFromAutumn (hs : s.canonical) : (returnFromAutumn s).canonical := hs

theorem canonical_setOwner {state owner cand bump} (hs : s.canonical) : (setOwner s state owner cand bump).canonical := hs

theorem canonical_returnFromWinter (hs : s.canonical) : (returnFromWinter s).canonical := canonical_clearDevice hs

theorem canonical_noteRequest {req refused} (hs : s.canonical) : (noteRequest s req refused).canonical := hs

theorem canonical_requestPower {req} (hs : s.canonical) : (requestPower s req).canonical := by
  grind [requestPower, canonical_clearDevice, canonical_modSconce, canonical_returnFromWinter, canonical_noteRequest]

theorem canonical_execAutumnEntry (hs : s.canonical) (he : execAutumnEntry s = .next u) : u.canonical := by
  grind [execAutumnEntry, canonical_clearCoreDies, canonical_modSconce]

theorem canonical_execPowerTransitionComplete (hs : s.canonical) (he : execPowerTransitionComplete s = .next u) : u.canonical := by
  grind [execPowerTransitionComplete, canonical_modSconce, canonical_returnFromAutumn]

theorem canonical_holdInReset (hs : s.canonical) : (holdInReset s).canonical := hs

theorem canonical_freshDevice (hs : s.canonical) : (freshDevice s).canonical := memory_wf_filter hs _

theorem canonical_resetDevice (hs : s.canonical) : (resetDevice s).canonical := by
  grind [resetDevice, canonical_holdInReset, canonical_freshDevice]

/-! ## Ownership and debug -/

theorem canonical_setLast {m r} (hs : s.canonical) : (setLast s m r).canonical := hs

theorem canonical_freshNonce (hs : s.canonical) : (freshNonce s).canonical := hs

theorem canonical_claim {m} (hs : s.canonical) : (claim s m).canonical := by
  grind [claim, canonical_setOwner, canonical_setLast, canonical_freshNonce]

theorem canonical_respond {m} (hs : s.canonical) : (respond s m).canonical := by
  grind [respond, canonical_logSconce, canonical_setOwner, canonical_setLast]

theorem canonical_handover {m target} (hs : s.canonical) : (handover s m target).canonical := by
  grind [handover, canonical_setOwner, canonical_setLast, canonical_freshNonce]

theorem canonical_releaseOwner {m} (hs : s.canonical) : (releaseOwner s m).canonical := by
  grind [releaseOwner, canonical_logSconce, canonical_setOwner, canonical_setLast]

theorem canonical_execRespondTimeout (hs : s.canonical) (he : execRespondTimeout s = .next u) : u.canonical := by
  grind [execRespondTimeout, canonical_logSconce, canonical_setOwner]

theorem canonical_execOwnerLinkDown (hs : s.canonical) (he : execOwnerLinkDown s = .next u) : u.canonical := by
  grind [execOwnerLinkDown, canonical_logSconce, canonical_setOwner]

theorem canonical_releaseHold {g} (hs : s.canonical) : (releaseHold s g).canonical := by
  grind [releaseHold, modGang_mem, canonical_makeReady]

theorem canonical_lowerDebug {level} (hs : s.canonical) : (lowerDebug s level).canonical := by
  grind [lowerDebug, canonical_modSconce, canonical_releaseHold, canonical_foldl]

theorem canonical_raiseDebug {level} (hs : s.canonical) : (raiseDebug s level).canonical := by
  grind [raiseDebug, canonical_clearAll, canonical_modSconce]

theorem canonical_debugRequest {m level} (hs : s.canonical) : (debugRequest s m level).canonical := by
  grind [debugRequest, canonical_setLast, canonical_freshNonce, canonical_lowerDebug, canonical_raiseDebug]

theorem canonical_haltGang {g} (hs : s.canonical) : (haltGang s g).canonical := by
  grind [haltGang, modGang_mem, canonical_stopGang]

theorem canonical_execDebugGangHalt {m gang} (hs : s.canonical) (he : execDebugGangHalt m gang s = .next u) : u.canonical := by
  grind [execDebugGangHalt, canonical_byMaster, canonical_haltGang]

theorem canonical_execDebugGangResume {m gang} (hs : s.canonical) (he : execDebugGangResume m gang s = .next u) : u.canonical := by
  grind [execDebugGangResume, canonical_byMaster, canonical_releaseHold]

theorem canonical_again {i} (hs : s.canonical) : (again s i).canonical := hs

theorem canonical_execDebugMemoryWrite {m addr bytes} (hs : s.canonical) (he : execDebugMemoryWrite m addr bytes s = .next u) :
    u.canonical := by
  grind [execDebugMemoryWrite, canonical_physWrite, canonical_noteRetry, canonical_again]

theorem canonical_execSecurityStateEntry {sec} (hs : s.canonical) (he : execSecurityStateEntry sec s = .next u) : u.canonical := by
  grind [execSecurityStateEntry, canonical_clearAll, canonical_modSconce, canonical_lowerDebug]

theorem canonical_execOwnerKeyReplace {m index key} (hs : s.canonical) (he : execOwnerKeyReplace m index key s = .next u) :
    u.canonical := by
  grind [execOwnerKeyReplace, canonical_modSconce]

theorem canonical_attestRequest {m} (hs : s.canonical) : (attestRequest s m).canonical := hs

theorem canonical_execAttestationReportReady {m} (hs : s.canonical) (he : execAttestationReportReady m s = .next u) : u.canonical := by
  grind [execAttestationReportReady, canonical_modSconce]

/-! ## Errors -/

theorem canonical_strike {e} (hs : s.canonical) : (strike s e).canonical := by
  cases e <;> grind [strike, modHart_mem, canonical_poisonByte]

theorem canonical_execUncorrectableError {e} (hs : s.canonical) (he : execUncorrectableError e s = .next u) : u.canonical := by
  grind [execUncorrectableError, canonical_recordError, canonical_logSconce, canonical_strike]

theorem canonical_countErrors {p lo} (hs : s.canonical) : (countErrors s p lo).canonical := hs

theorem canonical_execCorrectedError {e} (hs : s.canonical) (he : execCorrectedError e s = .next u) : u.canonical := by
  cases e <;> grind [execCorrectedError, canonical_logSconce, canonical_countErrors]

theorem canonical_writeErrstat {p x} (hs : s.canonical) : (writeErrstat s p x).canonical := hs

theorem canonical_writeRflstat {p x} (hs : s.canonical) : (writeRflstat s p x).canonical := hs

theorem canonical_writeEvqstat {p n x} (hs : s.canonical) : (writeEvqstat s p n x).canonical := hs

theorem canonical_execEvqstat {w p n value} (hs : s.canonical) (he : execEvqstat w p n value s = .next u) : u.canonical := by
  grind [execEvqstat, canonical_byWriter, canonical_writeEvqstat]

theorem canonical_writeBcncfg {x} (hs : s.canonical) : (writeBcncfg s x).canonical := hs

theorem canonical_execLinkFailureReport {w part failed} (hs : s.canonical) (he : execLinkFailureReport w part failed s = .next u) :
    u.canonical := by
  cases w with
  | master m => grind [execLinkFailureReport, canonical_byOwner]
  | runtime => grind [execLinkFailureReport]

/-! ## Register writes -/

theorem canonical_writePtroot {p x} (hs : s.canonical) : (writePtroot s p x).canonical := by
  grind [writePtroot, canonical_modRegs, canonical_withdraw]

theorem canonical_writeTcmd {p x} (hs : s.canonical) : (writeTcmd s p x).canonical := by
  grind [writeTcmd, canonical_preemptTask, canonical_resumeTask, canonical_revokeTask]

theorem canonical_writeFmtA {p n x} (hs : s.canonical) : (writeFmtA s p n x).canonical := by
  grind [writeFmtA, modPart_mem, canonical_enableRegion, canonical_disableRegion]

theorem canonical_writeFmtB {p n x} (hs : s.canonical) : (writeFmtB s p n x).canonical := by
  grind [writeFmtB, modPart_mem]

theorem canonical_winWrite {p r x} (hs : s.canonical) : (winWrite s p r x).canonical := by
  cases r with
  | fectl | invrange | tvecdef | srange | lfva | errloc => exact hs
  | lfstat => exact canonical_modRegs hs
  | tcmd => exact canonical_writeTcmd hs
  | errstat => exact canonical_writeErrstat hs
  | ptroot => exact canonical_writePtroot hs
  | invcmd => exact canonical_invCommand hs
  | ssettle => exact canonical_writeSettle hs
  | replctl => exact canonical_writeReplctl hs
  | rflstat => exact canonical_writeRflstat hs
  | rtentry => exact canonical_writeRtentry hs
  | fmtA n => exact canonical_writeFmtA hs
  | fmtB n => exact canonical_writeFmtB hs
  | evqstat n => exact canonical_writeEvqstat hs
  | queue n r => exact canonical_modQueue hs

theorem canonical_windowWrite {p off x} (hs : s.canonical) : (windowWrite s p off x).canonical := by
  grind [windowWrite, canonical_winWrite]

theorem canonical_windowMaster {p off x} (hs : s.canonical) : (windowMaster s p off x).canonical := by
  grind [windowMaster, canonical_countDiscarded, canonical_winWrite]

theorem canonical_identityWrite {m off x} (hs : s.canonical) : (identityWrite s m off x).canonical := by
  grind [identityWrite, canonical_countDiscarded, canonical_byOwner, canonical_modSconce, canonical_requestPower, canonical_claim,
    canonical_respond, canonical_handover, canonical_releaseOwner, canonical_debugRequest, canonical_attestRequest,
    canonical_writeBcncfg]

theorem canonical_bar0Write {m offset x} (hs : s.canonical) : (bar0Write s m offset x).canonical := by
  grind [bar0Write, canonical_byMaster, canonical_byOwner, canonical_pcfgWrite, canonical_windowMaster, canonical_identityWrite]

theorem canonical_runtimeWrite {offset x} (hs : s.canonical) : (runtimeWrite s offset x).canonical := by
  grind [runtimeWrite, canonical_byWriter, canonical_byRinger, canonical_windowWrite]

theorem canonical_execRegisterWrite {w offset value} (hs : s.canonical) (he : execRegisterWrite w offset value s = .next u) :
    u.canonical := by
  cases w with
  | master m => cases he; exact canonical_bar0Write hs
  | runtime => cases he; exact canonical_runtimeWrite hs

/-! ## Host ports and system instructions -/

theorem canonical_countHost {addr n write} (hs : s.canonical) : (countHost s addr n write).canonical := by
  grind [countHost, canonical_countArrival, canonical_foldl]

theorem canonical_execHostHdmWrite {m addr bytes} (hs : s.canonical) (he : execHostHdmWrite m addr bytes s = .next u) :
    u.canonical := by
  grind [execHostHdmWrite, canonical_logSconce, canonical_physWrite, canonical_noteRetry, canonical_countDiscarded, canonical_again,
    canonical_countHost]

theorem canonical_execHostHdmRead {m addr len} (hs : s.canonical) (he : execHostHdmRead m addr len s = .next u) : u.canonical := by
  grind [execHostHdmRead, draw_mem, canonical_logSconce, canonical_noteRetry, canonical_again, canonical_countHost]

theorem canonical_trainLink {link} (hs : s.canonical) : (trainLink s link).canonical := hs

theorem canonical_execLinkTraining {link canTrain} (hs : s.canonical) (he : execLinkTraining link canTrain s = .next u) :
    u.canonical := by
  grind [execLinkTraining, canonical_logSconce, canonical_trainLink]

theorem canonical_execSysrd {c o} (hs : s.canonical) (he : execSysrd c o s = .next u) : u.canonical := by
  refine canonical_issue he hs fun _ _ _ hs => ?_
  grind [draw_mem, canonical_trapRes, canonical_doneWith, Res.canonical]

theorem canonical_execSyswr {c o} (hs : s.canonical) (he : execSyswr c o s = .next u) : u.canonical := by
  refine canonical_issue he hs fun _ _ _ hs => ?_
  grind [canonical_trapRes, canonical_doneWith, canonical_unpoisoned, canonical_windowWrite, Res.canonical]

theorem canonical_execHalt {c} (hs : s.canonical) (he : execHalt c s = .next u) : u.canonical :=
  canonical_issue he hs fun _ _ _ hs => canonical_releasePins (canonical_boundSiblingPins hs)

theorem canonical_execFetchPacket {slot} (hs : s.canonical) (he : execFetchPacket slot s = .next u) : u.canonical := by
  grind [execFetchPacket, setHart_mem, canonical_deny, canonical_rememberFetch]

theorem canonical_execPinTimeout {pair line} (hs : s.canonical) (he : execPinTimeout pair line s = .next u) : u.canonical := by
  grind [execPinTimeout, canonical_boundSiblingPins, canonical_releasePins]

end Sys2Proof.Machine
end

section
/-! PROOFS. The canonical form of memory: the turn, floating instructions and reductions, and every step. -/

namespace Sys2Proof.Machine

variable {s u : State}

/-! ## Turns, floating instructions and reductions -/

theorem canonical_nextTurn {r} (hs : s.canonical) (he : nextTurn s = some r) : r.2.canonical := by
  unfold nextTurn at he
  split at he
  · cases he
    exact hs
  · grind [Option.map_eq_some_iff]

theorem canonical_floatBin {op c o readsD f} (hs : s.canonical) (he : floatBin op c o s readsD f = .next u) : u.canonical :=
  canonical_issue he hs fun _ _ _ hs => canonical_unpoisoned hs hs

theorem canonical_floatUn {op c t d a width f} (hs : s.canonical) (he : floatUn op c t d a width s f = .next u) : u.canonical :=
  canonical_issue he hs fun _ _ _ hs => canonical_unpoisoned hs hs

theorem canonical_reduction {op c t d a b m f} (hs : s.canonical) (he : reduction op c t d a b m s f = .next u) : u.canonical :=
  canonical_issue he hs fun _ _ _ hs => canonical_ite hs (canonical_unpoisoned hs (canonical_ite hs hs))

theorem canonical_intReduce {c o f} (hs : s.canonical) (he : intReduce c o s f = .next u) : u.canonical := canonical_reduction hs he

/-- Whatever an instruction or an event does, the memory stays canonical. -/
theorem canonical_exec {i} (hs : s.canonical) (he : exec i s = .next u) : u.canonical := by
  cases i with dsimp only [exec] at he
  | add | sub | and_ | or_ | xor_ | andn | sll | srl | sra | min_ | max_ | slt | mul | mulh | div | rem =>
    exact canonical_scalarBin hs he
  | mov | clz | ctz | popc | brev | bswap => exact canonical_scalarUn hs he
  | ext_ | movhi | fclass | pcmp | mpopc | mfirst | vsetl | vsett | qsetUnit | qsetStride | qsetSeg =>
    exact canonical_issue he hs fun _ _ _ hs => canonical_unpoisoned hs hs
  | movi | addpc | nop | trap | vdcount | mswap | lsync => exact canonical_issue he hs fun _ _ _ hs => hs
  | ld | lda => exact canonical_scalarLoad hs he
  | st => exact canonical_execSt hs he
  | stl => exact canonical_execStl hs he
  | fadd | fsub | fmul | fdiv | fmin | fmax | fcopys | fcopyn | fxsign | fma | fms | fnma | fnms => exact canonical_floatBin hs he
  | fsqrt | fcvt | fcvti | icvtf => exact canonical_floatUn hs he
  | br | call => exact canonical_issue he hs fun _ _ _ hs => canonical_redirect hs
  | bri | calli => exact canonical_issue he hs fun _ _ _ hs => canonical_unpoisoned hs (canonical_redirect hs)
  | lsetup | qsetInd => exact canonical_issue he hs fun _ _ _ hs => canonical_unpoisoned hs (canonical_ite hs hs)
  | sysrd => exact canonical_execSysrd hs he
  | syswr => exact canonical_execSyswr hs he
  | eret => exact canonical_issue he hs fun _ _ _ hs => canonical_ite hs (canonical_ite hs (canonical_ite hs hs))
  | yield | zzero => exact canonical_issue he hs fun _ _ _ hs => canonical_ite hs hs
  | yieldExpiry | loadDataArrival | lanternForkCopyDone | prefetchFill => exact canonical_next he (canonical_modHart hs)
  | halt => exact canonical_execHalt hs he
  | haltSlotRelease => exact canonical_execHaltSlotRelease hs he
  | pand | por | pxor | pandn | pnot | pmov => exact canonical_predLogic hs he
  | mand | mor | mxor | mandn | mnot | mmov => exact canonical_maskLogic hs he
  | vadd | vsub | vrsub | vmin | vmax | vabsd | vavg | vmul | vmulh | vmacc | vdiv | vrem | vand | vor | vxor | vsll | vsrl | vsra =>
    exact canonical_vecBin hs he
  | vwadd | vwmul | vwmacc => exact canonical_vecWide hs he
  | vnshr | vmerge | vmov | vsplat | vid => exact canonical_issue he hs fun _ _ _ hs => canonical_elementwise hs
  | vfadd | vfsub | vfmul | vfdiv | vfmin | vfmax | vfcopys | vfcopyn | vfxsign | vfma | vfms | vfnma | vfnms =>
    exact canonical_vecFloat hs he
  | vfsqrt | vfcvt | vfcvti | vicvtf | vfclass => exact canonical_vecUnary hs he
  | vfwadd | vfwmul | vfwma => exact canonical_vecFloatWide hs he
  | vcmp => exact canonical_issue he hs fun _ _ _ hs => canonical_ite hs (canonical_unpoisoned hs (canonical_elementLoop hs))
  | vext | vdefer =>
    exact canonical_issue he hs fun _ _ _ hs => canonical_ite hs (canonical_unpoisoned hs (canonical_ite hs (canonical_ite hs hs)))
  | vins | vcompress | vexpand | vfredt =>
    exact canonical_issue he hs fun _ _ _ hs => canonical_ite hs (canonical_unpoisoned hs (canonical_ite hs hs))
  | vmrank | vshuf | vslideup | vslidedn => exact canonical_issue he hs fun _ _ _ hs => canonical_wholeElements hs
  | vredsum | vredmin | vredmax | vredand | vredor | vredxor => exact canonical_intReduce hs he
  | vfredo | vfredmin | vfredmax => exact canonical_reduction hs he
  | vdrain => exact canonical_issue he hs fun _ _ _ hs => canonical_ite hs (canonical_ite hs hs)
  | vld => exact canonical_execVld hs he
  | vldseg => exact canonical_execVldseg hs he
  | vst => exact canonical_execVst hs he
  | vstseg => exact canonical_execVstseg hs he
  | vstc => exact canonical_execVstc hs he
  | mopa | mops => exact canonical_outerProduct hs he
  | mstage => exact canonical_execMstage hs he
  | mstream =>
    exact canonical_issue he hs fun _ _ _ hs =>
      canonical_ite hs (canonical_ite hs (canonical_unpoisoned hs (canonical_ite hs (canonical_ite hs hs))))
  | zread => exact canonical_execZread hs he
  | zwrite => exact canonical_execZwrite hs he
  | zsave => exact canonical_execZsave hs he
  | zload => exact canonical_execZload hs he
  | eqint => exact canonical_execEqint hs he
  | eqmrg => exact canonical_execEqmrg hs he
  | eqnz => exact canonical_execEqnz hs he
  | eqnzCursorForm => exact canonical_execEqnzCursorForm hs he
  | eqsplt => exact canonical_execEqsplt hs he
  | eqsave => exact canonical_execEqsave hs he
  | eqload => exact canonical_execEqload hs he
  | tresize => exact canonical_execTresize hs he
  | tgive => exact canonical_execTgive hs he
  | tcopy => exact canonical_execTcopy hs he
  | tcast => exact canonical_execTcast hs he
  | transferComplete => exact canonical_execTransferComplete hs he
  | mergeWindowClose => exact canonical_execMergeWindowClose hs he
  | tcastLineDelivery => exact canonical_execTcastLineDelivery hs he
  | amo => exact canonical_execAmo hs he
  | vamo => exact canonical_execVamo hs he
  | vlock => exact canonical_execVlock hs he
  | vunlock => exact canonical_execVunlock hs he
  | fence => exact canonical_execFence hs he
  | barinit => exact canonical_execBarinit hs he
  | bararv => exact canonical_execBararv hs he
  | barexp => exact canonical_execBarexp hs he
  | barwait =>
    exact canonical_issue he hs fun _ _ _ hs =>
      canonical_unpoisoned hs (canonical_ite hs (canonical_ite hs (canonical_ite hs (canonical_ite hs hs))))
  | barwaitReturn => exact canonical_execBarwaitReturn hs he
  | tlaunch => exact canonical_execTlaunch hs he
  | tlaunchCopy => exact canonical_execTlaunchCopy hs he
  | twait => exact canonical_execTwait hs he
  | evpop => exact canonical_execEvpop hs he
  | rfence => exact canonical_execRfence hs he
  | wmap => exact canonical_execWmap hs he
  | wunmap => exact canonical_execWunmap hs he
  | fetchPacket => exact canonical_execFetchPacket hs he
  | lanternIssue => exact canonical_execLanternIssue hs he
  | lanternPublish => exact canonical_execLanternPublish hs he
  | pinTimeout => exact canonical_execPinTimeout hs he
  | replWindowEnd => exact canonical_next he (canonical_foldl (fun _ _ => canonical_applyThresholds) hs)
  | combiningWriteback | linkDown => exact canonical_next he hs
  | beaconPacketApply => exact canonical_execBeaconPacketApply hs he
  | reflectTimeout => exact canonical_execReflectTimeout hs he
  | linkFailureReport => exact canonical_execLinkFailureReport hs he
  | doorbell => exact canonical_execDoorbell hs he
  | queueEnable => exact canonical_execQueueEnable hs he
  | queueDisable => exact canonical_execQueueDisable hs he
  | takeRecord => exact canonical_execTakeRecord hs he
  | residencyWalk => exact canonical_execResidencyWalk hs he
  | lfstat => exact canonical_next he (canonical_byWriter (fun _ => canonical_modRegs) hs)
  | dispatchRound => exact canonical_execDispatchRound hs he
  | gangResume => exact canonical_execGangResume hs he
  | gangSave => exact canonical_execGangSave hs he
  | taskRetire => exact canonical_execTaskRetire hs he
  | taskEnd => exact canonical_execTaskEnd hs he
  | preempt => exact canonical_next he (canonical_byWriter (fun _ => canonical_preemptTask) hs)
  | resume => exact canonical_next he (canonical_byWriter (fun _ => canonical_resumeTask) hs)
  | revoke => exact canonical_next he (canonical_byWriter (fun _ => canonical_revokeTask) hs)
  | claim => exact canonical_next he (canonical_byMaster (fun _ => canonical_claim) hs)
  | respond => exact canonical_next he (canonical_byMaster (fun _ => canonical_respond) hs)
  | handover => exact canonical_next he (canonical_byOwner (fun _ => canonical_handover) hs)
  | release => exact canonical_next he (canonical_byOwner (fun _ => canonical_releaseOwner) hs)
  | respondTimeout => exact canonical_execRespondTimeout hs he
  | ownerLinkDown => exact canonical_execOwnerLinkDown hs he
  | partitionEnable => exact canonical_execPartitionEnable hs he
  | partitionDisable => exact canonical_execPartitionDisable hs he
  | partitionDisableComplete => exact canonical_execPartitionDisableComplete hs he
  | runtimeStart => exact canonical_next he (canonical_byWriter (fun _ => canonical_writeRtentry) hs)
  | runtimeStop => exact canonical_execRuntimeStop hs he
  | shoot | drain | confirm => exact canonical_next he (canonical_byWriter (fun _ => canonical_invCommand) hs)
  | shootComplete => exact canonical_execShootComplete hs he
  | drainBegin => exact canonical_execDrainBegin hs he
  | drainComplete => exact canonical_execDrainComplete hs he
  | confirmComplete => exact canonical_execConfirmComplete hs he
  | ssettle => exact canonical_next he (canonical_byWriter (fun _ => canonical_writeSettle) hs)
  | settleComplete => exact canonical_execSettleComplete hs he
  | formatRegionEnable => exact canonical_execFormatRegionEnable hs he
  | formatRegionDisable => exact canonical_execFormatRegionDisable hs he
  | replctl => exact canonical_next he (canonical_byWriter (fun _ => canonical_writeReplctl) hs)
  | rflstat => exact canonical_next he (canonical_byWriter (fun _ => canonical_writeRflstat) hs)
  | errstat => exact canonical_next he (canonical_byWriter (fun _ => canonical_writeErrstat) hs)
  | evqstat => exact canonical_execEvqstat hs he
  | bcncfg => exact canonical_next he (canonical_byOwner (fun _ => canonical_writeBcncfg) hs)
  | summer | spring | autumn | winter => exact canonical_next he (canonical_byOwner (fun _ => canonical_requestPower) hs)
  | autumnEntry => exact canonical_execAutumnEntry hs he
  | dbgreq => exact canonical_next he (canonical_byMaster (fun _ => canonical_debugRequest) hs)
  | debugGangHalt => exact canonical_execDebugGangHalt hs he
  | attreq => exact canonical_next he (canonical_byMaster (fun _ => canonical_attestRequest) hs)
  | deviceReset => exact canonical_next he (canonical_resetDevice hs)
  | linkTraining => exact canonical_execLinkTraining hs he
  | hostHdmWrite => exact canonical_execHostHdmWrite hs he
  | hostHdmRead => exact canonical_execHostHdmRead hs he
  | uncorrectableError => exact canonical_execUncorrectableError hs he
  | correctedError => exact canonical_execCorrectedError hs he
  | registerWrite => exact canonical_execRegisterWrite hs he
  | debugGangResume => exact canonical_execDebugGangResume hs he
  | debugMemoryWrite => exact canonical_execDebugMemoryWrite hs he
  | securityStateEntry => exact canonical_execSecurityStateEntry hs he
  | ownerKeyReplace => exact canonical_execOwnerKeyReplace hs he
  | attestationReportReady => exact canonical_execAttestationReportReady hs he
  | powerTransitionComplete => exact canonical_execPowerTransitionComplete hs he
  | reflectionAcknowledgement => exact canonical_execReflectionAcknowledgement hs he
  | hostCoherenceAccept => exact canonical_execHostCoherenceAccept hs he

theorem canonical_step (hs : s.canonical) (he : step s = .next u) : u.canonical := by
  unfold step at he
  split at he
  · cases he
    exact hs
  next turn =>
    have begun : ∀ slot budget, (beginTurn _ slot budget).canonical := fun _ _ => canonical_beginTurn (canonical_nextTurn hs turn)
    split at he
    next e =>
      cases he
      exact (e ▸ begun _ _ :)
    next e => exact canonical_exec (s := _) (e ▸ begun _ _ :) he
  next turn => exact canonical_exec (canonical_nextTurn hs turn) he

/-- Settles O59: a step runs the beginning of a turn and then an instruction or an event, and each keeps the memory canonical. -/
theorem stepsKeepMemoryCanonical : Obligations.StepsKeepMemoryCanonical := fun _ _ => canonical_step

end Sys2Proof.Machine
end
